-- ==== Sys2Proof/Word.lean ====
section
/-! DEFINITION. Word.lean: the widths the manual names (R4, R5, R160) and the plainest arithmetic over them. -/
namespace Sys2Proof

/-- A byte, 8 bits (R5). -/
abbrev Byte := BitVec 8
/-- A word of the manual, 8 bytes (R5). -/
abbrev Word := BitVec 64
/-- A tile row, a mask register, or the data of a 64-byte line: 64 bytes, byte 0 in bits 7:0 (R4, R5). -/
abbrev Row := BitVec 512

/-- The signed reading of the low `n` bits of an integer. -/
def wrapS (n : Nat) (x : Int) : Int := x.bmod (2 ^ n)

end Sys2Proof
end

