-- ==== Sys2Proof/Machine/Tbl.lean ====
section
/-! DEFINITION. Machine/Tbl.lean: sparse tables with numbered entries. A numbered entry that a table does not list holds
the value that its reader names, so a table of 240 cores or of 6,144 scratchpad lines is written by what differs from
reset. -/
namespace Sys2Proof.Machine

/-- A sparse table, ascending by number. -/
structure Tbl (α : Type) where
  entries : List (Nat × α)
  deriving DecidableEq, Repr

/-- The first entry numbered `k`. -/
def Tbl.findIn {α : Type} : List (Nat × α) → Nat → Option α
  | [], _ => none
  | (a, v) :: r, k => if a = k then some v else Tbl.findIn r k

/-- The list with entry `k` set to `v`. -/
def Tbl.putIn {α : Type} : List (Nat × α) → Nat → α → List (Nat × α)
  | [], k, v => [(k, v)]
  | (a, w) :: r, k, v =>
      if k < a then (k, v) :: (a, w) :: r else if a = k then (k, v) :: r else (a, w) :: Tbl.putIn r k v

/-- The empty table. -/
def Tbl.empty {α : Type} : Tbl α := ⟨[]⟩
/-- The entry numbered `k`, if the table lists it. -/
def Tbl.find? {α : Type} (t : Tbl α) (k : Nat) : Option α := Tbl.findIn t.entries k
/-- Entry `k`, or `d` where the table lists none. -/
def Tbl.get {α : Type} (t : Tbl α) (d : α) (k : Nat) : α := (t.find? k).getD d
/-- The table with entry `k` set. -/
def Tbl.put {α : Type} (t : Tbl α) (k : Nat) (v : α) : Tbl α := ⟨Tbl.putIn t.entries k v⟩
/-- The table with entry `k` changed by `f`. -/
def Tbl.mod {α : Type} (t : Tbl α) (d : α) (k : Nat) (f : α → α) : Tbl α := t.put k (f (t.get d k))
/-- The table without entry `k`. -/
def Tbl.drop {α : Type} (t : Tbl α) (k : Nat) : Tbl α := ⟨t.entries.filter (fun e => e.1 != k)⟩
/-- The table with every listed entry changed by `f`. -/
def Tbl.map {α : Type} (t : Tbl α) (f : Nat → α → α) : Tbl α := ⟨t.entries.map (fun e => (e.1, f e.1 e.2))⟩
/-- The table with the entries from `k` on replaced by the values of a list. -/
def Tbl.splice {α : Type} (t : Tbl α) (k : Nat) (vs : List α) : Tbl α :=
  ⟨t.entries.filter (fun e => decide (e.1 < k)) ++ (vs.zipIdx k).map (fun p => (p.2, p.1))
    ++ t.entries.filter (fun e => decide (k + vs.length ≤ e.1))⟩
/-- The numbers listed. -/
def Tbl.keys {α : Type} (t : Tbl α) : List Nat := t.entries.map Prod.fst

end Sys2Proof.Machine
end

