-- ==== Sys2Proof/Syntax.lean ====
section
/-! DEFINITION. Syntax.lean: the instructions of the Idzal architecture and the events of the device, one constructor for
each row of spec/opcode_table.json. Instruction words carry the fields of their formats (R45, R57 to R74). An event names
only what happens; where it happens, and what reaches the device from outside with it, stands in `Site`. -/
namespace Sys2Proof

/-- Bits 55:51 of every word (R45): G ends the group; QS selects the predicate; QN negates it. -/
structure Hdr where
  g  : BitVec 1
  qs : BitVec 3
  qn : BitVec 1
  deriving DecidableEq, Repr

/-- The TV body (R63). `rail` is RAIL[14:12]; `sat`, `rnd` and `ty` are SUB[7:0]. -/
structure Tv where
  td   : BitVec 6
  tdv  : BitVec 4
  rdn  : BitVec 4
  ta   : BitVec 6
  tav  : BitVec 4
  tap  : BitVec 1
  tb   : BitVec 6
  tbv  : BitVec 4
  tbp  : BitVec 1
  rail : BitVec 3
  msk  : BitVec 3
  men  : BitVec 1
  sat  : BitVec 1
  rnd  : BitVec 2
  ty   : BitVec 5
  deriving DecidableEq, Repr

/-- Bits 50:36 of the EC body of an engine command (R68): token pops and pushes, loop tag, footprint slot. -/
structure Ec where
  pbl : BitVec 1
  pbr : BitVec 1
  pal : BitVec 1
  par : BitVec 1
  tag : BitVec 6
  fp  : BitVec 5
  deriving DecidableEq, Repr

/-- The AQ body (R71). -/
structure Aq where
  sd   : BitVec 5
  sa   : BitVec 5
  sb   : BitVec 5
  pbl  : BitVec 1
  pbr  : BitVec 1
  pal  : BitVec 1
  par  : BitVec 1
  wk   : BitVec 4
  ord  : BitVec 3
  scp  : BitVec 3
  rd   : BitVec 3
  hint : BitVec 2
  off  : BitVec 17
  deriving DecidableEq, Repr

/-- A journal entry as it travels to the partner (R352, R355), in a packet of protection class LINK: the quarter, its size and the ring offset
that it goes to, its source device, its number, its lines with the stamp, and the count of the first entry that its die ships to this partner.
`dest` is the partner's device number, `link` the link that the packet leaves by, `route` the out port of each of its FWD ops, one a hop, and `back` the
return list that the hops have collected. -/
structure JEntry where
  die    : Nat
  offset : Nat
  src    : Nat
  number : Word
  pa     : Nat
  lines  : List Row
  size   : Nat := 2 ^ 18
  first  : Nat := 1
  dest   : Nat := 0
  link   : Nat := 0
  route  : List Nat := []
  back   : List Nat := []
  deriving DecidableEq, Repr

/-- A packet of the fabric (R409): both header flits and the payload, with the poison bit of each payload line. `wide` says that its
B16 elements travel as F32, between the RED hops of a reduction (R411). -/
structure Packet where
  route   : List Nat
  ret     : List Nat
  sealed  : Bool
  key     : Nat
  len     : Nat
  ap      : Nat
  tag     : Nat
  rlo     : Nat
  src     : Nat
  seq     : Nat
  pull    : Bool
  wide    : Bool
  ops     : List Word
  payload : List (Row × Bool)
  deriving DecidableEq, Repr

/-- An access of the load-store domain that reaches this device as the home of its word (R401): the physical address
within this device, its bytes, what it writes, if anything, the atomic operation by its place in R285 and whether that is signed,
the compare value, whether it is a plain access, and its source. A write of a whole line brings its side field and tag, and any write its poison;
`aprom` is the scope number of an APROM, `scope` that of an atomic. -/
structure RemoteReq where
  pa     : Nat
  width  : Nat
  write  : Option (BitVec 512)
  atomic : Option (Nat × Bool)
  cmp    : BitVec 128
  plain  : Bool
  src    : Nat
  side   : BitVec 64 := 0
  tag    : BitVec 2 := 0
  poison : Bool := false
  aprom  : Option Nat := none
  scope  : Nat := 4
  deriving DecidableEq, Repr

/-- How a boot phase ends (R418). -/
inductive BootResult where
  | done (fwver : BitVec 16) (numv : BitVec 8) (epoch : BitVec 16)
  | badSignature
  | rollback
  | training
  | heartbeat
  deriving DecidableEq, Repr

/-- What reaches the device from outside with an event. -/
inductive Input where
  | none
  | bytes (bs : List Byte)
  | packet (p : Packet)
  | entry (e : JEntry)
  | remote (r : RemoteReq)
  | boot (r : BootResult)
  deriving DecidableEq, Repr

/-- Where an event happens: the unit (a global stream ID, a core, a die, a stack, a link, as its meaning says), a second
index within it, the value that comes with it, and any further input. -/
structure Site where
  unit  : Nat
  sub   : Nat
  val   : Word
  input : Input
  deriving DecidableEq, Repr

/-- The instructions and events of spec/opcode_table.json, one constructor a row: first those
that a word encodes, then the events. An event carries no field: it happens at the site that State holds. -/
inductive Instr where
  /-- NOP (R262): Issues with no effect. -/
  | nop (h : Hdr)
  /-- ADD (R244): Writes Sa + Sb to Sd after latency 1. -/
  | add (h : Hdr) (sd : BitVec 5) (sa : BitVec 5) (sb : BitVec 5)
  /-- SUB (R244): Writes Sa - Sb to Sd after latency 1. -/
  | sub (h : Hdr) (sd : BitVec 5) (sa : BitVec 5) (sb : BitVec 5)
  /-- ADDI (R244): Writes Sa plus the sign-extended 36-bit immediate to Sd. -/
  | addi (h : Hdr) (sd : BitVec 5) (sa : BitVec 5) (imm : BitVec 36)
  /-- MUL (R244): Writes the low 64 bits of Sa x Sb to Sd after latency 3. -/
  | mul (h : Hdr) (sd : BitVec 5) (sa : BitVec 5) (sb : BitVec 5)
  /-- MULH (R244): Writes the high 64 bits of the signed 128-bit product to Sd. -/
  | mulh (h : Hdr) (sd : BitVec 5) (sa : BitVec 5) (sb : BitVec 5)
  /-- MULHN (R244): Writes the high 64 bits of the unsigned 128-bit product to Sd. -/
  | mulhn (h : Hdr) (sd : BitVec 5) (sa : BitVec 5) (sb : BitVec 5)
  /-- DIVS (R244): Writes the signed quotient to Sd after latency 34, or takes ARITH on a zero divisor. -/
  | divs (h : Hdr) (sd : BitVec 5) (sa : BitVec 5) (sb : BitVec 5)
  /-- DIVN (R244): Writes the unsigned quotient to Sd after latency 34, or takes ARITH on a zero divisor. -/
  | divn (h : Hdr) (sd : BitVec 5) (sa : BitVec 5) (sb : BitVec 5)
  /-- AND (R244): Writes the bitwise AND of Sa and Sb to Sd. -/
  | and (h : Hdr) (sd : BitVec 5) (sa : BitVec 5) (sb : BitVec 5)
  /-- OR (R244): Writes the bitwise OR of Sa and Sb to Sd. -/
  | or (h : Hdr) (sd : BitVec 5) (sa : BitVec 5) (sb : BitVec 5)
  /-- XOR (R244): Writes the bitwise XOR of Sa and Sb to Sd. -/
  | xor (h : Hdr) (sd : BitVec 5) (sa : BitVec 5) (sb : BitVec 5)
  /-- ANDN (R244): Writes Sa AND NOT Sb to Sd. -/
  | andn (h : Hdr) (sd : BitVec 5) (sa : BitVec 5) (sb : BitVec 5)
  /-- SHL (R244): Writes Sa shifted left by Sb[5:0] to Sd. -/
  | shl (h : Hdr) (sd : BitVec 5) (sa : BitVec 5) (sb : BitVec 5)
  /-- SHRL (R244): Writes Sa shifted right logically by Sb[5:0] to Sd. -/
  | shrl (h : Hdr) (sd : BitVec 5) (sa : BitVec 5) (sb : BitVec 5)
  /-- SHRA (R244): Writes Sa shifted right arithmetically by Sb[5:0] to Sd. -/
  | shra (h : Hdr) (sd : BitVec 5) (sa : BitVec 5) (sb : BitVec 5)
  /-- MINS (R244): Writes the signed minimum of Sa and Sb to Sd. -/
  | mins (h : Hdr) (sd : BitVec 5) (sa : BitVec 5) (sb : BitVec 5)
  /-- MAXS (R244): Writes the signed maximum of Sa and Sb to Sd. -/
  | maxs (h : Hdr) (sd : BitVec 5) (sa : BitVec 5) (sb : BitVec 5)
  /-- MINN (R244): Writes the unsigned minimum of Sa and Sb to Sd. -/
  | minn (h : Hdr) (sd : BitVec 5) (sa : BitVec 5) (sb : BitVec 5)
  /-- MAXN (R244): Writes the unsigned maximum of Sa and Sb to Sd. -/
  | maxn (h : Hdr) (sd : BitVec 5) (sa : BitVec 5) (sb : BitVec 5)
  /-- SEL (R244): Writes Sa to Sd when Qs is true, otherwise Sb. -/
  | sel (h : Hdr) (sd : BitVec 5) (sa : BitVec 5) (sb : BitVec 5) (qsel : BitVec 3)
  /-- CLZ (R244): Writes the count of leading zero bits of Sa to Sd. -/
  | clz (h : Hdr) (sd : BitVec 5) (sa : BitVec 5)
  /-- POPC (R244): Writes the count of set bits of Sa to Sd. -/
  | popc (h : Hdr) (sd : BitVec 5) (sa : BitVec 5)
  /-- BFX_I (R244): Extracts a bit field of Sa, sign-extended, into Sd. -/
  | bfxI (h : Hdr) (sd : BitVec 5) (sa : BitVec 5) (width : BitVec 7) (lsb : BitVec 6)
  /-- BFX_N (R244): Extracts a bit field of Sa, zero-extended, into Sd. -/
  | bfxN (h : Hdr) (sd : BitVec 5) (sa : BitVec 5) (width : BitVec 7) (lsb : BitVec 6)
  /-- BFI (R244): Inserts the low bits of Sa into a bit field of Sd. -/
  | bfi (h : Hdr) (sd : BitVec 5) (sa : BitVec 5) (width : BitVec 7) (lsb : BitVec 6)
  /-- MOVI (R244): Writes the sign-extended 36-bit immediate to Sd. -/
  | movi (h : Hdr) (sd : BitVec 5) (imm : BitVec 36)
  /-- MOVH (R244): Replaces bits 63:36 of Sd with the 28-bit immediate. -/
  | movh (h : Hdr) (sd : BitVec 5) (imm : BitVec 28)
  /-- LEA (R244): Writes Sa + (Sb << sc) + disp to Sd. -/
  | lea (h : Hdr) (sd : BitVec 5) (sa : BitVec 5) (sb : BitVec 5) (sc : BitVec 2) (disp : BitVec 34)
  /-- CMP_REG (R246): Sets Qd to the condition between Sa and Sb. -/
  | cmpReg (h : Hdr) (qd : BitVec 3) (sa : BitVec 5) (sb : BitVec 5) (cond : BitVec 4)
  /-- CMP_IMM (R246): Sets Qd to the condition between Sa and a 32-bit immediate. -/
  | cmpImm (h : Hdr) (qd : BitVec 3) (sa : BitVec 5) (imm : BitVec 32) (cond : BitVec 4)
  /-- QOP (R246): Sets Qd to a logical combination of Qa and Qb. -/
  | qop (h : Hdr) (qd : BitVec 3) (qa : BitVec 3) (qb : BitVec 3) (qop : BitVec 2)
  /-- LDS (R248): Loads a scratchpad value into Sd, landing four cycles after issue. -/
  | lds (h : Hdr) (sd : BitVec 5) (sa : BitVec 5) (wk : BitVec 4) (off : BitVec 32)
  /-- STS (R248): Stores the low bytes of Sb into scratchpad. -/
  | sts (h : Hdr) (sa : BitVec 5) (sb : BitVec 5) (wk : BitVec 4) (off : BitVec 32)
  /-- PBR (R251): Sets Jk to a target address and starts fetching it into the target half. -/
  | pbr (h : Hdr) (j : BitVec 3) (off : BitVec 41)
  /-- BRQ (R252): Transfers to Jk after two delay groups when Qc is true. -/
  | brq (h : Hdr) (j : BitVec 3) (qc : BitVec 3)
  /-- BR (R252): Transfers to Jk after two delay groups. -/
  | br (h : Hdr) (j : BitVec 3)
  /-- CALL (R252): Transfers to Jk after two delay groups and sets J0 and the return slot. -/
  | call (h : Hdr) (j : BitVec 3)
  /-- RET (R252): Transfers to Jk, prepared through the return slot. -/
  | ret (h : Hdr) (j : BitVec 3)
  /-- LOOP (R256): Counts LC or EC down, rotates registers and sets the stage predicate, and transfers while the loop goes on. -/
  | loop (h : Hdr) (j : BitVec 3)
  /-- ROTZ (R257): Sets ROTB to zero for the next group. -/
  | rotz (h : Hdr)
  /-- ANYM (R254): Sets Qd when any bit of Mk is set. -/
  | anym (h : Hdr) (qd : BitVec 3) (mk : BitVec 3)
  /-- ALLM (R254): Sets Qd when every bit of Mk is set. -/
  | allm (h : Hdr) (qd : BitVec 3) (mk : BitVec 3)
  /-- OSEND (R255): Waits for a free slot and pushes a predicate bit into an outcome ring. -/
  | osend (h : Hdr) (qc : BitVec 3) (hd : BitVec 4)
  /-- BRO (R255): Waits for a filled slot, consumes an outcome bit and transfers when it is 1. -/
  | bro (h : Hdr) (j : BitVec 3) (hd : BitVec 4)
  /-- QCUT (R258): Cancels the stream's queued, unstarted engine commands whose tags lie in a range. -/
  | qcut (h : Hdr) (hi : BitVec 6) (lo : BitVec 6)
  /-- WAIT (R262): Holds the stream's next group for n cycles. -/
  | wait (h : Hdr) (n : BitVec 16)
  /-- YIELD (R262): Holds the stream's next group until every other issuing stream of the core has issued. -/
  | yield (h : Hdr)
  /-- HALT (R262): Stops the stream for the rest of the launch and releases at .V. -/
  | halt (h : Hdr)
  /-- TRAP (R262): Completes its group and parks the stream with a trap record carrying n. -/
  | trap (h : Hdr) (n : BitVec 16)
  /-- SYSRD (R259): Reads a control register into Sd. -/
  | sysrd (h : Hdr) (sd : BitVec 5) (reg : BitVec 16)
  /-- SYSWR (R259): Writes Sa to a control register that has no row of its own, seen by the next group. -/
  | syswr (h : Hdr) (sa : BitVec 5) (reg : BitVec 16)
  /-- SYSWR_HOMEMAP (R41): SYSWR to HOMEMAP copies the home-map table into the arrays of all four C-dies. -/
  | syswrHomemap (h : Hdr) (sa : BitVec 5)
  /-- SYSWR_FMT_SCALE (R89): SYSWR to FMT.SCALE.n sets the scale range of format region n on all stacks. -/
  | syswrFmtScale (h : Hdr) (sa : BitVec 5) (n : BitVec 3)
  /-- SYSWR_FMT_BASE (R89): SYSWR to FMT.BASE.n writes back and invalidates old and new data ranges and sets the region. -/
  | syswrFmtBase (h : Hdr) (sa : BitVec 5) (n : BitVec 3)
  /-- SYSWR_WAYMASK (R120): SYSWR to WAYMASK.n makes every slice use new fill masks. -/
  | syswrWaymask (h : Hdr) (sa : BitVec 5) (n : BitVec 3)
  /-- SYSWR_INCCFG (R335): SYSWR to INCCFG.n reinitialises the incumbent slot and every shadow of it. -/
  | syswrInccfg (h : Hdr) (sa : BitVec 5) (n : BitVec 4)
  /-- SYSWR_JPAIR (R354): SYSWR to JPAIR sets or clears the journal partner, or takes a JOURNAL fault. -/
  | syswrJpair (h : Hdr) (sa : BitVec 5)
  /-- CONF (R227): Writes Sa into a shadow matrix-engine configuration register. -/
  | conf (h : Hdr) (sa : BitVec 5) (reg : BitVec 16)
  /-- SNAP (R260): Reads a contact sheet register of the issuing core into Sd. -/
  | snap (h : Hdr) (sd : BitVec 5) (reg : BitVec 16)
  /-- RDCYC (R261): Reads the device cycle count into Sd. -/
  | rdcyc (h : Hdr) (sd : BitVec 5)
  /-- ICINV (R125): Removes the context's words in a target from I-caches in scope and waits for completion. -/
  | icinv (h : Hdr) (sa : BitVec 5) (scope : BitVec 3)
  /-- VADD_F (R205): Adds two tiles elementwise in a float type. -/
  | vaddF (h : Hdr) (v : Tv)
  /-- VADD_I (R205): Adds two tiles elementwise in an integer type. -/
  | vaddI (h : Hdr) (v : Tv)
  /-- VSUB_F (R205): Subtracts two tiles elementwise in a float type. -/
  | vsubF (h : Hdr) (v : Tv)
  /-- VSUB_I (R205): Subtracts two tiles elementwise in an integer type. -/
  | vsubI (h : Hdr) (v : Tv)
  /-- VMUL_F (R205): Multiplies two tiles elementwise in a float type. -/
  | vmulF (h : Hdr) (v : Tv)
  /-- VMUL_I (R205): Multiplies two tiles elementwise in an integer type. -/
  | vmulI (h : Hdr) (v : Tv)
  /-- VFMA (R205): Computes a fused multiply-add with a tapped addend, rounded once. -/
  | vfma (h : Hdr) (v : Tv)
  /-- VMIN_F (R205): Takes the elementwise float minimum. -/
  | vminF (h : Hdr) (v : Tv)
  /-- VMIN_I (R205): Takes the elementwise integer minimum. -/
  | vminI (h : Hdr) (v : Tv)
  /-- VMAX_F (R205): Takes the elementwise float maximum. -/
  | vmaxF (h : Hdr) (v : Tv)
  /-- VMAX_I (R205): Takes the elementwise integer maximum. -/
  | vmaxI (h : Hdr) (v : Tv)
  /-- VABS (R205): Takes the elementwise absolute value. -/
  | vabs (h : Hdr) (v : Tv)
  /-- VNEG (R205): Negates each element. -/
  | vneg (h : Hdr) (v : Tv)
  /-- VCMP_F (R206): Compares float elements into a mask register. -/
  | vcmpF (h : Hdr) (v : Tv)
  /-- VCMP_I (R206): Compares integer elements into a mask register. -/
  | vcmpI (h : Hdr) (v : Tv)
  /-- VSEL (R206): Selects each 4-byte group from TA or TB by mask. -/
  | vsel (h : Hdr) (v : Tv)
  /-- VAND (R206): Bitwise AND of two tiles. -/
  | vand (h : Hdr) (v : Tv)
  /-- VOR (R206): Bitwise OR of two tiles. -/
  | vor (h : Hdr) (v : Tv)
  /-- VXOR (R206): Bitwise XOR of two tiles. -/
  | vxor (h : Hdr) (v : Tv)
  /-- VSHL (R206): Shifts each element left by the count in TB. -/
  | vshl (h : Hdr) (v : Tv)
  /-- VSHR_N (R206): Shifts each element right logically. -/
  | vshrN (h : Hdr) (v : Tv)
  /-- VSHR_I (R206): Shifts each element right arithmetically. -/
  | vshrI (h : Hdr) (v : Tv)
  /-- VCVT_F (R207): Converts elements into a float destination type. -/
  | vcvtF (h : Hdr) (v : Tv)
  /-- VCVT_I (R207): Converts elements into an integer destination type. -/
  | vcvtI (h : Hdr) (v : Tv)
  /-- VQNT_DB8 (R208): Quantises blocks of 32 elements to DB8 with exponents in the side fields. -/
  | vqntDb8 (h : Hdr) (v : Tv)
  /-- VQNT_DB4 (R208): Quantises blocks of 32 elements to DB4 with exponents in the side fields. -/
  | vqntDb4 (h : Hdr) (v : Tv)
  /-- VRED_F (R209): Reduces each row in a float type by a fixed pairwise tree. -/
  | vredF (h : Hdr) (v : Tv)
  /-- VRED_I (R209): Reduces each row in an integer type. -/
  | vredI (h : Hdr) (v : Tv)
  /-- VSCAN_F (R210): Computes an inclusive float scan of each row. -/
  | vscanF (h : Hdr) (v : Tv)
  /-- VSCAN_I (R210): Computes an inclusive integer scan of each row. -/
  | vscanI (h : Hdr) (v : Tv)
  /-- VPERM_T (R211): Permutes elements within each row by indices from TB. -/
  | vpermT (h : Hdr) (v : Tv)
  /-- VPERM_IMM (R211): Permutes elements within each row by an immediate pattern. -/
  | vpermImm (h : Hdr) (v : Tv)
  /-- VXROW (R212): Selects each destination row from a TA row indexed by TB. -/
  | vxrow (h : Hdr) (v : Tv)
  /-- VBCAST_S (R212): Broadcasts the low bits of an S register to every element. -/
  | vbcastS (h : Hdr) (v : Tv)
  /-- VBCAST_ROW (R212): Broadcasts row 0 of TA to every row. -/
  | vbcastRow (h : Hdr) (v : Tv)
  /-- VTOPK (R213): Selects the k greatest elements of a tile with their indices. -/
  | vtopk (h : Hdr) (v : Tv)
  /-- VRNG (R215): Fills a tile with counter-generator output from a key and counter. -/
  | vrng (h : Hdr) (v : Tv)
  /-- VMOVT (R212): Copies a tile, or tapped row-quads, into a destination. -/
  | vmovt (h : Hdr) (v : Tv)
  /-- VLDS (R216): Loads a tile register from 32 scratchpad lines. -/
  | vlds (h : Hdr) (td : BitVec 6) (tdv : BitVec 4) (rdn : BitVec 4) (sa : BitVec 5) (offHi : BitVec 6) (men : BitVec 1) (msk : BitVec 3) (offLo : BitVec 9)
  /-- VSTS (R216): Stores a tile register into 32 scratchpad lines. -/
  | vsts (h : Hdr) (ta : BitVec 6) (tav : BitVec 4) (tap : BitVec 1) (sa : BitVec 5) (offHi : BitVec 6) (men : BitVec 1) (msk : BitVec 3) (offLo : BitVec 9)
  /-- VEXP (R218): Queues e^x of each element on the transcendental unit. -/
  | vexp (h : Hdr) (v : Tv)
  /-- VLOG (R218): Queues ln x of each element on the transcendental unit. -/
  | vlog (h : Hdr) (v : Tv)
  /-- VSIN (R218): Queues sin x of each element on the transcendental unit. -/
  | vsin (h : Hdr) (v : Tv)
  /-- VCOS (R218): Queues cos x of each element on the transcendental unit. -/
  | vcos (h : Hdr) (v : Tv)
  /-- VTANH (R218): Queues tanh x of each element on the transcendental unit. -/
  | vtanh (h : Hdr) (v : Tv)
  /-- VRSQ (R218): Queues 1/sqrt(x) of each element on the transcendental unit. -/
  | vrsq (h : Hdr) (v : Tv)
  /-- VRCP (R218): Queues 1/x of each element on the transcendental unit. -/
  | vrcp (h : Hdr) (v : Tv)
  /-- VSIG (R218): Queues the logistic sigmoid of each element on the transcendental unit. -/
  | vsig (h : Hdr) (v : Tv)
  /-- MMA_DB8 (R232): Queues a DB8 matrix multiply-accumulate on a slab. -/
  | mmaDb8 (h : Hdr) (ec : Ec) (sx : BitVec 5) (slab : BitVec 3) (prof : BitVec 4) (ts : BitVec 1) (t : BitVec 6) (tv : BitVec 4) (peek : BitVec 1)
  /-- MMA_DB4 (R232): Queues a DB4 matrix multiply-accumulate on a slab. -/
  | mmaDb4 (h : Hdr) (ec : Ec) (sx : BitVec 5) (slab : BitVec 3) (prof : BitVec 4) (ts : BitVec 1) (t : BitVec 6) (tv : BitVec 4) (peek : BitVec 1)
  /-- MMA_I8 (R232): Queues an I8 matrix multiply-accumulate on a slab. -/
  | mmaI8 (h : Hdr) (ec : Ec) (sx : BitVec 5) (slab : BitVec 3) (prof : BitVec 4) (ts : BitVec 1) (t : BitVec 6) (tv : BitVec 4) (peek : BitVec 1)
  /-- MMA2 (R232): Queues a B16 multiply-accumulate split into hi and lo DB8 pieces. -/
  | mma2 (h : Hdr) (ec : Ec) (sx : BitVec 5) (slab : BitVec 3) (prof : BitVec 4) (ts : BitVec 1) (t : BitVec 6) (tv : BitVec 4) (peek : BitVec 1)
  /-- SLD_DB8 (R234): Queues a load of a DB8 B plane from scratchpad into the shadow plane. -/
  | sldDb8 (h : Hdr) (ec : Ec) (sy : BitVec 5) (slab : BitVec 3)
  /-- SLD_DB4 (R234): Queues a load of a DB4 B plane from scratchpad. -/
  | sldDb4 (h : Hdr) (ec : Ec) (sy : BitVec 5) (slab : BitVec 3)
  /-- SLD_I8 (R234): Queues a load of an I8 B plane from scratchpad. -/
  | sldI8 (h : Hdr) (ec : Ec) (sy : BitVec 5) (slab : BitVec 3)
  /-- SLD_B16 (R234): Queues a load of a B16 B plane split into hi and lo planes. -/
  | sldB16 (h : Hdr) (ec : Ec) (sy : BitVec 5) (slab : BitVec 3)
  /-- SSWAP (R236): Queues a swap of the active and shadow planes. -/
  | sswap (h : Hdr) (ec : Ec) (slab : BitVec 3)
  /-- MROT (R237): Queues a Hadamard pass over the accumulator rows. -/
  | mrot (h : Hdr) (ec : Ec) (slab : BitVec 3)
  /-- MFIX_F32 (R239): Queues a fixer drain of the accumulator to F32. -/
  | mfixF32 (h : Hdr) (ec : Ec) (sx : BitVec 5) (slab : BitVec 3) (rdn : BitVec 4) (dst : BitVec 1) (t : BitVec 6) (tv : BitVec 4)
  /-- MFIX_B16 (R239): Queues a fixer drain of the accumulator to B16. -/
  | mfixB16 (h : Hdr) (ec : Ec) (sx : BitVec 5) (slab : BitVec 3) (rdn : BitVec 4) (dst : BitVec 1) (t : BitVec 6) (tv : BitVec 4)
  /-- MFIX_I8 (R239): Queues a fixer drain of the accumulator to I8. -/
  | mfixI8 (h : Hdr) (ec : Ec) (sx : BitVec 5) (slab : BitVec 3) (rdn : BitVec 4) (dst : BitVec 1) (t : BitVec 6) (tv : BitVec 4)
  /-- MFIX_DB8 (R239): Queues a fixer drain of the accumulator to DB8. -/
  | mfixDb8 (h : Hdr) (ec : Ec) (sx : BitVec 5) (slab : BitVec 3) (rdn : BitVec 4) (dst : BitVec 1) (t : BitVec 6) (tv : BitVec 4)
  /-- MFIX_DB4 (R239): Queues a fixer drain of the accumulator to DB4. -/
  | mfixDb4 (h : Hdr) (ec : Ec) (sx : BitVec 5) (slab : BitVec 3) (rdn : BitVec 4) (dst : BitVec 1) (t : BitVec 6) (tv : BitVec 4)
  /-- MZERO (R241): Queues a tile start that clears the accumulator. -/
  | mzero (h : Hdr) (ec : Ec) (slab : BitVec 3)
  /-- CPY_LD (R150): Queues a copy from memory into scratchpad on the LD engine. -/
  | cpyLd (h : Hdr) (ec : Ec) (sx : BitVec 5) (sy : BitVec 5) (sz : BitVec 5) (rd : BitVec 3) (hint : BitVec 2)
  /-- CPY_ST (R150): Queues a copy from scratchpad to memory on the ST engine. -/
  | cpySt (h : Hdr) (ec : Ec) (sx : BitVec 5) (sy : BitVec 5) (sz : BitVec 5) (rd : BitVec 3) (hint : BitVec 2)
  /-- GATH (R150): Queues an indexed gather of rows from memory into scratchpad. -/
  | gath (h : Hdr) (ec : Ec) (sx : BitVec 5) (sy : BitVec 5) (sz : BitVec 5) (rd : BitVec 3) (hint : BitVec 2) (rowl : BitVec 6)
  /-- SCAT (R150): Queues an indexed scatter of rows from scratchpad to memory. -/
  | scat (h : Hdr) (ec : Ec) (sx : BitVec 5) (sy : BitVec 5) (sz : BitVec 5) (rd : BitVec 3) (hint : BitVec 2) (rowl : BitVec 6)
  /-- FILL_LD (R150): Queues a fill of scratchpad with an 8-byte pattern. -/
  | fillLd (h : Hdr) (ec : Ec) (sx : BitVec 5) (sy : BitVec 5) (sz : BitVec 5) (rd : BitVec 3) (hint : BitVec 2)
  /-- FILL_ST (R150): Queues a fill of memory with an 8-byte pattern. -/
  | fillSt (h : Hdr) (ec : Ec) (sx : BitVec 5) (sy : BitVec 5) (sz : BitVec 5) (rd : BitVec 3) (hint : BitVec 2)
  /-- CLINK_LD (R156): Sets the head of the stream's LD chain unit. -/
  | clinkLd (h : Hdr) (sy : BitVec 5)
  /-- CLINK_ST (R156): Sets the head of the stream's ST chain unit. -/
  | clinkSt (h : Hdr) (sy : BitVec 5)
  /-- CKICK (R156): Starts an idle, linked chain unit at its head. -/
  | ckick (h : Hdr) (eng : BitVec 1)
  /-- HCONF (R138): Configures a ring handle. -/
  | hconf (h : Hdr) (sx : BitVec 5) (sy : BitVec 5) (sz : BitVec 5) (kind : BitVec 2) (hd : BitVec 4)
  /-- RADVP (R139): Advances a ring's producer index after the stream's scratchpad writes land. -/
  | radvp (h : Hdr) (n : BitVec 16) (hd : BitVec 4)
  /-- RADVC (R139): Advances a ring's consumer index after the stream's scratchpad accesses land. -/
  | radvc (h : Hdr) (n : BitVec 16) (hd : BitVec 4)
  /-- RWAITF (R139): Waits until a ring holds n filled slots. -/
  | rwaitf (h : Hdr) (n : BitVec 16) (hd : BitVec 4)
  /-- RWAITE (R139): Waits until a ring holds n free slots. -/
  | rwaite (h : Hdr) (n : BitVec 16) (hd : BitVec 4)
  /-- TKSEND (R145): Places a marker entry in an engine queue of the stream. -/
  | tksend (h : Hdr) (q : BitVec 2)
  /-- TKWAIT (R146): Pops a reply token from an engine queue, delivering any held fault. -/
  | tkwait (h : Hdr) (q : BitVec 2)
  /-- GLD (R283): Queues a global load. -/
  | gld (h : Hdr) (a : Aq)
  /-- GST (R283): Queues a global store. -/
  | gst (h : Hdr) (a : Aq)
  /-- AADD_N32 (R285): Queues a 32-bit atomic add. -/
  | aaddN32 (h : Hdr) (a : Aq)
  /-- AADD_N64 (R285): Queues a 64-bit atomic add. -/
  | aaddN64 (h : Hdr) (a : Aq)
  /-- AFADD_F32 (R285): Queues an F32 atomic add. -/
  | afaddF32 (h : Hdr) (a : Aq)
  /-- AFADD_B16 (R285): Queues a two-lane B16 atomic add. -/
  | afaddB16 (h : Hdr) (a : Aq)
  /-- AMIN_I32 (R285): Queues a signed 32-bit atomic minimum. -/
  | aminI32 (h : Hdr) (a : Aq)
  /-- AMIN_I64 (R285): Queues a signed 64-bit atomic minimum. -/
  | aminI64 (h : Hdr) (a : Aq)
  /-- AMIN_N32 (R285): Queues an unsigned 32-bit atomic minimum. -/
  | aminN32 (h : Hdr) (a : Aq)
  /-- AMIN_N64 (R285): Queues an unsigned 64-bit atomic minimum. -/
  | aminN64 (h : Hdr) (a : Aq)
  /-- AMAX_I32 (R285): Queues a signed 32-bit atomic maximum. -/
  | amaxI32 (h : Hdr) (a : Aq)
  /-- AMAX_I64 (R285): Queues a signed 64-bit atomic maximum. -/
  | amaxI64 (h : Hdr) (a : Aq)
  /-- AMAX_N32 (R285): Queues an unsigned 32-bit atomic maximum. -/
  | amaxN32 (h : Hdr) (a : Aq)
  /-- AMAX_N64 (R285): Queues an unsigned 64-bit atomic maximum. -/
  | amaxN64 (h : Hdr) (a : Aq)
  /-- AAND_N32 (R285): Queues a 32-bit atomic AND. -/
  | aandN32 (h : Hdr) (a : Aq)
  /-- AAND_N64 (R285): Queues a 64-bit atomic AND. -/
  | aandN64 (h : Hdr) (a : Aq)
  /-- AOR_N32 (R285): Queues a 32-bit atomic OR. -/
  | aorN32 (h : Hdr) (a : Aq)
  /-- AOR_N64 (R285): Queues a 64-bit atomic OR. -/
  | aorN64 (h : Hdr) (a : Aq)
  /-- AXOR_N32 (R285): Queues a 32-bit atomic XOR. -/
  | axorN32 (h : Hdr) (a : Aq)
  /-- AXOR_N64 (R285): Queues a 64-bit atomic XOR. -/
  | axorN64 (h : Hdr) (a : Aq)
  /-- AXCHG_N32 (R285): Queues a 32-bit atomic exchange. -/
  | axchgN32 (h : Hdr) (a : Aq)
  /-- AXCHG_N64 (R285): Queues a 64-bit atomic exchange. -/
  | axchgN64 (h : Hdr) (a : Aq)
  /-- AXCHG_N128 (R285): Queues a 128-bit atomic exchange on register pairs. -/
  | axchgN128 (h : Hdr) (a : Aq)
  /-- ACAS_N32 (R285): Queues a 32-bit atomic compare-and-swap. -/
  | acasN32 (h : Hdr) (a : Aq)
  /-- ACAS_N64 (R285): Queues a 64-bit atomic compare-and-swap. -/
  | acasN64 (h : Hdr) (a : Aq)
  /-- ACAS_N128 (R285): Queues a 128-bit atomic compare-and-swap on register pairs. -/
  | acasN128 (h : Hdr) (a : Aq)
  /-- APROM (R289): Queues a promotion of narrow releases on a word to a wider scope. -/
  | aprom (h : Hdr) (a : Aq)
  /-- FENCE (R288): Queues an acquire, release or both at a scope. -/
  | fence (h : Hdr) (a : Aq)
  /-- PF (R127): Queues a prefetch of a line, dropped on any failure. -/
  | pf (h : Hdr) (a : Aq)
  /-- LINV (R128): Queues a write-back and invalidation of a line in the caches in scope. -/
  | linv (h : Hdr) (a : Aq)
  /-- LWB (R128): Queues a write-back of a line in the caches in scope. -/
  | lwb (h : Hdr) (a : Aq)
  /-- DVRED (R99): Queues a developer reduction named by a parameter block. -/
  | dvred (h : Hdr) (a : Aq)
  /-- TSPAWN (R325): Queues an enqueue of a continuation record into a task queue. -/
  | tspawn (h : Hdr) (a : Aq)
  /-- TSTAGE_REG (R325): Queues an enqueue of a stage item into the stage queue named by Sb. -/
  | tstageReg (h : Hdr) (a : Aq)
  /-- TSTAGE_IMM (R325): Queues an enqueue of a stage item into an immediate stage queue. -/
  | tstageImm (h : Hdr) (a : Aq)
  /-- TEND (R328): Ends the stream's item and waits for its work to drain. -/
  | tend (h : Hdr)
  /-- TJOIN (R327): Queues the release of the parent's hold on a join record. -/
  | tjoin (h : Hdr) (a : Aq)
  /-- JOIN_REG (R292): Queues adding the stream to the group named by Sb. -/
  | joinReg (h : Hdr) (a : Aq)
  /-- JOIN_IMM (R292): Queues adding the stream to an immediate group. -/
  | joinImm (h : Hdr) (a : Aq)
  /-- LEAVE_REG (R292): Queues removing the stream from the group named by Sb. -/
  | leaveReg (h : Hdr) (a : Aq)
  /-- LEAVE_IMM (R292): Queues removing the stream from an immediate group. -/
  | leaveImm (h : Hdr) (a : Aq)
  /-- BARG_REG (R293): Queues a barrier arrival in the group named by Sb. -/
  | bargReg (h : Hdr) (a : Aq)
  /-- BARG_IMM (R293): Queues a barrier arrival in an immediate group. -/
  | bargImm (h : Hdr) (a : Aq)
  /-- GCOUNT_REG (R292): Queues a read of the member count of the group named by Sb. -/
  | gcountReg (h : Hdr) (a : Aq)
  /-- GCOUNT_IMM (R292): Queues a read of the member count of an immediate group. -/
  | gcountImm (h : Hdr) (a : Aq)
  /-- IMPRV (R338): Queues an improvement of an incumbent slot. -/
  | imprv (h : Hdr) (a : Aq)
  /-- IREAD (R340): Queues a read of an incumbent slot or its shadow. -/
  | iread (h : Hdr) (a : Aq)
  /-- KCHK (R345): Refines the task bound and kills the item when the shadow dominates it. -/
  | kchk (h : Hdr) (a : Aq)
  /-- JREC (R359): Queues journalling a record from scratchpad. -/
  | jrec (h : Hdr) (a : Aq)
  /-- JWAIT (R361): Queues a wait until a journal number is durable. -/
  | jwait (h : Hdr) (a : Aq)
  /-- EMIT_N32 (R362): Queues a 32-bit store to an emission area gated on journal durability. -/
  | emitN32 (h : Hdr) (a : Aq)
  /-- EMIT_N64 (R362): Queues a 64-bit store to an emission area gated on journal durability. -/
  | emitN64 (h : Hdr) (a : Aq)
  /-- JTRUNC (R364): Queues a truncation entry for a sequence up to a step. -/
  | jtrunc (h : Hdr) (a : Aq)
  /-- JRESEAT (R365): Moves the journal to a new partner and ships every die's live tail. -/
  | jreseat (h : Hdr) (a : Aq)
  /-- SEG (R388): Opens a signed segment after a kill check. -/
  | seg (h : Hdr) (count : BitVec 19) (sig : BitVec 32)
  /-- SEGEND (R388): Closes a segment and checks its group count and signature. -/
  | segend (h : Hdr)
  /-- UNASSIGNED_OPCODE (R55): A group holding a word with an unassigned primary opcode issues and raises ILLEGAL with no effect. -/
  | unassignedOpcode (w : Word)
  /-- SYSWR_RETIRE (R259): A SYSWR whose effect completes later retires and lets the stream's next group issue. -/
  | syswrRetire
  /-- ICINV_COMPLETE (R125): The I-cache invalidation finishes and the stream's next group may issue. -/
  | icinvComplete
  /-- XT_ENTRY_START (R217): The transcendental unit starts its oldest queued entry. -/
  | xtEntryStart
  /-- XT_ENTRY_PUBLISH (R217): A transcendental entry publishes its destination version. -/
  | xtEntryPublish
  /-- TILE_LANDING (R169): A reserved tile-register write lands and publishes its new version and reader count. -/
  | tileLanding
  /-- LATENT_WRITE_LANDING (R164): A latent write to a stream-private register lands in its cycle. -/
  | latentWriteLanding
  /-- MATRIX_COMMAND_START (R228): The matrix engine starts a ready MX queue head, chosen round-robin, and makes its start checks. -/
  | matrixCommandStart
  /-- MATRIX_COMMAND_RETIRE (R230): A matrix command retires after its steps and pushes its tokens. -/
  | matrixCommandRetire
  /-- ENGINE_UNCORRECTABLE_ERROR (R242): A matrix command consumes an uncorrectable error in the accumulator, row buffer, constant store or plane. -/
  | engineUncorrectableError
  /-- COPY_COMMAND_START (R147): A copy command at the head of its LD or ST queue starts after its predecessors and tokens. -/
  | copyCommandStart
  /-- COPY_COMMAND_RETIRE (R147): A copy command retires when its last write has landed or been performed at .C. -/
  | copyCommandRetire
  /-- CHAIN_ENTRY_FETCH (R155): A running chain unit reads and checks its current entry. -/
  | chainEntryFetch
  /-- CHAIN_WAIT_SATISFIED (R155): A chain entry's ring wait holds and its copy begins. -/
  | chainWaitSatisfied
  /-- CHAIN_ENTRY_RETIRE (R155): A chain entry's copy completes, its post advances a ring and the unit moves on. -/
  | chainEntryRetire
  /-- TOKEN_MARKER_START (R145): A marker reaches its queue head after its predecessors and pushes a reply token. -/
  | tokenMarkerStart
  /-- AQ_OPERATION_PERFORM (R431): An access-queue operation at its head pops its tokens, performs at its scope and pushes its tokens and reply token. -/
  | aqOperationPerform
  /-- RELEASE_MARKER_PERFORM (R282): Under marker mode a held release performs once every counted write has been performed. -/
  | releaseMarkerPerform
  /-- DEVELOPER_BLOCK_START (R98): A developer begins the next accepted block after the previous flag store. -/
  | developerBlockStart
  /-- DEVELOPER_FLAG_STORE (R99): A developer finishes a reduction and stores FVAL to the flag as a release at .V. -/
  | developerFlagStore
  /-- ITEM_END (R328): After the drain, the item releases at .V, makes its join update, frees its slot and goes idle. -/
  | itemEnd
  /-- BARRIER_COMPLETE (R293): Every member has arrived and PEND is 0, so the keeper completes the barrier and pushes every token. -/
  | barrierComplete
  /-- ITEM_TAKE (R322): The queue manager serves an idle stream from a queue, discarding dominated or invalid records. -/
  | itemTake
  /-- ITEM_START (R323): A taken item starts at its code address with fresh registers and an acquire at .V. -/
  | itemStart
  /-- SHADOW_UPDATE (R341): A core's shadow of an incumbent slot takes a broadcast improvement. -/
  | shadowUpdate
  /-- RESEAT_TAIL_SENT (R365): The last line of a die's tail leaves and RESEAT returns to 0. -/
  | reseatTailSent
  /-- JOURNAL_ENTRY_RECEIVE (R356): The partner's JN writes an arriving entry and its control line and acknowledges. -/
  | journalEntryReceive
  /-- JOURNAL_ACK_RECEIVE (R356): An acknowledgment from the current partner raises DUR.d. -/
  | journalAckReceive
  /-- JOURNAL_SILENT (R357): DUR.d has not risen for 1,048,576 cycles, so SILENT is set and the host is notified. -/
  | journalSilent
  /-- PROBE_SEND (R332): A queue head blocked for 256 cycles sends a probe along its full FIFO. -/
  | probeSend
  /-- PROBE_FORWARD (R332): A probe moves one queue and is forwarded, dropped or returned to its origin. -/
  | probeForward
  /-- BANK_DROWSY (R173): A tile-register bank idle for 256 cycles becomes drowsy. -/
  | bankDrowsy
  /-- BANK_GATED (R173): A tile-register bank idle for 16,384 cycles becomes gated. -/
  | bankGated
  /-- BANK_REFRESH (R173): A bank refreshes for 4 cycles at its slot of the 2,048-cycle count. -/
  | bankRefresh
  /-- BANK_WAKE_DONE (R173): A waking bank becomes awake and held accesses proceed. -/
  | bankWakeDone
  /-- FAULT_DELIVERY (R375): The context engine writes a fault record to the fault ring and enqueues a handler or notifies the host. -/
  | faultDelivery
  /-- FAULT_RING_RETRY (R375): Every 4,096 cycles the device rereads RIDX and writes a pending record when room exists. -/
  | faultRingRetry
  /-- CORE_CONTEXT_FAULT (R376): A core-context fault parks every started stream and writes one record each. -/
  | coreContextFault
  /-- RESUME_STREAM (R377): RESUME action 0 restarts a parked stream at its recorded PC. -/
  | resumeStream
  /-- ABANDON_STREAM (R377): RESUME action 1 skips the stream's queued work and ends its item as abandoned. -/
  | abandonStream
  /-- HALT_STREAM (R377): RESUME action 2 skips the faulted operation and halts the stream. -/
  | haltStream
  /-- PCTL_SAVE (R380): The host requests a stop and save of a core context to AREA. -/
  | pctlSave
  /-- CONTEXT_STOP (R381): At least 100 cycles after SAVE, the core context stops at a cycle boundary. -/
  | contextStop
  /-- SAVE_COMPLETE (R382): The context image is written and BUSY clears. -/
  | saveComplete
  /-- PCTL_RESUME (R380): The host restarts a stopped context from its live state. -/
  | pctlResume
  /-- PCTL_RESTORE (R380): The host restores a checked image into a stopped context and restarts it. -/
  | pctlRestore
  /-- RESET_PARTITION (R397): RSTCTL partition scope stops every core context of a launch and returns it to IDLE. -/
  | resetPartition
  /-- RESET_ENGINE (R397): RSTCTL engine scope stops an engine, skips its queued work and poisons the core's streams. -/
  | resetEngine
  /-- RESET_LINK (R397): RSTCTL link scope retrains a link and resends flits in flight. -/
  | resetLink
  /-- RESET_CHANNEL (R397): RSTCTL channel scope pauses and reinitialises an HBM channel. -/
  | resetChannel
  /-- RESET_COMPLETE (R397): A partial reset finishes and GO reads 0. -/
  | resetComplete
  /-- SOURCE_LASTING (R393): THRESH events within the window make an error source lasting. -/
  | sourceLasting
  /-- LANE_REPAIR_PAUSE (R395): An HBM channel pauses to remap a lane or row. -/
  | laneRepairPause
  /-- LANE_REPAIR_DONE (R395): The channel pause ends and held accesses are released in order. -/
  | laneRepairDone
  /-- DIE_HEARTBEAT_LOSS (R392): A lost die heartbeat reports device failure. -/
  | dieHeartbeatLoss
  /-- JUNCTION_OVERTEMP (R424): A die reaching 110 C stops its heartbeat and failure is reported. -/
  | junctionOvertemp
  /-- MAILBOX_GO (R308): The host sets GO and the packet is checked in CHECK, home map and format regions set, or refused. -/
  | mailboxGo
  /-- LAUNCH_LOAD (R311): In LOAD the overlay and context images fill every core of the partition. -/
  | launchLoad
  /-- STREAMS_START (R312): Every started stream of the partition begins in one device cycle. -/
  | streamsStart
  /-- LAUNCH_END (R313): Once all work is done the device performs writes at .V, stores DONE and notifies the host. -/
  | launchEnd
  /-- DEVICE_RESET (R418): Device reset starts the boot ROM. -/
  | deviceReset
  /-- BOOT_PHASE_COMPLETE (R418): A boot phase finishes and the next begins, or the device fails. -/
  | bootPhaseComplete
  /-- HOST_MEMORY_READ (R415): A host read over UCIe performs at the point of coherence. -/
  | hostMemoryRead
  /-- HOST_MEMORY_WRITE (R416): A host write over UCIe performs at the point of coherence. -/
  | hostMemoryWrite
  /-- HOST_REGISTER_WRITE (R417): A write to a device register that has no row of its own. -/
  | hostRegisterWrite
  /-- CTXROOT_WRITE (R76): A host write of CTXROOT.n updates all eight base dies. -/
  | ctxrootWrite
  /-- TU_INV_GO (R82): A write of TU.INV with GO = 1 starts removing translations and cached lines. -/
  | tuInvGo
  /-- TU_INV_DONE (R82): The translation invalidation finishes and GO reads 0. -/
  | tuInvDone
  /-- NEGWIN_WRITE (R420): A write of NEGWIN waits for unwritten accepted entries and then sets the window. -/
  | negwinWrite
  /-- JROUTE_WRITE (R355): A write of JROUTE.d is held until the next pairing or reseat. -/
  | jrouteWrite
  /-- HNQ_READ_INDEX_WRITE (R419): A host write of HNQ.R frees room and pending notifications are written. -/
  | hnqReadIndexWrite
  /-- ATTN_GO (R422): The device builds a signed attestation report over the host's nonce. -/
  | attnGo
  /-- KS_OPEN (R423): Generates a session key pair and signs its public half. -/
  | ksOpen
  /-- KS_AGREE (R423): Derives a key-encryption key from ECDH with the owner's key. -/
  | ksAgree
  /-- KS_INSTALL (R423): Unwraps a key and writes it to a SEALED slot or link. -/
  | ksInstall
  /-- KS_CLOSE (R423): Erases the session key pair and key-encryption key. -/
  | ksClose
  /-- CRING_ENABLE (R405): Writing CRING.n with EN = 1 resets the ring indices of the slot. -/
  | cringEnable
  /-- RING_VISIT (R405): A collective engine visits a work-request ring and takes an owned entry. -/
  | ringVisit
  /-- WORK_REQUEST_FINISH (R407): The engine writes STATUS and clears OWN as a release at .V. -/
  | workRequestFinish
  /-- SWITCH_HOP (R409): A switch takes a packet, pops its route and op, and forwards or multicasts it. -/
  | switchHop
  /-- RED_TIMEOUT (R412): A key short of K packets after 100 ms is discarded with TIMEOUT. -/
  | redTimeout
  /-- APERTURE_DELIVERY (R404): A packet delivered to a window writes its data and raises the counter. -/
  | apertureDelivery
  /-- PULL_REPLY (R409): A device answers a PULL request along the return list. -/
  | pullReply
  /-- PULL_REPLY_RECEIVE (R407): The engine writes an arriving PULL reply to the local VA. -/
  | pullReplyReceive
  /-- REMOTE_ACCESS_REQUEST (R401): A remote load-store access performs at the remote home's atomic unit. -/
  | remoteAccessRequest
  /-- FLIT_RECEIVE (R398): A link receiver checks a flit's CRC and delivers it or asks for a retry. -/
  | flitReceive
  /-- LINK_DOWN (R399): A link with fewer than 4 lanes goes down and the host is notified. -/
  | linkDown
  /-- RESTORE_COMPLETE (R382): A RESTORE finishes writing the image back, BUSY clears and restored cycle 1 follows at once. -/
  | restoreComplete
  /-- HBM_SCRUB (R392): The device scrubs HBM lines by itself, correcting or poisoning them and counting the events towards R393. -/
  | hbmScrub
  /-- PACKET_STATUS_RETURN (R408): An acceptance, delivery, CONFLICT, TIMEOUT, NO_WINDOW or BAD_ROUTE response arrives at the posting collective engine along a packet's return list. -/
  | packetStatusReturn
  /-- ATTN_REPORT_COMPLETE (R422): The attestation report is complete and ATTN.GO reads 0, within 2 ms. -/
  | attnReportComplete
  /-- KEY_SESSION_COMMAND_DONE (R423): A key-session command finishes within 5 ms, STATUS is set and KSCTL.GO reads 0. -/
  | keySessionCommandDone
  deriving DecidableEq, Repr

end Sys2Proof
end

