-- ==== Sys2Proof/Machine/State.lean ====
section
/-! DEFINITION. Machine/State.lean: everything the manual gives the machine to hold, as plain data. -/
namespace Sys2Proof.Machine

/-- Why a step stops the whole device. -/
inductive Fault where
  /-- The device has failed (R418): a boot phase ended in an error, and it accepts only a device reset. Raised by `step` where no
  such reset is on its way. Safe: the device does nothing further either. -/
  | deviceFailed
  deriving DecidableEq, Repr

/-- Why a step refuses. -/
inductive Refusal where
  /-- An instruction that has no meaning in this model yet. Raised by an arm of `exec`. Safe. -/
  | notModelled (mnemonic : String)
  deriving DecidableEq, Repr

/-! ## Lines and rows -/

/-- A 64-byte tile row, scratchpad line or memory line with its 8-byte side field, 2-bit format tag and poison bit
(R91, R130, R167). -/
structure Line where
  data   : Row := 0
  side   : BitVec 64 := 0
  tag    : BitVec 2 := 0
  poison : Bool := false
  deriving DecidableEq, Repr

/-- Eight bytes to a row-quad, 256 bytes, of a rail (R23). -/
abbrev Quad := BitVec 2048

/-! ## Faults -/

/-- The fault codes of R371. -/
inductive FCode where
  | illegal | align | page | perm | version | latency | memrace | footprint | ring | poison | segment | deadlock
  | queue | journal | arith | trap
  deriving DecidableEq, Repr

/-- What a fault says of itself before it becomes a record: SRC, UNIT, WORD, ADDR, INFO and PROG of R372 and R373. -/
structure FaultInfo where
  code : FCode
  src  : Nat := 0
  unit : Nat := 0
  word : Word := 0
  addr : Word := 0
  info : Word := 0
  prog : Nat := 0
  deriving DecidableEq, Repr

/-- A fault record (R372). `kind` is 0 for a stream fault, 1 for a trap, 2 for a core-context fault. -/
structure FRec where
  code : FCode
  kind : Nat := 0
  src  : Nat := 0
  gsid : Nat := 0
  unit : Nat := 0
  lid  : Nat := 0
  ctx  : Nat := 0
  pc   : Word := 0
  word : Word := 0
  addr : Word := 0
  info : Word := 0
  args : Word := 0
  prog : Nat := 0
  num  : Nat := 0
  deriving DecidableEq, Repr

/-! ## One stream -/

/-- A physical stream-private register (R160, R162). -/
inductive PReg where
  | s (n : Nat) | q (n : Nat) | m (n : Nat) | j (n : Nat)
  deriving DecidableEq, Repr

/-- A latent write (R164): the physical register its name resolved to at issue, the value (none while the scratchpad
read of an LDS has not been made), the cycle it was issued in and the cycle it lands in. -/
structure Latent where
  reg    : PReg
  val    : Option Row
  issued : Nat
  due    : Nat
  deriving DecidableEq, Repr

/-- What a stream is doing (STATE of R386). -/
inductive Status where
  | never | running | held | parked | halted | idle | atTend
  deriving DecidableEq, Repr

/-- The transfer in progress (R249 to R253): delay groups left, the target (none when the transfer-class form does not
transfer), the cycle before which the target's first group does not issue, and whether a CALL still has to write J0. -/
structure Xfer where
  left   : Nat := 0
  target : Option Word := none
  ready  : Nat := 0
  call   : Bool := false
  deriving DecidableEq, Repr

/-- What is ordered before something (R143, R278): the number of entries of the stream's own LD, MX, ST and AQ queues, by queue order and
token edges; and of other streams, by their life, the regions below the number listed. -/
structure Clock where
  ld   : Nat := 0
  mx   : Nat := 0
  st   : Nat := 0
  aq   : Nat := 0
  seen : Tbl Nat := .empty
  deriving DecidableEq, Repr

/-- An entry of an engine queue or of the access queue (R75, R387): the instruction and its word's address, the values
captured at issue, the engine configuration or CPID captured, its progress, the index list it has read, and what the stream had
acquired at its issue. `number` counts the entries of its queue from 1; `order` is its place in the core's issue order (R159); `cutAt` is the
cycle of the QCUT that has cancelled it (R258). -/
structure QEntry where
  instr   : Instr
  va      : Word := 0
  x       : Word := 0
  y       : Word := 0
  z       : Word := 0
  y2      : Word := 0
  z2      : Word := 0
  dest    : Nat := 0
  conf    : Word := 0
  conf2   : Word := 0
  cpid    : Nat := 0
  region  : Nat := 0
  number  : Nat := 0
  order   : Nat := 0
  entered : Nat := 0
  skip    : Bool := false
  cancel  : Bool := false
  started : Bool := false
  popped  : Bool := false
  done    : Bool := false
  fault   : Option FaultInfo := none
  faultAt : Nat := 0
  prog    : Nat := 0
  reply   : Option (BitVec 128) := none
  since   : Nat := 0
  clock   : Clock := {}
  idx     : List Nat := []
  cutAt   : Nat := 0
  deriving DecidableEq, Repr

/-- The region of a footprint (R157). -/
inductive FRegion where
  | empty
  | sp (base len : Nat)
  | va (base len : Nat)
  deriving DecidableEq, Repr

/-- A footprint slot (R157). -/
structure Foot where
  declared : Bool := false
  rd       : FRegion := .empty
  wr       : FRegion := .empty
  deriving DecidableEq, Repr

/-- A chain unit (R155): HEAD, CUR, RUN, PEND, the entry being served once it has been fetched, whether its wait has been
met, lines completed, the index list it has read, the fault held at the entry, and whether the entry has become skipped work. `region` and
`clock` are those of the entry in progress, `linked` and `lclock` those of the latest CLINK, which the entry taken from HEAD has; `fp` is the
footprint slot of the entry from its fetch to its retirement, through a save too. -/
structure Chain where
  head    : Word := 0
  cur     : Word := 0
  run     : Bool := false
  pend    : Bool := false
  entry   : Option Row := none
  waited  : Bool := false
  prog    : Nat := 0
  fault   : Option FaultInfo := none
  faultAt : Nat := 0
  region  : Nat := 0
  order   : Nat := 0
  kicked  : Nat := 0
  cpid    : Nat := 0
  skip    : Bool := false
  idx     : List Nat := []
  clock   : Clock := {}
  linked  : Nat := 0
  lclock  : Clock := {}
  fp      : Option Nat := none
  deriving DecidableEq, Repr

/-- A rail-bound V instruction in progress (R199, R203): the instruction and whether it executes, its row cycles since
issue, the sources it read, its mask, the row-quads it has tapped, the tile registers whose claims it still holds, and its issue cycle. -/
structure VFlight where
  instr  : Instr
  exec   : Bool
  age    : Nat
  ta     : Tbl Line
  tb     : Tbl Line
  mask   : Row
  sval   : Word
  taps   : Tbl Quad
  claims : List Nat
  issued : Nat := 0
  deriving DecidableEq, Repr

/-- A scratchpad access of a stream form, issued and made in its reserved cycle (R216, R248). `bad` is the first poisoned line that a
VLDS has met. -/
inductive SpOp where
  | load  (reg : PReg) (wk : BitVec 4)
  | store (width : Nat) (data : Word)
  | vload (t : Nat) (mask : Row) (got : Tbl Line) (bad : Option Nat)
  | vstore (t : Nat) (peek : Bool) (mask : Row) (rows : Tbl Line)
  deriving DecidableEq, Repr

/-- `quad` counts the row-quads of VLDS and VSTS already moved; `due` is the cycle of the next one. -/
structure SpAcc where
  op     : SpOp
  addr   : Nat
  word   : Word
  issued : Nat
  due    : Nat
  quad   : Nat
  deriving DecidableEq, Repr

/-- The task state of R321. -/
structure Task where
  active : Bool := false
  slot   : Word := 0
  join   : Word := 0
  bound  : BitVec 32 := 0
  inc    : BitVec 4 := 0
  ben    : Bool := false
  btype  : Bool := false
  depth  : BitVec 16 := 0
  killed : Bool := false
  deriving DecidableEq, Repr

/-- An item that the queue manager has given a stream and that has not started (R322, R323): where it starts, S1 and S2, the task state
it brings, and what the release that enqueued it carries. -/
structure Taken where
  code : Word
  s1   : Word
  s2   : Word
  task : Task
  seen : Tbl Nat := .empty
  deriving DecidableEq, Repr

/-- Segment state (R386, R388): SEGST and SEGEXP. -/
structure Seg where
  isOpen : Bool := false
  n      : Nat := 0
  crc    : BitVec 32 := 0
  count  : BitVec 19 := 0
  sig    : BitVec 32 := 0
  deriving DecidableEq, Repr

/-- Why a stream's next group may not issue yet, beside the versions and queues its own group waits on: `cycle` is the
earliest cycle under WAIT and fetch stalls; `ynew` marks a YIELD issued in the present cycle, after which `yield` lists the
streams of the core that it waits for, from cycle `ycyc` (R262); `retire` is set while a SYSWR or ICINV has not retired, to
the earliest cycle of its retirement plus one (R125, R259), with the target of an ICINV in `icinv`. -/
structure Gate where
  cycle  : Nat := 0
  ynew   : Bool := false
  yield  : List Nat := []
  ycyc   : Nat := 0
  retire : Nat := 0
  icinv  : Option (Nat × Word) := none
  deriving DecidableEq, Repr

/-- One stream. `pend` is its undelivered record, `coreRec` that of a core-context fault, and `waitRing` marks records that
wait for room in the fault ring (R375, R376); `sinit` keeps the S registers' launch values (R160, R323); `parkedBy` is the record it parks with, `parkedIn` what it was doing; `cctlRd` is the
register that its latest SYSRD of CCTL takes, and the cycle of it (R163). -/
structure Stream where
  status   : Status := .never
  pc       : Word := 0
  s        : Tbl Word := .empty
  q        : Tbl Bool := .empty
  m        : Tbl Row := .empty
  j        : Tbl Word := .empty
  lc       : BitVec 32 := 0
  ec       : BitVec 8 := 0
  rotb     : BitVec 4 := 0
  sinit    : Tbl Word := .empty
  expchk   : Bool := false
  mark     : Bool := false
  cpid     : BitVec 3 := 0
  jlast    : Word := 0
  xfer     : Xfer := {}
  pbr      : Option (Word × Nat) := none
  ret      : Option (Word × Nat) := none
  latents  : List Latent := []
  gate     : Gate := {}
  rowHeld  : Bool := false
  rails    : Tbl Quad := .empty
  flights  : List VFlight := []
  accs     : List SpAcc := []
  ldq      : List QEntry := []
  mxq      : List QEntry := []
  stq      : List QEntry := []
  aq       : List QEntry := []
  counts   : Clock := {}
  clocks   : Tbl Clock := .empty
  tokens   : Tbl (List Clock) := .empty
  replies  : Tbl (List Clock) := .empty
  region   : Nat := 0
  charge   : Option FaultInfo := none
  foot     : Tbl Foot := .empty
  ldChain  : Chain := {}
  stChain  : Chain := {}
  task     : Task := {}
  taken    : Option Taken := none
  idleAt   : Nat := 0
  abandon  : Option (BitVec 16) := none
  seg      : Seg := {}
  pend     : Option FRec := none
  coreRec  : Option FRec := none
  waitRing : Bool := false
  parkedBy : Option FRec := none
  parkedIn : Status := .running
  issuedAt : Nat := 0
  started  : Bool := false
  aqAt     : Nat := 0
  life     : Nat := 0
  cctlRd   : Option (PReg × Nat) := none
  deriving DecidableEq, Repr

/-! ## One core -/

/-- A tile register (R167). `row` lists its 32 rows; `resAt` is the cycle of the reservation that WPEND shows, the model's
own, by which a read made in that cycle still sees the state at the end of the cycle before (R168, R170). -/
structure Tile where
  row    : Tbl Line := .empty
  wcnt   : BitVec 16 := 0
  rdrem  : BitVec 4 := 0
  isOpen : Bool := false
  held   : BitVec 4 := 0
  clb    : BitVec 4 := 0
  commit : BitVec 4 := 0
  wpend  : Bool := false
  resAt  : Nat := 0
  deriving DecidableEq, Repr

/-- A reserved tile write that has not landed (R169, R176): its declared readers, whether it executes, the rows it
brings, the bytes of each row that it writes, and the cycle at whose end it lands (none while its producer runs). -/
structure TWrite where
  rdn  : BitVec 4
  exec : Bool
  rows : Tbl Line := .empty
  mask : Tbl (BitVec 64) := .empty
  due  : Option Nat := none
  deriving DecidableEq, Repr

/-- A claim committed and consumed at the end of cycle `due` (R168). -/
structure Claim where
  tile : Nat
  gsid : Nat
  due  : Nat
  deriving DecidableEq, Repr

/-- The power state of a bank of the tile register store (R173); a waking bank was drowsy or gated. -/
inductive Power where
  | awake | drowsy | gated | waking
  deriving DecidableEq, Repr

/-- A bank: the cycle of its last access, its power state, and the end of a wake or refresh in progress. -/
structure Bank where
  last  : Nat := 0
  power : Power := .awake
  wake  : Nat := 0
  deriving DecidableEq, Repr

/-- A bank cycle of scratchpad reserved by a stream form of stream `gsid` that issued in cycle `made` (R131). -/
structure SpRes where
  bank  : Nat
  cycle : Nat
  gsid  : Nat
  made  : Nat
  deriving DecidableEq, Repr

/-- The kinds of ring (R135). -/
inductive RingKind where
  | data | token | outcome
  deriving DecidableEq, Repr

/-- A ring handle (R135). -/
structure Ring where
  kind   : RingKind := .data
  base   : BitVec 19 := 0
  size   : BitVec 19 := 0
  count  : BitVec 16 := 0
  pi     : BitVec 16 := 0
  ci     : BitVec 16 := 0
  filled : BitVec 17 := 0
  obits  : BitVec 64 := 0
  deriving DecidableEq, Repr

/-- An entry of the transcendental queue (R217). -/
structure XEntry where
  instr : Instr
  exec  : Bool
  gsid  : Nat
  src   : Tbl Line
  mask  : Row
  start : Option Nat
  deriving DecidableEq, Repr

/-- An I-cache line (R122, R123), with the PA it was filled from, by which the remap filter counts it (R83). `pin` marks a line of the
overlay or boot area. -/
structure ILine where
  ctx    : Nat
  va     : Nat
  data   : Row
  poison : Bool
  pin    : Bool
  pa     : Nat := 0
  deriving DecidableEq, Repr

/-- A cached line's state: S, E, M of an L1D or an RDC (R108); an L2 line is clean or dirty. -/
inductive CState where
  | s | e | m | clean | dirty
  deriving DecidableEq, Repr

/-- A line held in a data cache (R105), without its bytes: every read obtains the latest bytes of the line wherever they
are held (R108), so one copy of them stands in `State.mem`, reached through the physical address of the fill. -/
structure CLine where
  ctx   : Nat
  va    : Nat
  pa    : Nat
  state : CState
  rrpv  : Nat
  cpid  : Nat
  rp    : Bool
  w     : Bool
  x     : Bool
  deriving DecidableEq, Repr

/-- The format of a B plane (R220). -/
inductive PFmt where
  | none | db8 | db4 | i8 | b16hi | b16lo
  deriving DecidableEq, Repr

/-- A plane column (R221): 64 elements of a byte each, exponents E0 and E1 in bits 15:0 and 31:16, poison. -/
structure PCol where
  els    : Row := 0
  ex     : BitVec 32 := 0
  poison : Bool := false
  deriving DecidableEq, Repr

/-- Whether a slab's tile is open, and anchored (R223, R225). -/
inductive TileState where
  | closed | anchored | unanchored
  deriving DecidableEq, Repr

/-- An entry of the command window (R224): the command, its S value, the physical planes it reads, its A register (and the
next for MMA2), whether each holds a claim, and whether it was skipped. -/
structure WinEntry where
  instr  : Instr
  n      : Word
  planes : List Nat
  tiles  : List Nat
  ver    : Nat
  held   : List Nat
  skip   : Bool
  gsid   : Nat
  deriving DecidableEq, Repr

/-- A slab (R220, R226). `acc` holds value (m, n) at 512 m + n; `rowbuf` holds the A rows of the command in execution, and from 32 on the lo
pieces of an MMA2's; `bad` lists the places struck by an uncorrectable error that nothing has read yet (R242): accumulator values as in
`acc`, row-buffer rows from 16,384, the constant store 16,448, plane columns from 16,512; `replayed` says that this tile has been replayed
once. -/
structure Slab where
  p0       : Tbl PCol := .empty
  p1       : Tbl PCol := .empty
  pf0      : PFmt := .none
  pf1      : PFmt := .none
  act      : Bool := false
  acc      : Tbl (BitVec 32) := .empty
  rowbuf   : Tbl Line := .empty
  curn     : Nat := 512
  curs     : Nat := 0
  tile     : TileState := .closed
  window   : List WinEntry := []
  fix      : Word := 0
  cfg      : Word := 1
  fixSh    : Word := 0
  cfgSh    : Word := 1
  replayed : Bool := false
  bad      : List Nat := []
  deriving DecidableEq, Repr

/-- A matrix command in execution (R229, R230): its queue entry, the stream, the slab, whether it uses the load port, the
cycles it started in and retires at the end of, the planes it reads and writes, the A claims it consumes at the end of cycle
`start` + 7, the groups that a fixer fixes, and the steps it has completed. `todo` lists the window entries that a replay has still to
rerun before it, `steps` then being those of the first, and `rerun` stands from a replay's start to the command's retirement (R243). `failed` says that it met an error it cannot go on from (R242): it stays
in execution, with its slab's state, for the host. -/
structure MExec where
  entry  : QEntry
  gsid   : Nat
  slab   : Nat
  load   : Bool
  start  : Nat
  retire : Nat
  reads  : List Nat := []
  writes : List Nat := []
  claims : List Nat := []
  got    : Bool := false
  groups : Nat := 0
  steps  : Nat := 0
  todo   : List WinEntry := []
  rerun  : Bool := false
  failed : Bool := false
  deriving DecidableEq, Repr

/-- The counter of one error source (R393): its class and source number, the cycles of its recent events, and whether it
has become lasting. -/
structure ErrCount where
  cls    : Nat
  src    : Nat
  times  : List Nat
  last   : Bool
  deriving DecidableEq, Repr

/-- One core. `mem` state of its own is its scratchpad `sp`, by line; `detStart` is DETMODE as the cycle began (R163); `ctxNote` is set while a
core-context fault has still to be notified (R376). -/
structure Core where
  streams   : Tbl Stream := .empty
  tiles     : Tbl Tile := .empty
  twrites   : Tbl TWrite := .empty
  claims    : List Claim := []
  banks     : Tbl Bank := .empty
  sp        : Tbl Line := .empty
  spRes     : List SpRes := []
  rings     : Tbl Ring := .empty
  ringsPrev : Tbl Ring := .empty
  ringLock  : BitVec 16 := 0
  trsaw     : Bool := false
  detmode   : Bool := false
  detStart  : Bool := false
  slabs     : Tbl Slab := .empty
  mexec     : List MExec := []
  mxLast    : Option Nat := none
  xt        : List XEntry := []
  orders    : Nat := 0
  icache    : Tbl ILine := .empty
  irrpv     : Tbl Nat := .empty
  ovk       : Nat := 0
  ovb       : Nat := 0
  l1d       : Tbl CLine := .empty
  launch    : Option Nat := none
  fenced    : Bool := false
  stopped   : Bool := false
  ctxFault  : Bool := false
  ctxNote   : Bool := false
  mailbox   : Row := 0
  mailbox2  : Row := 0
  mbErr     : BitVec 8 := 0
  mbState   : BitVec 4 := 0
  mbGo      : Bool := false
  pctlCmd   : BitVec 2 := 0
  pctlBusy  : Bool := false
  pctlErr   : BitVec 4 := 0
  pctlArea  : BitVec 34 := 0
  saveAt    : Nat := 0
  stopCyc   : Word := 0
  lent      : Option (Nat × Nat) := none
  lentUsed  : Bool := false
  granted   : Option (Nat × Nat × List Nat) := none
  probes    : List (Nat × Nat × Nat × Nat) := []
  spares    : Tbl Nat := .empty
  toFence   : Bool := false
  deriving DecidableEq, Repr

/-! ## A launch -/

/-- A task queue (0 to 15) or stage queue (16 to 31) of a launch (R315, R316, R322). `freed` lists slots marked free that
FREE has not passed. -/
structure Queue where
  base     : Word := 0
  logcap   : Nat := 0
  pri      : Nat := 0
  smask    : BitVec 4 := 0
  btype    : Bool := false
  depthmax : BitVec 16 := 0
  tail     : BitVec 32 := 0
  head     : BitVec 32 := 0
  free     : BitVec 32 := 0
  freed    : List Nat := []
  age      : Nat := 0
  deriving DecidableEq, Repr

/-- What an arrival at a barrier counts (R293): the writes of the stream issued up to this region, and those of its ST chain entries whose
place in the issue order is below `orders`, of which `chain` was in progress. -/
structure Arrival where
  gsid   : Nat
  region : Nat
  chain  : Option Nat
  orders : Nat := 0
  deriving DecidableEq, Repr

/-- A group (R291, R293): members, who has arrived, generation, and PEND, the bytes that the arrivals in `waits` still count; `seen` is
what the arrivals release. -/
structure Group where
  members : List Nat := []
  arrived : List Nat := []
  gen     : Nat := 0
  pend    : BitVec 40 := 0
  waits   : List Arrival := []
  seen    : Tbl Nat := .empty
  deriving DecidableEq, Repr

/-- A launch (R306, R314 to R316, R291), kept under the number of its lead core. -/
structure Launch where
  image    : Word := 0
  args     : Word := 0
  rimg     : Word := 0
  pmask    : BitVec 256 := 0
  lid      : BitVec 32 := 0
  ctx      : Nat := 0
  detmode  : Bool := false
  priv     : Bool := false
  hq       : Nat := 0
  hqen     : Bool := false
  ovb      : Word := 0
  ovk      : Nat := 0
  fring    : Word := 0
  done     : Word := 0
  hmap     : Word := 0
  loaded   : Bool := false
  running  : Bool := false
  began    : Nat := 0
  queues   : Tbl Queue := .empty
  stages   : Tbl Word := .empty
  groups   : Tbl Group := .empty
  records  : Nat := 0
  regions  : List Nat := []
  deriving DecidableEq, Repr

/-! ## Home memory -/

/-- A translation held by a translation unit (R81): context, the page's VA and PA bases and size, and the leaf's MS, X, W
and RP. -/
structure Trans where
  ctx  : Nat
  va   : Nat
  pa   : Nat
  size : Nat
  ms   : Bool
  x    : Bool
  w    : Bool
  rp   : Bool
  deriving DecidableEq, Repr

/-- A remap-filter entry (R83): the canonical context and VA granule, the number of cached lines of the PA granule, and
the place in the order of allocation. -/
structure Filter where
  ctx   : Nat
  va    : Nat
  lines : Nat
  age   : Nat
  deriving DecidableEq, Repr

/-- An access of an open region (R274, R275): the canonical word (context and VA) and its PA word, the VA that the access named, the bytes
touched, whether it wrote and whether it was plain, its owner stream and region, the queue and entry number that made it (queue 4 is
a chain entry's copy, 5 the developer, 6 the fetch of a chain entry), and the level a write has been performed at: 1 the core, 2 the die,
4 the point of coherence, which .V and .F ask for (R268). -/
structure Track where
  word   : Nat
  ctx    : Nat
  va     : Nat
  name   : Nat
  bytes  : BitVec 8
  write  : Bool
  plain  : Bool
  gsid   : Nat
  region : Nat
  queue  : Nat
  number : Nat
  level  : Nat
  deriving DecidableEq, Repr

/-- A release performed at a unit and not yet at every scope: the promotion record of R289, with what the release covered: its
stream, its number in the access queue, and the clock of what was ordered before it. -/
structure Release where
  word   : Nat
  gsid   : Nat
  number : Nat
  clock  : Clock
  scope  : Nat
  deriving DecidableEq, Repr

/-- A developer block accepted by a base die (R98, R99): its owner, region and clock, the physical pieces (address and length) of its sources
and destination with their VAs, the flag's place and value, length and type, and whether its reduction has been made. `msSrc` and `msDst` list
the PA granules that its sources and its destination reach through a memory-side page, `msFlag` says so of its flag (R86, R87); `id`
numbers the device's blocks, and `owner` is the stream in the launch that issued it. -/
structure DevBlock where
  gsid   : Nat
  region : Nat
  clock  : Clock
  ctx    : Nat
  srcs   : List (List (Nat × Nat))
  srcVas : List Word
  dst    : List (Nat × Nat)
  dstVa  : Word
  flag   : Nat
  flagVa : Word
  fval   : Word
  len    : Nat
  ty     : Nat
  begun  : Bool
  id     : Nat := 0
  owner  : Nat := 0
  msSrc  : List Nat := []
  msDst  : List Nat := []
  msFlag : Bool := false
  deriving DecidableEq, Repr

/-- One incumbent slot (R334): INCCFG, value, payload. -/
structure Inc where
  cfg     : Word := 0
  value   : BitVec 32 := 0
  payload : BitVec 32 := 0
  deriving DecidableEq, Repr

/-! ## The journal -/

/-- A live entry of a journal ring (R352, R358): the count k of its number, its ring offset and lines, whether it is a
truncation, its SEQ and STEP, and whether it is dead. -/
structure JRec where
  k     : Nat
  off   : Nat
  lines : Nat
  trunc : Bool
  seq   : Word
  step  : Nat
  dead  : Bool
  deriving DecidableEq, Repr

/-- A journal ring as its engine knows it (R353): OLDEST, NEXT, and the entries between them, oldest first. -/
structure JRing where
  oldest : Nat := 0
  next   : Nat := 0
  live   : List JRec := []
  deriving DecidableEq, Repr

/-- The journal engine of a die (R351 to R357, R365): JLOCAL, JROUTE as written and as in force, LASTN and DUR, SILENT and
the cycles it counts, RESEAT, the local ring, the entries that a reseat has still to ship, and those sent to the partner. -/
structure Jn where
  jlocal : Word := 0
  jroute : Word := 0
  route  : Word := 0
  lastn  : Nat := 0
  dur    : Nat := 0
  silent : Bool := false
  since  : Nat := 0
  reseat : Bool := false
  ring   : JRing := {}
  tail   : List JRec := []
  first  : Nat := 1
  sent   : List JEntry := []
  deriving DecidableEq, Repr

/-- A quarter of the negative that this device holds for another (R356): the highest count written, its ring, the entries
accepted and not yet written, and the acknowledgments sent, each with the return list that its packet takes (R355). -/
structure NegQ where
  acked : Nat := 0
  ring  : JRing := {}
  wait  : List JEntry := []
  acks  : List Nat := []
  backs : List (List Nat) := []
  deriving DecidableEq, Repr

/-! ## The host port -/

/-- The key session (R423): KSCTL's fields, the STATUS that the command in progress comes to, the buffers, the open session's private
key by number, and the key-encryption key. -/
structure KeySession where
  go     : Bool := false
  status : BitVec 8 := 0
  next   : BitVec 8 := 0
  slot   : BitVec 8 := 0
  kind   : BitVec 4 := 0
  cmd    : BitVec 4 := 0
  nonce  : BitVec 384 := 0
  dpub   : BitVec 768 := 0
  dsig   : BitVec 768 := 0
  ppub   : BitVec 768 := 0
  wrap   : BitVec 512 := 0
  priv   : Option Nat := none
  kek    : Option (BitVec 256) := none
  deriving DecidableEq, Repr

/-- What the device holds for its host (R415 to R423): the boot state and the fused epoch counter, the notification ring with
its pending bits, the host memory that the device writes, the negative window with a write it holds back, the attestation
buffers, the key session, and the keys installed. `linkNew` holds a link key until the link's next reset. -/
structure HostPort where
  bootPa  : Word := 0
  phase   : BitVec 4 := 0
  err     : BitVec 4 := 0
  fwver   : BitVec 16 := 0
  numv    : BitVec 8 := 0
  epoch   : BitVec 16 := 0
  hnq     : Word := 0
  hnqW    : BitVec 32 := 0
  hnqR    : BitVec 32 := 0
  pending : BitVec 16 := 0
  mem     : List Host.Cell := []
  reads   : List Word := []
  negwin  : Word := 0
  negHeld : List Word := []
  nonce   : BitVec 384 := 0
  go      : Bool := false
  report  : BitVec 2048 := 0
  ks      : KeySession := {}
  keys    : Tbl (BitVec 256) := .empty
  link    : Tbl (BitVec 256) := .empty
  linkNew : Tbl (BitVec 256) := .empty
  deriving DecidableEq, Repr

/-! ## The fabric -/

/-- A flit as it is sent (R398): its sequence number, its 64 bytes, and the poison bit in its sideband (R409). -/
structure Flit where
  seq    : BitVec 16
  data   : Row
  poison : Bool
  deriving DecidableEq, Repr

/-- A Genara link (R398, R399): lanes in service, whether it is down, the sequence number it expects, failed retries of the
present flit, the flits delivered, retry requests sent, and whether a reset holds its traffic. As a sender: the number of the next flit,
what waits to be sent, the replay buffer, the flits that have gone out, and how many have ever been given to it. -/
structure Link where
  lanes : Nat := 8
  down  : Bool := false
  seq   : BitVec 16 := 0
  tries : Nat := 0
  rx    : List Row := []
  asked : Nat := 0
  held  : Bool := false
  txSeq : BitVec 16 := 0
  queue : List (Row × Bool) := []
  replay : List Flit := []
  wire  : List Flit := []
  total : Nat := 0
  deriving DecidableEq, Repr

/-- A work request in flight (R405 to R408): its number, the entry's VA, the entry, its context, the key of its slot when it was taken
(R421), the status it has come to, and the packets still without a response, one place for each response that is due. -/
structure Work where
  number : Nat
  va     : Word
  entry  : Row
  ctx    : Nat
  key    : BitVec 256
  status : BitVec 8
  await  : List Nat
  deriving DecidableEq, Repr

/-- A packet on its way, and the number of the link it leaves by (a device) or of the port (a switch). A device's answer to the PULL of another
names in `asker` the device that asked; none marks a packet of an own entry. `last` counts the flits of its link up to its own last. -/
structure Sent where
  port   : Nat
  packet : Packet
  asker  : Option Nat := none
  last   : Nat := 0
  deriving DecidableEq, Repr

/-- A reduction that a switch gathers (R411, R412): the key's op, AP, TAG and length, the cycle of its first packet, and the packets
with the ports they came by. -/
structure RedKey where
  op     : Word
  ap     : Nat
  tag    : Nat
  len    : Nat
  since  : Nat
  got    : List Packet
  deriving DecidableEq, Repr

/-- A response on its way back along a return list (R408): the status it carries. -/
structure Resp where
  ret    : List Nat
  src    : Nat
  seq    : Nat
  status : BitVec 8
  deriving DecidableEq, Repr

/-- A switch of the fabric (R409 to R412): the reductions it gathers, the packets it has sent out, by port, and the responses it has sent. -/
structure Switch where
  keys : List RedKey := []
  out  : List Sent := []
  resp : List Resp := []
  deriving DecidableEq, Repr

/-- A range of memory that a collective engine accesses for entry number `work` in flight, or for a delivery (R413), or that the host
accesses (R416), whether it writes, and whether it is marked. One that is `passing` stands until the end of the cycle in which it performs. -/
structure EngineSpan where
  work    : Nat
  host    : Bool
  passing : Bool
  write   : Bool
  marked  : Bool := false
  pa      : Nat
  len     : Nat
  deriving DecidableEq, Repr

/-- The answer to a remote access (R401, R402): its source, the value, whether the line was poisoned, INFO of the MEMRACE that it
meets instead, and the side field and tag of a whole line read. -/
structure RReply where
  src    : Nat
  value  : BitVec 512
  poison : Bool
  race   : Option Word
  side   : BitVec 64 := 0
  tag    : BitVec 2 := 0
  deriving DecidableEq, Repr

/-- The fabric side of the device (R398 to R414). `works` lists the entries in flight of ring 64 n + r; `out` the packets that a
link has not yet delivered whole; `seq` and `taken` number packets and entries. -/
structure Fabric where
  id       : Word := 0
  lsr      : Tbl Word := .empty
  apwin    : Tbl Word := .empty
  cring    : Tbl Word := .empty
  index    : Tbl Nat := .empty
  works    : Tbl (List Work) := .empty
  seq      : Nat := 0
  taken    : Nat := 0
  out      : List Sent := []
  resp     : List Resp := []
  links    : Tbl Link := .empty
  switches : Tbl Switch := .empty
  replies  : List RReply := []
  spans    : List EngineSpan := []
  deriving DecidableEq, Repr

/-! ## Reliability -/

/-- Error counting, retirement and resets (R392 to R397): ECTL, the counters of error sources, disabled cache rows, spare HBM rows
mapped, redundant lanes in use by channel, repairs that wait for a pause (channel and source), channels paused, and RSTCTL. -/
structure Ras where
  ectl     : Tbl Word := .empty
  errs     : List ErrCount := []
  disabled : List Nat := []
  rows     : List Nat := []
  lanes    : Tbl Nat := .empty
  repairs  : List (Nat × Nat) := []
  paused   : List Nat := []
  rstctl   : Word := 0
  deriving DecidableEq, Repr

/-! ## The model's own scheduling -/

/-- One move: a stream attempts to issue its next group, an event of the device happens at a site, the vector rows of all
streams advance by a row cycle, or the cycle ends. -/
inductive Move where
  | issue (gsid : Nat)
  | event (site : Site) (i : Instr)
  | rows
  | tick
  deriving DecidableEq, Repr

/-- What the group attempt of the current word came to: not yet attempted, issued, held at a wait, or faulted. -/
inductive Verdict where
  | none | issued | held | faulted
  deriving DecidableEq, Repr

/-! ## What releases and acquires have told the streams -/

/-- One head of a release sequence (R280, R281): the release's issuer, its scope, the scope that APROM has promoted it to (0 for none),
whether APROM leaves it alone (a fence or an EMIT, R289), and what the release carries: of each stream, by its life, the regions below
the number listed. -/
structure Head where
  gsid  : Nat
  scope : Nat
  prom  : Nat := 0
  fixed : Bool := false
  seen  : Tbl Nat := .empty
  deriving DecidableEq, Repr

/-- What releases have left for the acquires that read them (R278, R280). `heads` holds the release sequence of each word (its PA over 8)
and of each incumbent slot, `owed` what a stream's relaxed atomics have read and a fence of its would acquire, `fenced` what its fences
have released. `slots` holds what the advances of a ring handle have released, by slots, oldest first, and `tiles` what the publication of
a version and the claims on a register carry (R140, R171). -/
structure Known where
  heads  : Tbl (List Head) := .empty
  owed   : Tbl (List Head) := .empty
  fenced : Tbl (List Head) := .empty
  slots  : Tbl (List (Nat × Tbl Nat)) := .empty
  tiles  : Tbl (Tbl Nat) := .empty
  deriving DecidableEq, Repr

/-! ## The device -/

/-- The state of the machine. `devDone` holds the developer blocks whose issuer has not acquired their flag (R101); `serial` numbers
streams' lives and developer blocks; `spills` counts the lines that have left the caches with open regions on them (R277). `before` holds the cores as they stood at the end of
the cycle before (R260); `images` holds, by core, the contexts that SAVE has written in its present launch, the latest first, for what an image
has no bits for (entry 25). `inbox` lists what the outside will do to the device: an event, where it happens, and the cycle
at whose start it arrives. -/
structure State where
  cores    : Tbl Core := .empty
  before   : Tbl Core := .empty
  images   : Tbl (List Core) := .empty
  launches : Tbl Launch := .empty
  mem      : List Host.Cell := []
  poison   : List Nat := []
  sides    : Tbl (BitVec 64 × BitVec 2) := .empty
  cycle    : Nat := 0
  homemaps : Tbl Word := .empty
  hmArrays : Tbl (Tbl (BitVec 8)) := .empty
  ctxroots : Tbl Word := .empty
  tuInv    : Word := 0
  trans    : Tbl (List Trans) := .empty
  filters  : Tbl Filter := .empty
  filterNo : Nat := 0
  fmtBase  : Tbl Word := .empty
  fmtScale : Tbl Word := .empty
  waymask  : Tbl Word := .empty
  l2       : Tbl CLine := .empty
  rdc      : Tbl CLine := .empty
  tracks   : List Track := []
  releases : List Release := []
  known    : Known := {}
  devq     : Tbl (List DevBlock) := .empty
  devDone  : List DevBlock := []
  serial   : Nat := 0
  spills   : Nat := 0
  incs     : Tbl Inc := .empty
  shadows  : Tbl (BitVec 32 × BitVec 32) := .empty
  jpair    : Word := 0
  shadowMs : List (Nat × Nat × BitVec 32 × BitVec 32) := []
  incNew   : List (Nat × Word) := []
  jn       : Tbl Jn := .empty
  negs     : Tbl NegQ := .empty
  host     : HostPort := {}
  fab      : Fabric := {}
  ras      : Ras := {}
  inbox    : List (Nat × Site × Instr) := []
  agenda   : List Move := []
  cur      : Nat := 0
  word     : Word := 0
  site     : Site := ⟨0, 0, 0, .none⟩
  verdict  : Verdict := .none
  free     : Nat := 0
  deriving DecidableEq, Repr

/-- The machine right after device reset (R418), with every register at the value that INVENTORY.md lists. -/
def State.reset : State := {}

end Sys2Proof.Machine
end

