-- ==== Sys2Proof/Machine/Count.lean ====
section
/-! DEFINITION. Machine/Count.lean: the counting of corrected and uncorrectable events at their sources (R392, R393), and the numbers of
the sources (entry 28). -/
namespace Sys2Proof.Machine

/-- ECTL.k: THRESH 3 and WINDOW 36,621 until written (R393). -/
def State.ectl (s : State) (k : Nat) : Word := s.ras.ectl.get 0x0000000300008F0D#64 k

/-- The cycles of WINDOW of class `cls`; 0 acts as 1 (R393). -/
def State.errWindow (s : State) (cls : Nat) : Nat := max 1 ((s.ectl cls).extractLsb' 0 16).toNat * 2 ^ 20

/-- One event at source `src` of class `cls`: the events of the window that ends now are kept (R393). -/
def State.countError (s : State) (cls src : Nat) : State :=
  let w := s.errWindow cls
  let mine (e : ErrCount) : Bool := e.cls == cls && e.src == src
  let old := (s.ras.errs.find? mine).getD { cls := cls, src := src, times := [], last := false }
  let new := { old with times := s.cycle :: old.times.filter (fun t => decide (s.cycle < t + w)) }
  { s with ras := { s.ras with errs := new :: s.ras.errs.filter (fun e => !mine e) } }

/-- A source with THRESH events within WINDOW of the present cycle, and that has not been retired (R393). A THRESH of 0 lets none be. -/
def State.reached (s : State) (e : ErrCount) : Bool :=
  let n := ((s.ectl e.cls).extractLsb' 32 4).toNat
  !e.last && n != 0 && decide (n ≤ (e.times.filter (fun t => decide (s.cycle < t + s.errWindow e.cls))).length)

/-- The source of a row of a per-core array of core `c`: banks 0 to 15 are the tile store's (32 rows a register), 16 to 39 the
scratchpad's (a line a row), and from 64 on the matrix engine's (entry 28). -/
def arraySource (c bank row : Nat) : Nat := 65536 * c + 256 * bank + row % 256

/-- The source of a place of slab `b` of core `c`, numbered as `Slab.bad` numbers it (entry 28). -/
def slabSource (c b key : Nat) : Nat :=
  if key < 16384 then arraySource c (64 + b) (key / 512)
  else if key < 16448 then arraySource c (72 + b) (key - 16384)
  else if key = 16448 then arraySource c 80 0
  else arraySource c (96 + 2 * b + (key - 16512) / 512) ((key - 16512) % 512 / 2)

end Sys2Proof.Machine
end

