-- ==== Sys2Proof/Machine/Ops.lean ====
section
/-! DEFINITION. Machine/Ops.lean: the named operations over cores, streams, registers, latent writes and memory, what an
evaluated word can come to, and taking a fault: the device's one way into an exception (R371 to R378). -/
namespace Sys2Proof.Machine

/-! ## Cores, streams, launches -/

/-- Logical core `c`. -/
def State.core (s : State) (c : Nat) : Core := s.cores.get {} c
/-- The state with logical core `c` changed. -/
def State.modCore (s : State) (c : Nat) (f : Core → Core) : State := { s with cores := s.cores.mod {} c f }
/-- Stream `i` (0 to 3) of a core. -/
def Core.stream (k : Core) (i : Nat) : Stream := k.streams.get {} i
/-- The core with stream `i` changed. -/
def Core.modStream (k : Core) (i : Nat) (f : Stream → Stream) : Core := { k with streams := k.streams.mod {} i f }
/-- The stream with global stream ID `g` (R6). -/
def State.stream (s : State) (g : Nat) : Stream := (s.core (g / 4)).stream (g % 4)
/-- The state with stream `g` changed. -/
def State.modStream (s : State) (g : Nat) (f : Stream → Stream) : State :=
  s.modCore (g / 4) (fun k => k.modStream (g % 4) f)
/-- The stream whose group issues. -/
def State.me (s : State) : Stream := s.stream s.cur
/-- The core of the stream whose group issues. -/
def State.myCore (s : State) : Core := s.core (s.cur / 4)
/-- The state with the issuing stream changed. -/
def State.modMe (s : State) (f : Stream → Stream) : State := s.modStream s.cur f
/-- The state with the issuing core changed. -/
def State.modMyCore (s : State) (f : Core → Core) : State := s.modCore (s.cur / 4) f
/-- The C-die of logical core `c` (R32). -/
def dieOf (c : Nat) : Nat := c / 60
/-- The launch of core `c`. -/
def State.launchOf (s : State) (c : Nat) : Launch :=
  match (s.core c).launch with
  | some l => s.launches.get {} l
  | none => {}
/-- The state with the launch of core `c` changed. -/
def State.modLaunchOf (s : State) (c : Nat) (f : Launch → Launch) : State :=
  match (s.core c).launch with
  | some l => { s with launches := s.launches.mod {} l f }
  | none => s
/-- The context of core `c`'s launch. -/
def State.ctxOf (s : State) (c : Nat) : Nat := (s.launchOf c).ctx

/-! ## Rotation and registers (R160, R162) -/

/-- The physical scalar register that Sn names. -/
def physS (rotb : BitVec 4) (n : Nat) : Nat := if n < 16 then n else 16 + (n - 16 + rotb.toNat) % 16
/-- The physical predicate that Qn names. -/
def physQ (rotb : BitVec 4) (n : Nat) : Nat := if n < 4 then n else 4 + (n - 4 + rotb.toNat % 4) % 4
/-- Sn as it stands; S0 reads zero. -/
def Stream.sreg (t : Stream) (n : BitVec 5) : Word := if n = 0 then 0 else t.s.get 0 (physS t.rotb n.toNat)
/-- Qn as it stands; Q0 reads true. -/
def Stream.qreg (t : Stream) (n : BitVec 3) : Bool := if n = 0 then true else t.q.get false (physQ t.rotb n.toNat)
/-- Mn as it stands. -/
def Stream.mreg (t : Stream) (n : BitVec 3) : Row := t.m.get 0 n.toNat
/-- Jn as it stands. -/
def Stream.jreg (t : Stream) (n : BitVec 3) : Word := t.j.get 0 n.toNat
/-- The physical register behind Sn. -/
def Stream.sp (t : Stream) (n : BitVec 5) : PReg := .s (physS t.rotb n.toNat)
/-- The physical register behind Qn. -/
def Stream.qp (t : Stream) (n : BitVec 3) : PReg := .q (physQ t.rotb n.toNat)

/-- A code address as a J register holds it: bits 2:0 read zero (R46). -/
def codeAddr (w : Word) : Word := w &&& 0xFFFFFFFFFFFFFFF8#64

/-- A physical register written at its landing. S0 and Q0 discard a write (R160). -/
def Stream.land (t : Stream) (r : PReg) (v : Row) : Stream :=
  match r with
  | .s n => if n = 0 then t else { t with s := t.s.put n (v.setWidth 64) }
  | .q n => if n = 0 then t else { t with q := t.q.put n (v.getLsbD 0) }
  | .m n => { t with m := t.m.put n v }
  | .j n => { t with j := t.j.put n (codeAddr (v.setWidth 64)) }

/-- A write to S0 or Q0 leaves no latent write (R160). -/
def PReg.discards : PReg → Bool
  | .s n => n == 0
  | .q n => n == 0
  | _ => false

/-- A latent write issued in cycle `c` with exposed latency `lat` (R164). -/
def Stream.latch (t : Stream) (c : Nat) (r : PReg) (lat : Nat) (v : Option Row) : Stream :=
  if r.discards then t else { t with latents := t.latents ++ [⟨r, v, c, c + lat⟩] }

/-- The issuing stream with a latent write of `v` to `r`. -/
def State.latch (s : State) (r : PReg) (lat : Nat) (v : Row) : State :=
  s.modMe (fun t => t.latch s.cycle r lat (some v))

/-! ## Landing windows (R165) -/

/-- How ADDR of a LATENCY record names a register (R373). -/
def PReg.addr : PReg → Word
  | .s n => BitVec.ofNat 64 n
  | .q n => BitVec.ofNat 64 (32 + n)
  | .m n => BitVec.ofNat 64 (48 + n)
  | .j n => BitVec.ofNat 64 (56 + n)

/-- A latent write of a group earlier than cycle `c` to `r` that lands after cycle `after`. -/
def Stream.windowOf (t : Stream) (c after : Nat) (r : PReg) : Option Latent :=
  t.latents.find? (fun l => decide (l.reg = r) && decide (l.issued < c) && decide (after < l.due))

/-- The LATENCY fault of a window read of one of `rs` or a window write of one of `ws` (register and latency), under
EXPCHK (R165). -/
def Stream.windowFault (t : Stream) (c : Nat) (word : Word) (rs : List PReg) (ws : List (PReg × Nat)) :
    Option FaultInfo :=
  if t.expchk then
    match rs.findSome? (fun r => t.windowOf c c r) with
    | some l => some { code := .latency, word := word, addr := l.reg.addr, info := BitVec.ofNat 64 (l.due - c) }
    | none =>
      match ws.findSome? (fun w => t.windowOf c (c + w.2) w.1) with
      | some l => some { code := .latency, word := word, addr := l.reg.addr, info := BitVec.ofNat 64 (l.due - c) }
      | none => none
  else none

/-! ## Taking a fault (R371 to R375) -/

/-- The record of a fault of stream `g` (R372): its PC is the group the stream issues when it resumes, 0 where it is idle
with no item. -/
def State.record (s : State) (g kind : Nat) (f : FaultInfo) : FRec :=
  let t := s.stream g
  let l := s.launchOf (g / 4)
  { code := f.code, kind := kind, src := f.src, gsid := g, unit := f.unit, lid := l.lid.toNat, ctx := l.ctx,
    pc := if t.status = .idle then 0 else t.pc, word := f.word, addr := f.addr, info := f.info, args := l.args,
    prog := f.prog, num := l.records + 1 }

/-- Taking a stream fault or a trap (R375): the stream parks at this group boundary with its record pending; it issues no
further group, and everything it has issued goes on. -/
def State.park (s : State) (g kind : Nat) (f : FaultInfo) : State :=
  let r := s.record g kind f
  (s.modLaunchOf (g / 4) (fun l => { l with records := l.records + 1 })).modStream g
    (fun t => { t with status := .parked, parkedIn := if t.status = .held then .running else t.status,
                       pend := some r, parkedBy := some r })

/-- A stream that a core-context fault can park: started, and not halted (R376). -/
def Stream.faultable (t : Stream) : Bool := t.started && decide (t.status ≠ .halted ∧ t.status ≠ .never)

/-- Taking a core-context fault on core `c` (R376): every started stream that has not halted is parked, each with a record
of KIND 2; one that is parked already takes the record too, and leaves only as R376 says. -/
def State.parkCore (s : State) (c : Nat) (f : FaultInfo) : State :=
  let go (s : State) (i : Nat) : State :=
    let g := 4 * c + i
    let t := s.stream g
    if t.faultable then
      let r := { s.record g 2 f with pc := if t.status = .idle ∨ t.status = .parked ∧ t.parkedIn = .idle then 0 else t.pc }
      (s.modLaunchOf c (fun l => { l with records := l.records + 1 })).modStream g (fun t =>
        { t with status := .parked, coreRec := some r, parkedBy := some r,
                 parkedIn := match t.status with | .held => .running | .parked => t.parkedIn | x => x })
    else s
  (go (go (go (go s 0) 1) 2) 3).modCore c (fun k => { k with ctxFault := true, ctxNote := true })

/-- What evaluating a word can come to: it issues with this effect; its group is held (the flag says that only this
stream's own rail-bound instructions are waited for, R200); its group does not issue and the stream leaves it in this
state (a kill at SEG, R342); it faults at issue; or it takes a core-context fault. -/
inductive Act where
  | go (s : State)
  | wait (s : State) (own : Bool)
  | leave (s : State)
  | fault (f : FaultInfo)
  | coreFault (f : FaultInfo)
  deriving DecidableEq, Repr

/-- The issuing stream held at a wait (R51). -/
def State.holdMe (s : State) (own : Bool) : State :=
  { s.modMe (fun t => { t with status := .held, rowHeld := !own }) with verdict := .held }

/-- The issuing stream taking a fault at issue (R50, R375). -/
def State.faultMe (s : State) (f : FaultInfo) : State :=
  let u := if f.src = 4 ∧ f.unit = 0 then s.modMe (fun t => { t with charge := none }) else s
  { u.park s.cur 0 { f with word := if f.word = 0 then s.word else f.word } with verdict := .faulted }

/-- The state after the word has been evaluated in state `s`. -/
def Act.run (a : Act) (s : State) : State :=
  match a with
  | .go t => { t with verdict := .issued }
  | .wait t own => t.holdMe own
  | .leave t => { t with verdict := .held }
  | .fault f => s.faultMe f
  | .coreFault f => { s.parkCore (s.cur / 4) { f with word := if f.word = 0 then s.word else f.word } with verdict := .faulted }

/-- A synchronisation operation that would issue: a race charged to the stream is delivered by it instead, with no effect (R276). -/
def State.sync (s : State) (a : Act) : Act :=
  match s.me.charge with
  | some f => .fault { f with word := s.word }
  | none => a

/-- A meaning's answer. -/
def Act.done (a : Act) (s : State) : Host.Outcome State Fault Refusal := .next (a.run s)

/-! ## Bytes of memory (R4, R38) -/

/-- A memory in canonical form: addresses strictly rising, and no entry equal to what an unlisted address reads as. -/
def Memory.wf : List Host.Cell → Bool
  | [] => true
  | [c] => c.2 != 0
  | c :: d :: r => c.2 != 0 && decide (c.1 < d.1) && Memory.wf (d :: r)

/-- A byte; an unlisted address reads as zero (DESIGN CHOICE, entry 5). -/
def Memory.get : List Host.Cell → Nat → Byte
  | [], _ => 0
  | (a, b) :: r, k => if a = k then b else if k < a then 0 else Memory.get r k

/-- A byte written; writing zero removes the entry. -/
def Memory.set : List Host.Cell → Nat → Byte → List Host.Cell
  | [], k, v => if v = 0 then [] else [(k, v)]
  | (a, b) :: r, k, v =>
      if k < a then (if v = 0 then (a, b) :: r else (k, v) :: (a, b) :: r)
      else if a = k then (if v = 0 then r else (k, v) :: r)
      else (a, b) :: Memory.set r k v

/-- `n` bytes from `a`, little-endian, as a number. -/
def Memory.getNat (m : List Host.Cell) : Nat → Nat → Nat
  | _, 0 => 0
  | a, n + 1 => (Memory.get m a).toNat + 256 * Memory.getNat m (a + 1) n

/-- The low `n` bytes of `v` written from `a`, little-endian. -/
def Memory.setNat (m : List Host.Cell) : Nat → Nat → Nat → List Host.Cell
  | _, 0, _ => m
  | a, n + 1, v => Memory.setNat (Memory.set m a (BitVec.ofNat 8 v)) (a + 1) n (v / 256)

/-- An aligned word by physical address. -/
def State.pword (s : State) (a : Nat) : Word := BitVec.ofNat 64 (Memory.getNat s.mem a 8)
/-- The bytes of a 64-byte line by physical address. -/
def State.prow (s : State) (a : Nat) : Row := BitVec.ofNat 512 (Memory.getNat s.mem a 64)
/-- `n` bytes written by physical address. -/
def State.pset (s : State) (a n v : Nat) : State := { s with mem := Memory.setNat s.mem a n v }
/-- Whether the line holding `a` is poisoned (R390). -/
def State.poisoned (s : State) (a : Nat) : Bool := s.poison.contains (a / 64)
/-- The poison bit of the line holding `a` set or cleared. -/
def State.setPoison (s : State) (a : Nat) (b : Bool) : State :=
  { s with poison := if b then (if s.poison.contains (a / 64) then s.poison else a / 64 :: s.poison)
                     else s.poison.filter (fun x => x != a / 64) }

/-! ## Scratchpad (R130, R132) -/

/-- The end of scratchpad (R37). -/
def spEnd : Nat := 0x60000

/-- Scratchpad line `i`. -/
def Core.line (k : Core) (i : Nat) : Line := k.sp.get {} i
/-- `n` bytes of scratchpad from `a` within one line. -/
def Core.spGet (k : Core) (a n : Nat) : Nat := ((k.line (a / 64)).data >>> (8 * (a % 64))).toNat % 2 ^ (8 * n)

/-- The row `old` with `n` bytes from byte `o` replaced by the low bytes of `v`. -/
def setBytes (old : Row) (o n : Nat) (v : Row) : Row :=
  let m : Row := (BitVec.ofNat 512 (2 ^ (8 * n) - 1)) <<< (8 * o)
  (old &&& ~~~m) ||| ((v <<< (8 * o)) &&& m)

/-- `n` bytes written to scratchpad from `a` within one line; side field, tag and poison stay (R132). -/
def Core.spSet (k : Core) (a n : Nat) (v : Row) : Core :=
  let l := k.line (a / 64)
  { k with sp := k.sp.put (a / 64) { l with data := setBytes l.data (a % 64) n v } }

/-! ## Free values -/

/-- The state after one free value has been drawn. -/
def State.draw (s : State) : State := { s with free := s.free + 1 }

end Sys2Proof.Machine
end

