-- ==== Sys2Proof/Machine/Order.lean ====
section
/-! DEFINITION. Machine/Order.lean: scopes, and what comes before what: queue order and token edges, releases and the acquires that read
them, ring, version and task edges (R143, R268, R278 to R281).

Memory is held once, so an access can miss an earlier write only where an engine command has still to make that write. What is followed
here says, of each stream, which regions of other streams come before its accesses, so that such an access races (entry 12). -/
namespace Sys2Proof.Machine

/-! ## Scopes (R268) -/

/-- How wide a write must be performed for an agent on core `c` to see it from stream `g`'s core (R268). -/
def reach (g c : Nat) : Nat := if g / 4 = c then 1 else if dieOf (g / 4) = dieOf c then 2 else 3

/-- The level that a scope's number asks for (R268): .V and .F ask for the point of coherence. -/
def scopeLevel (scp : Nat) : Nat := if scp ≤ 1 then 1 else if scp = 2 then 2 else 4

/-- Core `c` lies within scope number `scp` of core `d` (R268). -/
def within (scp c d : Nat) : Bool :=
  match scp with
  | 0 | 1 => c == d
  | 2 => dieOf c == dieOf d
  | _ => true

/-- Stream `h` lies within scope number `scp` of stream `g` (R268). -/
def inScope (scp g h : Nat) : Bool := if scp = 0 then g == h else within scp (g / 4) (h / 4)

/-! ## Clocks (R143) -/

/-- Every bound of either table. -/
def joinSeen (a b : Tbl Nat) : Tbl Nat := b.entries.foldl (fun t e => t.mod 0 e.1 (fun n => max n e.2)) a

/-- Entries put into queue `q` so far. -/
def Clock.count (c : Clock) (q : Nat) : Nat := match q with | 0 => c.ld | 1 => c.mx | 2 => c.st | _ => c.aq
/-- The clock with the count of queue `q` raised to `n`. -/
def Clock.raise (c : Clock) (q n : Nat) : Clock :=
  match q with
  | 0 => { c with ld := max c.ld n } | 1 => { c with mx := max c.mx n }
  | 2 => { c with st := max c.st n } | _ => { c with aq := max c.aq n }
/-- Everything that either clock covers. -/
def Clock.join (a b : Clock) : Clock := ⟨max a.ld b.ld, max a.mx b.mx, max a.st b.st, max a.aq b.aq, joinSeen a.seen b.seen⟩
/-- The clock after an acquire that has read `k`. -/
def Clock.acquire (c : Clock) (k : Tbl Nat) : Clock := { c with seen := joinSeen c.seen k }
/-- The clock of queue `q` of a stream; 4 is the stream itself. -/
def Stream.clock (t : Stream) (q : Nat) : Clock := t.clocks.get {} q
/-- The clock of queue `q` joined with `c`. -/
def Stream.learn (t : Stream) (q : Nat) (c : Clock) : Stream := { t with clocks := t.clocks.mod {} q (fun x => x.join c) }

/-- Entry `n` of queue `q` is ordered before an operation with clock `c` (R143). -/
def Clock.covers (c : Clock) (q n : Nat) : Bool :=
  match q with
  | 0 => decide (n ≤ c.ld)
  | 1 => decide (n ≤ c.mx)
  | 2 => decide (n ≤ c.st)
  | 3 => decide (n ≤ c.aq)
  | _ => false

/-! ## What a release carries, and an acquire takes (R279, R280) -/

/-- The number that stands for stream `g` in what releases carry: a stream starts anew with each launch (R274). -/
def State.lifeOf (s : State) (g : Nat) : Nat := g + 1024 * (s.stream g).life
/-- The number that stands for developer block `n`. -/
def devKey (n : Nat) : Nat := 2 ^ 60 + n

/-- What a release of stream `g` carries, with its own regions below `b` and `c` ordered before it. -/
def State.carries (s : State) (g b : Nat) (c : Clock) : Tbl Nat := c.seen.mod 0 (s.lifeOf g) (fun n => max n b)

/-- An acquire of the stream, issued in cycle `at`, has taken `k`: it orders what follows it in its queue and in issue order (R279). -/
def Stream.acquired (t : Stream) (issued : Nat) (k : Tbl Nat) : Stream :=
  let q (l : List QEntry) : List QEntry := l.map (fun e => if issued < e.entered then { e with clock := e.clock.acquire k } else e)
  let c (u : Chain) : Chain := if issued < u.kicked then { u with clock := u.clock.acquire k } else u
  { t with clocks := (t.clocks.mod {} 3 (fun x => x.acquire k)).mod {} 4 (fun x => x.acquire k),
           ldq := q t.ldq, mxq := q t.mxq, stq := q t.stq, ldChain := c t.ldChain, stChain := c t.stChain }

/-- An acquire of stream `g` that takes `k`. -/
def State.acquire (s : State) (g issued : Nat) (k : Tbl Nat) : State :=
  if k.entries.isEmpty then s else s.modStream g (fun t => t.acquired issued k)

/-! ## Release sequences (R280, R281) -/

/-- An acquire of stream `g` at scope `scp` that reads a member of the head's sequence synchronises with it (R280). -/
def Head.syncs (h : Head) (g scp : Nat) : Bool :=
  (inScope h.scope h.gsid g && inScope scp g h.gsid) || (h.prom != 0 && inScope h.prom h.gsid g)

/-- What an acquire of stream `g` at scope `scp` takes from the heads. -/
def headsSeen (l : List Head) (g scp : Nat) : Tbl Nat :=
  (l.filter (fun h => h.syncs g scp)).foldl (fun t h => joinSeen t h.seen) .empty

/-- A head added; one of the same release is joined with it. -/
def addHead (l : List Head) (h : Head) : List Head :=
  let same (x : Head) : Bool := x.gsid == h.gsid && x.scope == h.scope && x.prom == h.prom && x.fixed == h.fixed
  match l.find? same with
  | some x => { h with seen := joinSeen x.seen h.seen } :: l.filter (fun x => !same x)
  | none => h :: l

/-- The heads of the words (or slots) numbered `ks`. -/
def Known.headsOf (k : Known) (ks : List Nat) : List Head := ks.flatMap (fun i => k.heads.get [] i)

/-- The heads of the words of `n` bytes at physical address `pa`. -/
def wordsOf (pa n : Nat) : List Nat := (List.range ((pa % 8 + n + 7) / 8)).map (fun i => pa / 8 + i)

/-- The number of incumbent slot `n` among the words: the slot counts as one word (R338). -/
def slotWord (n : Nat) : Nat := 2 ^ 61 + n

/-- An acquiring read of the words `ks` by stream `g` at scope `scp`. -/
def State.readsAcq (s : State) (g scp issued : Nat) (ks : List Nat) : State :=
  s.acquire g issued (headsSeen (s.known.headsOf ks) g scp)

/-- A relaxed atomic read of the words `ks` by stream `g`: what it read is owed to a later fence (R280). -/
def State.readsOwed (s : State) (g : Nat) (ks : List Nat) : State :=
  match s.known.headsOf ks with
  | [] => s
  | hs => { s with known := { s.known with owed := s.known.owed.mod [] g (fun l => hs.foldl addHead l) } }

/-- A release write of the words `ks`: it heads a new sequence (R281). -/
def State.headsNew (s : State) (ks : List Nat) (h : Head) : State :=
  { s with known := { s.known with heads := ks.foldl (fun t i => t.put i [h]) s.known.heads } }

/-- An atomic of stream `g` at scope `scp` that has written the words `ks`: it continues the sequences whose issuers lie within its scope,
and ends the others; it heads one of its own with `own`, and one for each fence of the stream before it (R280, R281). -/
def State.continues (s : State) (g scp : Nat) (ks : List Nat) (own : Option Head) : State :=
  let mine := (match own with | some h => [h] | none => []) ++ s.known.fenced.get [] g
  let f (t : Tbl (List Head)) (i : Nat) : Tbl (List Head) :=
    match mine.foldl addHead ((t.get [] i).filter (fun h => inScope scp g h.gsid)) with
    | [] => t.drop i
    | l => t.put i l
  { s with known := { s.known with heads := ks.foldl f s.known.heads } }

/-- A plain write of `n` bytes at physical address `pa` ends the sequences of its words (R281). -/
def State.endsHeads (s : State) (pa n : Nat) : State :=
  if s.known.heads.entries.isEmpty then s
  else { s with known := { s.known with heads := (wordsOf pa n).foldl (fun t i => t.drop i) s.known.heads } }

/-- A FENCE.REL of stream `g` at scope `scp` (R280). -/
def State.fences (s : State) (g scp : Nat) (k : Tbl Nat) : State :=
  let h : Head := { gsid := g, scope := scp, fixed := true, seen := k }
  { s with known := { s.known with fenced := s.known.fenced.mod [] g (fun l => addHead l h) } }

/-- An APROM of stream `g` at scope `scp` on word `k`: the narrower releases by issuers within its scope count at that scope (R289). -/
def State.promotes (s : State) (g scp k : Nat) : State :=
  match s.known.heads.find? k with
  | none => s
  | some l =>
    let f (h : Head) : Head :=
      if !h.fixed && decide (max h.scope h.prom < scp) && within scp (h.gsid / 4) (g / 4) then { h with prom := scp } else h
    { s with known := { s.known with heads := s.known.heads.put k (l.map f) } }

/-! ## Ring edges (R140) -/

/-- What the first `n` slots of these runs carry. -/
def takeRuns : List (Nat × Tbl Nat) → Nat → Tbl Nat
  | _, 0 => .empty
  | [], _ => .empty
  | (m, k) :: r, n => joinSeen k (takeRuns r (n - m))

/-- The runs without their first `n` slots. -/
def dropRuns : List (Nat × Tbl Nat) → Nat → List (Nat × Tbl Nat)
  | l, 0 => l
  | [], _ => []
  | (m, k) :: r, n => if n < m then (m - n, k) :: r else dropRuns r (n - m)

/-- Slots that the runs list. -/
def runsLen (l : List (Nat × Tbl Nat)) : Nat := (l.map (·.1)).sum

/-- The number of the filled slots, or of the free slots, of handle `h` of core `c`. -/
def ringKey (c h : Nat) (filled : Bool) : Nat := 2 * (16 * c + h) + if filled then 0 else 1

/-- What a wait for `n` of the `have'` slots that are filled, or free, acquires. Slots that no advance has passed carry nothing. -/
def State.ringSeen (s : State) (c h : Nat) (filled : Bool) (have' n : Nat) : Tbl Nat :=
  let l := s.known.slots.get [] (ringKey c h filled)
  takeRuns l (n - (have' - runsLen l))

/-- An advance by `n` of handle `h` of core `c`, in state `r` before it, that releases `k`: slots leave one side and join the other. -/
def State.ringMoves (s : State) (c h n : Nat) (producer : Bool) (r : Ring) (k : Tbl Nat) : State :=
  let from' := ringKey c h (!producer)
  let into := ringKey c h producer
  let have' := if producer then r.count.toNat - r.filled.toNat else r.filled.toNat
  let l := s.known.slots.get [] from'
  let t := s.known.slots.put from' (dropRuns l (n - (have' - runsLen l)))
  { s with known := { s.known with slots := t.mod [] into (fun l => l ++ [(n, k)]) } }

/-- A handle configured anew carries nothing (R138). -/
def State.ringForgets (s : State) (c h : Nat) : State :=
  { s with known := { s.known with slots := (s.known.slots.drop (ringKey c h true)).drop (ringKey c h false) } }

/-! ## Version edges (R168, R169, R171) -/

/-- The number of version `v` of tile register `t` of core `c`; 16 stands for the readers of its present version. -/
def tileKey (c t v : Nat) : Nat := c * 4096 + t * 32 + v

/-- A passing check of version `v` of tile register `t` of core `c`, by an operation that carries `k`, as a source: what its publication
carries. The next destination check takes what the source had before it. -/
def State.tileRead (s : State) (c t v : Nat) (k : Tbl Nat) : Tbl Nat × State :=
  (s.known.tiles.get .empty (tileKey c t v),
   { s with known := { s.known with tiles := s.known.tiles.mod .empty (tileKey c t 16) (fun x => joinSeen x k) } })

/-- The same as a destination: what the readers of the version before, and its publication, carry; its own publication carries `k`. -/
def State.tileWrite (s : State) (c t v : Nat) (k : Tbl Nat) : Tbl Nat × State :=
  let was := joinSeen (s.known.tiles.get .empty (tileKey c t 16)) (s.known.tiles.get .empty (tileKey c t ((v + 15) % 16)))
  (was, { s with known := { s.known with tiles := (s.known.tiles.drop (tileKey c t 16)).put (tileKey c t v) (joinSeen was k) } })

/-! ## The end of a launch -/

/-- What is known, without what streams `p` tells and their cores left: their launch has ended. -/
def Known.forget (k : Known) (p : Nat → Bool) : Known :=
  let hs (t : Tbl (List Head)) : Tbl (List Head) :=
    ⟨(t.map (fun _ l => l.filter (fun h => !p h.gsid))).entries.filter (fun e => !e.2.isEmpty)⟩
  let own (t : Tbl (List Head)) : Tbl (List Head) := ⟨t.entries.filter (fun e => !p e.1)⟩
  { heads := hs k.heads, owed := own k.owed, fenced := own k.fenced,
    slots := ⟨k.slots.entries.filter (fun e => !p (e.1 / 32 * 4))⟩, tiles := ⟨k.tiles.entries.filter (fun e => !p (e.1 / 4096 * 4))⟩ }

end Sys2Proof.Machine
end

