-- ==== Sys2Proof/Machine/Job.lean ====
section
/-! DEFINITION. Machine/Job.lean: what a copy command or a chain entry copies, line by line (R147, R149, R150, R154). -/
namespace Sys2Proof.Machine

/-! ## What a command or chain entry copies (R149, R154) -/

/-- CPY, GATH or SCAT, FILL. -/
inductive CopyKind where
  | cpy | rows | fill
  deriving DecidableEq, Repr

/-- A copy, as a command or a chain entry names it. `ld` tells the LD engine from the ST engine. -/
structure CopyJob where
  kind : CopyKind
  ld   : Bool
  dest : Word
  src  : Word
  len  : Word
  rowl : Nat
  fp   : Nat
  rd   : Nat
  hint : Nat
  deriving DecidableEq, Repr

/-- The copy of an engine command. -/
def QEntry.job (e : QEntry) : Option CopyJob :=
  match e.instr with
  | .cpyLd _ c _ _ _ rd hint => some ⟨.cpy, true, e.x, e.y, e.z, 0, c.fp.toNat, rd.toNat, hint.toNat⟩
  | .cpySt _ c _ _ _ rd hint => some ⟨.cpy, false, e.x, e.y, e.z, 0, c.fp.toNat, rd.toNat, hint.toNat⟩
  | .gath _ c _ _ _ rd hint rowl => some ⟨.rows, true, e.x, e.y, e.z, rowl.toNat, c.fp.toNat, rd.toNat, hint.toNat⟩
  | .scat _ c _ _ _ rd hint rowl => some ⟨.rows, false, e.x, e.y, e.z, rowl.toNat, c.fp.toNat, rd.toNat, hint.toNat⟩
  | .fillLd _ c _ _ _ rd hint => some ⟨.fill, true, e.x, e.y, e.z, 0, c.fp.toNat, rd.toNat, hint.toNat⟩
  | .fillSt _ c _ _ _ rd hint => some ⟨.fill, false, e.x, e.y, e.z, 0, c.fp.toNat, rd.toNat, hint.toNat⟩
  | _ => none

/-- Byte `i` of a chain entry. -/
def entryByte (e : Row) (i : Nat) : Nat := (e >>> (8 * i)).toNat % 256
/-- Word at byte `i` of a chain entry. -/
def entryWord (e : Row) (i : Nat) : Word := (e >>> (8 * i)).setWidth 64
/-- Two bytes at byte `i` of a chain entry. -/
def entryHalf (e : Row) (i : Nat) : Nat := (e >>> (8 * i)).toNat % 65536

/-- The copy of a chain entry. -/
def chainJob (ld : Bool) (e : Row) : CopyJob :=
  { kind := match entryByte e 8 with | 0 => .cpy | 1 => .rows | _ => .fill, ld := ld, dest := entryWord e 24,
    src := entryWord e 32, len := entryWord e 40, rowl := entryByte e 9, fp := entryByte e 18,
    rd := entryByte e 10 % 8, hint := entryByte e 10 / 8 % 4 }

/-- A field of a chain entry is invalid, or not zero where R154 asks for zero; ROWL stands for GATH and SCAT only. -/
def chainBad (e : Row) : Bool :=
  let b := entryByte e
  let next := entryWord e 0
  let we := b 11 % 2 == 1
  let pe := b 11 / 4 % 2 == 1
  decide (next.toNat % 64 ≠ 0 ∨ 2 < b 8 ∨ 63 < b 9 ∨ (b 8 ≠ 1 ∧ b 9 ≠ 0) ∨ b 10 / 8 % 4 = 3 ∨ 31 < b 10 ∨ 15 < b 11 ∨ 15 < b 12 ∨ 15 < b 13 ∨ 31 < b 18)
    || (we && entryHalf e 14 == 0) || (pe && entryHalf e 16 == 0)
    || ([19, 20, 21, 22, 23].any (fun i => b i != 0)) || (e >>> 384) != 0

/-- Bytes of a row of GATH and SCAT. -/
def CopyJob.rowBytes (j : CopyJob) : Nat := 64 * (j.rowl + 1)
/-- The row count of GATH and SCAT. -/
def CopyJob.count (j : CopyJob) : Nat := (j.len.extractLsb' 20 15).toNat
/-- The scratchpad offset of the index list. -/
def CopyJob.list (j : CopyJob) : Nat := (j.len.extractLsb' 0 19).toNat
/-- The scratchpad end of a copy that has one. -/
def CopyJob.spad (j : CopyJob) : Word := if j.ld then j.dest else j.src
/-- The memory end of a copy that has one. -/
def CopyJob.va (j : CopyJob) : Word := if j.ld then j.src else j.dest
/-- Bytes that a copy moves in all. -/
def CopyJob.bytes (j : CopyJob) : Nat := match j.kind with | .rows => j.count * j.rowBytes | _ => j.len.toNat
/-- Lines of 64 bytes by which a copy goes on (R147). -/
def CopyJob.lines (j : CopyJob) : Nat :=
  match j.kind with
  | .rows => j.count * (j.rowl + 1)
  | _ => if j.len = 0 then 0 else (j.dest.toNat % 64 + j.len.toNat + 63) / 64
/-- The progress that a record and the contact sheet show: rows of GATH and SCAT, lines of the others (R151). -/
def CopyJob.progress (j : CopyJob) (n : Nat) : Nat := match j.kind with | .rows => n / (j.rowl + 1) | _ => n

/-- The index list as it stands in scratchpad. A list that lies in a poisoned line is read like any other: R134 does not say that it faults
(DESIGN CHOICE, entry 52). -/
def Core.indices (k : Core) (j : CopyJob) : List Nat :=
  if j.kind = .rows then (List.range j.count).map (fun i => k.spGet (j.list + 4 * i) 4) else []

/-! ## One line (R147, R150, R152) -/

/-- A piece of a copy: destination, source and bytes, `n` at most 64, within one destination line. -/
structure Piece where
  dst : Nat
  src : Nat
  n   : Nat
  deriving DecidableEq, Repr

/-- Line `i` of a copy, counted as `lines` counts them. -/
def CopyJob.piece (j : CopyJob) (idx : List Nat) (i : Nat) : Piece :=
  match j.kind with
  | .rows =>
    let r := i / (j.rowl + 1)
    let o := 64 * (i % (j.rowl + 1))
    let here := j.spad.toNat + r * j.rowBytes + o
    let there := (j.va.toNat + idx.getD r 0 * j.rowBytes + o) % 2 ^ 64
    if j.ld then ⟨here, there, 64⟩ else ⟨there, here, 64⟩
  | _ =>
    let d := j.dest.toNat
    let lo := if i = 0 then d else (d / 64 + i) * 64
    let hi := min (d + j.len.toNat) ((d / 64 + i + 1) * 64)
    ⟨lo, (j.src.toNat + (lo - d)) % 2 ^ 64, hi - lo⟩

/-- The pieces of memory, VA and length, that the lines from number `n` on of a copy with the index list `idx` still access, where such an
access and one that writes as `write` says conflict. -/
def CopyJob.toMove (j : CopyJob) (idx : List Nat) (n : Nat) (write : Bool) : List (Nat × Nat) :=
  if (write || !j.ld) && !(j.kind = .fill && j.ld) then
    (List.range (j.lines - n)).map (fun i =>
      let p := j.piece idx (n + i)
      (if j.ld then p.src else p.dst, p.n))
  else []

/-- Bytes that the lines from number `n` on of a copy still write. -/
def CopyJob.left (j : CopyJob) (idx : List Nat) (n : Nat) : Nat :=
  ((List.range (j.lines - n)).map (fun i => (j.piece idx (n + i)).n)).sum

end Sys2Proof.Machine
end

