-- ==== Sys2Proof/Config.lean ====
section
/-! DEFINITION. Config.lean: what a part is fixed to and what the manual leaves free: values that nothing in Lean can
evaluate. Every definition that uses one holds for every value of it (entries 3 and 8). -/
namespace Sys2Proof.Config

/-- Free value number `n` of a run, taken by a result that the manual leaves open. -/
opaque freeValue : Nat → BitVec 512
/-- Whether the shadow area of a context has no room for the tracking state that leaves the caches (R277); `n` numbers the spills. -/
opaque shadowFull : Nat → Nat → Bool
/-- INFO of the MEMRACE that the home of another device's word finds for an access of stream `gsid` at PA `pa` in a cycle, if any (R402). -/
opaque remoteRace (cycle gsid pa : Nat) : Option (BitVec 64)
/-- The serial number of the part (R422). -/
opaque serial : BitVec 64
/-- The SHA-384 of the running firmware of version `v` (R422). -/
opaque firmwareSha : BitVec 16 → BitVec 384
/-- SHA-384 of a string of bytes, byte 0 lowest. -/
opaque sha384 : List (BitVec 8) → BitVec 384
/-- The ECDSA P-384 signature of a digest under the part's identity key (R422); `n` numbers the signature. -/
opaque identitySign : Nat → BitVec 384 → BitVec 768
/-- The public half of session key pair number `n` (R423). -/
opaque sessionPub : Nat → BitVec 768
/-- The ECDH shared secret of session key `n` with a public key, where that is a valid point of P-384 (R423). -/
opaque ecdh : Nat → BitVec 768 → Option (BitVec 384)
/-- HKDF over SHA-384 of a secret with a salt and the info string ODKKEK, 32 bytes (R423). -/
opaque hkdf : BitVec 384 → BitVec 384 → BitVec 256
/-- AES-256-GCM decryption: key, IV, tag, ciphertext, the two bytes of additional data; none where the tag fails (R423). -/
opaque gcmOpen : BitVec 256 → BitVec 96 → BitVec 128 → BitVec 256 → BitVec 16 → Option (BitVec 256)
/-- The 64 bytes of AES-256-GCM key stream that meet payload line `i` of SEALED packet `packet` under a key (R413). -/
opaque keystream (key : BitVec 256) (packet i : Nat) : BitVec 512

end Sys2Proof.Config
end

