-- ==== Sys2Proof/Machine/Flags.lean ====
section
/-! DEFINITION. Machine/Flags.lean: predicates, the conditions that set them, and mask votes (R17, R47, R58, R246, R254). -/
namespace Sys2Proof.Machine

/-- Whether an instruction with header `h` executes: Q[QS], negated by QN (R17). -/
def Stream.executes (t : Stream) (h : Hdr) : Bool := t.qreg h.qs != (h.qn == 1)

/-- The condition COND of R58 between two values; the .N conditions compare unsigned. Values 0xA to 0xF are no condition
(WellFormed refuses them). -/
def condHolds (c : BitVec 4) (a b : Word) : Bool :=
  match c.toNat with
  | 0 => a == b
  | 1 => a != b
  | 2 => a.slt b
  | 3 => b.sle a
  | 4 => a.sle b
  | 5 => b.slt a
  | 6 => a.ult b
  | 7 => b.ule a
  | 8 => a.ule b
  | _ => b.ult a

/-- QOP's operation (R58, R246). -/
def qopOf (op : BitVec 2) (a b : Bool) : Bool :=
  match op.toNat with
  | 0 => a && b
  | 1 => a || b
  | 2 => a != b
  | _ => a && !b

/-- A predicate value as the value of a latent write. -/
def boolRow (b : Bool) : Row := if b then 1 else 0

end Sys2Proof.Machine
end

