-- ==== Sys2Proof/Machine/Operands.lean ====
section
/-! DEFINITION. Machine/Operands.lean: every operand form. WK widths, register operands with their landing windows, counted
tile sources and destinations with their banks (R168 to R174), and scratchpad addresses. -/
namespace Sys2Proof.Machine

/-! ## Width and kind (R72) -/

/-- Bytes of a WK value. -/
def wkBytes (wk : BitVec 4) : Nat :=
  match wk.toNat with
  | 0 | 4 => 1
  | 1 | 5 => 2
  | 2 | 6 => 4
  | _ => 8

/-- The loaded bytes `v` extended to 64 bits: the I kinds by sign, the N kinds by zero. -/
def wkExtend (wk : BitVec 4) (v : Nat) : Word :=
  match wk.toNat with
  | 4 => (BitVec.ofNat 8 v).signExtend 64
  | 5 => (BitVec.ofNat 16 v).signExtend 64
  | 6 => (BitVec.ofNat 32 v).signExtend 64
  | n => BitVec.ofNat 64 (v % 2 ^ (8 * wkBytes (BitVec.ofNat 4 n)))

/-! ## Stream-private operands -/

/-- A word whose landing windows are not clear in this cycle: it takes LATENCY `f` only where this is the issue cycle of its group, so a wait
of its own, and a VERSION fault of its own, come first (R165, R170). -/
def Act.orLatency (a : Act) (f : FaultInfo) : Act :=
  match a with
  | .wait .. | .leave .. => a
  | .fault v => if v.code = .version then a else .fault f
  | _ => .fault f

/-- A word of the stream that names these source registers and these destinations with their latencies: the LATENCY check of
R165, the predicate (read first, and checked like any other read), then the body, or `off` where the word is predicated
off. A predicated-off word reads no register but its predicate. -/
def State.slot (s : State) (h : Hdr) (rs : List PReg) (ws : List (PReg × Nat)) (off body : Act) : Act :=
  let t := s.me
  match t.windowFault s.cycle s.word [t.qp h.qs] [] with
  | some f => .fault f
  | none =>
    if t.executes h then
      match t.windowFault s.cycle s.word rs ws with
      | some f => body.orLatency f
      | none => body
    else off

/-- A word that, predicated off, has no effect. -/
def State.plain (s : State) (h : Hdr) (rs : List PReg) (ws : List (PReg × Nat)) (body : Act) : Act :=
  s.slot h rs ws (.go s) body

/-- A word that ignores its predicate, or that is not skipped the plain way: its own sources are checked whatever the
predicate says. -/
def State.always (s : State) (h : Hdr) (rs : List PReg) (body : Act) : Act :=
  let t := s.me
  match t.windowFault s.cycle s.word (t.qp h.qs :: rs) [] with
  | some f => body.orLatency f
  | none => body

/-! ## Counted tile operands (R168 to R172) -/

/-- A counted source: register, version mod 16, peek. -/
structure TSrc where
  t    : Nat
  ver  : BitVec 4
  peek : Bool
  deriving DecidableEq, Repr

/-- A counted destination: register, version produced mod 16, declared readers. -/
structure TDst where
  t   : Nat
  ver : BitVec 4
  rdn : BitVec 4
  deriving DecidableEq, Repr

/-- What the check of one operand comes to. -/
inductive Check where
  | pass | wait | fault (f : FaultInfo)
  deriving DecidableEq, Repr

/-- Tile register `t`. -/
def Core.tile (k : Core) (t : Nat) : Tile := k.tiles.get {} t
/-- The core with tile register `t` changed. -/
def Core.modTile (k : Core) (t : Nat) (f : Tile → Tile) : Core := { k with tiles := k.tiles.mod {} t f }
/-- Row `r` of a tile register. -/
def Tile.line (x : Tile) (r : Nat) : Line := x.row.get {} r

/-- INFO of a VERSION record (R373). -/
def versionInfo (x : Tile) (ver : BitVec 4) (peek dst : Bool) : Word :=
  x.wcnt.setWidth 64 ||| (ver.setWidth 64 <<< 16) ||| (x.rdrem.setWidth 64 <<< 20)
    ||| (if peek then 0x1000000#64 else 0) ||| (if dst then 0x2000000#64 else 0)

/-- The VERSION fault of an operand. -/
def versionFault (t : Nat) (x : Tile) (ver : BitVec 4) (peek dst : Bool) : Check :=
  .fault { code := .version, addr := BitVec.ofNat 64 t, info := versionInfo x ver peek dst }

/-- The check of a source (R168). A reservation made in this very cycle is not seen yet (R170). -/
def Core.checkSrc (k : Core) (now : Nat) (o : TSrc) : Check :=
  let x := k.tile o.t
  let delta := x.wcnt.setWidth 4 - o.ver
  if x.wpend && decide (x.resAt < now) then .wait
  else if 8 ≤ delta.toNat then .wait
  else if delta != 0 then versionFault o.t x o.ver o.peek false
  else if !o.peek && !x.isOpen && decide (x.rdrem.toNat ≤ x.commit.toNat) then versionFault o.t x o.ver o.peek false
  else .pass

/-- The check of a destination (R169). `own` counts the claims on the same register that the instruction's own sources are
about to consume (R170, in-place update). -/
def Core.checkDst (k : Core) (o : TDst) (own : Nat) : Check :=
  let x := k.tile o.t
  let delta := x.wcnt.setWidth 4 - (o.ver - 1)
  if x.wpend then .wait
  else if 8 ≤ delta.toNat then .wait
  else if delta != 0 then versionFault o.t x o.ver false true
  else if !x.isOpen && (decide (own < x.rdrem.toNat) || x.held != 0) then .wait
  else .pass

/-- A claim committed where the source claims one (R168). -/
def Core.commitSrc (k : Core) (o : TSrc) : Core :=
  if o.peek || (k.tile o.t).isOpen then k else k.modTile o.t (fun x => { x with commit := x.commit + 1 })

/-- A claiming source of a version with reader accounting. -/
def Core.hasClaim (k : Core) (o : TSrc) : Bool := !o.peek && !(k.tile o.t).isOpen

/-- A claim consumed by stream `i` (R168). -/
def Tile.consume (x : Tile) (i : Nat) : Tile :=
  { x with commit := x.commit - 1, rdrem := x.rdrem - 1, clb := x.clb ||| BitVec.ofNat 4 (2 ^ i) }

/-- A destination reserved (R169). -/
def Core.reserve (k : Core) (now : Nat) (o : TDst) (exec : Bool) (due : Option Nat) : Core :=
  { k.modTile o.t (fun x => { x with wpend := true, resAt := now }) with
    twrites := k.twrites.put o.t { rdn := o.rdn, exec := exec, due := due } }

/-- The checks of a word's operands in the order destination, TA, TB (R170): the first fault wins; otherwise any wait
holds; the commitment of an earlier operand whose check passes is seen by later ones. -/
def Core.checkAll (k : Core) (now : Nat) (dst : Option TDst) (srcs : List TSrc) : Check × Core :=
  let own (t : Nat) : Nat := (srcs.filter (fun o => decide (o.t = t) && k.hasClaim o)).length
  let d := match dst with
    | some o => k.checkDst o (own o.t)
    | none => .pass
  let step (a : Check × Core) (o : TSrc) : Check × Core :=
    match a.1, a.2.checkSrc now o with
    | .fault f, _ => (.fault f, a.2)
    | _, .fault f => (.fault f, a.2)
    | _, .wait => (.wait, a.2)
    | c, .pass => (c, a.2.commitSrc o)
  srcs.foldl step (d, k)

/-! ## Banks (R173, R174) -/

/-- Bank `b` of the tile register store. -/
def Core.bank (k : Core) (b : Nat) : Bank := k.banks.get {} b

/-- An access to the bank of tile register `t` in cycle `now`: whether it may be made, and the store after it. A bank that
is not awake wakes: 4 cycles from drowsy, 12 from gated. -/
def Core.touch (k : Core) (now t : Nat) : Bool × Core :=
  let b := k.bank (t % 16)
  let put (b : Bank) : Core := { k with banks := k.banks.put (t % 16) b }
  match b.power with
  | .awake => if b.wake ≤ now then (true, put { b with last := now }) else (false, put { b with last := now })
  | .drowsy => (false, put { b with power := .waking, wake := now + 4, last := now })
  | .gated => (false, put { b with power := .waking, wake := now + 12, last := now })
  | .waking => (false, put { b with last := now })

/-- Accesses to the banks of all these registers. -/
def Core.touchAll (k : Core) (now : Nat) (ts : List Nat) : Bool × Core :=
  ts.foldl (fun a t => let r := a.2.touch now t; (a.1 && r.1, r.2)) (true, k)

/-! ## Scratchpad addresses (R37, R131, R248) -/

/-- INFO of a scratchpad access fault (R373). -/
def spInfo (write : Bool) : Word := if write then 5 else 4

/-- The checks of a scratchpad access of `n` bytes aligned to `w` at the 64-bit address `a`. -/
def spCheck (a : Word) (w n : Nat) (write : Bool) : Option FaultInfo :=
  if a.toNat % w ≠ 0 then some { code := .align, addr := a, info := spInfo write }
  else if a.toInt < 0 ∨ (spEnd : Int) < a.toInt + n then some { code := .perm, addr := a, info := spInfo write }
  else none

/-- The bank cycles (bank, cycle) of an LDS or STS at `a` issued in cycle `c`. -/
def bankOne (c a : Nat) : List (Nat × Nat) := [(a / 64 % 16, c + 1)]
/-- The bank cycles of a VLDS or VSTS at `a` issued in cycle `c`: four consecutive banks a cycle for eight cycles. -/
def bankTile (c a : Nat) : List (Nat × Nat) :=
  (List.range 32).map (fun i => ((a / 64 + i) % 16, c + 1 + i / 4))

/-- Bank cycles reserved for stream `g` in cycle `now`, where none of them is taken by an earlier group (R131). -/
def Core.reserveBanks (k : Core) (g now : Nat) (bs : List (Nat × Nat)) : Option Core :=
  let mine (r : SpRes) : Bool := r.gsid == g && r.made == now
  if bs.any (fun b => k.spRes.any (fun r => r.bank == b.1 && r.cycle == b.2 && !mine r)) then none
  else some { k with spRes := bs.map (fun b => ⟨b.1, b.2, g, now⟩) ++ k.spRes }

end Sys2Proof.Machine
end

