-- ==== Sys2Proof/Machine/Mmu.lean ====
section
/-! DEFINITION. Machine/Mmu.lean: the physical map, home maps, page walks and translation units, permissions (R37 to R43,
R76 to R82). -/
namespace Sys2Proof.Machine

/-- What an access does, for the checks of R79 and the INFO of R373. -/
inductive AccKind where
  | read | write | atomic | fetch
  deriving DecidableEq, Repr

/-- INFO of an access fault (R373): bit 0 write, bit 1 fetch, bit 3 bits 63:48 nonzero, bits 5:4 the failing walk level. -/
def accInfo (k : AccKind) (high : Bool) (level : Nat) : Word :=
  BitVec.ofNat 64 ((match k with | .read => 0 | .write => 1 | .atomic => 1 | .fetch => 2) + (if high then 8 else 0)
    + 16 * level)

/-- A PAGE fault of an access to `va`. -/
def pageFault (va : Word) (k : AccKind) (level : Nat) : FaultInfo :=
  { code := .page, addr := va, info := accInfo k false level }
/-- A PERM fault of an access to `va`. -/
def permFault (va : Word) (k : AccKind) : FaultInfo :=
  { code := .perm, addr := va, info := accInfo k (va.extractLsb' 48 16 != 0) 0 }

/-! ## The physical map (R38) -/

/-- What stands at a physical address. -/
inductive PaKind where
  | stack (n : Nat)
  | device
  | aperture
  | remote (dev : Nat) (pa : Nat)
  | none
  deriving DecidableEq, Repr

/-- The populated part of a stack slot: 48 GiB of 64. -/
def populated (a : Nat) : Bool := decide (a < 2 ^ 39) && decide (a % 2 ^ 36 < 0xC00000000)

/-- R38. -/
def paKind (a : Nat) : PaKind :=
  if a < 2 ^ 39 then (if populated a then .stack (a / 2 ^ 36) else .none)
  else if 0x080000000000 ≤ a ∧ a < 0x090000000000 then .device
  else if 0x100000000000 ≤ a ∧ a < 0x200000000000 then .aperture
  else if 0x200000000000 ≤ a ∧ a < 0x400000000000 then
    (if populated (a % 2 ^ 39) then .remote ((a - 0x200000000000) / 2 ^ 39) (a % 2 ^ 39) else .none)
  else .none

/-! ## The home map (R40, R41) -/

/-- The C-die that the home map of context `ctx` gives the window of `va`, in force. -/
def State.homeDie (s : State) (ctx : Nat) (va : Nat) : Option Nat :=
  if (s.homemaps.get 0 ctx).getLsbD 0 then
    let b := (s.hmArrays.get .empty ctx).get 0 (va / 2 ^ 36 % 4096)
    if b.getLsbD 7 then some (b.extractLsb' 0 2).toNat else none
  else none

/-! ## The walk (R77 to R79) -/

/-- Size of the page that a leaf of `level` maps. -/
def pageSize : Nat → Nat
  | 0 => 2 ^ 16
  | 1 => 2 ^ 21
  | _ => 2 ^ 30

/-- The index that level `level` takes from a VA. -/
def walkIndex (va level : Nat) : Nat :=
  match level with
  | 0 => va / 2 ^ 16 % 32
  | 1 => va / 2 ^ 21 % 512
  | 2 => va / 2 ^ 30 % 512
  | _ => va / 2 ^ 39 % 512

/-- The walk from the table at `table` of level `n` down: a leaf, or the level at which it fails. The walker reads at the
point of coherence (R80). R79 checks the PA of a leaf only: a root or a pointer that names no memory of the stacks is read like any
other address, which is the model's choice (DESIGN CHOICE, entry 52). -/
def State.walk (s : State) (ctx va : Nat) : Nat → Nat → Except Nat Trans
  | n, table =>
    let e := s.pword (table + 8 * walkIndex va n)
    let addr := (e.extractLsb' 8 38).toNat * 256
    let bad := !e.getLsbD 0 || e.extractLsb' 46 10 != 0 || e.extractLsb' 6 2 != 0
    if bad then .error n
    else if e.getLsbD 1 then
      if n = 3 then .error n
      else if addr % pageSize n ≠ 0 then .error n
      else .ok { ctx := ctx, va := va / pageSize n * pageSize n, pa := addr, size := pageSize n,
                 ms := e.getLsbD 5, x := e.getLsbD 4, w := e.getLsbD 3, rp := e.getLsbD 2 }
    else
      match n with
      | 0 => .error 0
      | 1 => s.walk ctx va 0 addr
      | k + 2 => if addr % 4096 ≠ 0 then .error (k + 2) else s.walk ctx va (k + 1) addr

/-- A leaf's PA is one that the home die may reach (R42, R43, R400). -/
def State.leafOk (s : State) (die : Nat) (pa : Nat) : Bool :=
  match paKind pa with
  | .stack n => decide (n / 2 = die)
  | .device => true
  | .remote k r =>
    s.fab.id.getLsbD 63 && decide (k ≠ (s.fab.id.extractLsb' 48 6).toNat) && (s.fab.lsr.get 0 k).getLsbD 63
      && decide (r / 2 ^ 36 / 2 = die)
  | _ => false

/-- The translation unit (stack number) that serves `va` homed on `die` (R42). -/
def tuOf (die va : Nat) : Nat := 2 * die + va / 2 ^ 16 % 2

/-- The die that `va` of context `ctx` is homed on: what every access meets before a cache or a translation unit is looked at, bits 63:48,
the home map and the context's valid root (R37, R40, R76). -/
def State.homeFor (s : State) (ctx : Nat) (va : Word) (k : AccKind) : Except FaultInfo Nat :=
  if va.extractLsb' 48 16 != 0 then .error (permFault va k)
  else match s.homeDie ctx va.toNat with
    | none => .error (pageFault va k 0)
    | some d => if (s.ctxroots.get 0 ctx).getLsbD 63 then .ok d else .error (pageFault va k 3)

/-- A translation of `va` for context `ctx` (R76 to R81): the unit's own, or a walk's, with the die it is homed on. -/
def State.translate (s : State) (ctx : Nat) (va : Word) (k : AccKind) : Except FaultInfo (Nat × Trans) :=
  let a := va.toNat
  match s.homeFor ctx va k with
    | .error f => .error f
    | .ok d =>
      let reach (t : Trans) : Except FaultInfo (Nat × Trans) :=
        if s.leafOk d (t.pa + (a - t.va)) then .ok (d, t)
        else .error (pageFault va k (if t.size = 2 ^ 16 then 0 else if t.size = 2 ^ 21 then 1 else 2))
      let root := s.ctxroots.get 0 ctx
      match (s.trans.get [] (tuOf d a)).find? (fun t => t.ctx == ctx && decide (t.va ≤ a) && decide (a < t.va + t.size)) with
      | some t => reach t
      | none =>
        match s.walk ctx a 3 ((root.extractLsb' 12 34).toNat * 4096) with
        | .error n => .error (pageFault va k n)
        | .ok t => reach t

/-- The permission checks of R79, and those of R43 for a leaf of device register space. R43 asks for X = 0 there and gives a
consequence for MS = 0 only: that every access through such a leaf with X = 1 takes PERM as well is the model's choice (DESIGN CHOICE,
entry 52). -/
def Trans.allows (t : Trans) (k : AccKind) : Bool :=
  let dev := match paKind t.pa with | .device => true | _ => false
  (!dev || (t.ms && !t.x)) &&
  match k with
  | .read => t.rp
  | .write => t.w
  | .atomic => t.rp && t.w
  | .fetch => t.x && !t.ms

/-- The unit holds the translation as its most recent, and drops its least recent past 4,096 (R81). -/
def State.holdTrans (s : State) (d : Nat) (va : Nat) (t : Trans) : State :=
  let u := tuOf d va
  let l := t :: (s.trans.get [] u).filter (fun x => !(x.ctx == t.ctx && x.va == t.va && x.size == t.size))
  { s with trans := s.trans.put u (l.take 4096) }

/-- What an access resolves to: the physical address, the home die, the leaf, and the canonical name of the line. -/
structure Place where
  pa   : Nat
  die  : Nat
  leaf : Trans
  ctx  : Nat
  va   : Nat
  deriving DecidableEq, Repr

/-- A place in device register space: only a GLD or GST of eight bytes reaches a register (R43). -/
def Place.isDevice (p : Place) : Bool := match paKind p.pa with | .device => true | _ => false

/-- A place in the memory of another device of the load-store domain. -/
def Place.isRemote (p : Place) : Bool := match paKind p.pa with | .remote _ _ => true | _ => false

/-- The die that a line's physical address is homed on. -/
def homeOf (pa : Nat) : Nat := pa / 2 ^ 37

/-- The canonical name of the line at `pa` (R83, R84): that of the granule's entry in the remap filter, or the access's own. -/
def State.canonical (s : State) (ctx va pa : Nat) : Nat × Nat :=
  match s.filters.find? (pa / 2 ^ 16) with
  | some f => (f.ctx, f.va * 2 ^ 16 + va % 2 ^ 16)
  | none => (ctx, va)

/-- The bytes from `a` for a walk-checked access of context `ctx`: translated and permission-checked at the home. -/
def State.place (s : State) (ctx : Nat) (va : Word) (k : AccKind) : Except FaultInfo Place :=
  match s.translate ctx va k with
  | .error f => .error f
  | .ok (d, t) =>
    if t.allows k then
      let pa := t.pa + (va.toNat - t.va)
      let n := s.canonical ctx va.toNat pa
      .ok { pa := pa, die := d, leaf := t, ctx := n.1, va := n.2 }
    else .error (permFault va k)

/-- The translations of a range used: the units hold them as their most recent (R81). -/
def State.holdRange (s : State) (ctx va len : Nat) (k : AccKind) : State :=
  (List.range (len / 2 ^ 16 + 2)).foldl (fun (u : State) i =>
    let a := if i = 0 then va else (va / 2 ^ 16 + i) * 2 ^ 16
    if a < va + len then
      (match u.translate ctx (BitVec.ofNat 64 a) k with
       | .ok (d, t) => u.holdTrans d a t
       | .error _ => u)
    else u) s

/-- A range of bytes of memory, granule by granule: address and length of each piece, and whether an MS page maps it; or the fault of the
first granule that fails. Device registers are no memory (R43). -/
def State.placeRange (s : State) (ctx : Nat) (k : AccKind) : Nat → Nat → Nat → Except FaultInfo (List (Nat × Nat × Bool))
  | 0, _, _ => .ok []
  | _, _, 0 => .ok []
  | fuel + 1, va, len =>
    match s.place ctx (BitVec.ofNat 64 va) k with
    | .error f => .error f
    | .ok p =>
      let n := min len (2 ^ 16 - va % 2 ^ 16)
      if p.isDevice then .error (permFault (BitVec.ofNat 64 va) k)
      else match s.placeRange ctx k fuel (va + n) (len - n) with
      | .error f => .error f
      | .ok r => .ok ((p.pa, n, p.leaf.ms) :: r)

/-- Address and length of the pieces of a range. -/
def pieces (l : List (Nat × Nat × Bool)) : List (Nat × Nat) := l.map (fun x => (x.1, x.2.1))

end Sys2Proof.Machine
end

