-- ==== Sys2Proof/Machine/Cache.lean ====
section
/-! DEFINITION. Machine/Cache.lean: the L1D, the remote-data caches and the L2 slices: lookup, RRIP replacement under fill
masks, inclusion, eviction, the hint tables, and recalls (R83 to R87, R103 to R121). The bytes of a line are those of
`State.mem` wherever the line is held: R108 gives every read the latest ones. -/
namespace Sys2Proof.Machine

/-- A cache on a line's path. -/
inductive Level where
  | l1 (core : Nat)
  | rdc (die : Nat)
  | l2 (die : Nat)
  deriving DecidableEq, Repr

/-- The table of a level. -/
def State.lines (s : State) : Level → Tbl CLine
  | .l1 c => (s.core c).l1d
  | .rdc _ => s.rdc
  | .l2 _ => s.l2
/-- The state with the table of a level replaced. -/
def State.setLines (s : State) (l : Level) (t : Tbl CLine) : State :=
  match l with
  | .l1 c => s.modCore c (fun k => { k with l1d := t })
  | .rdc _ => { s with rdc := t }
  | .l2 _ => { s with l2 := t }

/-- Ways of a level. -/
def Level.ways : Level → Nat
  | .l1 _ => 8
  | _ => 16

/-- The number of way 0 of the set of a line (its VA without the low 6 bits' offset) in a level's table (R103, R104). -/
def Level.base (l : Level) (va : Nat) : Nat :=
  match l with
  | .l1 _ => va / 64 % 128 * 8
  | .rdc d => ((d * 64 + va / 2 ^ 13 % 64) * 128 + va / 64 % 128) * 16
  | .l2 d => ((d * 192 + va / 2 ^ 13 % 192) * 128 + va / 64 % 128) * 16

/-- The entry of the table that holds the line of context `ctx` at `va`, if any. -/
def State.find (s : State) (l : Level) (ctx va : Nat) : Option (Nat × CLine) :=
  let b := l.base va
  ((List.range l.ways).map (fun w => b + w)).findSome? (fun k =>
    ((s.lines l).find? k).bind (fun x => if x.ctx = ctx ∧ x.va = va / 64 then some (k, x) else none))

/-- The number of the cache row of entry `k` of a level, as a source of errors of class 1 (R393): the model's own numbering. -/
def Level.row (l : Level) (k : Nat) : Nat :=
  match l with
  | .l2 _ => k
  | .rdc _ => 2 ^ 24 + k
  | .l1 c => 2 ^ 25 + 1024 * c + k
/-- The number of the row of entry `i` of core `c`'s I-cache. -/
def icacheRow (c i : Nat) : Nat := 2 ^ 26 + 1024 * c + i

/-- An entry changed. -/
def State.setLine (s : State) (l : Level) (k : Nat) (x : CLine) : State := s.setLines l ((s.lines l).put k x)
/-- An entry removed. -/
def State.dropLine (s : State) (l : Level) (k : Nat) : State := s.setLines l ((s.lines l).drop k)

/-- Tracks of the writes to one line, performed at level `lv` or wider (R109, R268). -/
def State.performLine (s : State) (ctx va lv : Nat) : State :=
  { s with tracks := s.tracks.map (fun k =>
      if k.ctx = ctx ∧ k.va / 64 = va / 64 ∧ k.write ∧ k.level < lv then { k with level := lv } else k) }

/-- The line at `pa` stands in some cache of the device: an L2 slice, which holds whatever an L1D or an RDC holds (R107), or an
I-cache. -/
def State.heldLine (s : State) (pa : Nat) : Bool :=
  s.l2.entries.any (fun e => e.2.pa / 64 == pa / 64)
    || s.cores.entries.any (fun c => c.2.icache.entries.any (fun e => e.2.pa / 64 == pa / 64))

/-- A cache has given up the line at `pa`: where no cache holds it any more, its granule has one cached line fewer, and the filter entry
is freed at zero (R83). -/
def State.unfilter (s : State) (pa : Nat) : State :=
  if s.heldLine pa then s
  else match s.filters.find? (pa / 2 ^ 16) with
  | some f => if f.lines ≤ 1 then { s with filters := s.filters.drop (pa / 2 ^ 16) }
              else { s with filters := s.filters.put (pa / 2 ^ 16) { f with lines := f.lines - 1 } }
  | none => s

/-- Every L1D copy of a line on the cores of die `d` removed; whether one was dirty (R107, R109). -/
def State.purgeL1 (s : State) (d ctx va : Nat) : State × Bool :=
  (List.range 60).foldl (fun a i =>
    let l := Level.l1 (60 * d + i)
    match a.1.find l ctx va with
    | some (k, x) => (a.1.dropLine l k, a.2 || decide (x.state = .m))
    | none => a) (s, false)

/-- The home L2 line made dirty. -/
def State.dirty (s : State) (d ctx va : Nat) : State :=
  match s.find (.l2 d) ctx va with
  | some (k, x) => s.setLine (.l2 d) k { x with state := .dirty }
  | none => s

/-- The RDC copy of a line on die `e`, with the L1D copies below it, returned to the home L2 slice of die `d` (R109). -/
def State.purgeRdc (s : State) (e d ctx va : Nat) : State :=
  let r := s.purgeL1 e ctx va
  match r.1.find (.rdc e) ctx va with
  | some (k, x) =>
    let u := (r.1.dropLine (.rdc e) k).performLine ctx va 4
    if r.2 || decide (x.state = .m) then u.dirty d ctx va else u
  | none => r.1

/-- Every copy of a line above the home L2 slice of die `d` removed. -/
def State.purgeAbove (s : State) (d ctx va : Nat) : State :=
  let u := ([0, 1, 2, 3].filter (· != d)).foldl (fun a e => a.purgeRdc e d ctx va) s
  let r := u.purgeL1 d ctx va
  let v := r.1.performLine ctx va 4
  if r.2 then v.dirty d ctx va else v

/-- The format region in force whose data range holds `pa`: whether it is DB4, and the address of the line's scale bytes
(R88, R90). -/
def State.formatAt (s : State) (pa : Nat) : Option (Bool × Nat) :=
  (List.range 8).findSome? (fun n =>
    let b := s.fmtBase.get 0 n
    let lo := (b.extractLsb' 0 30).toNat * 65536
    if b.getLsbD 63 && decide (lo ≤ pa) && decide (pa < lo + (b.extractLsb' 30 30).toNat * 65536) then
      let i := (pa - lo) / 64
      let sc := ((s.fmtScale.get 0 n).extractLsb' 6 40).toNat * 64
      some (b.getLsbD 62, sc + (if b.getLsbD 62 then 8 * i else 4 * i))
    else none)

/-- The side field and tag that a cached line of `pa` holds beside the home's, written back: its exponents reach the scale
bytes where its tag is the region's format, and are lost elsewhere (R92). -/
def State.flushSide (s : State) (pa : Nat) : State :=
  match s.sides.find? (pa / 64) with
  | none => s
  | some x =>
    let u := { s with sides := s.sides.drop (pa / 64) }
    match u.formatAt pa with
    | some (db4, a) =>
      if db4 && x.2 == 2 then u.pset a 8 x.1.toNat
      else if !db4 && x.2 == 1 then u.pset a 4 (x.1.toNat % 2 ^ 32)
      else u
    | none => u

/-- The I-cache lines that `hit` tells, of the cores by number, removed (R83). -/
def State.dropIcache (s : State) (hit : Nat → ILine → Bool) : State :=
  let gone := s.cores.entries.flatMap (fun c => (c.2.icache.entries.filter (fun e => hit c.1 e.2)).map (fun e => e.2.pa / 64))
  let u := { s with cores := s.cores.map (fun c k => { k with icache := ⟨k.icache.entries.filter (fun e => !hit c e.2)⟩ }) }
  gone.eraseDups.foldl (fun (u : State) a => u.unfilter (64 * a)) u

/-- A line leaves the caches: the tracking state of regions still open on it spills to the shadow area (R277). -/
def State.spill (s : State) (ctx va : Nat) : State :=
  if s.tracks.any (fun k => decide (k.ctx = ctx ∧ k.va / 64 = va / 64)) then { s with spills := s.spills + 1 } else s

/-- Every copy of a line in the data caches removed, written back where it was dirty (R95, R109). -/
def State.purge (s : State) (d ctx va : Nat) : State :=
  let u := s.purgeAbove d ctx va
  match u.find (.l2 d) ctx va with
  | some (k, x) => (((u.dropLine (.l2 d) k).unfilter x.pa).flushSide x.pa).spill ctx va
  | none => u

/-- Eviction of the entry `k` of a level (R109): inclusion is kept, and no write is lost. What it held goes towards its own home. -/
def State.evict (s : State) (l : Level) (k : Nat) : State :=
  match (s.lines l).find? k with
  | none => s
  | some x =>
    let va := x.va * 64
    let d := homeOf x.pa
    match l with
    | .l1 c =>
      let u := s.dropLine l k
      if x.state = .m then
        if dieOf c = d then (u.dirty d x.ctx va).performLine x.ctx va 4
        else match u.find (.rdc (dieOf c)) x.ctx va with
          | some (j, y) => (u.setLine (.rdc (dieOf c)) j { y with state := .m }).performLine x.ctx va 2
          | none => u.performLine x.ctx va 4
      else u
    | .rdc e => s.purgeRdc e d x.ctx va
    | .l2 e => s.purge e x.ctx va

/-- The fill mask of a level for CPID `p` (R112, R118, R119): every way of an L1D; WAYMASK's field for the die otherwise. -/
def State.fillMask (s : State) (l : Level) (p : Nat) : Nat → Bool :=
  match l with
  | .l1 _ => fun w => decide (w < 8)
  | .rdc d => fun w => (s.waymask.get 0xFFFFFFFFFFFFFFFF#64 p).getLsbD (16 * d + w)
  | .l2 d => fun w => (s.waymask.get 0xFFFFFFFFFFFFFFFF#64 p).getLsbD (16 * d + w)

/-- The victim of a fill (R112): the lowest invalid way of the mask; else the masked ways age together until one holds
RRPV 7, and the lowest such way is it. A disabled row is no victim (R394). None where the mask is empty. -/
def State.victim (s : State) (l : Level) (va : Nat) (mask : Nat → Bool) : Option (Nat × State) :=
  let b := l.base va
  let ws := (List.range l.ways).filter (fun w => mask w && !s.ras.disabled.contains (l.row (b + w)))
  match ws.find? (fun w => ((s.lines l).find? (b + w)).isNone) with
  | some w => some (b + w, s)
  | none =>
    let rr (w : Nat) : Nat := match (s.lines l).find? (b + w) with | some x => x.rrpv | none => 0
    let top := ws.foldl (fun m w => max m (rr w)) 0
    let aged := ws.foldl (fun (u : State) w =>
      match (u.lines l).find? (b + w) with
      | some x => u.setLine l (b + w) { x with rrpv := x.rrpv + (7 - top) }
      | none => u) s
    (ws.find? (fun w => rr w == top)).map (fun w => (b + w, aged))

/-- A cache is about to take in the line at `pa` under its canonical name: where no cache holds it, its granule has one cached line
more, in an entry made for the first (R83). -/
def State.filterIn (s : State) (ctx va pa : Nat) : State :=
  if s.heldLine pa then s
  else match s.filters.find? (pa / 2 ^ 16) with
  | some f => { s with filters := s.filters.put (pa / 2 ^ 16) { f with lines := f.lines + 1 } }
  | none => { s with filters := s.filters.put (pa / 2 ^ 16) ⟨ctx, va / 2 ^ 16, 1, s.filterNo⟩, filterNo := s.filterNo + 1 }

/-- Every cached line of the 64 KiB granule of `pa` written back and removed, in every cache (R85, R87). -/
def State.recallGranule (s : State) (pa : Nat) : State :=
  let g := pa / 2 ^ 16
  let hits := s.l2.entries.filter (fun e => e.2.pa / 2 ^ 16 == g)
  let u := hits.foldl (fun (a : State) e => a.purge (e.1 / 2048 / 192) e.2.ctx (e.2.va * 64)) s
  let v := u.dropIcache (fun _ l => l.pa / 2 ^ 16 == g)
  { v with filters := v.filters.drop g }

/-- Room in the remap filter of the stack that holds `pa` (R85). -/
def State.filterRoom (s : State) (pa : Nat) : State :=
  if (s.filters.find? (pa / 2 ^ 16)).isSome then s
  else
    let st := pa / 2 ^ 36
    let mine := s.filters.entries.filter (fun e => e.1 / 2 ^ 20 == st)
    if mine.length < 32768 then s
    else match mine with
      | [] => s
      | e :: r => s.recallGranule ((r.foldl (fun m x => if x.2.age < m.2.age then x else m) e).1 * 2 ^ 16)

/-- The leaf whose RP, W and X bits a line carries (R81): that of its canonical name. An access by another name of the granule fills the
line under the canonical one (R84), so that leaf is looked up; where it no longer translates the access's own stands for it. -/
def State.leafOf (s : State) (p : Place) : Trans :=
  if p.leaf.ctx = p.ctx ∧ p.leaf.va ≤ p.va ∧ p.va < p.leaf.va + p.leaf.size then p.leaf
  else match s.translate p.ctx (BitVec.ofNat 64 p.va) .read with
    | .ok r => r.2
    | .error _ => p.leaf

/-- The line filled into a level in state `st`, where its mask lets it be (R112, R119); whether the level now holds it. A line that the
level holds stays as it is. -/
def State.fill (s : State) (l : Level) (p : Place) (cpid rrpv : Nat) (st : CState) : State × Bool :=
  if (s.find l p.ctx p.va).isSome then (s, true)
  else
    match s.victim l p.va (s.fillMask l cpid) with
    | none => (s, false)
    | some (k, u) =>
      let v := u.evict l k
      let leaf := s.leafOf p
      let x : CLine := { ctx := p.ctx, va := p.va / 64, pa := p.pa / 64 * 64, state := st, rrpv := rrpv, cpid := cpid,
                         rp := leaf.rp, w := leaf.w, x := leaf.x }
      match l with
      | .l2 _ => ((v.filterIn p.ctx p.va p.pa).setLine l k x, true)
      | _ => (v.setLine l k x, true)

/-- The levels on the path of core `c` to a line homed on die `d`, nearest first (R113). -/
def path (c d : Nat) : List Level := if dieOf c = d then [.l1 c, .l2 d] else [.l1 c, .rdc (dieOf c), .l2 d]

/-- A line filled from the home outwards into `ls` (given home first); a level that cannot allocate stops the fill (R119). -/
def State.fillOut (s : State) (p : Place) (cpid rrpv : Nat) (own : Bool) : List Level → State
  | [] => s
  | l :: r =>
    let st : CState := match l with | .l2 _ => .clean | _ => if own then .e else .s
    let u := s.fill l p cpid rrpv st
    if u.2 then u.1.fillOut p cpid rrpv own r else u.1

/-- The first level of the path that holds the line. -/
def State.hitLevel (s : State) (p : Place) (ls : List Level) : Option (Level × Nat × CLine) :=
  ls.findSome? (fun l => (s.find l p.ctx p.va).map (fun x => (l, x.1, x.2)))

/-- The levels nearer the core than `l` on the path, home side first. -/
def above (l : Level) (ls : List Level) : List Level := (ls.takeWhile (fun x => x != l)).reverse

/-- A copy in the data cache `l` falls to S; what a dirty copy held goes to the level that records it (R107, R108). -/
def State.fallTo (s : State) (l : Level) (d ctx va : Nat) : State :=
  match s.find l ctx va with
  | none => s
  | some (k, x) =>
    let u := s.setLine l k { x with state := .s }
    if x.state = .m then
      match l with
      | .l1 c =>
        if dieOf c = d then (u.dirty d ctx va).performLine ctx va 4
        else match u.find (.rdc (dieOf c)) ctx va with
          | some (j, y) => (u.setLine (.rdc (dieOf c)) j { y with state := .m }).performLine ctx va 2
          | none => (u.dirty d ctx va).performLine ctx va 4
      | _ => (u.dirty d ctx va).performLine ctx va 4
    else u

/-- Copies of a line off core `c`'s own path fall to S, since the path takes a copy (R108). -/
def State.shareLine (s : State) (c : Nat) (p : Place) : State :=
  let l1s (e : Nat) : List Level := (((List.range 60).map (fun i => 60 * e + i)).filter (· != c)).map Level.l1
  let dies := [0, 1, 2, 3].filter (fun e => e != dieOf c)
  let ls := l1s (dieOf c) ++ dies.flatMap (fun e => l1s e ++ [Level.rdc e])
  ls.foldl (fun (u : State) l => u.fallTo l p.die p.ctx p.va) s

/-- A load of a cacheable line by core `c` (R113). `hint` is 0 ALLOC, 1 NOALLOC, 2 BYPASS. -/
def State.cacheLoad (s : State) (c : Nat) (p : Place) (cpid rd hint : Nat) : State :=
  let ls := path c p.die
  match s.hitLevel p ls with
  | some (l, k, x) =>
    if hint ≠ 0 then s
    else
      let u := s.setLine l k { x with rrpv := 0 }
      if l = Level.l1 c then u else (u.shareLine c p).fillOut p cpid rd false (above l ls)
  | none =>
    match hint with
    | 0 => (s.filterRoom p.pa).fillOut p cpid rd false ls.reverse
    | 1 => ((s.filterRoom p.pa).fill (.l2 p.die) p cpid rd .clean).1
    | _ => s

/-- Copies of a line other than those on core `c`'s own path removed, so that the path owns it (R108). -/
def State.ownLine (s : State) (c : Nat) (p : Place) : State :=
  let u := ([0, 1, 2, 3].filter (fun e => e != p.die && e != dieOf c)).foldl (fun a e => a.purgeRdc e p.die p.ctx p.va) s
  let v := if dieOf c = p.die then u
    else
      let r := u.purgeL1 p.die p.ctx p.va
      if r.2 then (r.1.dirty p.die p.ctx p.va).performLine p.ctx p.va 4 else r.1
  let w := ((List.range 60).filter (fun i => 60 * dieOf c + i != c)).foldl (fun (a : State) i =>
    let l := Level.l1 (60 * dieOf c + i)
    let b := a.fallTo l p.die p.ctx p.va
    match b.find l p.ctx p.va with
    | some (k, _) => b.dropLine l k
    | none => b) v
  match (if dieOf c = p.die then none else w.find (.rdc (dieOf c)) p.ctx p.va) with
  | some (k, x) => if x.state = .s then w.setLine (.rdc (dieOf c)) k { x with state := .e } else w
  | none => w

/-- The copies on core `c`'s own path left clean, the one at level `l` at RRPV 7: a store has been written back through them (R114). -/
def State.cleanPath (s : State) (c : Nat) (p : Place) (l : Level) : State :=
  (((path c p.die).filter (fun x => match x with | .l2 _ => false | _ => true)).foldl (fun (u : State) y =>
    match u.find y p.ctx p.va with
    | some (k, x) => u.setLine y k { x with state := .e, rrpv := if y = l then 7 else x.rrpv }
    | none => u) s).performLine p.ctx p.va 4

/-- The line at the home after a store that is merged there (R114, NOALLOC and R119): its level is the point of coherence. -/
def State.storeHome (s : State) (p : Place) (cpid rd : Nat) : State :=
  let u := s.purgeAbove p.die p.ctx p.va
  match u.find (.l2 p.die) p.ctx p.va with
  | some _ => u.dirty p.die p.ctx p.va
  | none => ((u.filterRoom p.pa).fill (.l2 p.die) p cpid rd .dirty).1

/-- A line of the home L2 slice written to HBM and left clean at RRPV 7 (R114). -/
def State.cleanHome (s : State) (p : Place) (rrpv : Option Nat) : State :=
  match s.find (.l2 p.die) p.ctx p.va with
  | some (j, y) => s.setLine (.l2 p.die) j { y with state := .clean, rrpv := rrpv.getD y.rrpv }
  | none => s

/-- A store to a cacheable line by core `c` (R114, R119), and the level it is performed at: 1 the core's L1D, 2 its die's RDC,
4 the point of coherence. A hit on a line that its cache holds in M or E is merged there; other stores obtain the line first. An ALLOC store
that finds its line only in the home L2 slice sets that line's RRPV to 0, also where the RDC may not allocate and the store is merged at
the home as under NOALLOC: R119 does not say whether it does (DESIGN CHOICE, entry 52). -/
def State.cacheStore (s : State) (c : Nat) (p : Place) (cpid rd hint : Nat) : State × Nat :=
  let l1 := Level.l1 c
  let ls := path c p.die
  let held := (s.hitLevel p (ls.filter (fun l => match l with | .l2 _ => false | _ => true))).filter (fun h =>
    h.2.2.state = .m ∨ h.2.2.state = .e)
  match hint, held with
  | 0, some (l, _, _) =>
    let u := s.ownLine c p
    (match u.find l p.ctx p.va with
     | some (k, x) => u.setLine l k { x with state := .m, rrpv := 0 }
     | none => u, if l = l1 then 1 else 2)
  | 0, none =>
    let u := s.ownLine c p
    let v := match u.hitLevel p ls with
      | some (l, k, x) =>
        let u := u.setLine l k { x with rrpv := 0 }
        if l = l1 then u else u.fillOut p cpid rd true (above l ls)
      | none => (u.filterRoom p.pa).fillOut p cpid rd true ls.reverse
    (match v.find l1 p.ctx p.va with
     | some (k, x) => (v.setLine l1 k { x with state := .m }, 1)
     | none =>
       match (if dieOf c = p.die then none else v.find (.rdc (dieOf c)) p.ctx p.va) with
       | some (k, x) => (v.setLine (.rdc (dieOf c)) k { x with state := .m }, 2)
       | none => (v.storeHome p cpid rd, 4))
  | 1, some (l, _, _) => (((s.ownLine c p).cleanPath c p l).dirty p.die p.ctx p.va, 4)
  | 1, none => (s.storeHome p cpid rd, 4)
  | _, some (l, _, _) => (((s.ownLine c p).cleanPath c p l).cleanHome p none, 4)
  | _, none => ((s.purgeAbove p.die p.ctx p.va).cleanHome p (some 7), 4)

end Sys2Proof.Machine
end

