-- ==== Sys2Proof/Machine/Access.lean ====
section
/-! DEFINITION. Machine/Access.lean: global accesses of streams, engines and the developer: format regions, memory-side
pages, regions and races, plain and marked reads and writes (R86 to R93, R267 to R282). -/
namespace Sys2Proof.Machine

/-! ## Who accesses -/

/-- An access's issuer: the stream, the region it belongs to, the queue (0 LD, 1 MX, 2 ST, 3 AQ, 4 a chain unit, 5 the
developer) and number of its entry there, what is ordered before it by its queues, and its CPID, RD and HINT. -/
structure Who where
  gsid   : Nat
  region : Nat
  queue  : Nat
  number : Nat
  clock  : Clock
  cpid   : Nat
  rd     : Nat
  hint   : Nat
  deriving DecidableEq, Repr

/-- The entry is a marker. -/
def isMarker : Instr → Bool
  | .tksend _ _ => true
  | _ => false

/-- The operation accesses global memory, so that its region owns what it does (R274). -/
def accesses : Instr → Bool
  | .fence _ _ | .pf _ _ | .linv _ _ | .lwb _ _ | .joinReg _ _ | .joinImm _ _ | .leaveReg _ _ | .leaveImm _ _ | .gcountReg _ _
  | .gcountImm _ _ | .imprv _ _ | .iread _ _ | .jrec _ _ | .jwait _ _ | .jtrunc _ _ | .tksend _ _ => false
  | _ => true

/-- The running unit has an entry of region `r` in progress, or takes its next one from a link of that region (R274). -/
def Chain.owns (c : Chain) (r : Nat) : Bool := c.run && decide (c.region = r ∨ (c.pend ∧ c.linked = r))

/-- Work of region `r` of stream `g` that has not retired or performed: engine commands, chains, developer blocks, and
access-queue operations still queued (R274). Skipped work and markers own nothing. -/
def State.outstanding (s : State) (g r : Nat) : Bool :=
  let t := s.stream g
  let q (l : List QEntry) : Bool :=
    l.any (fun e => decide (e.region = r) && !e.done && !e.skip && !e.cancel && accesses e.instr)
  q t.ldq || q t.mxq || q t.stq || q t.aq
    || t.ldChain.owns r || t.stChain.owns r
    || s.devq.entries.any (fun e => e.2.any (fun b => decide (b.gsid = g ∧ b.region = r)))

/-- The level that a write has reached: on the die that homes the line, level 2 is the home L2 slice, the point of coherence (R268). -/
def Track.reached (k : Track) : Nat := if k.level = 2 ∧ dieOf (k.gsid / 4) = k.word / 2 ^ 34 then 4 else k.level

/-- A stream that has ended its item or halted: it issues nothing more, and what it has issued is performed at .V (R274). -/
def Stream.quits (t : Stream) : Bool :=
  match t.status with
  | .halted | .atTend | .idle => true
  | .parked => decide (t.parkedIn = .halted ∨ t.parkedIn = .atTend ∨ t.parkedIn = .idle)
  | _ => false

/-- Region `r` of stream `g` may still come to own accesses: the operation that ends it has not issued, and the stream has not quit. It
owns every access issued until then, so it is not closed before (R274). -/
def State.regionRuns (s : State) (g r : Nat) : Bool := decide ((s.stream g).region ≤ r) && !(s.stream g).quits

/-- Region `r` of stream `g` is open towards an agent that needs level `lv` (R274). -/
def State.regionOpen (s : State) (g r lv : Nat) : Bool :=
  s.regionRuns g r || s.outstanding g r || s.tracks.any (fun k => decide (k.gsid = g ∧ k.region = r ∧ k.write ∧ k.reached < lv))

/-- The bytes of a word that an access touches. -/
def byteMask (a n : Nat) : BitVec 8 := BitVec.ofNat 8 ((2 ^ n - 1) * 2 ^ (a % 8))

/-- The queue number of a chain entry's copy. -/
def chainQ : Nat := 4
/-- The queue number of the developer. -/
def devQ : Nat := 5
/-- The queue number of the fetch of a chain entry. -/
def fetchQ : Nat := 6

/-- An earlier access and this one, which names `va`, never race (R275): one access queue; two engine commands or chain entries of one
core, which the footprint tracker orders where they name the same VA (R159); or an order by queue and token edges of one stream. -/
def exempt (k : Track) (w : Who) (va : Nat) : Bool :=
  let eng (q : Nat) : Bool := q != 3 && q != devQ && q != fetchQ
  (k.gsid == w.gsid && k.queue == 3 && w.queue == 3)
    || (k.gsid / 4 == w.gsid / 4 && eng k.queue && eng w.queue && k.name == va)
    || (k.gsid == w.gsid && w.clock.covers k.queue k.number)

/-- How wide a write of stream `g` must be performed for the agent of an access to see it: the developer is an agent of the device, and of
no core (R268). -/
def Who.reach (w : Who) (g : Nat) : Nat := if w.queue = devQ then 3 else Machine.reach g (w.gsid / 4)

/-- The track that an access of `n` bytes to the canonical word at `p`, which names `va`, races with (R275). -/
def State.raceWith (s : State) (w : Who) (p : Place) (va n : Nat) (write plain : Bool) : Option Track :=
  let m := byteMask p.pa n
  s.tracks.find? (fun k =>
    decide (k.word = p.pa / 8) && (k.bytes &&& m) != 0 && (k.write || write) && (k.plain || plain)
      && !(k.gsid == w.gsid && k.region == w.region) && !exempt k w (va / 8 * 8)
      && s.regionOpen k.gsid k.region (w.reach k.gsid))

/-! ## Developer work in flight (R101), and work that an access would miss (R278) -/

/-- Two buffers share a byte of memory. -/
def overlaps (a b : List (Nat × Nat)) : Bool := a.any (fun x => b.any (fun y => decide (x.1 < y.1 + y.2 ∧ y.1 < x.1 + x.2)))

/-- An access of `n` bytes at physical address `pa` conflicts with what the block reads and writes. -/
def DevBlock.meets (b : DevBlock) (pa n : Nat) (write : Bool) : Bool :=
  overlaps b.dst [(pa, n)] || (write && b.srcs.any (fun l => overlaps l [(pa, n)]))

/-- The block's stream is still in the launch that issued it; the regions of an ended launch are closed (R274). -/
def State.devLives (s : State) (b : DevBlock) : Bool := s.lifeOf b.gsid == b.owner

/-- The developer block that an access conflicts with (R101): one of its own stream's until that stream has acquired the flag; and one of
another's that has still to make its accesses although the access comes after its DVRED (R278). Once a block has begun, its tracks tell its
races with the others (R275): before that an access that no order places after it performs (R304). -/
def State.guarded (s : State) (w : Who) (pa n : Nat) (write : Bool) : Option (Nat × Nat) :=
  let own (b : DevBlock) : Bool := b.gsid == w.gsid && w.queue != devQ && w.clock.seen.get 0 (devKey b.id) == 0
  let after (b : DevBlock) : Bool := b.gsid != w.gsid && !b.begun && decide (b.region < w.clock.seen.get 0 b.owner)
  (((s.devq.entries.flatMap (fun e => e.2)).find? (fun b => s.devLives b && (own b || after b) && b.meets pa n write)).or
    (s.devDone.find? (fun b => s.devLives b && own b && b.meets pa n write))).map (fun b => (b.gsid, b.region))

/-- One of the `len` bytes of memory at physical address `pa`, which the access names `va`, is one of the `n` bytes that context `ctx` names
`a`: by the same or by another VA (R84). With `tracked` the same VA does not count: the footprint tracker orders what shares one (R159). -/
def State.touches (s : State) (ctx a n pa va len : Nat) (tracked : Bool) : Bool :=
  (List.range len).any (fun i =>
    let d := (pa + i + 65536 - a % 65536) % 65536
    decide (d < n) && !(tracked && a + d == va + i)
      && (match s.translate ctx (BitVec.ofNat 64 (a + d)) .read with
          | .ok (_, t) => t.pa + (a + d - t.va) == pa + i
          | .error _ => false))

/-- The engine command or chain entry of stream `h`, in a region below `b`, that has still to make an access with which one of `n` bytes at
physical address `pa`, by `w` under the name `va`, conflicts: its region. -/
def State.overdueOf (s : State) (w : Who) (h b pa va n : Nat) (write : Bool) : Option Nat :=
  let t := s.stream h
  let k := s.core (h / 4)
  let tracked := h / 4 == w.gsid / 4 && w.queue != 3 && w.queue != devQ && w.queue != fetchQ
  let meets (j : CopyJob) (idx : List Nat) (n' : Nat) : Bool :=
    (j.toMove idx n' write).any (fun x => s.touches (s.ctxOf (h / 4)) x.1 x.2 pa va n tracked)
  let cmd (q : Nat) (e : QEntry) : Bool :=
    decide (e.region < b) && !e.skip && !e.cancel && !(h == w.gsid && w.clock.covers q e.number)
      && (e.job.any (fun j => meets j (if e.started then e.idx else k.indices j) e.prog))
  let chain (ld : Bool) (c : Chain) : Option Nat :=
    match c.entry with
    | some e =>
      if c.run && decide (c.region < b) && !c.skip
          && meets (chainJob ld e) (if c.waited then c.idx else k.indices (chainJob ld e)) c.prog
      then some c.region else none
    | none => none
  ((((t.ldq.find? (cmd 0)).or (t.stq.find? (cmd 2))).map (fun e => e.region)).or (chain true t.ldChain)).or (chain false t.stChain)

/-- The stream and region whose write an access of `n` bytes at physical address `pa` would miss, or whose read it would overtake: one that
comes before it, in issue order or through what it has acquired (R278), and is still to be made. The access races with it (entry 12). -/
def State.overdue (s : State) (w : Who) (pa va n : Nat) (write : Bool) : Option (Nat × Nat) :=
  (((w.gsid, w.region) :: (w.clock.seen.entries.filterMap (fun e =>
      let h := e.1 % 1024
      if e.1 < 2 ^ 60 ∧ h ≠ w.gsid ∧ s.lifeOf h = e.1 then some (h, e.2) else none))).findSome? (fun b =>
    (s.overdueOf w b.1 b.2 pa va n write).map (fun r => (b.1, r))))

/-- The VA of the word that holds byte `va` (R267). -/
def wordVa (va : Word) : Word := va &&& 0xFFFFFFFFFFFFFFF8#64

/-- The MEMRACE of an access that names `va`, with a region of a stream (R276, R373). -/
def raceFault (va : Word) (k : Nat × Nat) : FaultInfo :=
  { code := .memrace, addr := wordVa va, info := BitVec.ofNat 64 (k.1 + 1024 * k.2) }

/-- The access, which names `va`, recorded in the tracking state of its word (R277). -/
def State.track (s : State) (w : Who) (p : Place) (va n : Nat) (write plain : Bool) (lv : Nat) : State :=
  { s with tracks := s.tracks ++ [{ word := p.pa / 8, ctx := p.ctx, va := p.va, name := va / 8 * 8, bytes := byteMask p.pa n,
                                    write := write, plain := plain, gsid := w.gsid, region := w.region, queue := w.queue,
                                    number := w.number, level := if (s.stream w.gsid).quits then 4 else lv }] }

/-- An access of a collective engine (R413), or a host access (R416), that an access conflicts with: one of them writes, and one is
plain, as every host access is (R267). -/
def State.meetsEngine (s : State) (pa n : Nat) (write plain : Bool) : Option EngineSpan :=
  s.fab.spans.find? (fun x => (x.write || write) && (plain || !x.marked) && decide (pa < x.pa + x.len ∧ x.pa < pa + n))

/-- The race of an access of `n` bytes of one word at `va`: with developer work in flight (R101), with an access of an open region (R275),
or with work that comes before it and is still to be done (R278). -/
def State.raceWord (s : State) (w : Who) (p : Place) (va n : Nat) (write plain : Bool) : Option (Nat × Nat) :=
  ((s.guarded w p.pa n write).or ((s.raceWith w p va n write plain).map (fun k => (k.gsid, k.region)))).or
    (s.overdue w p.pa va n write)

/-- The races of an access of `n` bytes from `va`, word by word (R275), and against a collective engine or the host, whose owner
numbers are 0x3FF (R413) and 0x3FE (R416). A remote access is checked at the home of its word (R402), whose verdict is a free value
(entry 35). -/
def State.raceRange (s : State) (w : Who) (p : Place) (va : Word) (n : Nat) (write plain : Bool) : Option FaultInfo :=
  if p.isRemote then
    (Config.remoteRace s.cycle w.gsid p.pa).map (fun i => { code := .memrace, addr := wordVa va, info := i })
  else match s.meetsEngine p.pa n write plain with
  | some x => some { code := .memrace, addr := wordVa va, info := if x.host then 0x3FE else 0x3FF }
  | none =>
  if n ≤ 8 then (s.raceWord w p va.toNat n write plain).map (raceFault va)
  else (List.range ((n + 7) / 8)).findSome? (fun i =>
    (s.raceWord w { p with pa := p.pa + 8 * i, va := p.va + 8 * i } (va.toNat + 8 * i) 8 write plain).map
      (raceFault (va + BitVec.ofNat 64 (8 * i))))

/-- Tracks of an access of `n` bytes from `va`. A plain write ends the release sequences of its words (R281). -/
def State.trackRange (s : State) (w : Who) (p : Place) (va : Word) (n : Nat) (write plain : Bool) (lv : Nat) : State :=
  if p.isRemote then s
  else
    let s := if write && plain then s.endsHeads p.pa n else s
    if n ≤ 8 then s.track w p va.toNat n write plain lv
    else (List.range ((n + 7) / 8)).foldl (fun (u : State) i =>
      u.track w { p with pa := p.pa + 8 * i, va := p.va + 8 * i } (va.toNat + 8 * i) 8 write plain lv) s

/-- The tracks of regions that are closed towards every agent removed (R277). -/
def State.pruneTracks (s : State) : State :=
  { s with tracks := s.tracks.filter (fun k => s.regionOpen k.gsid k.region 4) }

/-! ## Lines (R90 to R93) -/

/-- The scale range that holds `pa`: whether its region is DB4, its data base, and the offset into it (R93). -/
def State.scaleAt (s : State) (pa : Nat) : Option (Bool × Nat × Nat) :=
  (List.range 8).findSome? (fun n =>
    let b := s.fmtBase.get 0 n
    let sc := ((s.fmtScale.get 0 n).extractLsb' 6 40).toNat * 64
    let len := (b.extractLsb' 30 30).toNat * (if b.getLsbD 62 then 8192 else 4096)
    if b.getLsbD 63 && decide (sc ≤ pa) && decide (pa < sc + len) then
      some (b.getLsbD 62, (b.extractLsb' 0 30).toNat * 65536, pa - sc) else none)

/-- The line at `pa` as it is delivered: its bytes, side field, tag and poison (R91, R93, R390). -/
def State.lineAt (s : State) (pa : Nat) : Line :=
  let a := pa / 64 * 64
  let f := match s.sides.find? (a / 64) with
    | some x => (x.1, x.2, false)
    | none =>
      match s.formatAt a with
      | some (true, b) => (BitVec.ofNat 64 (Memory.getNat s.mem b 8), 2#2, s.poisoned b)
      | some (false, b) => (BitVec.ofNat 64 (Memory.getNat s.mem b 4), 1#2, s.poisoned b)
      | none => (0#64, 0#2, false)
  { data := s.prow a, side := f.1, tag := f.2.1, poison := s.poisoned a || f.2.2 }

/-- Every cached data line whose scale bytes an access to `n` bytes at `pa` of a scale range touches, recalled (R93). -/
def State.recallScaled (s : State) (pa n : Nat) : State :=
  match s.scaleAt pa with
  | none => s
  | some (db4, base, o) =>
    let per := if db4 then 8 else 4
    let lo := base + 64 * (o / per)
    let hi := base + 64 * ((o + n + per - 1) / per)
    let hits := s.l2.entries.filter (fun e => decide (lo ≤ e.2.pa ∧ e.2.pa < hi))
    hits.foldl (fun (u : State) e => u.purge (e.1 / 2048 / 192) e.2.ctx (e.2.va * 64)) s

/-- The access performs at the line's atomic unit: a memory-side page, a scale range, or another device's memory (R86, R93,
R401). -/
def State.memorySide (s : State) (p : Place) : Bool := p.leaf.ms || p.isRemote || (s.scaleAt p.pa).isSome

/-- Cached lines that stand in the way of a memory-side or marked access of `n` bytes recalled: the data lines whose scale bytes it
touches; the granule, for a memory-side page or a scale range; or the line (R87, R93, R95). -/
def State.recallFor (s : State) (p : Place) (n : Nat := 64) : State :=
  let u := s.recallScaled p.pa n
  if p.isRemote then s
  else if p.leaf.ms || (s.scaleAt p.pa).isSome then (if (u.filters.find? (p.pa / 2 ^ 16)).isSome then u.recallGranule p.pa else u)
  else u.purge p.die p.ctx p.va

/-- A format region is in force. -/
def State.formats (s : State) : Bool := (List.range 8).any (fun n => (s.fmtBase.get 0 n).getLsbD 63)

/-- What the device's own reads of a range recall first: the granules of its memory-side pages and of scale ranges, and the data lines whose
scale bytes they read (R87, R93). Elsewhere the point of coherence is read as it stands (R110). -/
def State.recallPieces (s : State) (ps : List (Nat × Nat × Bool)) : State :=
  ps.foldl (fun (u : State) x =>
    let v := if u.formats then
        (List.range ((x.1 % 64 + x.2.1 + 63) / 64)).foldl (fun (v : State) i => v.recallScaled (x.1 / 64 * 64 + 64 * i) 64) u
      else u
    let scale := v.formats && (List.range ((x.1 % 64 + x.2.1 + 63) / 64)).any (fun i => (v.scaleAt (x.1 / 64 * 64 + 64 * i)).isSome)
    if (x.2.2 || scale) && (v.filters.find? (x.1 / 2 ^ 16)).isSome then v.recallGranule x.1 else v) s

/-- What a read of `n` bytes through the point of coherence that fills no cache recalls first: nothing, unless a memory-side page, a scale
range or another device holds them (R86, R93, R110). -/
def State.readFor (s : State) (p : Place) (n : Nat := 64) : State := if s.memorySide p then s.recallFor p n else s

/-- The state after a plain read of `n` bytes of a line by core `c` has passed through the caches or the atomic unit. -/
def State.touchRead (s : State) (c : Nat) (w : Who) (p : Place) (n : Nat) : State :=
  if s.memorySide p then s.recallFor p n else s.cacheLoad c p w.cpid w.rd w.hint

/-- The state after a plain write of `n` bytes of a line has passed, and the level it is performed at. -/
def State.touchWrite (s : State) (c : Nat) (w : Who) (p : Place) (n : Nat) : State × Nat :=
  if s.memorySide p then (s.recallFor p n, 4) else s.cacheStore c p w.cpid w.rd w.hint

/-! ## Where an access finds its line (R37, R81, R105) -/

/-- The line that a cache on core `c`'s path holds under the access's own name, with its home die: such an access hits without a
translation (R81, R82, R105). Bits 63:48, the home map and the context's root are looked at first (R37, R40, R76). -/
def State.cached (s : State) (c : Nat) (va : Word) : Option (Nat × CLine) :=
  let ctx := s.ctxOf c
  match s.homeFor ctx va .read with
  | .error _ => none
  | .ok d => ((path c d).findSome? (fun l => s.find l ctx va.toNat)).map (fun x => (d, x.2))

/-- The permissions that a cached line carries (R81). -/
def CLine.allows (x : CLine) : AccKind → Bool
  | .read => x.rp
  | .write => x.w
  | .atomic => x.rp && x.w
  | .fetch => x.x

/-- Where an access of core `c` through its caches finds its bytes: at the line it hits, under the permissions that the line carries
(R81, R114), or where its translation says, which the unit then holds. -/
def State.look (s : State) (c : Nat) (va : Word) (k : AccKind) : Except FaultInfo (Place × State) :=
  let ctx := s.ctxOf c
  match s.cached c va with
  | some (d, x) =>
    let leaf : Trans := { ctx := ctx, va := va.toNat / 64 * 64, pa := x.pa, size := 64, ms := false, x := x.x, w := x.w, rp := x.rp }
    if x.allows k then .ok ({ pa := x.pa + va.toNat % 64, die := d, leaf := leaf, ctx := ctx, va := va.toNat }, s)
    else .error (permFault va k)
  | none =>
    match s.place ctx va k with
    | .error f => .error f
    | .ok p => .ok (p, s.holdTrans p.die va.toNat p.leaf)

/-- The QUEUE fault of an access that needs tracking state spilled into a full shadow area (R277, R373). -/
def shadowFault : FaultInfo := { code := .queue, info := 7 }

/-- The access of `w` that leads to state `u` spills tracking state where the shadow area of its context is full (R277). How much of it
firmware reserves is open (entry 43). -/
def State.noShadow (s : State) (w : Who) (u : State) : Bool :=
  decide (s.spills < u.spills) && Config.shadowFull (s.ctxOf (w.gsid / 4)) u.spills

/-- A plain read of `n` bytes at `va`, within one line, with its race check: the bytes (R283). -/
def State.plainRead (s : State) (w : Who) (va : Word) (n : Nat) : Except FaultInfo (Place × State) :=
  match s.look (w.gsid / 4) va .read with
  | .error f => .error f
  | .ok (p, h) =>
    if p.isDevice then .error (permFault va .read)
    else match s.raceRange w p va n false true with
      | some f => .error f
      | none =>
        let u := h.touchRead (w.gsid / 4) w p n
        if s.noShadow w u then .error shadowFault else .ok (p, u.trackRange w p va n false true 4)

/-- A plain write of `n` bytes at `va`, within one line: checked, passed through the caches, performed at scope number `scp`, and tracked.
The bytes are then written by the caller. -/
def State.plainWrite (s : State) (w : Who) (va : Word) (n : Nat) (scp : Nat := 1) : Except FaultInfo (Place × State) :=
  match s.look (w.gsid / 4) va .write with
  | .error f => .error f
  | .ok (p, h) =>
    if p.isDevice then .error (permFault va .write)
    else match s.raceRange w p va n true true with
      | some f => .error f
      | none =>
        let r := h.touchWrite (w.gsid / 4) w p n
        if s.noShadow w r.1 then .error shadowFault
        else .ok (p, r.1.trackRange w p va n true true (max r.2 (scopeLevel scp)))

/-- A marked access of `n` bytes at `va` (R269): recalled, checked, tracked at the unit, performed at every scope. -/
def State.marked (s : State) (w : Who) (va : Word) (n : Nat) (k : AccKind) : Except FaultInfo (Place × State) :=
  match s.place (s.ctxOf (w.gsid / 4)) va k with
  | .error f => .error f
  | .ok p =>
    if p.isDevice then .error (permFault va k)
    else
      let wr := decide (k ≠ .read)
      match s.raceRange w p va n wr false with
      | some f => .error f
      | none =>
        let u := (s.holdTrans p.die va.toNat p.leaf).recallFor p n
        if s.noShadow w u then .error shadowFault else .ok (p, u.trackRange w p va n wr false 4)

/-- A whole-line write with side field, tag and poison (R92, R115, R152, R390). -/
def State.writeLine (s : State) (p : Place) (x : Line) : State :=
  let a := p.pa / 64 * 64
  let u := (s.pset a 64 x.data.toNat).setPoison a x.poison
  let held := { u with sides := u.sides.put (a / 64) (x.side, x.tag) }
  if s.memorySide p then held.flushSide a
  else if (held.find (.l2 p.die) p.ctx p.va).isSome then held else held.flushSide a

/-- A partial write of `n` bytes: data only; the line takes poison with `bad` and never loses it (R152, R390). -/
def State.writeBytes (s : State) (pa n v : Nat) (bad : Bool) : State :=
  let u := s.pset pa n v
  if bad then u.setPoison pa true else u

/-! ## Releases (R279, R282, R289) -/

/-- What a release by `w` at scope number `scp` carries, as the head of a sequence. -/
def State.headBy (s : State) (w : Who) (scp : Nat) : Head :=
  { gsid := w.gsid, scope := scp, seen := s.carries w.gsid (w.region + 1) w.clock }

/-- A release of stream `g` at scope `scp` performs: every write ordered before it through the stream's own edges has been
performed at the scope (R279). -/
def State.release (s : State) (w : Who) (scp : Nat) : State :=
  { s with tracks := s.tracks.map (fun k =>
      if k.gsid = w.gsid ∧ k.write ∧ k.level < scopeLevel scp
          ∧ (w.clock.covers k.queue k.number ∨ (k.queue = 3 ∧ k.number ≤ w.number))
      then { k with level := scopeLevel scp } else k) }

/-- A synchronisation operation of stream `g` ends its region (R274). -/
def State.endRegion (s : State) (g : Nat) : State := s.modStream g (fun t => { t with region := t.region + 1 })

end Sys2Proof.Machine
end

