-- ==== Sys2Proof/Machine/Rings.lean ====
section
/-! DEFINITION. Machine/Rings.lean: ring handles (R135 to R141), the outcome rings of OSEND, and the stream side of tokens
(R145, R146). -/
namespace Sys2Proof.Machine

/-- Handle `h` as it stands. -/
def Core.ring (k : Core) (h : Nat) : Ring := k.rings.get {} h
/-- Handle `h` as it stood at the end of the previous cycle, against which waits are evaluated (R136). -/
def Core.ringBefore (k : Core) (h : Nat) : Ring := k.ringsPrev.get {} h
/-- The core with handle `h` changed. -/
def Core.modRing (k : Core) (h : Nat) (f : Ring → Ring) : Core := { k with rings := k.rings.mod {} h f }
/-- A handle that is configured for data or tokens (R139). -/
def Ring.counted (r : Ring) : Bool := decide (r.kind ≠ .outcome) && r.count != 0

/-- A RING fault on handle `h` (R373). -/
def ringFault (h n : Nat) (lock : Bool) : FaultInfo :=
  { code := .ring, addr := BitVec.ofNat 64 h, info := BitVec.ofNat 64 (n + if lock then 65536 else 0) }

/-- The producer index advanced by `n` (R139). -/
def Ring.produce (r : Ring) (n : Nat) : Ring :=
  { r with pi := BitVec.ofNat 16 ((r.pi.toNat + n) % r.count.toNat), filled := BitVec.ofNat 17 (r.filled.toNat + n) }
/-- The consumer index advanced by `n` (R139). -/
def Ring.consume (r : Ring) (n : Nat) : Ring :=
  { r with ci := BitVec.ofNat 16 ((r.ci.toNat + n) % r.count.toNat), filled := BitVec.ofNat 17 (r.filled.toNat - n) }

/-- A producer or consumer advance: RING when it breaks the limits of R139, else the handle after it. -/
def Ring.advance (r : Ring) (h n : Nat) (producer : Bool) : Except FaultInfo Ring :=
  if !r.counted then .error (ringFault h n false)
  else if producer then
    if r.count.toNat < r.filled.toNat + n then .error (ringFault h n false) else .ok (r.produce n)
  else if r.filled.toNat < n then .error (ringFault h n false) else .ok (r.consume n)

/-- A scratchpad access that writes. -/
def SpOp.writes : SpOp → Bool
  | .store _ _ => true
  | .vstore _ _ _ _ => true
  | _ => false

/-- Scratchpad accesses that the stream issued in an earlier cycle have all been made; with `all` false, its writes only. -/
def Stream.settled (t : Stream) (now : Nat) (all : Bool) : Bool :=
  t.accs.all (fun a => !(decide (a.issued < now) && (all || a.op.writes)))

/-- The HCONF check and the new handle (R138). -/
def hconfRing (kind : BitVec 2) (b z c : Word) : Option Ring :=
  let ok := match kind.toNat with
    | 0 => decide (b.toNat % 64 = 0 ∧ z.toNat % 64 = 0 ∧ 64 ≤ z.toNat ∧ z.toNat ≤ 393216 ∧ 1 ≤ c.toNat ∧ c.toNat ≤ 65535
             ∧ b.toNat + z.toNat * c.toNat ≤ spEnd)
    | 1 => decide (b = 0 ∧ z = 0 ∧ 1 ≤ c.toNat ∧ c.toNat ≤ 65535)
    | _ => decide (b = 0 ∧ z = 0 ∧ 1 ≤ c.toNat ∧ c.toNat ≤ 64)
  if ok then
    some { kind := match kind.toNat with | 0 => .data | 1 => .token | _ => .outcome,
           base := b.setWidth 19, size := z.setWidth 19, count := c.setWidth 16 }
  else none

/-- HCONF (R138). -/
def execHconf (h : Hdr) (sx sy sz : BitVec 5) (kind : BitVec 2) (hd : BitVec 4) (s : State) :
    Host.Outcome State Fault Refusal :=
  let t := s.me
  (s.plain h [t.sp sx, t.sp sy, t.sp sz] []
    (if s.myCore.ringLock.getLsbD hd.toNat then .fault (ringFault hd.toNat 0 true)
     else match hconfRing kind (t.sreg sx) (t.sreg sy) (t.sreg sz) with
       | none => .fault (ringFault hd.toNat 0 false)
       | some r => .go ((s.ringForgets (s.cur / 4) hd.toNat).modMyCore (fun k => { k with rings := k.rings.put hd.toNat r })))).done s

/-- RADVP and RADVC: the wait for the stream's scratchpad accesses, then the advance with its checks, predicated off or not; it is a
release at .C that ends the region (R139, R140, R141, R273). -/
def State.radv (s : State) (h : Hdr) (n : BitVec 16) (hd : BitVec 4) (producer : Bool) : Act :=
  s.always h []
    (if !s.me.settled s.cycle (!producer) then .wait s false
     else match (s.myCore.ring hd.toNat).advance hd.toNat n.toNat producer with
       | .error f => .fault f
       | .ok r =>
         let t := s.me
         let k := s.carries s.cur (t.region + 1) (t.clock 4)
         s.sync (.go (((s.ringMoves (s.cur / 4) hd.toNat n.toNat producer (s.myCore.ring hd.toNat) k).modMyCore
           (fun k => { k with rings := k.rings.put hd.toNat r })).modMe (fun t => { t with region := t.region + 1 }))))

/-- RADVP (R139). -/
def execRadvp (h : Hdr) (n : BitVec 16) (hd : BitVec 4) (s : State) : Host.Outcome State Fault Refusal :=
  (s.radv h n hd true).done s
/-- RADVC (R139). -/
def execRadvc (h : Hdr) (n : BitVec 16) (hd : BitVec 4) (s : State) : Host.Outcome State Fault Refusal :=
  (s.radv h n hd false).done s

/-- RWAITF and RWAITE: the faults are checked before waiting; the wait sees the handle at the end of the previous cycle; it
is an acquire at .C that ends the region (R136, R139, R140). Predicated off, neither waits nor acquires (R141). The faults are checked on the
handle with the changes that streams before this one make in the cycle, and again in each cycle of the wait: R139 does not say (DESIGN CHOICE,
entry 54). -/
def State.rwait (s : State) (h : Hdr) (n : BitVec 16) (hd : BitVec 4) (filled : Bool) : Act :=
  let r := s.myCore.ring hd.toNat
  let p := s.myCore.ringBefore hd.toNat
  let have' := if filled then p.filled.toNat else p.count.toNat - p.filled.toNat
  s.plain h [] []
    (if !r.counted || decide (r.count.toNat < n.toNat) then .fault (ringFault hd.toNat n.toNat false)
     else if n.toNat ≤ have' then
       (let r := s.myCore.ring hd.toNat
        let now := if filled then r.filled.toNat else r.count.toNat - r.filled.toNat
        s.sync (.go ((s.acquire s.cur s.cycle (s.ringSeen (s.cur / 4) hd.toNat filled now n.toNat)).modMe
          (fun t => { t with region := t.region + 1 }))))
     else .wait s false)

/-- RWAITF (R139). -/
def execRwaitf (h : Hdr) (n : BitVec 16) (hd : BitVec 4) (s : State) : Host.Outcome State Fault Refusal :=
  (s.rwait h n hd true).done s
/-- RWAITE (R139). -/
def execRwaite (h : Hdr) (n : BitVec 16) (hd : BitVec 4) (s : State) : Host.Outcome State Fault Refusal :=
  (s.rwait h n hd false).done s

/-- Bit `i` of the outcomes. -/
def Ring.outcome (r : Ring) (i : Nat) : Bool := r.obits.getLsbD i
/-- The handle after OSEND has pushed `b` (R255). -/
def Ring.push (r : Ring) (b : Bool) : Ring :=
  let i := r.pi.toNat
  let m : BitVec 64 := 1#64 <<< i
  { r.produce 1 with obits := if b then r.obits ||| m else r.obits &&& ~~~m }

/-- OSEND waits until a slot is free, at the end of the previous cycle and after the updates made earlier in this cycle, and
pushes Qc; predicated off, it pushes 0 (R255). -/
def execOsend (h : Hdr) (qc : BitVec 3) (hd : BitVec 4) (s : State) : Host.Outcome State Fault Refusal :=
  let t := s.me
  let r := s.myCore.ring hd.toNat
  let p := s.myCore.ringBefore hd.toNat
  let act (b : Bool) : Act :=
    if r.kind ≠ .outcome then .fault (ringFault hd.toNat 0 false)
    else if p.filled.toNat < p.count.toNat ∧ r.filled.toNat < r.count.toNat then
      .go (s.modMyCore (fun k => { k with rings := k.rings.put hd.toNat (r.push b) }))
    else .wait s false
  (s.slot h [t.qp qc] [] (act false) (act (t.qreg qc))).done s

end Sys2Proof.Machine
end

