-- ==== Sys2Proof/Machine/Scalar.lean ====
section
/-! DEFINITION. Machine/Scalar.lean: the scalar and address forms, CMP, QOP, and LDS and STS (R244 to R248). -/
namespace Sys2Proof.Machine

/-- A scalar form: its sources are read as they stand, and its result lands in Sd after latency `lat` (R244, R164).
Predicated off, it writes nothing (R247). -/
def State.alu (s : State) (h : Hdr) (rs : List (BitVec 5)) (sd : BitVec 5) (lat : Nat) (v : Word) : Act :=
  let t := s.me
  s.plain h (rs.map t.sp) [(t.sp sd, lat)] (.go (s.latch (t.sp sd) lat (v.setWidth 512)))

/-- Sa of the issuing stream. -/
def State.S (s : State) (n : BitVec 5) : Word := s.me.sreg n

/-- `lo` bits from bit `lsb` of `v` sign-extended (`sign`) or zero-extended (BFX, R244). -/
def bitField (v : Word) (lsb width : Nat) (sign : Bool) : Word :=
  let x := (v >>> lsb).setWidth 64 <<< (64 - width)
  if sign then x.sshiftRight (64 - width) else x >>> (64 - width)

/-- `old` with `width` bits from bit `lsb` replaced by the low bits of `v` (BFI, R244). -/
def bitInsert (old v : Word) (lsb width : Nat) : Word :=
  let m : Word := BitVec.ofNat 64 (2 ^ width - 1) <<< lsb
  (old &&& ~~~m) ||| ((v <<< lsb) &&& m)

/-- Leading zero bits among the low `n` bits of `v`. -/
def leadingZeros (v : Word) : Nat → Nat
  | 0 => 0
  | n + 1 => if v.getLsbD n then 0 else 1 + leadingZeros v n

/-- Set bits among the low `n` bits of `v`. -/
def setBits (v : Word) : Nat → Nat
  | 0 => 0
  | n + 1 => (if v.getLsbD n then 1 else 0) + setBits v n

/-- The signed quotient rounded towards zero; -2^63 by -1 gives -2^63 (R244). -/
def quotS (a b : Word) : Word := BitVec.ofInt 64 (a.toInt.tdiv b.toInt)

/-- DIVS and DIVN: a zero divisor makes the group take ARITH with INFO 1 (R245, R373). -/
def State.divide (s : State) (h : Hdr) (sd sa sb : BitVec 5) (v : Word) : Act :=
  let t := s.me
  s.plain h [t.sp sa, t.sp sb] [(t.sp sd, 34)]
    (if s.S sb = 0 then .fault { code := .arith, info := 1 } else .go (s.latch (t.sp sd) 34 (v.setWidth 512)))

/-- ADD (R244). -/
def execAdd (h : Hdr) (sd sa sb : BitVec 5) (s : State) : Host.Outcome State Fault Refusal :=
  (s.alu h [sa, sb] sd 1 (s.S sa + s.S sb)).done s
/-- SUB (R244). -/
def execSub (h : Hdr) (sd sa sb : BitVec 5) (s : State) : Host.Outcome State Fault Refusal :=
  (s.alu h [sa, sb] sd 1 (s.S sa - s.S sb)).done s
/-- ADDI (R244). -/
def execAddi (h : Hdr) (sd sa : BitVec 5) (imm : BitVec 36) (s : State) : Host.Outcome State Fault Refusal :=
  (s.alu h [sa] sd 1 (s.S sa + imm.signExtend 64)).done s
/-- MUL (R244): bits 63:0 of the product. -/
def execMul (h : Hdr) (sd sa sb : BitVec 5) (s : State) : Host.Outcome State Fault Refusal :=
  (s.alu h [sa, sb] sd 3 (s.S sa * s.S sb)).done s
/-- MULH (R244): bits 127:64 of the signed product. -/
def execMulh (h : Hdr) (sd sa sb : BitVec 5) (s : State) : Host.Outcome State Fault Refusal :=
  (s.alu h [sa, sb] sd 3 (BitVec.ofInt 64 ((s.S sa).toInt * (s.S sb).toInt / 2 ^ 64))).done s
/-- MULHN (R244): bits 127:64 of the unsigned product. -/
def execMulhn (h : Hdr) (sd sa sb : BitVec 5) (s : State) : Host.Outcome State Fault Refusal :=
  (s.alu h [sa, sb] sd 3 (BitVec.ofNat 64 ((s.S sa).toNat * (s.S sb).toNat / 2 ^ 64))).done s
/-- DIVS (R244, R245). -/
def execDivs (h : Hdr) (sd sa sb : BitVec 5) (s : State) : Host.Outcome State Fault Refusal :=
  (s.divide h sd sa sb (quotS (s.S sa) (s.S sb))).done s
/-- DIVN (R244, R245). -/
def execDivn (h : Hdr) (sd sa sb : BitVec 5) (s : State) : Host.Outcome State Fault Refusal :=
  (s.divide h sd sa sb (s.S sa / s.S sb)).done s
/-- AND (R244). -/
def execAnd (h : Hdr) (sd sa sb : BitVec 5) (s : State) : Host.Outcome State Fault Refusal :=
  (s.alu h [sa, sb] sd 1 (s.S sa &&& s.S sb)).done s
/-- OR (R244). -/
def execOr (h : Hdr) (sd sa sb : BitVec 5) (s : State) : Host.Outcome State Fault Refusal :=
  (s.alu h [sa, sb] sd 1 (s.S sa ||| s.S sb)).done s
/-- XOR (R244). -/
def execXor (h : Hdr) (sd sa sb : BitVec 5) (s : State) : Host.Outcome State Fault Refusal :=
  (s.alu h [sa, sb] sd 1 (s.S sa ^^^ s.S sb)).done s
/-- ANDN (R244): Sa AND NOT Sb. -/
def execAndn (h : Hdr) (sd sa sb : BitVec 5) (s : State) : Host.Outcome State Fault Refusal :=
  (s.alu h [sa, sb] sd 1 (s.S sa &&& ~~~(s.S sb))).done s
/-- SHL (R244): by Sb[5:0]. -/
def execShl (h : Hdr) (sd sa sb : BitVec 5) (s : State) : Host.Outcome State Fault Refusal :=
  (s.alu h [sa, sb] sd 1 (s.S sa <<< ((s.S sb).toNat % 64))).done s
/-- SHRL (R244): logical, by Sb[5:0]. -/
def execShrl (h : Hdr) (sd sa sb : BitVec 5) (s : State) : Host.Outcome State Fault Refusal :=
  (s.alu h [sa, sb] sd 1 (s.S sa >>> ((s.S sb).toNat % 64))).done s
/-- SHRA (R244): arithmetic, by Sb[5:0]. -/
def execShra (h : Hdr) (sd sa sb : BitVec 5) (s : State) : Host.Outcome State Fault Refusal :=
  (s.alu h [sa, sb] sd 1 ((s.S sa).sshiftRight ((s.S sb).toNat % 64))).done s
/-- MINS (R244). -/
def execMins (h : Hdr) (sd sa sb : BitVec 5) (s : State) : Host.Outcome State Fault Refusal :=
  (s.alu h [sa, sb] sd 1 (if (s.S sa).sle (s.S sb) then s.S sa else s.S sb)).done s
/-- MAXS (R244). -/
def execMaxs (h : Hdr) (sd sa sb : BitVec 5) (s : State) : Host.Outcome State Fault Refusal :=
  (s.alu h [sa, sb] sd 1 (if (s.S sa).sle (s.S sb) then s.S sb else s.S sa)).done s
/-- MINN (R244). -/
def execMinn (h : Hdr) (sd sa sb : BitVec 5) (s : State) : Host.Outcome State Fault Refusal :=
  (s.alu h [sa, sb] sd 1 (if (s.S sa).ule (s.S sb) then s.S sa else s.S sb)).done s
/-- MAXN (R244). -/
def execMaxn (h : Hdr) (sd sa sb : BitVec 5) (s : State) : Host.Outcome State Fault Refusal :=
  (s.alu h [sa, sb] sd 1 (if (s.S sa).ule (s.S sb) then s.S sb else s.S sa)).done s
/-- SEL (R244, R246): Sa when Qs is true, else Sb. -/
def execSel (h : Hdr) (sd sa sb : BitVec 5) (qsel : BitVec 3) (s : State) : Host.Outcome State Fault Refusal :=
  let t := s.me
  (s.plain h [t.sp sa, t.sp sb, t.qp qsel] [(t.sp sd, 1)]
    (.go (s.latch (t.sp sd) 1 ((if t.qreg qsel then s.S sa else s.S sb).setWidth 512)))).done s
/-- CLZ (R244): 64 for zero. -/
def execClz (h : Hdr) (sd sa : BitVec 5) (s : State) : Host.Outcome State Fault Refusal :=
  (s.alu h [sa] sd 1 (BitVec.ofNat 64 (leadingZeros (s.S sa) 64))).done s
/-- POPC (R244). -/
def execPopc (h : Hdr) (sd sa : BitVec 5) (s : State) : Host.Outcome State Fault Refusal :=
  (s.alu h [sa] sd 1 (BitVec.ofNat 64 (setBits (s.S sa) 64))).done s
/-- BFX.I (R244). -/
def execBfxI (h : Hdr) (sd sa : BitVec 5) (width : BitVec 7) (lsb : BitVec 6) (s : State) :
    Host.Outcome State Fault Refusal :=
  (s.alu h [sa] sd 1 (bitField (s.S sa) lsb.toNat width.toNat true)).done s
/-- BFX.N (R244). -/
def execBfxN (h : Hdr) (sd sa : BitVec 5) (width : BitVec 7) (lsb : BitVec 6) (s : State) :
    Host.Outcome State Fault Refusal :=
  (s.alu h [sa] sd 1 (bitField (s.S sa) lsb.toNat width.toNat false)).done s
/-- BFI (R244): reads Sd. -/
def execBfi (h : Hdr) (sd sa : BitVec 5) (width : BitVec 7) (lsb : BitVec 6) (s : State) :
    Host.Outcome State Fault Refusal :=
  (s.alu h [sd, sa] sd 1 (bitInsert (s.S sd) (s.S sa) lsb.toNat width.toNat)).done s
/-- MOVI (R244). -/
def execMovi (h : Hdr) (sd : BitVec 5) (imm : BitVec 36) (s : State) : Host.Outcome State Fault Refusal :=
  (s.alu h [] sd 1 (imm.signExtend 64)).done s
/-- MOVH (R244): reads Sd; bits 35:0 kept. -/
def execMovh (h : Hdr) (sd : BitVec 5) (imm : BitVec 28) (s : State) : Host.Outcome State Fault Refusal :=
  (s.alu h [sd] sd 1 (imm ++ (s.S sd).extractLsb' 0 36)).done s
/-- LEA (R244): Sa + (Sb << sc) + sext(disp34). -/
def execLea (h : Hdr) (sd sa sb : BitVec 5) (sc : BitVec 2) (disp : BitVec 34) (s : State) :
    Host.Outcome State Fault Refusal :=
  (s.alu h [sa, sb] sd 1 (s.S sa + (s.S sb <<< sc.toNat) + disp.signExtend 64)).done s

/-- A write of a predicate with latency 1 (R246). -/
def State.setQ (s : State) (h : Hdr) (rs : List PReg) (qd : BitVec 3) (v : Bool) : Act :=
  let t := s.me
  s.plain h rs [(t.qp qd, 1)] (.go (s.latch (t.qp qd) 1 (boolRow v)))

/-- CMP, register form (R246). -/
def execCmpReg (h : Hdr) (qd : BitVec 3) (sa sb : BitVec 5) (cond : BitVec 4) (s : State) :
    Host.Outcome State Fault Refusal :=
  (s.setQ h [s.me.sp sa, s.me.sp sb] qd (condHolds cond (s.S sa) (s.S sb))).done s
/-- CMP, immediate form (R246). -/
def execCmpImm (h : Hdr) (qd : BitVec 3) (sa : BitVec 5) (imm : BitVec 32) (cond : BitVec 4) (s : State) :
    Host.Outcome State Fault Refusal :=
  (s.setQ h [s.me.sp sa] qd (condHolds cond (s.S sa) (imm.signExtend 64))).done s
/-- QOP (R246). -/
def execQop (h : Hdr) (qd qa qb : BitVec 3) (qop : BitVec 2) (s : State) : Host.Outcome State Fault Refusal :=
  (s.setQ h [s.me.qp qa, s.me.qp qb] qd (qopOf qop (s.me.qreg qa) (s.me.qreg qb))).done s

/-- The address of LDS and STS: S[a] + sext(off) in 64 bits (R248). -/
def State.spAddr (s : State) (sa : BitVec 5) (off : BitVec 32) : Word := s.S sa + off.signExtend 64

/-- A scratchpad access of one line: its checks, its bank, and then its effect (R131, R248). -/
def State.spAccess (s : State) (a : Word) (w : Nat) (write : Bool) (eff : State → State) : Act :=
  match spCheck a w w write with
  | some f => .fault f
  | none =>
    match s.myCore.reserveBanks s.cur s.cycle (bankOne s.cycle a.toNat) with
    | none => .wait s false
    | some k => .go (eff (s.modMyCore (fun _ => k)))

/-- The state with an issued scratchpad access of the stream, made from the next cycle on. -/
def State.spIssue (s : State) (op : SpOp) (a : Nat) : State :=
  s.modMe (fun t => { t with accs := t.accs ++ [⟨op, a, s.word, s.cycle, s.cycle + 1, 0⟩] })

/-- LDS (R248): reads in cycle c + 1; the value, extended under R72, lands in cycle c + 4. -/
def execLds (h : Hdr) (sd sa : BitVec 5) (wk : BitVec 4) (off : BitVec 32) (s : State) :
    Host.Outcome State Fault Refusal :=
  let t := s.me
  (s.plain h [t.sp sa] [(t.sp sd, 4)]
    (s.spAccess (s.spAddr sa off) (wkBytes wk) false (fun s' =>
      (s'.modMe (fun u => u.latch s.cycle (t.sp sd) 4 none)).spIssue (.load (t.sp sd) wk) (s.spAddr sa off).toNat))).done s

/-- STS (R248): writes the low bytes of Sb in cycle c + 1. -/
def execSts (h : Hdr) (sa sb : BitVec 5) (wk : BitVec 4) (off : BitVec 32) (s : State) :
    Host.Outcome State Fault Refusal :=
  let t := s.me
  (s.plain h [t.sp sa, t.sp sb] []
    (s.spAccess (s.spAddr sa off) (wkBytes wk) true (fun s' =>
      s'.spIssue (.store (wkBytes wk) (s.S sb)) (s.spAddr sa off).toNat))).done s

end Sys2Proof.Machine
end

