-- ==== Sys2Proof/Machine/Control.lean ====
section
/-! DEFINITION. Machine/Control.lean: the split branch, loops, mask votes, outcome steering, QCUT and the system forms
(R249 to R262). A class-C word is the last of its group to take effect, so its group reads what stood before it (R51). -/
namespace Sys2Proof.Machine

/-- NOP (R262). -/
def execNop (h : Hdr) (s : State) : Host.Outcome State Fault Refusal := (s.plain h [] [] (.go s)).done s

/-! ## Transfers -/

/-- PBR (R251): Jk := the address of the PBR word + 8 x OFF, landing after one cycle; the target half is refilled. -/
def execPbr (h : Hdr) (j : BitVec 3) (off : BitVec 41) (s : State) : Host.Outcome State Fault Refusal :=
  let a := s.word + (off.signExtend 64 <<< 3)
  (s.plain h [] []
    (.go ((s.latch (.j j.toNat) 1 (a.setWidth 512)).modMe (fun t => { t with pbr := some (codeAddr a, s.cycle) })))).done s

/-- The cycle before which the first group at `target` does not issue, for a form issued in cycle `b` (R250): f + 6, where f
is the cycle that prepared the target, or `b` when it is not prepared. -/
def Stream.readyAt (t : Stream) (b : Nat) (target : Word) : Nat :=
  let f (p : Option (Word × Nat)) : Option Nat := match p with
    | some (a, c) => if a = target then some c else none
    | none => none
  match f t.pbr, f t.ret with
  | some x, some y => min x y + 6
  | some x, none => x + 6
  | none, some y => y + 6
  | none, none => b + 6

/-- The transfer-class form issues: two delay groups follow, and then its target where it transfers (R249). -/
def State.depart (s : State) (target : Option Word) (call : Bool) : State :=
  s.modMe (fun t => { t with xfer := { left := 2, target := target, call := call,
                                       ready := match target with | some a => t.readyAt s.cycle a | none => 0 } })

/-- A transfer-class form in a delay group of another raises ILLEGAL (R249). -/
def State.nested (s : State) (a : Act) : Act := if 0 < s.me.xfer.left then .fault { code := .illegal } else a

/-- A transfer to Jk, or PERM where bits 63:48 of it are not zero (R252). -/
def State.goTo (s : State) (j : BitVec 3) (taken call : Bool) (eff : State → State) : Act :=
  let a := s.me.jreg j
  if !taken then .go (eff (s.depart none false))
  else if a.extractLsb' 48 16 != 0 then .fault { code := .perm, addr := a, info := 10 }
  else .go (eff (s.depart (some a) call))

/-- BRQ (R252). -/
def execBrq (h : Hdr) (j qc : BitVec 3) (s : State) : Host.Outcome State Fault Refusal :=
  (s.nested (s.slot h [s.me.qp qc] [] (.go (s.depart none false)) (s.goTo j (s.me.qreg qc) false id))).done s
/-- BR (R252). -/
def execBr (h : Hdr) (j : BitVec 3) (s : State) : Host.Outcome State Fault Refusal :=
  (s.nested (s.slot h [] [] (.go (s.depart none false)) (s.goTo j true false id))).done s
/-- CALL (R252): J0 and the return slot are written when the second delay group issues. -/
def execCall (h : Hdr) (j : BitVec 3) (s : State) : Host.Outcome State Fault Refusal :=
  (s.nested (s.slot h [] [] (.go (s.depart none false)) (s.goTo j true true id))).done s
/-- RET (R252): as BR; its target is prepared through the return slot. -/
def execRet (h : Hdr) (j : BitVec 3) (s : State) : Host.Outcome State Fault Refusal :=
  (s.nested (s.slot h [] [] (.go (s.depart none false)) (s.goTo j true false id))).done s

/-- LOOP's counters: LC, EC, the stage predicate, whether it rotates and whether it transfers (R256). -/
def loopNext (lc : BitVec 32) (ec : BitVec 8) : BitVec 32 × BitVec 8 × Bool × Bool × Bool :=
  if lc ≠ 0 then (lc - 1, ec, true, true, true)
  else if 1 < ec.toNat then (lc, ec - 1, false, true, true)
  else if ec = 1 then (lc, 0, false, true, false)
  else (lc, ec, false, false, false)

/-- The stream after LOOP has counted and rotated (R256): the register that Q4 names next takes the stage value. -/
def Stream.rotate (t : Stream) : Stream :=
  let n := loopNext t.lc t.ec
  if n.2.2.2.1 then
    let b := t.rotb - 1
    { t with lc := n.1, ec := n.2.1, rotb := b, q := t.q.put (4 + b.toNat % 4) n.2.2.1 }
  else t

/-- LOOP (R256). Predicated off, it changes nothing. -/
def execLoop (h : Hdr) (j : BitVec 3) (s : State) : Host.Outcome State Fault Refusal :=
  let n := loopNext s.me.lc s.me.ec
  (s.nested (s.slot h [] [] (.go (s.depart none false))
    (s.goTo j n.2.2.2.2 false (fun u => u.modMe Stream.rotate)))).done s

/-- ROTZ (R257). -/
def execRotz (h : Hdr) (s : State) : Host.Outcome State Fault Refusal :=
  (s.plain h [] [] (.go (s.modMe (fun t => { t with rotb := 0 })))).done s

/-- ANYM (R254). -/
def execAnym (h : Hdr) (qd mk : BitVec 3) (s : State) : Host.Outcome State Fault Refusal :=
  let t := s.me
  (s.plain h [.m mk.toNat] [(t.qp qd, 1)] (.go (s.latch (t.qp qd) 1 (boolRow (t.mreg mk != 0))))).done s
/-- ALLM (R254). -/
def execAllm (h : Hdr) (qd mk : BitVec 3) (s : State) : Host.Outcome State Fault Refusal :=
  let t := s.me
  (s.plain h [.m mk.toNat] [(t.qp qd, 1)] (.go (s.latch (t.qp qd) 1 (boolRow (t.mreg mk == BitVec.allOnes 512))))).done s

/-- BRO (R255): waits for a filled slot, consumes its bit whether or not it executes, and transfers when it executes and the
bit is 1. -/
def execBro (h : Hdr) (j : BitVec 3) (hd : BitVec 4) (s : State) : Host.Outcome State Fault Refusal :=
  let r := s.myCore.ring hd.toNat
  let p := s.myCore.ringBefore hd.toNat
  let take (u : State) : State := u.modMyCore (fun k => { k with rings := k.rings.put hd.toNat (r.consume 1) })
  let act (ex : Bool) : Act :=
    if r.kind ≠ .outcome then .fault (ringFault hd.toNat 0 false)
    else if 1 ≤ p.filled.toNat ∧ 1 ≤ r.filled.toNat then s.goTo j (ex && r.outcome r.ci.toNat) false take
    else .wait s false
  (s.nested (s.slot h [] [] (act false) (act true))).done s

/-! ## QCUT -/

/-- The loop tag of an engine command, OP 0x80 to 0x95 (R68, R258). -/
def tagOf : Instr → Option Nat
  | .mmaDb8 _ e .. | .mmaDb4 _ e .. | .mmaI8 _ e .. | .mma2 _ e .. | .sldDb8 _ e .. | .sldDb4 _ e .. | .sldI8 _ e ..
  | .sldB16 _ e .. | .sswap _ e .. | .mrot _ e .. | .mfixF32 _ e .. | .mfixB16 _ e .. | .mfixI8 _ e .. | .mfixDb8 _ e ..
  | .mfixDb4 _ e .. | .mzero _ e .. | .cpyLd _ e .. | .cpySt _ e .. | .gath _ e .. | .scat _ e .. | .fillLd _ e ..
  | .fillSt _ e .. => some e.tag.toNat
  | _ => none

/-- An entry that a cut over tags `lo` to `hi` made in cycle `now` cancels: an engine command of an earlier group that has
not started (R258). A cancelled entry meets its checks as skipped work, so a fault it held is dropped (R231). -/
def QEntry.cut (lo hi now : Nat) (e : QEntry) : QEntry :=
  match tagOf e.instr with
  | some t => if lo ≤ t ∧ t ≤ hi ∧ e.entered < now ∧ !e.started then { e with cancel := true, fault := none } else e
  | none => e

/-- The entry as a start in cycle `now` sees it: a QCUT of the same cycle has not reached a command that starts in it (R258). -/
def QEntry.spared (now : Nat) (e : QEntry) : QEntry := if e.cancel ∧ e.cutAt = now then { e with cancel := false } else e

/-- The entries of a queue after a group that may have cut them in cycle `now`; `old` is the queue before it. An entry that held a fault cannot
start in that cycle. -/
def stampCuts (now : Nat) (old new : List QEntry) : List QEntry :=
  new.map (fun e => if e.cancel && old.any (fun o => o.number == e.number && !o.cancel && o.fault.isNone) then { e with cutAt := now } else e)

/-- The stream after a group of cycle `now`; `old` is the stream before it. -/
def Stream.stamped (t : Stream) (now : Nat) (old : Stream) : Stream :=
  { t with ldq := stampCuts now old.ldq t.ldq, mxq := stampCuts now old.mxq t.mxq, stq := stampCuts now old.stq t.stq,
           gate := { t.gate with cycle := max t.gate.cycle old.gate.cycle } }

/-- The stream with its queued, unstarted commands of tags `lo` to `hi` cancelled (R258, R343). -/
def Stream.cutTags (t : Stream) (lo hi now : Nat) : Stream :=
  { t with ldq := t.ldq.map (QEntry.cut lo hi now), mxq := t.mxq.map (QEntry.cut lo hi now),
           stq := t.stq.map (QEntry.cut lo hi now) }

/-- QCUT (R258). -/
def execQcut (h : Hdr) (hi lo : BitVec 6) (s : State) : Host.Outcome State Fault Refusal :=
  (s.plain h [] [] (.go (s.modMe (fun t => t.cutTags lo.toNat hi.toNat s.cycle)))).done s

/-! ## System forms -/

/-- WAIT (R262). -/
def execWait (h : Hdr) (n : BitVec 16) (s : State) : Host.Outcome State Fault Refusal :=
  (s.plain h [] [] (.go (s.modMe (fun t => { t with gate := { t.gate with cycle := s.cycle + 1 + n.toNat } })))).done s

/-- YIELD (R262). -/
def execYield (h : Hdr) (s : State) : Host.Outcome State Fault Refusal :=
  (s.plain h [] [] (.go (s.modMe (fun t => { t with gate := { t.gate with ynew := true, ycyc := s.cycle } })))).done s

/-- The fault held in the access queue, which a HALT or TEND of the stream delivers (R272). -/
def Stream.aqFault (t : Stream) : Option FaultInfo := t.aq.findSome? (fun e => e.fault)

/-- The writes of stream `g` performed at level `lv` or wider (R268). -/
def State.perform (s : State) (g lv : Nat) : State :=
  { s with tracks := s.tracks.map (fun k => if k.gsid = g ∧ k.write ∧ k.level < lv then { k with level := lv } else k) }

/-- HALT (R262): no further group; a release at .V; a pending transfer is discarded (R253). A kill by a word of the same group absorbs
it (R378). -/
def execHalt (h : Hdr) (s : State) : Host.Outcome State Fault Refusal :=
  (s.plain h [] []
    (if s.me.task.killed then .go s else match s.me.aqFault with
     | some f => .fault f
     | none => s.sync (.go ((s.perform s.cur 4).modMe (fun t =>
         { t with status := .halted, xfer := {}, region := t.region + 1 }))))).done s

/-- TRAP (R262): the group completes and the stream parks before its next group, with a record of the trap kind carrying n. -/
def execTrap (h : Hdr) (n : BitVec 16) (s : State) : Host.Outcome State Fault Refusal :=
  (s.plain h [] [] (.go (s.park s.cur 1 { code := .trap, word := s.word, addr := n.setWidth 64 }))).done s

/-- STRCTL as SYSRD reads it. -/
def Stream.strctl (t : Stream) (g : Nat) : Word :=
  BitVec.ofNat 64 ((g / 4) * 2 ^ 32 + (g % 4) * 2 ^ 16 + (if t.mark then 2 else 0) + if t.expchk then 1 else 0)
/-- CCTL. -/
def Core.cctl (k : Core) : Word := BitVec.ofNat 64 ((if k.trsaw then 2 else 0) + if k.detmode then 1 else 0)

/-- Lines resident in L2 slice `sl` of die `d` filled under CPID `p` (R121). The L2 table numbers a line
((192 d + slice) 128 + set) 16 + way. -/
def State.occ (s : State) (d sl p : Nat) : Nat :=
  (s.l2.entries.filter (fun e => decide (e.1 / 2048 = 192 * d + sl) && decide (e.2.cpid = p))).length

/-- The value of a control register (R62). -/
def State.control (s : State) (reg : Nat) : Word :=
  let t := s.me
  let k := s.myCore
  if reg = 1 then t.strctl s.cur
  else if reg = 2 then k.cctl
  else if reg = 0x10 then t.cpid.setWidth 64
  else if reg < 0x20 then s.waymask.get 0xFFFFFFFFFFFFFFFF#64 (reg - 0x18)
  else if reg = 0x20 then s.homemaps.get 0 (s.ctxOf (s.cur / 4))
  else if reg < 0x38 then s.fmtBase.get 0 (reg - 0x30)
  else if reg < 0x40 then s.fmtScale.get 0 (reg - 0x38)
  else if reg = 0x40 then s.jpair
  else if reg < 0x60 then (s.incs.get {} (reg - 0x50)).cfg
  else if reg = 0x60 then k.ringLock.setWidth 64
  else if reg = 0x100 then t.lc.setWidth 64
  else if reg = 0x101 then t.ec.setWidth 64
  else if reg = 0x102 then t.rotb.setWidth 64
  else BitVec.ofNat 64 (s.occ (dieOf (s.cur / 4)) ((reg - 0x1000) / 8) ((reg - 0x1000) % 8))

/-- SYSRD (R259): latency 2, or 24 for an OCC read. -/
def execSysrd (h : Hdr) (sd : BitVec 5) (reg : BitVec 16) (s : State) : Host.Outcome State Fault Refusal :=
  (s.alu h [] sd (if 0x1000 ≤ reg.toNat then 24 else 2) (s.control reg.toNat)).done s

/-- The PERM fault of a SYSWR that would change a privileged field (R62). -/
def privFault : FaultInfo := { code := .perm }

/-- SYSWR to a register with no row of its own (R62, R163, R259): seen by the next group; PERM without privilege when a
privileged field would change. -/
def execSyswr (h : Hdr) (sa : BitVec 5) (reg : BitVec 16) (s : State) : Host.Outcome State Fault Refusal :=
  let t := s.me
  let k := s.myCore
  let v := t.sreg sa
  let priv := (s.launchOf (s.cur / 4)).priv
  let guard (changes : Bool) (u : State) : Act := if changes && !priv then .fault privFault else .go u
  let n := reg.toNat
  (s.plain h [t.sp sa] []
    (if n = 1 then
      guard (v.getLsbD 0 != t.expchk || v.getLsbD 1 != t.mark)
        (s.modMe (fun u => { u with expchk := v.getLsbD 0, mark := v.getLsbD 1 }))
    else if n = 2 then
      guard (v.getLsbD 0 != k.detmode || v.getLsbD 1 != k.trsaw)
        (s.modMyCore (fun c => { c with detmode := v.getLsbD 0, trsaw := v.getLsbD 1 }))
    else if n = 0x10 then
      guard (v.setWidth 3 != t.cpid) (s.modMe (fun u => { u with cpid := v.setWidth 3 }))
    else if n = 0x60 then .go (s.modMyCore (fun c => { c with ringLock := v.setWidth 16 }))
    else if n = 0x100 then .go (s.modMe (fun u => { u with lc := v.setWidth 32 }))
    else if n = 0x101 then .go (s.modMe (fun u => { u with ec := v.setWidth 8 }))
    else .go (s.modMe (fun u => { u with rotb := v.setWidth 4 })))).done s

/-- RDCYC (R261). -/
def execRdcyc (h : Hdr) (sd : BitVec 5) (s : State) : Host.Outcome State Fault Refusal :=
  (s.alu h [] sd 1 (BitVec.ofNat 64 s.cycle)).done s

end Sys2Proof.Machine
end

