-- ==== Sys2Proof/Machine/Segment.lean ====
section
/-! DEFINITION. Machine/Segment.lean: signed segments (R388, R389), and the start of an item's end by a kill (R343). -/
namespace Sys2Proof.Machine

/-- One bit of CRC-32C, reflected polynomial 0x82F63B78. -/
def crcBit (c : BitVec 32) : BitVec 32 := if c.getLsbD 0 then (c >>> 1) ^^^ 0x82F63B78#32 else c >>> 1
/-- One byte of CRC-32C. -/
def crcByte (c : BitVec 32) (b : Byte) : BitVec 32 :=
  let x := c ^^^ b.setWidth 32
  crcBit (crcBit (crcBit (crcBit (crcBit (crcBit (crcBit (crcBit x)))))))
/-- The `n` low bytes of `v`, least significant first. -/
def crcNat (c : BitVec 32) : Nat → Nat → BitVec 32
  | 0, _ => c
  | n + 1, v => crcNat (crcByte c (BitVec.ofNat 8 v)) n (v / 256)

/-- A SEGMENT fault (R373): computed signature, computed count, and whether SEG or SEGEND is misplaced. -/
def segFault (crc : BitVec 32) (n : Nat) (misplaced : Bool) : FaultInfo :=
  { code := .segment, info := BitVec.ofNat 64 ((crc ^^^ 0xFFFFFFFF#32).toNat + n % 2 ^ 19 * 2 ^ 32 +
      if misplaced then 2 ^ 63 else 0) }

/-- The outcome byte of a group (R388): execute flags in bits 3:0, bit 4 where a transfer-class form transfers. -/
def outcomeByte (flags : List Bool) (transfers : Bool) : Byte :=
  let f (i : Nat) : Nat := if flags.getD i false then 2 ^ i else 0
  BitVec.ofNat 8 (f 0 + f 1 + f 2 + f 3 + if transfers then 16 else 0)

/-- A group that has issued with effect while the segment `before` was open is counted (R388). SEG's own group found it
closed, and SEGEND's closes it. -/
def State.countGroup (s : State) (before : Seg) (words : List Word) (flags : List Bool) (transferForm : Bool) :
    State :=
  let t := s.me
  if before.isOpen && t.seg.isOpen then
    let crc := words.foldl (fun c w => crcNat c 8 w.toNat) t.seg.crc
    let crc := crcByte crc (outcomeByte flags (transferForm && t.xfer.target.isSome && t.xfer.left == 2))
    let n := t.seg.n + 1
    let u := s.modMe (fun x => { x with seg := { x.seg with crc := crc, n := n } })
    if n = 524288 then u.parkCore (s.cur / 4) { segFault crc n false with word := 0 } else u
  else s

/-- A kill takes effect: unstarted engine commands are cancelled, the segment closes unchecked, and the stream proceeds as
at TEND (R343, R389). -/
def State.beginEnd (s : State) (g : Nat) : State :=
  s.modStream g (fun t =>
    { t.cutTags 0 63 s.cycle with
      status := .atTend, xfer := {}, seg := { t.seg with isOpen := false }, region := t.region + 1 })

/-- A bound is dominated by the shadow of slot `n` of core `c` for context `ctx` (R336, R337). `ty` is the type the bound was
given under, when that must match. -/
def State.dominated (s : State) (c n : Nat) (b : BitVec 32) (ty : Option Bool) : Bool :=
  let cfg := (s.incs.get {} n).cfg
  let v := (s.shadows.get (0, 0) (16 * c + n)).1
  let usable := cfg.getLsbD 63 && decide ((cfg.extractLsb' 32 12).toNat = s.ctxOf c)
  let f32 := cfg.getLsbD 61
  let nan (x : BitVec 32) : Bool := decide (0x7F800000 < x.toNat % 2 ^ 31)
  let key (x : BitVec 32) : Int :=
    if f32 then (if x.getLsbD 31 then -((x.toNat % 2 ^ 31 : Nat) : Int) else x.toNat) else x.toInt
  let le := if cfg.getLsbD 62 then decide (key v ≤ key b) else decide (key b ≤ key v)
  usable && (match ty with | some t => t == f32 | none => true) && !(f32 && (nan b || nan v)) && le

/-- SEG (R388): a kill check at issue, then the segment opens, or SEGMENT where one is open. -/
def execSeg (h : Hdr) (count : BitVec 19) (sig : BitVec 32) (s : State) : Host.Outcome State Fault Refusal :=
  let t := s.me
  (s.plain h [] []
    (if t.task.active && t.task.ben && s.dominated (s.cur / 4) t.task.inc.toNat t.task.bound (some t.task.btype) then
      .leave ((s.modMe (fun u => { u with task := { u.task with killed := true } })).beginEnd s.cur)
     else if t.seg.isOpen then .coreFault (segFault t.seg.crc t.seg.n true)
     else .go (s.modMe (fun u => { u with seg := ⟨true, 0, 0xFFFFFFFF#32, count, sig⟩ })))).done s

/-- SEGEND (R388): SEGMENT where no segment is open, or where count or signature differ. -/
def execSegend (h : Hdr) (s : State) : Host.Outcome State Fault Refusal :=
  let t := s.me
  let u := s.modMe (fun u => { u with seg := { u.seg with isOpen := false } })
  (s.plain h [] []
    (if !t.seg.isOpen then .coreFault (segFault t.seg.crc t.seg.n true)
     else if t.seg.n ≠ t.seg.count.toNat ∨ (t.seg.crc ^^^ 0xFFFFFFFF#32) ≠ t.seg.sig then
       .coreFault (segFault t.seg.crc t.seg.n false)
     else .go u)).done s

end Sys2Proof.Machine
end

