-- ==== Sys2Proof/Machine/Queues.lean ====
section
/-! DEFINITION. Machine/Queues.lean: engine queues, tokens and reply channels, markers, held faults, footprints, and what
orders one command against another (R75, R142 to R146, R151, R157 to R159, R231, R430). -/
namespace Sys2Proof.Machine

/-! ## Queues by number: 0 LD, 1 MX, 2 ST, 3 AQ -/

/-- Queue `q` of a stream. -/
def Stream.queue (t : Stream) (q : Nat) : List QEntry :=
  match q with | 0 => t.ldq | 1 => t.mxq | 2 => t.stq | _ => t.aq
/-- The stream with queue `q` replaced. -/
def Stream.setQueue (t : Stream) (q : Nat) (l : List QEntry) : Stream :=
  match q with
  | 0 => { t with ldq := l } | 1 => { t with mxq := l } | 2 => { t with stq := l } | _ => { t with aq := l }
/-- Entry `n` of queue `q` changed. -/
def Stream.modEntry (t : Stream) (q n : Nat) (f : QEntry → QEntry) : Stream :=
  t.setQueue q ((t.queue q).map (fun e => if e.number = n then f e else e))
/-- Entry `n` of queue `q` removed. -/
def Stream.dropEntry (t : Stream) (q n : Nat) : Stream := t.setQueue q ((t.queue q).filter (fun e => e.number != n))
/-- An engine queue or access queue holds 16 entries (R75, R270). -/
def queueSize : Nat := 16
/-- A token FIFO holds 8 tokens (R142). -/
def fifoSize : Nat := 8
/-- A reply channel holds 16 tokens (R142). -/
def replySize : Nat := 16

/-- An entry put at the end of queue `q`. -/
def Stream.enter (t : Stream) (q : Nat) (e : QEntry) : Stream :=
  let n := t.counts.count q + 1
  let e := { e with number := n, region := t.region, clock := t.clock 4 }
  { t.setQueue q (t.queue q ++ [e]) with counts := t.counts.raise q n }

/-! ## Tokens (R142, R143, R332) -/

/-- The queue to the left in the circle LD, MX, ST, AQ. -/
def leftOf (q : Nat) : Nat := (q + 3) % 4
/-- The queue to the right. -/
def rightOf (q : Nat) : Nat := (q + 1) % 4
/-- The number of the FIFO from queue `q` to its right neighbour. -/
def fifoRight (q : Nat) : Nat := 2 * q
/-- The number of the FIFO from queue `q` to its left neighbour. -/
def fifoLeft (q : Nat) : Nat := 2 * q + 1
/-- A FIFO of a stream. -/
def Stream.fifo (t : Stream) (k : Nat) : List Clock := t.tokens.get [] k

/-- Token bits of an entry: pop from left and right, push to left and right. -/
def tokenBits : Instr → Bool × Bool × Bool × Bool
  | .mmaDb8 _ e .. | .mmaDb4 _ e .. | .mmaI8 _ e .. | .mma2 _ e .. | .sldDb8 _ e .. | .sldDb4 _ e .. | .sldI8 _ e ..
  | .sldB16 _ e .. | .sswap _ e .. | .mrot _ e .. | .mfixF32 _ e .. | .mfixB16 _ e .. | .mfixI8 _ e .. | .mfixDb8 _ e ..
  | .mfixDb4 _ e .. | .mzero _ e .. | .cpyLd _ e .. | .cpySt _ e .. | .gath _ e .. | .scat _ e .. | .fillLd _ e ..
  | .fillSt _ e .. => (e.pbl == 1, e.pbr == 1, e.pal == 1, e.par == 1)
  | .gld _ a | .gst _ a | .aaddN32 _ a | .aaddN64 _ a | .afaddF32 _ a | .afaddB16 _ a | .aminI32 _ a | .aminI64 _ a
  | .aminN32 _ a | .aminN64 _ a | .amaxI32 _ a | .amaxI64 _ a | .amaxN32 _ a | .amaxN64 _ a | .aandN32 _ a | .aandN64 _ a
  | .aorN32 _ a | .aorN64 _ a | .axorN32 _ a | .axorN64 _ a | .axchgN32 _ a | .axchgN64 _ a | .axchgN128 _ a
  | .acasN32 _ a | .acasN64 _ a | .acasN128 _ a | .aprom _ a | .fence _ a | .pf _ a | .linv _ a | .lwb _ a | .dvred _ a =>
      (a.pbl == 1, a.pbr == 1, a.pal == 1, a.par == 1)
  | _ => (false, false, false, false)

/-- One token popped from FIFO `k` into the clock of queue `q`. -/
def Stream.popFifo (t : Stream) (k q : Nat) : Stream :=
  match t.fifo k with
  | [] => t
  | c :: r => { t.learn q c with tokens := t.tokens.put k r }

/-- The pops of an entry of queue `q`, all in one cycle, where every FIFO concerned holds a token (R142). -/
def Stream.popTokens (t : Stream) (q : Nat) (i : Instr) : Option Stream :=
  let b := tokenBits i
  let l := fifoRight (leftOf q)
  let r := fifoLeft (rightOf q)
  if (b.1 && (t.fifo l).isEmpty) || (b.2.1 && (t.fifo r).isEmpty) then none
  else
    let t := if b.1 then t.popFifo l q else t
    some (if b.2.1 then t.popFifo r q else t)

/-- The most tokens that FIFO `k` takes from `q`: one more where the reserve slot is lent to it (R332). -/
def Core.room (k : Core) (i f : Nat) : Nat := if k.lent = some (i, f) then fifoSize + 1 else fifoSize

/-- The pushes of an entry of queue `q` of stream `i`, carrying clock `c`; none where a FIFO concerned is full (R142). -/
def Stream.pushTokens (t : Stream) (room : Nat → Nat) (q : Nat) (i : Instr) (c : Clock) : Option Stream :=
  let b := tokenBits i
  let l := fifoLeft q
  let r := fifoRight q
  if (b.2.2.1 && decide (room l ≤ (t.fifo l).length)) || (b.2.2.2 && decide (room r ≤ (t.fifo r).length)) then none
  else
    let t := if b.2.2.1 then { t with tokens := t.tokens.put l (t.fifo l ++ [c]) } else t
    some (if b.2.2.2 then { t with tokens := t.tokens.put r (t.fifo r ++ [c]) } else t)

/-- What is ordered before an entry of queue `q` when it performs: its queue's earlier entries, the tokens popped, and what
the stream had acquired when it issued (R143, R270). -/
def Stream.before (t : Stream) (q : Nat) (e : QEntry) : Clock := ((t.clock q).join e.clock).raise q (e.number - 1)

/-- The stream after entry `e` of queue `q` has retired and pushed: the queue's clock takes the entry in. -/
def Stream.retired (t : Stream) (q : Nat) (e : QEntry) : Stream := t.learn q (e.clock.raise q e.number)

/-! ## Engine commands entering their queues (R51, R75, R227) -/

/-- Slab number and tile-start bit of a command that captures configuration (R227). -/
def captures : Instr → Option Nat
  | .mmaDb8 _ _ _ b _ ts .. | .mmaDb4 _ _ _ b _ ts .. | .mmaI8 _ _ _ b _ ts .. | .mma2 _ _ _ b _ ts .. =>
      if ts = 1 then some b.toNat else none
  | .mzero _ _ b => some b.toNat
  | _ => none

/-- The configuration that an entry captures: the shadow set of its slab. -/
def Core.capture (k : Core) (i : Instr) : Word × Word :=
  match captures i with
  | some b => let l := k.slabs.get {} b; (l.fixSh, l.cfgSh)
  | none => (0, 0)

/-- An engine command `i` into queue `q` with the values of its S registers, predicated off or not (R144). -/
def State.enqueue (s : State) (q : Nat) (i : Instr) (x y z : Word) (skip : Bool) : Act :=
  let t := s.me
  let k := s.myCore
  if queueSize ≤ (t.queue q).length then .wait s false
  else
    let c := k.capture i
    let e : QEntry := { instr := i, va := s.word, x := x, y := y, z := z, conf := c.1, conf2 := c.2,
                        cpid := t.cpid.toNat, order := k.orders, entered := s.cycle, skip := skip }
    .go ((s.modMyCore (fun k => { k with orders := k.orders + 1 })).modMe (fun t => t.enter q e))

/-- An engine command that reads these S registers: SX, SY, SZ. It enters its queue whether or not it executes (R144). -/
def State.engine (s : State) (h : Hdr) (q : Nat) (i : Instr) (rs : List (BitVec 5)) (x y z : BitVec 5) : Act :=
  let t := s.me
  let put (skip : Bool) : Act := s.enqueue q i (t.sreg x) (t.sreg y) (t.sreg z) skip
  s.slot h (rs.map t.sp) [] (put true) (put false)

/-! ## Faults held at a queue's head (R151, R231, R272, R375) -/

/-- A fault held: the stream parks with its record, unless it is parked already, in which case the fault waits. -/
def State.parkHeld (s : State) (g : Nat) (f : FaultInfo) : State :=
  if (s.stream g).status = .parked then s else s.park g 0 f

/-- Entry `n` of queue `q` of stream `g` holds fault `f` from this cycle on. -/
def State.holdFault (s : State) (g q n : Nat) (f : FaultInfo) : State :=
  s.modStream g (fun t => t.modEntry q n (fun e => { e with fault := some f, faultAt := s.cycle + 1 }))

/-- An engine command that takes a fault: it stays at its queue's head and its stream parks (R151, R231). -/
def State.commandFault (s : State) (g q : Nat) (e : QEntry) (slab : Nat) (f : FaultInfo) : State :=
  let f := { f with src := if f.src = 0 then 2 else f.src, unit := q + 4 * slab, word := e.va, prog := e.prog }
  let s := if f.src = 4 then s.modStream g (fun t => { t with charge := none }) else s
  (s.holdFault g q e.number f).parkHeld g f

/-- The cycles in which the faults that a stream's queue heads and chain units held arose, with their queues, while they wait
to be evaluated again after a resumption; a chain unit stands with its queue. -/
def Stream.retries (t : Stream) : List (Nat × Nat) :=
  let head (q : Nat) : List (Nat × Nat) :=
    match (t.queue q).find? (fun e => !e.done && !e.started) with
    | some e => if e.fault.isNone && e.faultAt != 0 then [(e.faultAt, q)] else []
    | none => []
  let going (q : Nat) : List (Nat × Nat) :=
    match (t.queue q).head? with
    | some e => if e.started && e.fault.isNone && e.faultAt != 0 then [(e.faultAt, q)] else []
    | none => []
  let chain (c : Chain) (q : Nat) : List (Nat × Nat) := if c.fault.isNone && c.faultAt != 0 then [(c.faultAt, q)] else []
  head 0 ++ head 1 ++ head 2 ++ head 3 ++ going 0 ++ going 2 ++ chain t.ldChain 0 ++ chain t.stChain 2

/-- An operation that held a fault may be evaluated again: none that arose earlier still waits (R375). -/
def Stream.turn (t : Stream) (q faultAt : Nat) : Bool :=
  faultAt == 0 || t.retries.all (fun r => decide (faultAt < r.1 ∨ (faultAt = r.1 ∧ q ≤ r.2)))

/-! ## Footprints (R157 to R159) -/

/-- The footprint slot of an engine command. -/
def fpOf : Instr → Nat
  | .mmaDb8 _ e .. | .mmaDb4 _ e .. | .mmaI8 _ e .. | .mma2 _ e .. | .sldDb8 _ e .. | .sldDb4 _ e .. | .sldI8 _ e ..
  | .sldB16 _ e .. | .sswap _ e .. | .mrot _ e .. | .mfixF32 _ e .. | .mfixB16 _ e .. | .mfixI8 _ e .. | .mfixDb8 _ e ..
  | .mfixDb4 _ e .. | .mzero _ e .. | .cpyLd _ e .. | .cpySt _ e .. | .gath _ e .. | .scat _ e .. | .fillLd _ e ..
  | .fillSt _ e .. => e.fp.toNat
  | _ => 0
/-- Slot `n` of a stream's footprints. -/
def Stream.slotOf (t : Stream) (n : Nat) : Foot := t.foot.get {} n

/-- A FOOTPRINT fault (R373). -/
def footFault (a : Word) (slot : Nat) (undeclared conflict : Bool) : FaultInfo :=
  { code := .footprint, addr := a,
    info := BitVec.ofNat 64 (slot + (if undeclared then 32 else 0) + if conflict then 64 else 0) }

/-- `n` scratchpad bytes from `a` lie in a region. -/
def FRegion.holdsSp (r : FRegion) (a n : Nat) : Bool :=
  match r with | .sp b l => decide (n = 0 ∨ (b ≤ a ∧ a + n ≤ b + l)) | _ => decide (n = 0)
/-- `n` bytes of memory from `a` lie in a region. -/
def FRegion.holdsVa (r : FRegion) (a n : Nat) : Bool :=
  match r with | .va b l => decide (n = 0 ∨ (b ≤ a ∧ a + n ≤ b + l)) | _ => decide (n = 0)
/-- Two regions share a scratchpad byte. -/
def FRegion.meetsSp : FRegion → FRegion → Bool
  | .sp a m, .sp b n => decide (a < b + n ∧ b < a + m)
  | _, _ => false
/-- Two regions share a byte of memory. -/
def FRegion.meetsVa : FRegion → FRegion → Bool
  | .va a m, .va b n => decide (a < b + n ∧ b < a + m)
  | _, _ => false

/-- A write region of one overlaps a read or write region of the other, by `meets`. -/
def Foot.conflicts (meets : FRegion → FRegion → Bool) (a b : Foot) : Bool :=
  meets a.wr b.wr || meets a.wr b.rd || meets a.rd b.wr

/-- A command whose scratchpad regions the checker compares: every copy command, and a matrix command that touches scratchpad; the others
need only a declared slot (R157, R158). -/
def touchesSp : Instr → Bool
  | .sldDb8 .. | .sldDb4 .. | .sldI8 .. | .sldB16 .. | .cpyLd .. | .cpySt .. | .gath .. | .scat .. | .fillLd .. | .fillSt .. => true
  | .mfixF32 _ _ _ _ _ d _ _ | .mfixB16 _ _ _ _ _ d _ _ | .mfixI8 _ _ _ _ _ d _ _ | .mfixDb8 _ _ _ _ _ d _ _
  | .mfixDb4 _ _ _ _ _ d _ _ => d == 0
  | _ => false

/-- The footprints of the commands and chain entries of a core in execution (R158). -/
def Core.executing (k : Core) : List Foot :=
  let one (i : Nat) : List Foot :=
    let t := k.stream i
    let q (l : List QEntry) : List Foot := (l.filter (fun e => e.started && touchesSp e.instr && !e.skip && !e.cancel)).map (fun e => t.slotOf (fpOf e.instr))
    let c (u : Chain) : List Foot := if u.run && u.waited then u.fp.toList.map t.slotOf else []
    q t.ldq ++ q t.mxq ++ q t.stq ++ c t.ldChain ++ c t.stChain
  one 0 ++ one 1 ++ one 2 ++ one 3

/-- The checker of R158: the starting command's footprint conflicts with one in execution. DETMODE is as at the start of the cycle: a SYSWR of it
retires with its cycle, and applies to what starts after that (R163, R259). -/
def Core.checker (k : Core) (f : Foot) : Bool := k.detStart && k.executing.any (fun o => f.conflicts FRegion.meetsSp o)

/-- The footprints of the engine commands and chain entries of a core that entered before `order` and have not retired (R159). -/
def Core.earlier (k : Core) (order : Nat) : List Foot :=
  let one (i : Nat) : List Foot :=
    let t := k.stream i
    let q (l : List QEntry) : List Foot :=
      (l.filter (fun e => (tagOf e.instr).isSome && decide (e.order < order))).map (fun e => t.slotOf (fpOf e.instr))
    let c (u : Chain) : List Foot := if u.run && decide (u.order < order) then u.fp.toList.map t.slotOf else []
    q t.ldq ++ q t.mxq ++ q t.stq ++ c t.ldChain ++ c t.stChain
  one 0 ++ one 1 ++ one 2 ++ one 3

/-- The tracker holds a command back (R159). -/
def Core.tracked (k : Core) (order : Nat) (f : Foot) : Bool := (k.earlier order).any (fun o => f.conflicts FRegion.meetsVa o)

/-- The scratchpad writes of stream forms that the stream issued in groups up to cycle `entered` have landed (R430). -/
def Stream.landedBy (t : Stream) (entered : Nat) : Bool := t.accs.all (fun a => !(a.op.writes && decide (a.issued ≤ entered)))

/-! ## Markers (R145) -/

/-- TKSEND, the same whether or not it executes (R145). -/
def execTksend (h : Hdr) (q : BitVec 2) (s : State) : Host.Outcome State Fault Refusal :=
  let full := decide (queueSize ≤ (s.me.queue q.toNat).length)
  let e : QEntry := { instr := .tksend h q, va := s.word, entered := s.cycle }
  (s.always h []
    (if full then
      (match (if q = 3 then s.me.aqFault else none) with
       | some f => .fault f
       | none => .wait s false)
     else .go (s.modMe (fun t => t.enter q.toNat e)))).done s

/-- TOKEN_MARKER_START (R145): the marker at the head of engine queue `site.sub` (LD, MX or ST) of stream `site.unit` pushes its
reply token and retires; every earlier entry has retired, since entries leave their queue then. -/
def execTokenMarkerStart (s : State) : Host.Outcome State Fault Refusal :=
  let q := s.site.sub
  .next (s.modStream s.site.unit (fun t =>
    match t.queue q with
    | e :: r =>
      if isMarker e.instr && decide (q < 3) && decide ((t.replies.get [] q).length < replySize) then
        let c := t.before q e
        { (t.setQueue q r).retired q e with replies := t.replies.put q (t.replies.get [] q ++ [c.raise q e.number]) }
      else t
    | [] => t))

end Sys2Proof.Machine
end

