-- ==== Sys2Proof/Machine/Num.lean ====
section
/-! DEFINITION. Machine/Num.lean: integer and floating-point elements: decoding to exact values, one rounding, saturation,
comparison and conversion (R178 to R184, R197). -/
namespace Sys2Proof.Machine

/-! ## Exact values -/

/-- What a floating-point datum stands for: NaN, an infinity, a signed zero, or `m * 2^e` with `m` not zero. -/
inductive FVal where
  | nan
  | inf (neg : Bool)
  | zero (neg : Bool)
  | num (m e : Int)
  deriving DecidableEq, Repr

/-- A binary floating-point format (R179). -/
structure Fmt where
  ebits : Nat
  fbits : Nat
  deriving DecidableEq, Repr

/-- F32 (R179). -/
def f32 : Fmt := ⟨8, 23⟩
/-- F16 (R179). -/
def f16 : Fmt := ⟨5, 10⟩
/-- B16 (R179). -/
def b16 : Fmt := ⟨8, 7⟩

/-- The bits of a format's width. -/
def Fmt.width (f : Fmt) : Nat := 1 + f.ebits + f.fbits
/-- The exponent bias. -/
def Fmt.bias (f : Fmt) : Int := 2 ^ (f.ebits - 1) - 1
/-- +infinity. -/
def Fmt.infBits (f : Fmt) : Nat := (2 ^ f.ebits - 1) * 2 ^ f.fbits
/-- The canonical NaN (R180). -/
def Fmt.nanBits (f : Fmt) : Nat := f.infBits + 2 ^ (f.fbits - 1)
/-- The sign bit. -/
def Fmt.signBit (f : Fmt) : Nat := 2 ^ (f.ebits + f.fbits)

/-- Bits read in a format; subnormals keep their value (R180). -/
def Fmt.decode (f : Fmt) (x : Nat) : FVal :=
  let neg := decide (f.signBit ≤ x % (2 * f.signBit))
  let ex := x / 2 ^ f.fbits % 2 ^ f.ebits
  let fr := x % 2 ^ f.fbits
  if ex = 2 ^ f.ebits - 1 then (if fr = 0 then .inf neg else .nan)
  else
    let m : Int := if ex = 0 then fr else fr + 2 ^ f.fbits
    let e : Int := (if ex = 0 then 1 else (ex : Int)) - f.bias - f.fbits
    if m = 0 then .zero neg else .num (if neg then -m else m) e

/-- A nonnegative number `q + r` with `q` kept and `r` of `sh` bits dropped, rounded: 0 RNE, 1 RZ, 2 RUP, 3 RDN (R181). -/
def roundShift (n : Nat) (sh : Nat) (mode : Nat) (neg : Bool) : Nat :=
  let q := n >>> sh
  let r := n % 2 ^ sh
  let up := match mode with
    | 0 => decide (2 ^ sh < 2 * r ∨ (2 * r = 2 ^ sh ∧ q % 2 = 1 ∧ 0 < sh))
    | 1 => false
    | 2 => decide (0 < r) && !neg
    | _ => decide (0 < r) && neg
  if up then q + 1 else q

/-- An overflow in a mode (R181): the bits without the sign. -/
def Fmt.overflow (f : Fmt) (mode : Nat) (neg : Bool) : Nat :=
  match mode with
  | 0 => f.infBits
  | 1 => f.infBits - 1
  | 2 => if neg then f.infBits - 1 else f.infBits
  | _ => if neg then f.infBits else f.infBits - 1

/-- `m * 2^e`, `m` not zero, rounded once to the format (R181). -/
def Fmt.roundNum (f : Fmt) (mode : Nat) (m e : Int) : Nat :=
  let neg := decide (m < 0)
  let n := m.natAbs
  let least : Int := 1 - f.bias - f.fbits
  let q : Int := max ((Nat.log2 n : Int) + e - f.fbits) least
  let k : Nat := if q ≤ e then n <<< (e - q).toNat else roundShift n (q - e).toNat mode neg
  let bits := (q - least).toNat * 2 ^ f.fbits + k
  (if bits < f.infBits then bits else f.overflow mode neg) + if neg then f.signBit else 0

/-- A value in the format: canonical NaN, and .SAT's replacement of infinities (R180, R182). -/
def Fmt.round (f : Fmt) (mode : Nat) (sat : Bool) (v : FVal) : Nat :=
  let s (neg : Bool) : Nat := if neg then f.signBit else 0
  match v with
  | .nan => f.nanBits
  | .inf neg => (if sat then f.infBits - 1 else f.infBits) + s neg
  | .zero neg => s neg
  | .num m e =>
    let x := f.roundNum mode m e
    if sat && x % f.signBit == f.infBits then x - 1 else x

/-! ## Arithmetic on exact values -/

/-- `a * 2^ea + b * 2^eb` as one number and exponent. -/
def dyAdd (a ea b eb : Int) : Int × Int :=
  let e := min ea eb
  (a * 2 ^ (ea - e).toNat + b * 2 ^ (eb - e).toNat, e)

/-- A sum; an exact sum of zero from opposite signs is +0, and -0 under .RDN (R183). -/
def FVal.add (mode : Nat) : FVal → FVal → FVal
  | .nan, _ => .nan
  | _, .nan => .nan
  | .inf a, .inf b => if a = b then .inf a else .nan
  | .inf a, _ => .inf a
  | _, .inf b => .inf b
  | .zero a, .zero b => .zero (if a = b then a else decide (mode = 3))
  | .zero _, x => x
  | x, .zero _ => x
  | .num a ea, .num b eb =>
    let r := dyAdd a ea b eb
    if r.1 = 0 then .zero (decide (mode = 3)) else .num r.1 r.2

/-- The sign of a value. -/
def FVal.neg? : FVal → Bool
  | .nan => false
  | .inf a => a
  | .zero a => a
  | .num m _ => decide (m < 0)

/-- The value with its sign changed; a NaN stays. -/
def FVal.negate : FVal → FVal
  | .nan => .nan
  | .inf a => .inf (!a)
  | .zero a => .zero (!a)
  | .num m e => .num (-m) e

/-- The magnitude. -/
def FVal.abs : FVal → FVal
  | .nan => .nan
  | .inf _ => .inf false
  | .zero _ => .zero false
  | .num m e => .num m.natAbs e

/-- A product, exact. -/
def FVal.mul : FVal → FVal → FVal
  | .nan, _ => .nan
  | _, .nan => .nan
  | .inf a, .zero _ => let _ := a; .nan
  | .zero _, .inf b => let _ := b; .nan
  | .inf a, y => .inf (a != y.neg?)
  | x, .inf b => .inf (x.neg? != b)
  | .zero a, y => .zero (a != y.neg?)
  | x, .zero b => .zero (x.neg? != b)
  | .num a ea, .num b eb => .num (a * b) (ea + eb)

/-- Order of two values that are not NaN, -0 equal to +0. -/
def FVal.cmp (x y : FVal) : Ordering :=
  let key (v : FVal) : Int × Int × Int := match v with
    | .nan => (0, 0, 0)
    | .inf a => (if a then -1 else 1, 0, 0)
    | .zero _ => (0, 0, 0)
    | .num m e => (0, m, e)
  let a := key x
  let b := key y
  if a.1 ≠ b.1 then compare a.1 b.1
  else
    let r := dyAdd a.2.1 a.2.2 (-b.2.1) b.2.2
    compare r.1 0

/-- Minimum (`big` false) or maximum of two values (R183): -0 is less than +0, and a NaN operand gives NaN. -/
def FVal.pick (big : Bool) (x y : FVal) : FVal :=
  if x = .nan ∨ y = .nan then .nan
  else
    let less := match x.cmp y with
      | .lt => true
      | .gt => false
      | .eq => x.neg?
    if less != big then x else y

/-- The conditions of VCMP (R66, R183): 0 EQ, 1 NE, 2 LT, 3 LE, 4 GT, 5 GE, 6 UN. -/
def FVal.cond (c : Nat) (x y : FVal) : Bool :=
  let un := decide (x = .nan ∨ y = .nan)
  match c with
  | 0 => !un && x.cmp y == .eq
  | 1 => un || x.cmp y != .eq
  | 2 => !un && x.cmp y == .lt
  | 3 => !un && x.cmp y != .gt
  | 4 => !un && x.cmp y == .gt
  | 5 => !un && x.cmp y != .lt
  | _ => un

/-- The integer nearest to a value under a mode; infinities are far out of every range (R184). -/
def FVal.toInteger (mode : Nat) : FVal → Int
  | .nan => 0
  | .inf a => if a then -(2 ^ 200) else 2 ^ 200
  | .zero _ => 0
  | .num m e =>
    let neg := decide (m < 0)
    let k : Nat := if 0 ≤ e then m.natAbs <<< e.toNat else roundShift m.natAbs (-e).toNat mode neg
    if neg then -(k : Int) else k

/-- An integer as an exact value. -/
def FVal.ofInt (i : Int) : FVal := if i = 0 then .zero false else .num i 0

/-! ## Integer types -/

/-- The ends of an integer type's range: width and signedness (R178). -/
def intMin (w : Nat) (signed : Bool) : Int := if signed then -(2 ^ (w - 1)) else 0
/-- The greatest value of an integer type. -/
def intMax (w : Nat) (signed : Bool) : Int := if signed then 2 ^ (w - 1) - 1 else 2 ^ w - 1
/-- Clamped to the type's range. -/
def clampInt (w : Nat) (signed : Bool) (i : Int) : Int := max (intMin w signed) (min (intMax w signed) i)
/-- The bits of an integer, modulo 2^w. -/
def intBits (w : Nat) (i : Int) : Nat := (i % 2 ^ w).toNat
/-- `w` bits read as an integer. -/
def intOf (w : Nat) (signed : Bool) (x : Nat) : Int :=
  let y := x % 2 ^ w
  if signed && decide (2 ^ (w - 1) ≤ y) then (y : Int) - 2 ^ w else y

end Sys2Proof.Machine
end

