-- ==== Sys2Proof/Machine/Block.lean ====
section
/-! DEFINITION. Machine/Block.lean: the dual-exponent block formats, quantisation, the numerics profiles of the matrix engine
and the Hadamard pass (R185 to R195). -/
namespace Sys2Proof.Machine

/-! ## Elements and blocks (R185, R186) -/

/-- An element of a block format: selector, sign, magnitude. -/
structure BElem where
  sel : Bool
  neg : Bool
  mag : Nat
  deriving DecidableEq, Repr

/-- Bits of magnitude of DB4 (`four`) or DB8. -/
def magBits (four : Bool) : Nat := if four then 2 else 6

/-- Bits read as an element (R185). -/
def BElem.ofBits (four : Bool) (x : Nat) : BElem :=
  let n := magBits four
  { sel := decide (x / 2 ^ (n + 1) % 2 = 1), neg := decide (x / 2 ^ n % 2 = 1), mag := x % 2 ^ n }

/-- The bits of an element. -/
def BElem.bits (four : Bool) (b : BElem) : Nat :=
  let n := magBits four
  (if b.sel then 2 ^ (n + 1) else 0) + (if b.neg then 2 ^ n else 0) + b.mag

/-- The exponents of a block. -/
abbrev Exps := Nat × Nat

/-- The exponent that an element selects. -/
def BElem.exp (b : BElem) (ex : Exps) : Nat := if b.sel then ex.2 else ex.1

/-- The value of an element (R186). -/
def BElem.value (four : Bool) (b : BElem) (ex : Exps) : FVal :=
  let e := b.exp ex
  if e = 255 then .nan
  else if b.mag = 0 then .zero false
  else .num (if b.neg then -(b.mag : Int) else b.mag) ((e : Int) - 127 - magBits four)

/-! ## Quantisation (R188) -/

/-- The exponent of the scale that exponent `e` gives an element's magnitude. -/
def scaleExp (four : Bool) (e : Nat) : Int := (e : Int) - 127 - magBits four

/-- |round(x / 2^k)| under a mode. -/
def quotient (mode : Nat) (k : Int) (x : FVal) : Nat :=
  match x with
  | .num m e => (FVal.toInteger mode (.num m (e - k))).natAbs
  | .inf _ => 2 ^ 200
  | _ => 0

/-- floor(log2 |m * 2^e|). -/
def floorLog (m e : Int) : Int := (Nat.log2 m.natAbs : Int) + e

/-- The exponent E0 of a block without NaN. -/
def topExp (four : Bool) (mode : Nat) (xs : List FVal) : Nat :=
  let mmax := 2 ^ magBits four - 1
  let a := xs.foldl (fun m x => if m.cmp x.abs == .lt then x.abs else m) (.zero false)
  match a with
  | .inf _ => 254
  | .num m e =>
    let e0 := floorLog m e + 128
    let e1 : Int := if e0 < 0 then 0
      else if e0 ≤ 254 ∧ xs.any (fun x => decide (mmax < quotient mode (e0 - 127 - magBits four) x)) then e0 + 1
      else e0
    (min e1 254).toNat
  | _ => 0

/-- The distance of |x| from `n * 2^k`, exact. -/
def distance (x : FVal) (n : Nat) (k : Int) : FVal :=
  match x.abs with
  | .inf _ => .inf false
  | .num m e =>
    let d := dyAdd m e (-(n : Int)) k
    if d.1 = 0 then .zero false else .num d.1.natAbs d.2
  | _ => if n = 0 then .zero false else .num n k

/-- A block of values quantised: its exponents and elements. -/
def quantise (four : Bool) (mode : Nat) (xs : List FVal) : Exps × List BElem :=
  if xs.any (fun x => decide (x = .nan)) then ((255, 255), xs.map (fun _ => ⟨false, false, 0⟩))
  else
    let mmax := 2 ^ magBits four - 1
    let e0 := topExp four mode xs
    let e1 := e0 - if four then 2 else 4
    let one (x : FVal) : BElem :=
      let m0 := min (quotient mode (scaleExp four e0) x) mmax
      let m1 := min (quotient mode (scaleExp four e1) x) mmax
      let low := (distance x m1 (scaleExp four e1)).cmp (distance x m0 (scaleExp four e0)) == .lt
      let m := if low then m1 else m0
      { sel := low, neg := (x.neg? && decide (x ≠ .zero true)) && m != 0, mag := m }
    ((e0, e1), xs.map one)

/-! ## Numerics profiles (R190 to R192) -/

/-- A class sum: its exact integer and its exponent. -/
abbrev ClassSum := Int × Int

/-- The operand of one K-block: 32 elements and their exponents. -/
structure KBlock where
  els : List BElem
  ex  : Exps
  deriving DecidableEq, Repr

/-- Some element selects the exponent 0xFF. -/
def KBlock.hasNan (b : KBlock) : Bool := b.els.any (fun x => x.exp b.ex == 255)

/-- The four class sums of two K-blocks (R190). -/
def classSums (four : Bool) (a b : KBlock) : List ClassSum :=
  let ps := a.els.zip b.els
  let sum (u v : Bool) : Int := ps.foldl (fun (s : Int) p =>
    if p.1.sel = u ∧ p.2.sel = v then
      (if p.1.neg = p.2.neg then s + (p.1.mag * p.2.mag : Nat) else s - (p.1.mag * p.2.mag : Nat))
    else s) 0
  let cls (u v : Bool) : ClassSum :=
    (sum u v, ((if u then a.ex.2 else a.ex.1 : Nat) : Int) + ((if v then b.ex.2 else b.ex.1 : Nat) : Int)
      - 2 * (127 + magBits four))
  [cls false false, cls false true, cls true false, cls true true]

/-- The class sum of two K-blocks of I8 elements, given as integers (R190). -/
def classSumI8 (a b : List Int) : ClassSum := ((a.zip b).foldl (fun s p => s + p.1 * p.2) 0, 0)

/-- A profile's new accumulator value: F32 bits (R191). `w` is 48 for profile 1 and 64 for profile 2. -/
def accumulate (w : Nat) (nan : Bool) (acc : Nat) (ps : List ClassSum) : Nat :=
  let a := f32.decode acc
  if nan ∨ a = .nan then 0x7FC00000
  else
    match ps.filter (fun p => p.1 ≠ 0) with
    | [] => acc
    | p :: r =>
      let top := r.foldl (fun m x => max m x.2) p.2
      let lsb := top - (w - 24)
      let cut (x : ClassSum) : Int :=
        if lsb ≤ x.2 then x.1 * 2 ^ (x.2 - lsb).toNat else x.1.tdiv (2 ^ (lsb - x.2).toNat)
      let s := (p :: r).foldl (fun t x => t + cut x) 0
      f32.round 0 false (FVal.add 0 a (if s = 0 then .zero false else .num s lsb))

/-- The window width of a profile (R191). -/
def profWidth (prof : Nat) : Nat := if prof = 1 then 48 else 64

/-- The two DB8 pieces of a block of B16 operands (R192). -/
def splitB16 (xs : List FVal) : KBlock × KBlock :=
  let hi := quantise false 0 xs
  let rest := (xs.zip hi.2).map (fun p => FVal.add 0 p.1 (p.2.value false hi.1).negate)
  let lo := quantise false 0 rest
  (⟨hi.2, hi.1⟩, ⟨lo.2, lo.1⟩)

/-! ## The Hadamard pass (R194, R195) -/

/-- H64[i][j]: the parity of the set bits of `i AND j`, as 1 or -1. -/
def hadamard (i j : Nat) : Int :=
  if ((List.range 6).foldl (fun p b => if (i / 2 ^ b % 2) * (j / 2 ^ b % 2) = 1 then p + 1 else p) 0) % 2 = 0 then 1 else -1

/-- The exponent `e` of a row of values, and none where they are all zero, infinite or NaN (R195). -/
def rowExp (xs : List FVal) : Option Int :=
  let a := xs.foldl (fun (m : FVal) x => match x with
    | .num _ _ => if m.cmp x.abs == .lt then x.abs else m
    | _ => m) (.zero false)
  match a with
  | .num m e =>
    let k := floorLog m e - 14
    some (if quotient 0 k a = 32768 then k + 1 else k)
  | _ => none

/-- The 16-bit values q of a row's columns under the row's exponent `k` (R195). -/
def rotQuant (k : Int) (xs : List FVal) : List Int :=
  xs.map (fun x => match x with | .num m e => FVal.toInteger 0 (.num m (e - k)) | _ => 0)

/-- One group of 64 columns transformed. -/
def rotGroup (e : Option Int) (xs : List FVal) : List Nat :=
  if xs.any (fun x => match x with | .nan => true | .inf _ => true | _ => false) then xs.map (fun _ => 0x7FC00000)
  else match e with
    | none => xs.map (fun _ => 0)
    | some k =>
      let q := rotQuant k xs
      (List.range 64).map (fun n =>
        let s := (q.zip (List.range 64)).foldl (fun (t : Int) p => t + hadamard n p.2 * p.1) 0
        f32.round 0 false (if s = 0 then .zero false else .num s (k - 3)))

/-- The q values of a row of accumulator values: 0 throughout where the row has no exponent. -/
def rotQ (row : List Nat) : List Int :=
  let xs := row.map f32.decode
  match rowExp xs with | some k => rotQuant k xs | none => xs.map (fun _ => 0)

/-- A row of `n` accumulator values after the Hadamard pass. -/
def rotRow (row : List Nat) : List Nat :=
  let xs := row.map f32.decode
  let e := rowExp xs
  (List.range (xs.length / 64)).flatMap (fun g => rotGroup e ((xs.drop (64 * g)).take 64))

end Sys2Proof.Machine
end

