-- ==== Sys2Proof/Machine/Landing.lean ====
section
/-! DEFINITION. Machine/Landing.lean: what lands in its cycle: latent writes (R164), reserved tile writes (R169), claims
(R168), the scratchpad accesses of stream forms (R216, R248), and the retirement of SYSWR and ICINV (R125, R259). -/
namespace Sys2Proof.Machine

/-- A latent write put into a list ordered by landing cycle, after those of the same cycle (R164). -/
def insertLatent (l : Latent) : List Latent → List Latent
  | [] => [l]
  | x :: r => if l.due < x.due then l :: x :: r else x :: insertLatent l r

/-- The latent writes of a stream in the order in which they land. -/
def landingOrder (ls : List Latent) : List Latent := ls.foldl (fun acc l => insertLatent l acc) []

/-- The stream after every latent write due by cycle `now` has landed. -/
def Stream.landDue (t : Stream) (now : Nat) : Stream :=
  let ready (l : Latent) : Bool := decide (l.due ≤ now) && l.val.isSome
  let t' := (landingOrder (t.latents.filter ready)).foldl
    (fun u l => match l.val with | some v => u.land l.reg v | none => u) t
  { t' with latents := t.latents.filter (fun l => !ready l) }

/-- LATENT_WRITE_LANDING (R164): the latent writes of stream `site.unit` due in this cycle land. Those of a core in LOAD wait for the start
(R311). -/
def execLatentWriteLanding (s : State) : Host.Outcome State Fault Refusal :=
  .next (if (s.core (s.site.unit / 4)).mbState = 2 then s else s.modStream s.site.unit (fun t => t.landDue s.cycle))

/-- The 64-bit byte mask of row `r` under a 512-bit mask register: a bit governs a 4-byte group (R160). -/
def rowMask (m : Row) (r : Nat) : BitVec 64 :=
  BitVec.ofNat 64 ((List.range 16).foldl (fun a i => if m.getLsbD (16 * r + i) then a + 15 * 2 ^ (4 * i) else a) 0)

/-- The bits of a row that a byte mask covers. -/
def wideMask (m : BitVec 64) : Row :=
  BitVec.ofNat 512 ((List.range 64).foldl (fun a i => if m.getLsbD i then a + 255 * 2 ^ (8 * i) else a) 0)

/-- A row after the write of `new` in the bytes of `m`: side field, tag and a clean poison bit come with a written row; a
row with no byte written keeps all (R161, R212, R390). -/
def Line.merge (old new : Line) (m : BitVec 64) : Line :=
  if m = 0 then old
  else
    let w := wideMask m
    { data := (old.data &&& ~~~w) ||| (new.data &&& w), side := new.side, tag := new.tag,
      poison := if m = BitVec.allOnes 64 then new.poison else old.poison || new.poison }

/-- The reserved write of tile register `t` published (R169). -/
def Core.publish (k : Core) (t : Nat) : Core :=
  match k.twrites.find? t with
  | none => k
  | some w =>
    let x := k.tile t
    let rows := if w.exec then
        w.rows.keys.foldl (fun (r : Tbl Line) i =>
          r.put i ((x.line i).merge (w.rows.get {} i) (w.mask.get (BitVec.allOnes 64) i))) x.row
      else x.row
    let o := w.rdn == 15
    { k with twrites := k.twrites.drop t,
             tiles := k.tiles.put t { x with row := rows, wcnt := x.wcnt + 1, rdrem := if o then 0 else w.rdn, isOpen := o,
                                             held := 0, clb := 0, wpend := false } }

/-- The claims of core `k` due in cycle `now` consumed (R168). -/
def Core.consumeDue (k : Core) (now : Nat) : Core :=
  let due := k.claims.filter (fun c => decide (c.due ≤ now))
  let k' := due.foldl (fun (u : Core) c => u.modTile c.tile (fun x => x.consume (c.gsid % 4))) k
  { k' with claims := k.claims.filter (fun c => !decide (c.due ≤ now)) }

/-- The latent write of an LDS takes the value read, or is withdrawn (R248). -/
def Stream.loadDone (t : Stream) (r : PReg) (issued : Nat) (v : Option Row) : Stream :=
  let rec go : List Latent → List Latent
    | [] => []
    | l :: rest =>
      if l.reg = r ∧ l.issued = issued ∧ l.val = none then
        (match v with | some x => { l with val := some x } :: rest | none => rest)
      else l :: go rest
  { t with latents := go t.latents }

/-- The POISON fault of a scratchpad read (R373, R391). -/
def spPoison (word : Word) (a : Nat) : FaultInfo :=
  { code := .poison, word := word, addr := BitVec.ofNat 64 a, info := 1 }

/-- A POISON of a scratchpad read taken after its group: the stream parks, unless it is parked already. -/
def State.latePoison (s : State) (g : Nat) (f : FaultInfo) : State :=
  if (s.stream g).status = .parked then s else s.park g 0 f

/-- One scratchpad access of stream `g` made in its cycle: the state after it, and the access where it goes on. -/
def State.access (s : State) (g : Nat) (a : SpAcc) : State × Option SpAcc :=
  let c := g / 4
  let k := s.core c
  match a.op with
  | .load r wk =>
    if (k.line (a.addr / 64)).poison then
      ((s.modStream g (fun t => t.loadDone r a.issued none)).latePoison g (spPoison a.word a.addr), none)
    else
      let v := wkExtend wk (k.spGet a.addr (wkBytes wk))
      (s.modStream g (fun t => t.loadDone r a.issued (some (v.setWidth 512))), none)
  | .store n d => (s.modCore c (fun k => k.spSet a.addr n (d.setWidth 512)), none)
  | .vload t m got bad =>
    let base := a.addr / 64 + 4 * a.quad
    let rows := [0, 1, 2, 3].foldl (fun (r : Tbl Line) i =>
      r.put (4 * a.quad + i) { (k.line (base + i)) with side := 0, tag := 0, poison := false }) got
    let bad := bad <|> ([0, 1, 2, 3].find? (fun i => (k.line (base + i)).poison)).map (fun i => 64 * (base + i))
    if a.quad < 7 then (s, some { a with op := .vload t m rows bad, quad := a.quad + 1, due := a.due + 1 })
    else
      let w : Tbl (BitVec 64) := (List.range 32).foldl (fun (r : Tbl (BitVec 64)) i => r.put i (rowMask m i)) .empty
      let done (x : TWrite) : TWrite := { x with rows := rows, mask := w, due := if bad.isSome then none else some (a.issued + 9) }
      let u := s.modCore c (fun k => { k with twrites := k.twrites.mod { rdn := 0, exec := true } t done })
      (u, if bad.isSome then some { a with op := .vload t m rows bad, quad := 8, due := a.issued + 9 } else none)
  | .vstore t peek m rows =>
    let base := a.addr / 64 + 4 * a.quad
    let put (k : Core) (i : Nat) : Core :=
      let l := k.line (base + i)
      let w := wideMask (rowMask m (4 * a.quad + i))
      let d := (l.data &&& ~~~w) ||| ((rows.get {} (4 * a.quad + i)).data &&& w)
      { k with sp := k.sp.put (base + i) { l with data := d } }
    let u := s.modCore c (fun k => [0, 1, 2, 3].foldl put k)
    let next := if a.quad < 7 then some { a with op := .vstore t peek m rows, quad := a.quad + 1, due := a.due + 1 } else none
    (u, next)

/-- A VLDS that has read a poisoned line: at the end of cycle c + 9 the reservation is withdrawn, nothing is published, and
the stream takes POISON, which names the first poisoned line (R216, R373). -/
def State.vloadPoison (s : State) (g t line : Nat) (a : SpAcc) : State :=
  (s.modCore (g / 4) (fun k => { k.modTile t (fun x => { x with wpend := false }) with twrites := k.twrites.drop t })).latePoison
    g (spPoison a.word line)

/-- The accesses of stream `g` due in this cycle made, in the order in which they were issued. The POISON of a VLDS whose cycle c + 9 falls after
its context has stopped is taken in that cycle, before the image is saved: R216 and R381 do not say (DESIGN CHOICE, entry 54). -/
def State.accessDue (s : State) (g : Nat) : State :=
  let go (acc : State × List SpAcc) (a : SpAcc) : State × List SpAcc :=
    if a.due ≤ acc.1.cycle then
      (if a.quad = 8 then
        (match a.op with
         | .vload t _ _ bad => (acc.1.vloadPoison g t (bad.getD 0) a, acc.2)
         | _ => acc)
       else
        let r := acc.1.access g a
        (r.1, acc.2 ++ r.2.toList))
    else (acc.1, acc.2 ++ [a])
  let r := (s.stream g).accs.foldl go (s, [])
  r.1.modStream g (fun t => { t with accs := r.2 })

/-- SYSWR_RETIRE (R259): a SYSWR that completes its effect later retires. -/
def execSyswrRetire (s : State) : Host.Outcome State Fault Refusal :=
  .next (s.modStream s.site.unit (fun t =>
    if t.gate.icinv.isNone then { t with gate := { t.gate with retire := 0 } } else t))

/-- A line of context `ctx` in the target of an ICINV: scope 0 a line, 1 a 64 KiB granule, others every line (R125). The names compared are
those that lines stand under, the canonical ones of R84 (entry 50). -/
def icinvHit (ctx scope : Nat) (a : Word) (l : ILine) : Bool :=
  l.ctx == ctx && (match scope with
    | 0 => l.va == a.toNat / 64
    | 1 => l.va / 1024 == a.toNat / 65536
    | _ => true)

/-- The I-cache of a core without the lines in the target of an ICINV. -/
def Core.icinv (k : Core) (ctx scope : Nat) (a : Word) : Core :=
  { k with icache := ⟨k.icache.entries.filter (fun e => !icinvHit ctx scope a e.2)⟩ }

/-- The cores whose I-caches an ICINV of core `c` acts on. -/
def icinvCores (c scope : Nat) : List Nat :=
  match scope with
  | 3 => (List.range 60).map (fun i => 60 * dieOf c + i)
  | 4 => List.range 240
  | _ => [c]

/-- ICINV_COMPLETE (R125): the invalidation of stream `site.unit` finishes and its next group may issue. -/
def execIcinvComplete (s : State) : Host.Outcome State Fault Refusal :=
  let g := s.site.unit
  match (s.stream g).gate.icinv with
  | none => .next s
  | some (scope, a) =>
    let ctx := s.ctxOf (g / 4)
    let cs := icinvCores (g / 4) scope
    let u := s.dropIcache (fun c l => cs.contains c && icinvHit ctx scope a l)
    .next (u.modStream g (fun t => { t with gate := { t.gate with retire := 0, icinv := none } }))

/-- Cycles from the issue of an ICINV until the next group may issue (R125). -/
def icinvCycles (scope : Nat) : Nat := match scope with | 0 => 4 | 1 => 136 | 2 => 16 | 3 => 220 | _ => 620

/-- ICINV (R125, R126). -/
def execIcinv (h : Hdr) (sa : BitVec 5) (scope : BitVec 3) (s : State) : Host.Outcome State Fault Refusal :=
  let t := s.me
  let a := t.sreg sa
  let local' := decide (scope.toNat ≤ 1)
  (s.plain h (if local' then [t.sp sa] else []) []
    (if local' && a.extractLsb' 48 16 != 0 then .fault (permFaultOf a)
     else .go (s.modMe (fun u => { u with gate := { u.gate with retire := s.cycle + icinvCycles scope.toNat, icinv := some (scope.toNat, a) } })))).done s
where
  /-- PERM of an address with bits 63:48 not zero (R37). -/
  permFaultOf (a : Word) : FaultInfo := { code := .perm, addr := a, info := 8 }

end Sys2Proof.Machine
end

