-- ==== Sys2Proof/Machine/Trans.lean ====
section
/-! DEFINITION. Machine/Trans.lean: the functions of the transcendental unit, rounded once (R196). A function value that is
not rational is bracketed by two fixed-point numbers, to more places until both ends round alike; a quotient or a root is
carried with one further bit that says whether it is exact. -/
namespace Sys2Proof.Machine

/-! ## Fixed-point numbers: the integer `v` at `w` places stands for `v / 2^w` -/

/-- `m * 2^e` at `w` places, cut towards zero. -/
def fixOf (w : Nat) (m e : Int) : Int :=
  if 0 ≤ e + w then m * 2 ^ (e + w).toNat else m.tdiv (2 ^ (-(e + w)).toNat)

/-- A product at `w` places. -/
def fixMul (w : Nat) (a b : Int) : Int := (a * b).tdiv (2 ^ w)

/-- The sum of `sign^k t^(2k+1) / (2k+1)` from a power `t` on, where `sq` is the square of the argument: the series of atanh
(`sign` 1) and atan (`sign` -1). -/
def oddSeries (w : Nat) (sq sign : Int) : Nat → Nat → Int → Int → Int
  | 0, _, _, acc => acc
  | n + 1, k, t, acc =>
    if t = 0 then acc else oddSeries w sq sign n (k + 2) (sign * fixMul w t sq) (acc + t.tdiv k)

/-- The sum of a power series whose term follows from the one before by `x / (k (k+1))`, or by `x / k` with `two` false. -/
def expSeries (w : Nat) (x : Int) (two : Bool) : Nat → Nat → Int → Int → Int
  | 0, _, _, acc => acc
  | n + 1, k, t, acc =>
    if t = 0 then acc
    else if two then expSeries w x two n (k + 2) ((fixMul w t x).tdiv (k * (k + 1))) (acc + t)
    else expSeries w x two n (k + 1) ((fixMul w t x).tdiv k) (acc + t)

/-- atanh of a fixed-point number. -/
def fixAtanh (w : Nat) (t : Int) : Int := oddSeries w (fixMul w t t) 1 w 1 t 0
/-- The natural logarithm of 2. -/
def fixLn2 (w : Nat) : Int := 2 * fixAtanh w (2 ^ w / 3)
/-- The arctangent of `1 / q`. -/
def fixAtanInv (w q : Nat) : Int :=
  let t : Int := 2 ^ w / q
  oddSeries w (fixMul w t t) (-1) w 1 t 0
/-- Pi, by Machin's formula. -/
def fixPi (w : Nat) : Int := 16 * fixAtanInv w 5 - 4 * fixAtanInv w 239

/-- e^x of a fixed-point number, at `w` places. -/
def fixExp (w : Nat) (x : Int) : Int :=
  let l := fixLn2 w
  let k := (2 * x + l) / (2 * l)
  let y := expSeries w (x - k * l) false w 1 (2 ^ w) 0
  if 0 ≤ k then y * 2 ^ k.toNat else y / 2 ^ (-k).toNat

/-- ln of `n * 2^e`, `n` positive, at `w` places. -/
def fixLog (w n : Nat) (e : Int) : Int :=
  let b := Nat.log2 n
  let big := decide (4 * 2 ^ b ≤ 3 * n)
  let k : Int := e + b + if big then 1 else 0
  let y : Int := fixOf w n (if big then -(b + 1 : Int) else -(b : Int))
  k * fixLn2 w + 2 * fixAtanh w ((y - 2 ^ w) * 2 ^ w / (y + 2 ^ w))

/-- The quadrant of `m * 2^e` and the rest beyond it, at `w` places. -/
def fixQuadrant (w : Nat) (m e : Int) : Int × Int :=
  let v := w + 160
  let h := fixPi v / 2
  let x := fixOf v m e
  let n := (2 * x + h) / (2 * h)
  (n, (x - n * h) / 2 ^ 160)

/-- sin of a number of magnitude below 1. -/
def fixSin (w : Nat) (r : Int) : Int := expSeries w (-(fixMul w r r)) true w 2 r 0
/-- cos of a number of magnitude below 1. -/
def fixCos (w : Nat) (r : Int) : Int := expSeries w (-(fixMul w r r)) true w 1 (2 ^ w) 0

/-- sin of the argument that lies in quadrant `n` with rest `r`. -/
def fixSinQ (w : Nat) (n r : Int) : Int :=
  match (n % 4).toNat with
  | 0 => fixSin w r
  | 1 => fixCos w r
  | 2 => -fixSin w r
  | _ => -fixCos w r

/-! ## One rounding -/

/-- The forms of the transcendental unit. -/
inductive XFun where
  | exp | log | sin | cos | tanh | rsq | rcp | sig
  deriving DecidableEq, Repr

/-- The value of a function at `m * 2^e` to `p` places: a number `v` with the value within `v ± 2` units of the last place.
Where the magnitude passes 200, the value lies beyond every format's range, or nearer to 1 than any format tells apart; the
answer is then that of the bound, and the two ends of `ends` lie on the same side of it. -/
def XFun.approx (f : XFun) (p : Nat) (m e : Int) : Int :=
  let w := p + 32
  let one : Int := 2 ^ w
  let x := fixOf w m e
  let r : Int := match f with
    | .exp => fixExp w x
    | .log => fixLog w m.natAbs e
    | .sin => let q := fixQuadrant w m e; fixSinQ w q.1 q.2
    | .cos => let q := fixQuadrant w m e; fixSinQ w (q.1 + 1) q.2
    | .tanh =>
      let z := fixExp w (-2 * (fixOf w m.natAbs e))
      let t := (one - z) * one / (one + z)
      if m < 0 then -t else t
    | .sig =>
      let z := fixExp w (-(fixOf w m.natAbs e))
      if m < 0 then z * one / (one + z) else one * one / (one + z)
    | .rsq => 0
    | .rcp => 0
  r / 2 ^ 32

/-- A magnitude of 200 or more. -/
def isFar (m e : Int) : Bool := if 0 ≤ e then decide (200 ≤ m.natAbs * 2 ^ e.toNat) else decide (200 * 2 ^ (-e).toNat ≤ m.natAbs)

/-- Both ends of a bracket of the value, as numbers with an exponent. -/
def XFun.ends (f : XFun) (p : Nat) (m e : Int) : Int × Int × Int :=
  let near : Int × Int × Int := let v := f.approx p m e; (v - 2, v + 2, -(p : Int))
  if isFar m e then
    match f with
    | .exp => if m < 0 then (1, 2 ^ 120, -400) else (1, 2 ^ 120, 280)
    | .sig => if m < 0 then (1, 2 ^ 120, -400) else (2 ^ 400 - 2 ^ 120, 2 ^ 400 - 1, -400)
    | .tanh =>
      if m < 0 then (1 - 2 ^ 400, 2 ^ 120 - 2 ^ 400, -400) else (2 ^ 400 - 2 ^ 120, 2 ^ 400 - 1, -400)
    | _ => near
  else near

/-- The value rounded, at the first number of places that decides it. A value that is not rational lies off every rounding
boundary, so some number of places decides it; 4,096 places are the last tried. -/
def XFun.settle (f : XFun) (g : Fmt) (mode : Nat) (sat : Bool) (m e : Int) : Nat → Nat → Nat
  | 0, p => g.round mode sat (.num (f.approx p m e) (-(p : Int)))
  | n + 1, p =>
    let b := f.ends p m e
    let lo := g.round mode sat (.num b.1 b.2.2)
    if decide (0 < b.1 * b.2.1) && lo == g.round mode sat (.num b.2.1 b.2.2) then lo
    else f.settle g mode sat m e n (2 * p)

/-- The greatest `r` of `n` bits with `r * r ≤ x`, from the bits above. -/
def rootBits (x : Nat) : Nat → Nat → Nat
  | 0, r => r
  | n + 1, r => rootBits x n (if (r + 2 ^ n) * (r + 2 ^ n) ≤ x then r + 2 ^ n else r)

/-- `1 / sqrt(n * 2^e)`: 64 places of the root, with a last bit that says whether more follow. -/
def rsqValue (n : Nat) (e : Int) : FVal :=
  let odd := decide (e % 2 ≠ 0)
  let n := if odd then 2 * n else n
  let e := if odd then e - 1 else e
  let q := rootBits (2 ^ 128 / n) 65 0
  .num (2 * q + (if q * q * n = 2 ^ 128 then 0 else 1) : Nat) (-65 - e / 2)

/-- `1 / (m * 2^e)` in the same way. -/
def rcpValue (m e : Int) : FVal :=
  let n := m.natAbs
  let q := 2 ^ 64 / n
  let v : Int := (2 * q + (if q * n = 2 ^ 64 then 0 else 1) : Nat)
  .num (if m < 0 then -v else v) (-65 - e)

/-- A function of the transcendental unit at a value, in a format and mode (R196 with its special cases). -/
def XFun.eval (f : XFun) (g : Fmt) (mode : Nat) (sat : Bool) (x : FVal) : Nat :=
  let r := g.round mode sat
  match x with
  | .nan => g.nanBits
  | .inf neg =>
    match f with
    | .exp => if neg then r (.zero false) else r (.inf false)
    | .log | .rsq => if neg then g.nanBits else (if f = .log then r (.inf false) else r (.zero false))
    | .sin | .cos => g.nanBits
    | .tanh => r (.num (if neg then -1 else 1) 0)
    | .rcp => r (.zero neg)
    | .sig => if neg then r (.zero false) else r (.num 1 0)
  | .zero neg =>
    match f with
    | .exp | .cos => r (.num 1 0)
    | .log => r (.inf true)
    | .sin | .tanh => r (.zero neg)
    | .rsq | .rcp => r (.inf neg)
    | .sig => r (.num 1 (-1))
  | .num m e =>
    match f with
    | .rcp => r (rcpValue m e)
    | .rsq => if m < 0 then g.nanBits else r (rsqValue m.natAbs e)
    | .log =>
      if m < 0 then g.nanBits
      else if fixOf 200 m e = 2 ^ 200 then r (.zero false)
      else f.settle g mode sat m e 3 512
    | _ => f.settle g mode sat m e 3 512

end Sys2Proof.Machine
end

