-- ==== Sys2Proof/WellFormed.lean ====
section
/-! DEFINITION. WellFormed.lean: which field values an instruction word may carry. A word outside these checks raises
ILLEGAL when its group issues (R9, R47, R48); the checks are those of R57 to R74 and R204. -/
namespace Sys2Proof

/-- The control-register numbers that SYSRD accepts (R62). -/
def sysrdReg (r : BitVec 16) : Bool :=
  let n := r.toNat
  decide (n = 1 ∨ n = 2 ∨ n = 0x10 ∨ (0x18 ≤ n ∧ n ≤ 0x20) ∨ (0x30 ≤ n ∧ n ≤ 0x40) ∨ (0x50 ≤ n ∧ n ≤ 0x60)
    ∨ (0x100 ≤ n ∧ n ≤ 0x102) ∨ (0x1000 ≤ n ∧ n ≤ 0x15FF))

/-- The control registers that SYSWR writes and that have no row of their own (R62): STRCTL, CCTL, CPID, RINGCFG, LC,
EC and ROTB. A write to OCC, which is RO, raises ILLEGAL. -/
def syswrReg (r : BitVec 16) : Bool :=
  let n := r.toNat
  decide (n = 1 ∨ n = 2 ∨ n = 0x10 ∨ n = 0x60 ∨ (0x100 ≤ n ∧ n ≤ 0x102))

/-- The 64 unassigned primary opcodes (R55). -/
def unassigned (op : BitVec 8) : Bool :=
  let n := op.toNat
  decide ((0x38 ≤ n ∧ n ≤ 0x3F) ∨ (0x70 ≤ n ∧ n ≤ 0x7F) ∨ 0xD8 ≤ n)

/-- TYPE names a floating-point type: F32, F16 or B16 (R64, R204). -/
def isF (t : BitVec 5) : Bool := decide (6 ≤ t.toNat ∧ t.toNat ≤ 8)
/-- TYPE names an integer type (R204, set I). -/
def isI (t : BitVec 5) : Bool := decide (t.toNat ≤ 5)
/-- TYPE names a signed integer type (R204, set IS). -/
def isIS (t : BitVec 5) : Bool := decide (t.toNat ≤ 2)

/-- Elements per row of a TYPE (R201). -/
def eprOf (t : BitVec 5) : Nat :=
  match t.toNat with
  | 0 => 64 | 1 => 32 | 2 => 16 | 3 => 64 | 4 => 32 | 5 => 16 | 6 => 16 | 7 => 32 | 8 => 32 | 9 => 64 | _ => 128

/-- RAIL names a tap. -/
def Tv.taps (v : Tv) : Bool := v.rail.extractLsb' 1 2 != 0 && v.rail.extractLsb' 0 1 == 0
/-- RAIL names a drive. -/
def Tv.drives (v : Tv) : Bool := v.rail.extractLsb' 1 2 != 0 && v.rail.extractLsb' 0 1 == 1
/-- The 11-bit immediate of VPERM (imm) and VTOPK (R66). -/
def Tv.imm (v : Tv) : BitVec 11 := v.tb ++ v.tbv ++ v.tbp
/-- The source TYPE of VCVT and VQNT (R66). -/
def Tv.srcTy (v : Tv) : BitVec 5 := v.tb.extractLsb' 1 5
/-- The condition of VCMP in SUB[7:5] (R66). -/
def Tv.cond (v : Tv) : BitVec 3 := v.sat ++ v.rnd

/-- What R204 lets TYPE, RND, SAT and MEN hold, by opcode. -/
def vSubOk (op : Nat) (v : Tv) : Bool :=
  let noRnd := v.rnd == 0
  let noSat := v.sat == 0
  match op with
  | 0x40 | 0x42 | 0x44 | 0x46 | 0x5A | 0x5C => isF v.ty
  | 0x41 | 0x43 | 0x45 | 0x5B | 0x5D => isI v.ty && noRnd
  | 0x47 | 0x49 => isF v.ty && noRnd && noSat
  | 0x48 | 0x4A | 0x53 => isI v.ty && noRnd && noSat
  | 0x4B | 0x4C => isF v.ty || (isIS v.ty && noRnd)
  | 0x4D => isF v.ty && decide (v.cond.toNat ≤ 6)
  | 0x4E => isI v.ty && decide (v.cond.toNat ≤ 5)
  | 0x4F => v.ty == 0 && noRnd && noSat && v.men == 1
  | 0x50 | 0x51 | 0x52 | 0x60 | 0x62 | 0x65 => v.ty == 0 && noRnd && noSat
  | 0x54 => decide (3 ≤ v.ty.toNat ∧ v.ty.toNat ≤ 5) && noRnd && noSat
  | 0x55 => isIS v.ty && noRnd && noSat
  | 0x56 => isF v.ty && decide (v.srcTy.toNat ≤ 10) && v.srcTy != v.ty
  | 0x57 => isI v.ty && decide (v.srcTy.toNat ≤ 10) && v.srcTy != v.ty
  | 0x58 => v.ty == 9 && noSat && v.men == 0 && decide (v.srcTy.toNat ≤ 8)
  | 0x59 => v.ty == 10 && noSat && v.men == 0 && decide (v.srcTy.toNat ≤ 8)
  | 0x5E | 0x5F | 0x61 => (isF v.ty || isI v.ty) && noRnd && noSat
  | 0x63 => (v.ty == 6 || v.ty == 2 || v.ty == 5) && noRnd && noSat && v.men == 0
  | 0x64 => (v.ty == 5 || v.ty == 6) && noRnd && noSat
  | _ => isF v.ty

/-- What R198 and R65 let RAIL hold, by opcode. -/
def vRailOk (op : Nat) (v : Tv) : Bool :=
  let none := v.rail == 0
  let drive := none || v.drives
  let tap := none || v.taps
  (match op with
   | 0x56 | 0x57 | 0x61 | 0x64 | 0x60 | 0x62 => drive
   | 0x46 => v.taps
   | 0x58 | 0x59 | 0x63 | 0x65 => tap
   | 0x4D | 0x4E | 0x68 | 0x69 | 0x6A | 0x6B | 0x6C | 0x6D | 0x6E | 0x6F => none
   | _ => none || v.taps || v.drives)
  && (!v.drives || (v.td == 0 && v.tdv == 0 && v.rdn == 0))
  && (!v.taps || op == 0x46 || (v.ta == 0 && v.tav == 0 && v.tap == 0))

/-- What R66 and R211, R213 let the source fields hold, by opcode. -/
def vSrcOk (op : Nat) (v : Tv) : Bool :=
  let noTb := v.tb == 0 && v.tbv == 0 && v.tbp == 0
  match op with
  | 0x4B | 0x4C | 0x62 | 0x64 | 0x65 | 0x68 | 0x69 | 0x6A | 0x6B | 0x6C | 0x6D | 0x6E | 0x6F => noTb
  | 0x56 | 0x57 | 0x58 | 0x59 => v.tb.extractLsb' 0 1 == 0 && v.tbv == 0 && v.tbp == 0
  | 0x5A | 0x5B | 0x5C | 0x5D =>
      decide ((v.tb.extractLsb' 4 2).toNat ≤ 2) && v.tb.extractLsb' 0 4 == 0 && v.tbv == 0 && v.tbp == 0
  | 0x4D | 0x4E => decide (v.td.toNat < 8) && v.tdv == 0 && v.rdn == 0
  | 0x61 => decide (v.ta.toNat < 32) && v.tav == 0 && v.tap == 0 && noTb
  | 0x5F =>
      let p := (v.imm.extractLsb' 0 8).toNat
      (match (v.imm.extractLsb' 8 3).toNat with
       | 0 | 3 => decide (p < eprOf v.ty)
       | 1 => decide (p = 0)
       | 2 => decide (2 ^ p < eprOf v.ty)
       | _ => false)
  | 0x63 => decide (1 ≤ v.imm.toNat ∧ v.imm.toNat ≤ 16)
  | _ => true

/-- The checks of a TV word (R64, R65, R66, R198, R204). -/
def vwf (op : Nat) (v : Tv) : Bool :=
  vSubOk op v && vRailOk op v && vSrcOk op v && (v.men == 1 || v.msk == 0)

/-- Sd, Sa and Sb fields that a form leaves unused are zero. -/
def Aq.regs (a : Aq) (d s b : Bool) : Bool := (d || a.sd == 0) && (s || a.sa == 0) && (b || a.sb == 0)
/-- The token bits are zero. -/
def Aq.noTok (a : Aq) : Bool := a.pbl == 0 && a.pbr == 0 && a.pal == 0 && a.par == 0
/-- WK is zero. -/
def Aq.noWk (a : Aq) : Bool := a.wk == 0
/-- RD and HINT are zero. -/
def Aq.noRd (a : Aq) : Bool := a.rd == 0 && a.hint == 0
/-- ORD and SCP hold these values. -/
def Aq.os (a : Aq) (o s : Nat) : Bool := decide (a.ord.toNat = o ∧ a.scp.toNat = s)

/-- The checks of an AQ word, by opcode (R71 to R74, R291, R338, R345, the table of the journal forms). -/
def awf (op : Nat) (a : Aq) : Bool :=
  let scp := decide (a.scp.toNat ≤ 4)
  let hint := decide (a.hint.toNat ≠ 3)
  let off0 := a.off == 0
  let off4 := decide (a.off.toNat < 16)
  let off16 := decide (a.off.toNat < 65536)
  let bare := a.noTok && a.noWk && a.noRd
  match op with
  | 0xA0 => a.regs true true false && decide (a.wk.toNat ≤ 6) && decide (a.ord.toNat ≤ 1) && scp && hint
  | 0xA1 => a.regs false true true && decide (a.wk.toNat ≤ 3) && decide (a.ord = 0 ∨ a.ord = 2) && scp && hint
  | 0xBA => a.regs false true false && a.noWk && a.noRd && decide (a.ord = 0)
      && decide (2 ≤ a.scp.toNat ∧ a.scp.toNat ≤ 4)
  | 0xBB => a.regs false false false && a.noWk && a.noRd && decide (1 ≤ a.ord.toNat ∧ a.ord.toNat ≤ 3) && scp && off0
  | 0xBC => a.regs false true false && a.noTok && a.noWk && a.os 0 0 && decide (a.hint.toNat ≤ 1)
  | 0xBD | 0xBE => a.regs false true false && a.noWk && a.noRd && decide (a.ord = 0) && scp
  | 0xBF => a.regs false true false && a.noWk && a.noRd && a.os 0 0 && off0
  | 0xC0 | 0xC2 => a.regs false true false && bare && a.os 0 0 && off4
  | 0xC1 => a.regs false true true && bare && a.os 0 0 && off0
  | 0xC4 => a.regs false true false && bare && a.os 0 0 && off0
  | 0xC5 | 0xC7 | 0xC9 => a.regs false false true && bare && a.os 0 0 && off0
  | 0xC6 | 0xC8 | 0xCA => a.regs false false false && bare && a.os 0 0 && off16
  | 0xCB => a.regs true false true && bare && a.os 0 0 && off0
  | 0xCC => a.regs true false false && bare && a.os 0 0 && off16
  | 0xCD => a.regs false true true && bare && a.os 2 3 && off4
  | 0xCE => a.regs true false false && bare && (a.os 0 3 || a.os 1 3) && off4
  | 0xCF => a.regs false true false && bare && a.os 0 0 && off4
  | 0xD0 => bare && a.os 0 0 && off0
  | 0xD1 | 0xD5 => a.regs false true false && bare && a.os 0 0 && off0
  | 0xD2 | 0xD3 => a.regs false true true && bare && a.os 2 3
  | 0xD4 => a.regs false true true && bare && a.os 0 0 && off0
  | 0xB6 | 0xB9 => a.noWk && decide (a.ord.toNat ≤ 3) && scp && hint
      && decide (a.sd.toNat % 2 = 0 ∧ a.sb.toNat % 2 = 0)
  | _ => a.noWk && decide (a.ord.toNat ≤ 3) && scp && hint

/-- The checks that the encoding of each instruction makes (R9, R48, and the entry of each form); an event has none. -/
def Instr.wf : Instr → Bool
  | .nop _ => true
  | .add _ _ _ _ => true
  | .sub _ _ _ _ => true
  | .addi _ _ _ _ => true
  | .mul _ _ _ _ => true
  | .mulh _ _ _ _ => true
  | .mulhn _ _ _ _ => true
  | .divs _ _ _ _ => true
  | .divn _ _ _ _ => true
  | .and _ _ _ _ => true
  | .or _ _ _ _ => true
  | .xor _ _ _ _ => true
  | .andn _ _ _ _ => true
  | .shl _ _ _ _ => true
  | .shrl _ _ _ _ => true
  | .shra _ _ _ _ => true
  | .mins _ _ _ _ => true
  | .maxs _ _ _ _ => true
  | .minn _ _ _ _ => true
  | .maxn _ _ _ _ => true
  | .sel _ _ _ _ _ => true
  | .clz _ _ _ => true
  | .popc _ _ _ => true
  | .bfxI _ _ _ width lsb => decide (1 ≤ width.toNat ∧ lsb.toNat + width.toNat ≤ 64)
  | .bfxN _ _ _ width lsb => decide (1 ≤ width.toNat ∧ lsb.toNat + width.toNat ≤ 64)
  | .bfi _ _ _ width lsb => decide (1 ≤ width.toNat ∧ lsb.toNat + width.toNat ≤ 64)
  | .movi _ _ _ => true
  | .movh _ _ _ => true
  | .lea _ _ _ _ _ _ => true
  | .cmpReg _ _ _ _ cond => decide (cond.toNat ≤ 9)
  | .cmpImm _ _ _ _ cond => decide (cond.toNat ≤ 9)
  | .qop _ _ _ _ _ => true
  | .lds _ _ _ wk _ => decide (wk.toNat ≤ 6)
  | .sts _ _ _ wk _ => decide (wk.toNat ≤ 3)
  | .pbr _ _ _ => true
  | .brq _ _ _ => true
  | .br _ _ => true
  | .call _ _ => true
  | .ret _ _ => true
  | .loop _ _ => true
  | .rotz _ => true
  | .anym _ _ _ => true
  | .allm _ _ _ => true
  | .osend _ _ _ => true
  | .bro _ _ _ => true
  | .qcut _ hi lo => decide (lo.toNat ≤ hi.toNat)
  | .wait _ n => decide (1 ≤ n.toNat)
  | .yield _ => true
  | .halt _ => true
  | .trap _ _ => true
  | .sysrd _ _ reg => sysrdReg reg
  | .syswr _ _ reg => syswrReg reg
  | .syswrHomemap _ _ => true
  | .syswrFmtScale _ _ _ => true
  | .syswrFmtBase _ _ _ => true
  | .syswrWaymask _ _ _ => true
  | .syswrInccfg _ _ _ => true
  | .syswrJpair _ _ => true
  | .conf _ _ reg => decide (0x200 ≤ reg.toNat ∧ reg.toNat ≤ 0x20F)
  | .snap _ _ reg => decide (reg.toNat ≤ 0xEEFF)
  | .rdcyc _ _ => true
  | .icinv _ sa scope => decide (scope.toNat ≤ 4 ∧ (2 ≤ scope.toNat → sa = 0))
  | .vaddF _ v => vwf 0x40 v
  | .vaddI _ v => vwf 0x41 v
  | .vsubF _ v => vwf 0x42 v
  | .vsubI _ v => vwf 0x43 v
  | .vmulF _ v => vwf 0x44 v
  | .vmulI _ v => vwf 0x45 v
  | .vfma _ v => vwf 0x46 v
  | .vminF _ v => vwf 0x47 v
  | .vminI _ v => vwf 0x48 v
  | .vmaxF _ v => vwf 0x49 v
  | .vmaxI _ v => vwf 0x4A v
  | .vabs _ v => vwf 0x4B v
  | .vneg _ v => vwf 0x4C v
  | .vcmpF _ v => vwf 0x4D v
  | .vcmpI _ v => vwf 0x4E v
  | .vsel _ v => vwf 0x4F v
  | .vand _ v => vwf 0x50 v
  | .vor _ v => vwf 0x51 v
  | .vxor _ v => vwf 0x52 v
  | .vshl _ v => vwf 0x53 v
  | .vshrN _ v => vwf 0x54 v
  | .vshrI _ v => vwf 0x55 v
  | .vcvtF _ v => vwf 0x56 v
  | .vcvtI _ v => vwf 0x57 v
  | .vqntDb8 _ v => vwf 0x58 v
  | .vqntDb4 _ v => vwf 0x59 v
  | .vredF _ v => vwf 0x5A v
  | .vredI _ v => vwf 0x5B v
  | .vscanF _ v => vwf 0x5C v
  | .vscanI _ v => vwf 0x5D v
  | .vpermT _ v => vwf 0x5E v
  | .vpermImm _ v => vwf 0x5F v
  | .vxrow _ v => vwf 0x60 v
  | .vbcastS _ v => vwf 0x61 v
  | .vbcastRow _ v => vwf 0x62 v
  | .vtopk _ v => vwf 0x63 v
  | .vrng _ v => vwf 0x64 v
  | .vmovt _ v => vwf 0x65 v
  | .vlds _ _ _ _ _ _ men msk _ => decide (men = 1 ∨ msk = 0)
  | .vsts _ _ _ _ _ _ men msk _ => decide (men = 1 ∨ msk = 0)
  | .vexp _ v => vwf 0x68 v
  | .vlog _ v => vwf 0x69 v
  | .vsin _ v => vwf 0x6A v
  | .vcos _ v => vwf 0x6B v
  | .vtanh _ v => vwf 0x6C v
  | .vrsq _ v => vwf 0x6D v
  | .vrcp _ v => vwf 0x6E v
  | .vsig _ v => vwf 0x6F v
  | .mmaDb8 _ _ _ _ prof _ _ _ _ => decide (prof = 1 ∨ prof = 2)
  | .mmaDb4 _ _ _ _ prof _ _ _ _ => decide (prof = 1 ∨ prof = 2)
  | .mmaI8 _ _ _ _ prof _ _ _ _ => decide (prof = 1 ∨ prof = 2)
  | .mma2 _ _ _ _ prof _ t _ _ => decide (prof = 1 ∨ prof = 2) && decide (t.toNat % 2 = 0)
  | .sldDb8 _ _ _ _ => true
  | .sldDb4 _ _ _ _ => true
  | .sldI8 _ _ _ _ => true
  | .sldB16 _ _ _ _ => true
  | .sswap _ _ _ => true
  | .mrot _ _ _ => true
  | .mfixF32 _ _ sx _ rdn dst t tv => decide (if dst = 1 then sx = 0 else rdn = 0 ∧ t = 0 ∧ tv = 0)
  | .mfixB16 _ _ sx _ rdn dst t tv => decide (if dst = 1 then sx = 0 else rdn = 0 ∧ t = 0 ∧ tv = 0)
  | .mfixI8 _ _ sx _ rdn dst t tv => decide (if dst = 1 then sx = 0 else rdn = 0 ∧ t = 0 ∧ tv = 0)
  | .mfixDb8 _ _ sx _ rdn dst t tv => decide (if dst = 1 then sx = 0 else rdn = 0 ∧ t = 0 ∧ tv = 0)
  | .mfixDb4 _ _ sx _ rdn dst t tv => decide (if dst = 1 then sx = 0 else rdn = 0 ∧ t = 0 ∧ tv = 0)
  | .mzero _ _ _ => true
  | .cpyLd _ _ _ _ _ _ hint => decide (hint ≠ 3)
  | .cpySt _ _ _ _ _ _ hint => decide (hint ≠ 3)
  | .gath _ _ _ _ _ _ hint _ => decide (hint ≠ 3)
  | .scat _ _ _ _ _ _ hint _ => decide (hint ≠ 3)
  | .fillLd _ _ _ _ _ _ hint => decide (hint ≠ 3)
  | .fillSt _ _ _ _ _ _ hint => decide (hint ≠ 3)
  | .clinkLd _ _ => true
  | .clinkSt _ _ => true
  | .ckick _ _ => true
  | .hconf _ _ _ _ kind _ => decide (kind ≠ 3)
  | .radvp _ n _ => decide (1 ≤ n.toNat)
  | .radvc _ n _ => decide (1 ≤ n.toNat)
  | .rwaitf _ n _ => decide (1 ≤ n.toNat)
  | .rwaite _ n _ => decide (1 ≤ n.toNat)
  | .tksend _ _ => true
  | .tkwait _ _ => true
  | .gld _ a => awf 0xA0 a
  | .gst _ a => awf 0xA1 a
  | .aaddN32 _ a => awf 0xA2 a
  | .aaddN64 _ a => awf 0xA3 a
  | .afaddF32 _ a => awf 0xA4 a
  | .afaddB16 _ a => awf 0xA5 a
  | .aminI32 _ a => awf 0xA6 a
  | .aminI64 _ a => awf 0xA7 a
  | .aminN32 _ a => awf 0xA8 a
  | .aminN64 _ a => awf 0xA9 a
  | .amaxI32 _ a => awf 0xAA a
  | .amaxI64 _ a => awf 0xAB a
  | .amaxN32 _ a => awf 0xAC a
  | .amaxN64 _ a => awf 0xAD a
  | .aandN32 _ a => awf 0xAE a
  | .aandN64 _ a => awf 0xAF a
  | .aorN32 _ a => awf 0xB0 a
  | .aorN64 _ a => awf 0xB1 a
  | .axorN32 _ a => awf 0xB2 a
  | .axorN64 _ a => awf 0xB3 a
  | .axchgN32 _ a => awf 0xB4 a
  | .axchgN64 _ a => awf 0xB5 a
  | .axchgN128 _ a => awf 0xB6 a
  | .acasN32 _ a => awf 0xB7 a
  | .acasN64 _ a => awf 0xB8 a
  | .acasN128 _ a => awf 0xB9 a
  | .aprom _ a => awf 0xBA a
  | .fence _ a => awf 0xBB a
  | .pf _ a => awf 0xBC a
  | .linv _ a => awf 0xBD a
  | .lwb _ a => awf 0xBE a
  | .dvred _ a => awf 0xBF a
  | .tspawn _ a => awf 0xC0 a
  | .tstageReg _ a => awf 0xC1 a
  | .tstageImm _ a => awf 0xC2 a
  | .tend _ => true
  | .tjoin _ a => awf 0xC4 a
  | .joinReg _ a => awf 0xC5 a
  | .joinImm _ a => awf 0xC6 a
  | .leaveReg _ a => awf 0xC7 a
  | .leaveImm _ a => awf 0xC8 a
  | .bargReg _ a => awf 0xC9 a
  | .bargImm _ a => awf 0xCA a
  | .gcountReg _ a => awf 0xCB a
  | .gcountImm _ a => awf 0xCC a
  | .imprv _ a => awf 0xCD a
  | .iread _ a => awf 0xCE a
  | .kchk _ a => awf 0xCF a
  | .jrec _ a => awf 0xD0 a
  | .jwait _ a => awf 0xD1 a
  | .emitN32 _ a => awf 0xD2 a
  | .emitN64 _ a => awf 0xD3 a
  | .jtrunc _ a => awf 0xD4 a
  | .jreseat _ a => awf 0xD5 a
  | .seg h _ _ => decide (h.qs = 0 ∧ h.qn = 0)
  | .segend h => decide (h.qs = 0 ∧ h.qn = 0)
  | .unassignedOpcode w => unassigned (w.extractLsb' 56 8)
  | .syswrRetire => true
  | .icinvComplete => true
  | .xtEntryStart => true
  | .xtEntryPublish => true
  | .tileLanding => true
  | .latentWriteLanding => true
  | .matrixCommandStart => true
  | .matrixCommandRetire => true
  | .engineUncorrectableError => true
  | .copyCommandStart => true
  | .copyCommandRetire => true
  | .chainEntryFetch => true
  | .chainWaitSatisfied => true
  | .chainEntryRetire => true
  | .tokenMarkerStart => true
  | .aqOperationPerform => true
  | .releaseMarkerPerform => true
  | .developerBlockStart => true
  | .developerFlagStore => true
  | .itemEnd => true
  | .barrierComplete => true
  | .itemTake => true
  | .itemStart => true
  | .shadowUpdate => true
  | .reseatTailSent => true
  | .journalEntryReceive => true
  | .journalAckReceive => true
  | .journalSilent => true
  | .probeSend => true
  | .probeForward => true
  | .bankDrowsy => true
  | .bankGated => true
  | .bankRefresh => true
  | .bankWakeDone => true
  | .faultDelivery => true
  | .faultRingRetry => true
  | .coreContextFault => true
  | .resumeStream => true
  | .abandonStream => true
  | .haltStream => true
  | .pctlSave => true
  | .contextStop => true
  | .saveComplete => true
  | .pctlResume => true
  | .pctlRestore => true
  | .resetPartition => true
  | .resetEngine => true
  | .resetLink => true
  | .resetChannel => true
  | .resetComplete => true
  | .sourceLasting => true
  | .laneRepairPause => true
  | .laneRepairDone => true
  | .dieHeartbeatLoss => true
  | .junctionOvertemp => true
  | .mailboxGo => true
  | .launchLoad => true
  | .streamsStart => true
  | .launchEnd => true
  | .deviceReset => true
  | .bootPhaseComplete => true
  | .hostMemoryRead => true
  | .hostMemoryWrite => true
  | .hostRegisterWrite => true
  | .ctxrootWrite => true
  | .tuInvGo => true
  | .tuInvDone => true
  | .negwinWrite => true
  | .jrouteWrite => true
  | .hnqReadIndexWrite => true
  | .attnGo => true
  | .ksOpen => true
  | .ksAgree => true
  | .ksInstall => true
  | .ksClose => true
  | .cringEnable => true
  | .ringVisit => true
  | .workRequestFinish => true
  | .switchHop => true
  | .redTimeout => true
  | .apertureDelivery => true
  | .pullReply => true
  | .pullReplyReceive => true
  | .remoteAccessRequest => true
  | .flitReceive => true
  | .linkDown => true
  | .restoreComplete => true
  | .hbmScrub => true
  | .packetStatusReturn => true
  | .attnReportComplete => true
  | .keySessionCommandDone => true

end Sys2Proof
end

