-- ==== Sys2Proof/Machine/Vector.lean ====
section
/-! DEFINITION. Machine/Vector.lean: the values of the vector forms (R201 to R218), row by row. -/
namespace Sys2Proof.Machine

/-! ## Elements (R201) -/

/-- Bits of an element of a TYPE (R64, R201). -/
def tyBits (ty : Nat) : Nat :=
  match ty with
  | 0 | 3 | 9 => 8
  | 1 | 4 | 7 | 8 => 16
  | 10 => 4
  | _ => 32
/-- Elements of a TYPE in a row. -/
def tyEpr (ty : Nat) : Nat := 512 / tyBits ty
/-- TYPE is a floating-point type. -/
def tyF (ty : Nat) : Bool := decide (6 ≤ ty ∧ ty ≤ 8)
/-- TYPE is a signed integer type. -/
def tySigned (ty : Nat) : Bool := decide (ty ≤ 2)
/-- The format of a floating-point TYPE. -/
def tyFmt (ty : Nat) : Fmt := match ty with | 6 => f32 | 7 => f16 | _ => b16

/-- Element `i` of a row, of `w` bits. -/
def elemOf (w : Nat) (x : Row) (i : Nat) : Nat := (x >>> (w * i)).toNat % 2 ^ w
/-- A row of `n` elements of `w` bits. -/
def rowOf (w n : Nat) (f : Nat → Nat) : Row :=
  BitVec.ofNat 512 ((List.range n).foldr (fun i a => a * 2 ^ w + f i % 2 ^ w) 0)
/-- The elements of a row of a TYPE. -/
def elems (ty : Nat) (x : Row) : List Nat := (List.range (tyEpr ty)).map (elemOf (tyBits ty) x)
/-- A row of a TYPE from a list of elements. -/
def rowOfList (ty : Nat) (xs : List Nat) : Row := rowOf (tyBits ty) (tyEpr ty) (fun i => xs.getD i 0)

/-- The mask bit of element `i` of row `r` for elements of `w` bits (R161). -/
def maskBit (m : Row) (w r i : Nat) : Bool := m.getLsbD (16 * r + w * i / 32)

/-! ## Operations on one element (R205, R206) -/

/-- A floating-point result of exact operands. -/
def fres (v : Tv) (x : FVal) : Nat := (tyFmt v.ty.toNat).round v.rnd.toNat (v.sat == 1) x
/-- An element read as an exact value of the form's floating-point TYPE. -/
def fval (v : Tv) (x : Nat) : FVal := (tyFmt v.ty.toNat).decode x
/-- An element read as an integer of the form's TYPE. -/
def ival (v : Tv) (x : Nat) : Int := intOf (tyBits v.ty.toNat) (tySigned v.ty.toNat) x
/-- An integer wrapped, or clamped under .SAT (R178). -/
def ires (v : Tv) (x : Int) : Nat :=
  let w := tyBits v.ty.toNat
  intBits w (if v.sat = 1 then clampInt w (tySigned v.ty.toNat) x else x)

/-- Elementwise forms: the result for elements `a`, `b` and the tapped addend `t` (R205, R206). -/
def elemOp (i : Instr) (v : Tv) (a b t : Nat) : Nat :=
  let m := v.rnd.toNat
  let w := tyBits v.ty.toNat
  match i with
  | .vaddF _ _ => fres v (FVal.add m (fval v a) (fval v b))
  | .vaddI _ _ => ires v (ival v a + ival v b)
  | .vsubF _ _ => fres v (FVal.add m (fval v a) (fval v b).negate)
  | .vsubI _ _ => ires v (ival v a - ival v b)
  | .vmulF _ _ => fres v (FVal.mul (fval v a) (fval v b))
  | .vmulI _ _ => ires v (ival v a * ival v b)
  | .vfma _ _ => fres v (FVal.add m (FVal.mul (fval v a) (fval v b)) (fval v t))
  | .vminF _ _ => fres v (FVal.pick false (fval v a) (fval v b))
  | .vminI _ _ => intBits w (min (ival v a) (ival v b))
  | .vmaxF _ _ => fres v (FVal.pick true (fval v a) (fval v b))
  | .vmaxI _ _ => intBits w (max (ival v a) (ival v b))
  | .vabs _ _ => if tyF v.ty.toNat then fres v (fval v a).abs else ires v (ival v a).natAbs
  | .vneg _ _ => if tyF v.ty.toNat then fres v (fval v a).negate else ires v (-(ival v a))
  | .vshl _ _ => if w ≤ b then 0 else a * 2 ^ b % 2 ^ w
  | .vshrN _ _ => if w ≤ b then 0 else a / 2 ^ b
  | .vshrI _ _ => intBits w (ival v a / 2 ^ (min b w))
  | _ => 0

/-- The condition of VCMP between two elements (R206). -/
def elemCond (i : Instr) (v : Tv) (a b : Nat) : Bool :=
  let c := v.cond.toNat
  match i with
  | .vcmpF _ _ => FVal.cond c (fval v a) (fval v b)
  | _ =>
    let x := ival v a
    let y := ival v b
    match c with
    | 0 => decide (x = y)
    | 1 => decide (x ≠ y)
    | 2 => decide (x < y)
    | 3 => decide (x ≤ y)
    | 4 => decide (y < x)
    | _ => decide (y ≤ x)

/-! ## Reductions and scans (R97, R197, R209, R210) -/

/-- The pairwise tree over element index, absent elements passed through. -/
def tree (f : Nat → Nat → Nat) : Nat → List (Option Nat) → Option Nat
  | 0, xs => xs.headD none
  | n + 1, xs =>
    let h := 2 ^ n
    match tree f n (xs.take h), tree f n (xs.drop h) with
    | none, y => y
    | x, none => x
    | some x, some y => some (f x y)

/-- What R197 fixes of a reduction of any kind by its operands alone: NaN, or the infinity of the one sign among them. For a max or min, whose
order would keep a finite operand, the last sentence of R197 is taken to govern, since it speaks of every case (DEDUCED, entry 34). -/
def special (f : Fmt) (xs : List Nat) : Option FVal :=
  let vs := xs.map f.decode
  let has (x : FVal) : Bool := vs.contains x
  if has .nan || (has (.inf true) && has (.inf false)) then some .nan
  else if has (.inf false) then some (.inf false)
  else if has (.inf true) then some (.inf true)
  else none

/-- A reduction's result where the fixed order gives `r` (R197): a NaN leaves as the format's canonical one (R180). -/
def reduced (f : Fmt) (xs : List Nat) (r : Nat) : FVal := (special f xs).getD (f.decode r)

/-- Two elements combined by operation `op`, 0 add, 1 max, 2 min, rounded in the TYPE. -/
def redF (f : Fmt) (mode op : Nat) (x y : Nat) : Nat :=
  let a := f.decode x
  let b := f.decode y
  f.round mode false (match op with | 0 => FVal.add mode a b | 1 => FVal.pick true a b | _ => FVal.pick false a b)

/-- VRED and VSCAN's operation (R66). -/
def redOpOf (v : Tv) : Nat := (v.tb.extractLsb' 4 2).toNat

/-- Two integers combined. -/
def redI (op : Nat) (x y : Int) : Int := match op with | 0 => x + y | 1 => max x y | _ => min x y

/-- The reduction of a row's elements, absent where masked off (R209). -/
def reduceRow (v : Tv) (xs : List (Option Nat)) : Nat :=
  let ty := v.ty.toNat
  let here := xs.filterMap id
  if tyF ty then
    let f := tyFmt ty
    fres v (reduced f here ((tree (redF f v.rnd.toNat (redOpOf v)) (Nat.log2 (tyEpr ty)) xs).getD 0))
  else
    match here.map (ival v) with
    | [] => 0
    | x :: r => ires v (r.foldl (redI (redOpOf v)) x)

/-- The scan of a row's elements: each output (R210). `seen` lists the operands so far, `s` the running value. -/
def scanRow (v : Tv) : List (Option Nat) → List Nat → Option Nat → List Nat
  | [], _, _ => []
  | none :: r, seen, s => 0 :: scanRow v r seen s
  | some x :: r, seen, s =>
    let ty := v.ty.toNat
    if tyF ty then
      let f := tyFmt ty
      let s' := match s with | none => x | some y => redF f v.rnd.toNat (redOpOf v) y x
      let seen' := x :: seen
      fres v (reduced f seen' s') :: scanRow v r seen' (some s')
    else
      let s' := match s with | none => x | some y => ires v (redI (redOpOf v) (ival v y) (ival v x))
      s' :: scanRow v r seen (some s')

/-! ## Conversion (R184, R207, R208) -/

/-- The exponents of block `j` in a side field (R185). -/
def sideExps (side : BitVec 64) (j : Nat) : Exps :=
  ((side >>> (16 * j)).toNat % 256, (side >>> (16 * j + 8)).toNat % 256)

/-- A source element as an exact value: element `e` of a row of TYPE `ty`. -/
def sourceVal (ty : Nat) (l : Line) (e : Nat) : FVal :=
  let x := elemOf (tyBits ty) l.data e
  if tyF ty then (tyFmt ty).decode x
  else if ty = 9 then (BElem.ofBits false x).value false (sideExps l.side (e / 32))
  else if ty = 10 then (BElem.ofBits true x).value true (sideExps l.side (e / 32))
  else FVal.ofInt (intOf (tyBits ty) (tySigned ty) x)

/-- One element converted (R184). -/
def convert (v : Tv) (st : Nat) (l : Line) (e : Nat) : Nat :=
  let ty := v.ty.toNat
  if tyF ty then fres v (sourceVal st l e)
  else
    let w := tyBits ty
    if st ≤ 5 then
      let x := intOf (tyBits st) (tySigned st) (elemOf (tyBits st) l.data e)
      intBits w (if v.sat = 1 ∧ w ≤ tyBits st then clampInt w (tySigned ty) x else x)
    else intBits w (clampInt w (tySigned ty) (FVal.toInteger v.rnd.toNat (sourceVal st l e)))

/-- Elements that a conversion between two TYPEs handles (R207). -/
def convCount (st ty : Nat) : Nat := 16384 / max (tyBits st) (tyBits ty)

/-- Row `r` of VCVT. -/
def cvtRow (v : Tv) (a : Nat → Line) (r : Nat) : Line :=
  let st := v.srcTy.toNat
  let ty := v.ty.toNat
  let n := tyEpr ty
  let es := tyEpr st
  { data := rowOf (tyBits ty) n (fun i =>
      let e := r * n + i
      if e < convCount st ty then convert v st (a (e / es)) (e % es) else 0) }

/-- Row `r` of VQNT (R208). -/
def qntRow (v : Tv) (a : Nat → Line) (r : Nat) : Line :=
  let four := v.ty.toNat == 10
  let st := v.srcTy.toNat
  let ty := v.ty.toNat
  let es := tyEpr st
  let per := tyEpr ty / 32
  let block (j : Nat) : Exps × List BElem :=
    let e0 := (r * per + j) * 32
    if e0 < convCount st ty then
      quantise four v.rnd.toNat ((List.range 32).map (fun i => sourceVal st (a ((e0 + i) / es)) ((e0 + i) % es)))
    else ((0, 0), [])
  let bs := (List.range per).map block
  let els := bs.flatMap (fun b => (List.range 32).map (fun i => ((b.2[i]?).map (BElem.bits four)).getD 0))
  { data := rowOfList ty els,
    side := BitVec.ofNat 64 (bs.foldr (fun b t => b.1.1 + 256 * b.1.2 + 65536 * t) 0),
    tag := if four then 2 else 1 }

/-! ## Permutes, top-k and the counter generator (R211 to R215) -/

/-- The source element of VPERM (imm). -/
def permIndex (kind p epr i : Nat) : Nat :=
  match kind with
  | 0 => (i + p) % epr
  | 1 => epr - 1 - i
  | 2 => i ^^^ 2 ^ p
  | _ => p

/-- The rank of an element in VTOPK: greater ranks first. -/
def rankOf (ty x : Nat) : Int :=
  if ty = 6 then
    (if f32.decode x = .nan then -(2 ^ 32) else if x < 2 ^ 31 then (x : Int) else -((x : Int) - 2 ^ 31) - 1)
  else intOf 32 (tySigned ty) x

/-- The `k` greatest of (rank, index, value), equal ranks by lower index. -/
def topk : Nat → List (Int × Nat × Nat) → List (Nat × Nat)
  | 0, _ => []
  | n + 1, xs =>
    match xs with
    | [] => []
    | x :: r =>
      let b := r.foldl (fun m y => if m.1 < y.1 then y else m) x
      (b.2.1, b.2.2) :: topk n (xs.filter (fun y => y.2.1 != b.2.1))

/-- Row `r` of VTOPK (R213). -/
def topkRow (v : Tv) (a : Nat → Line) (r : Nat) : Line :=
  let ty := v.ty.toNat
  if 2 ≤ r then {}
  else
    let xs := (List.range 512).map (fun i => let x := elemOf 32 (a (i / 16)).data (i % 16); (rankOf ty x, i, x))
    let best := topk v.imm.toNat xs
    let out := best.map (fun p => if r = 1 then p.1
      else if ty = 6 ∧ f32.decode p.2 = .nan then 0x7FC00000 else p.2)
    { data := rowOfList 5 out }

/-- One round of the counter generator (R214). -/
def icgRound (k : Nat → BitVec 32) (n : Nat) (x : BitVec 32 × BitVec 32 × BitVec 32 × BitVec 32) :
    BitVec 32 × BitVec 32 × BitVec 32 × BitVec 32 :=
  let (x0, x1, x2, x3) := x
  let x0 := x0 + x1
  let x3 := (x3 ^^^ x0).rotateLeft 16
  let x2 := x2 + x3
  let x1 := (x1 ^^^ x2).rotateLeft 12
  let x0 := x0 + x1
  let x3 := (x3 ^^^ x0).rotateLeft 8
  let x2 := x2 + x3
  let x1 := (x1 ^^^ x2).rotateLeft 7
  (x0 + k ((n + 1) % 4), x1, x2, x3 + BitVec.ofNat 32 (n + 1))

/-- The Idzal counter generator (R214). -/
def icg (key : BitVec 128) (ctr : Word) : BitVec 128 :=
  let k (i : Nat) : BitVec 32 := (key >>> (32 * i)).setWidth 32
  let x := (List.range 10).foldl (fun x n => icgRound k n x)
    (ctr.setWidth 32 ^^^ k 0, (ctr >>> 32).setWidth 32 ^^^ k 1, 0x6B644F31#32 ^^^ k 2, 0x617A6449#32 ^^^ k 3)
  (x.2.2.2 + k 3) ++ (x.2.2.1 + k 2) ++ (x.2.1 + k 1) ++ (x.1 + k 0)

/-- Row `r` of VRNG (R215). -/
def rngRow (v : Tv) (a : Nat → Line) (r : Nat) : Line :=
  let src := (a 0).data
  let key : BitVec 128 := src.setWidth 128
  let c0 : Word := (src >>> 128).setWidth 64
  let g (j : Nat) : Nat := (icg key (c0 + BitVec.ofNat 64 (4 * r + j))).toNat
  let all := g 0 + 2 ^ 128 * (g 1 + 2 ^ 128 * (g 2 + 2 ^ 128 * g 3))
  let raw := BitVec.ofNat 512 all
  { data := if v.ty = 6 then rowOf 32 16 (fun i =>
      let w := elemOf 32 raw i
      if w / 256 = 0 then 0 else f32.round 0 false (.num (w / 256 : Nat) (-24))) else raw }

/-! ## Whole forms -/

/-- What a form computes from: its first source (a register or the tapped row-quads), its second source, the tapped addend
of VFMA, its mask and its S register. -/
structure VSrc where
  a    : Tbl Line
  b    : Tbl Line
  t    : Tbl Line
  tap  : Bool
  mask : Row
  sval : Word

/-- The function of a transcendental form. -/
def xfunOf : Instr → Option XFun
  | .vexp _ _ => some .exp
  | .vlog _ _ => some .log
  | .vsin _ _ => some .sin
  | .vcos _ _ => some .cos
  | .vtanh _ _ => some .tanh
  | .vrsq _ _ => some .rsq
  | .vrcp _ _ => some .rcp
  | .vsig _ _ => some .sig
  | _ => none

/-- Row `r` of a form's result, before the mask. -/
def vrow (i : Instr) (v : Tv) (x : VSrc) (r : Nat) : Line :=
  let ty := v.ty.toNat
  let w := tyBits ty
  let n := tyEpr ty
  let la := x.a.get {} r
  let lb := x.b.get {} r
  let present (e : Nat) : Option Nat :=
    if v.men = 0 ∨ maskBit x.mask w r e then some (elemOf w la.data e) else none
  match i with
  | .vand _ _ => { data := la.data &&& lb.data }
  | .vor _ _ => { data := la.data ||| lb.data }
  | .vxor _ _ => { data := la.data ^^^ lb.data }
  | .vsel _ _ =>
    let k := wideMask (rowMask x.mask r)
    { data := (la.data &&& k) ||| (lb.data &&& ~~~k) }
  | .vcvtF _ _ => cvtRow v (x.a.get {}) r
  | .vcvtI _ _ => cvtRow v (x.a.get {}) r
  | .vqntDb8 _ _ => qntRow v (x.a.get {}) r
  | .vqntDb4 _ _ => qntRow v (x.a.get {}) r
  | .vredF _ _ => let s := reduceRow v ((List.range n).map present); { data := rowOf w n (fun _ => s) }
  | .vredI _ _ => let s := reduceRow v ((List.range n).map present); { data := rowOf w n (fun _ => s) }
  | .vscanF _ _ => { data := rowOfList ty (scanRow v ((List.range n).map present) [] none) }
  | .vscanI _ _ => { data := rowOfList ty (scanRow v ((List.range n).map present) [] none) }
  | .vpermT _ _ => { data := rowOf w n (fun e => elemOf w la.data (elemOf w lb.data e % n)) }
  | .vpermImm _ _ =>
    { data := rowOf w n (fun e =>
        elemOf w la.data (permIndex (v.imm.extractLsb' 8 3).toNat (v.imm.extractLsb' 0 8).toNat n e)) }
  | .vxrow _ _ => let s := x.a.get {} (lb.data.toNat % 32); { s with poison := false }
  | .vbcastS _ _ => { data := rowOf w n (fun _ => x.sval.toNat) }
  | .vbcastRow _ _ => { x.a.get {} 0 with poison := false }
  | .vtopk _ _ => topkRow v (x.a.get {}) r
  | .vrng _ _ => rngRow v (x.a.get {}) r
  | .vmovt _ _ => if x.tap then { data := la.data } else { la with poison := false }
  | _ =>
    match xfunOf i with
    | some f => { data := rowOf w n (fun e =>
        f.eval (tyFmt ty) v.rnd.toNat (v.sat == 1) ((tyFmt ty).decode (elemOf w la.data e))) }
    | none => { data := rowOf w n (fun e =>
        elemOp i v (elemOf w la.data e) (elemOf w lb.data e) (elemOf w (x.t.get {} r).data e)) }

/-- The bytes of row `r` that a form writes (R161, R206). -/
def vbytes (i : Instr) (v : Tv) (m : Row) (r : Nat) : BitVec 64 :=
  match i with
  | .vsel _ _ => BitVec.allOnes 64
  | _ => if v.men = 1 then rowMask m r else BitVec.allOnes 64

/-- The mask that VCMP writes: `old` is Mk as it stood at issue (R206). -/
def vcmpMask (i : Instr) (v : Tv) (x : VSrc) (old : Row) : Row :=
  let w := tyBits v.ty.toNat
  let per := 32 / w
  let bit (g : Nat) : Bool :=
    if v.men = 1 ∧ !x.mask.getLsbD g then old.getLsbD g
    else (List.range per).all (fun j =>
      let e := g % 16 * per + j
      elemCond i v (elemOf w (x.a.get {} (g / 16)).data e) (elemOf w (x.b.get {} (g / 16)).data e))
  BitVec.ofNat 512 ((List.range 512).foldr (fun g a => 2 * a + if bit g then 1 else 0) 0)

/-- The rows and byte masks of a form's whole result. -/
def vresult (i : Instr) (v : Tv) (x : VSrc) : Tbl Line × Tbl (BitVec 64) :=
  (⟨(List.range 32).map (fun r => (r, vrow i v x r))⟩, ⟨(List.range 32).map (fun r => (r, vbytes i v x.mask r))⟩)

/-- Row-quad `q` of a form's result as a drive carries it: data only, zero in the groups that the mask leaves (R201). -/
def vquad (i : Instr) (v : Tv) (x : VSrc) (q : Nat) : Quad :=
  let row (j : Nat) : Nat := ((vrow i v x (4 * q + j)).data &&& wideMask (vbytes i v x.mask (4 * q + j))).toNat
  BitVec.ofNat 2048 (row 0 + 2 ^ 512 * (row 1 + 2 ^ 512 * (row 2 + 2 ^ 512 * row 3)))

end Sys2Proof.Machine
end

