-- ==== Sys2Proof/Machine/VForms.lean ====
section
/-! DEFINITION. Machine/VForms.lean: the issue of the vector forms, the row cycles of the rail-bound ones, VLDS and VSTS, and
the transcendental unit (R198 to R203, R216 to R219). -/
namespace Sys2Proof.Machine

/-! ## Operands of a form -/

/-- The fields of a TV form. -/
def tvOf : Instr → Option (Hdr × Tv)
  | .vaddF h v => some (h, v)
  | .vaddI h v => some (h, v)
  | .vsubF h v => some (h, v)
  | .vsubI h v => some (h, v)
  | .vmulF h v => some (h, v)
  | .vmulI h v => some (h, v)
  | .vfma h v => some (h, v)
  | .vminF h v => some (h, v)
  | .vminI h v => some (h, v)
  | .vmaxF h v => some (h, v)
  | .vmaxI h v => some (h, v)
  | .vabs h v => some (h, v)
  | .vneg h v => some (h, v)
  | .vcmpF h v => some (h, v)
  | .vcmpI h v => some (h, v)
  | .vsel h v => some (h, v)
  | .vand h v => some (h, v)
  | .vor h v => some (h, v)
  | .vxor h v => some (h, v)
  | .vshl h v => some (h, v)
  | .vshrN h v => some (h, v)
  | .vshrI h v => some (h, v)
  | .vcvtF h v => some (h, v)
  | .vcvtI h v => some (h, v)
  | .vqntDb8 h v => some (h, v)
  | .vqntDb4 h v => some (h, v)
  | .vredF h v => some (h, v)
  | .vredI h v => some (h, v)
  | .vscanF h v => some (h, v)
  | .vscanI h v => some (h, v)
  | .vpermT h v => some (h, v)
  | .vpermImm h v => some (h, v)
  | .vxrow h v => some (h, v)
  | .vbcastS h v => some (h, v)
  | .vbcastRow h v => some (h, v)
  | .vtopk h v => some (h, v)
  | .vrng h v => some (h, v)
  | .vmovt h v => some (h, v)
  | .vexp h v => some (h, v)
  | .vlog h v => some (h, v)
  | .vsin h v => some (h, v)
  | .vcos h v => some (h, v)
  | .vtanh h v => some (h, v)
  | .vrsq h v => some (h, v)
  | .vrcp h v => some (h, v)
  | .vsig h v => some (h, v)
  | _ => none

/-- The station of a form (R198). -/
def stationOf : Instr → Nat
  | .vcvtF _ _ | .vcvtI _ _ | .vbcastS _ _ | .vrng _ _ => 0
  | .vaddF _ _ | .vaddI _ _ | .vsubF _ _ | .vsubI _ _ | .vabs _ _ | .vneg _ _ => 1
  | .vmulF _ _ | .vmulI _ _ => 2
  | .vfma _ _ => 3
  | .vpermT _ _ | .vpermImm _ _ | .vbcastRow _ _ | .vxrow _ _ => 5
  | .vredF _ _ | .vredI _ _ | .vscanF _ _ | .vscanI _ _ | .vtopk _ _ => 6
  | .vqntDb8 _ _ | .vqntDb4 _ _ | .vmovt _ _ => 7
  | _ => 4

/-- Row or core cycles from issue to publication (R199). -/
def publishAge (i : Instr) : Nat := match i with | .vtopk _ _ => 23 | _ => stationOf i + 9

/-- The form's second source is a tile register (R66). -/
def readsTb : Instr → Bool
  | .vabs _ _ | .vneg _ _ | .vbcastRow _ _ | .vmovt _ _ | .vcvtF _ _ | .vcvtI _ _ | .vqntDb8 _ _ | .vqntDb4 _ _
  | .vredF _ _ | .vredI _ _ | .vscanF _ _ | .vscanI _ _ | .vbcastS _ _ | .vpermImm _ _ | .vtopk _ _ | .vrng _ _
  | .vexp _ _ | .vlog _ _ | .vsin _ _ | .vcos _ _ | .vtanh _ _ | .vrsq _ _ | .vrcp _ _ | .vsig _ _ => false
  | _ => true
/-- The form's first source is a tile register: it is not tapped, and not an S register (R65, R66). -/
def readsTa (i : Instr) (v : Tv) : Bool :=
  match i with
  | .vbcastS _ _ => false
  | .vfma _ _ => true
  | _ => !v.taps
/-- VCMP: the destination is a mask register (R66). -/
def isVcmp : Instr → Bool
  | .vcmpF _ _ => true
  | .vcmpI _ _ => true
  | _ => false

/-- The counted sources of a form, TA before TB. -/
def vsrcs (i : Instr) (v : Tv) : List TSrc :=
  (if readsTa i v then [⟨v.ta.toNat, v.tav, v.tap == 1⟩] else [])
    ++ (if readsTb i then [⟨v.tb.toNat, v.tbv, v.tbp == 1⟩] else [])
/-- The counted destination of a form. -/
def vdst (i : Instr) (v : Tv) : Option TDst :=
  if isVcmp i || v.drives then none else some ⟨v.td.toNat, v.tdv, v.rdn⟩
/-- The register that the rail-bound form of a flight publishes. -/
def flightDst (f : VFlight) : Option Nat := (tvOf f.instr).bind (fun p => (vdst f.instr p.2).map (·.t))
/-- The form is rail-bound (R199). -/
def railBound (v : Tv) : Bool := v.taps || v.drives
/-- The rail, 1 to 3. -/
def railOf (v : Tv) : Nat := (v.rail.extractLsb' 1 2).toNat

/-! ## Waits (R170, R200) -/

/-- Tile register `t` stands reserved by a rail-bound instruction of the stream that has still to publish it. -/
def Stream.owes (t : Stream) (k : Core) (r : Nat) : Bool :=
  (k.tile r).wpend && t.flights.any (fun f => flightDst f == some r && f.issued == (k.tile r).resAt)

/-- The wait of a source is one that a rail-bound instruction of the stream must meet: a version it publishes, or a
reservation it releases. -/
def Stream.ownSrc (t : Stream) (k : Core) (o : TSrc) : Bool :=
  let x := k.tile o.t
  let d := o.ver - x.wcnt.setWidth 4
  t.owes k o.t && (d == 0 || d == 1)

/-- The wait of a destination is one that rail-bound instructions of the stream must meet. `own` counts the instruction's own
claims on the register. -/
def Stream.ownDst (t : Stream) (k : Core) (o : TDst) (own : Nat) : Bool :=
  let x := k.tile o.t
  let d := (o.ver - 1) - x.wcnt.setWidth 4
  let held := (t.flights.map (fun f => (f.claims.filter (· == o.t)).length)).foldl (· + ·) 0
  if x.wpend then (d == 0 || d == 1) && t.owes k o.t
  else d == 0 && x.held == 0 && decide (x.rdrem.toNat ≤ held + own) && decide (0 < held)

/-- Every waiting operand of a word waits for the stream's own rail-bound instructions. -/
def Stream.ownWait (t : Stream) (k : Core) (now : Nat) (dst : Option TDst) (srcs : List TSrc) : Bool :=
  let own (r : Nat) : Nat := (srcs.filter (fun o => decide (o.t = r) && k.hasClaim o)).length
  (match dst with
   | some o => decide (k.checkDst o (own o.t) ≠ .wait) || t.ownDst k o (own o.t)
   | none => true)
    && srcs.all (fun o => decide (k.checkSrc now o ≠ .wait) || t.ownSrc k o)

/-! ## Issue -/

/-- The first poisoned row of the sources, as ADDR of a POISON record names it (R202, R373). -/
def Core.poisonRow (k : Core) (srcs : List TSrc) : Option Nat :=
  srcs.findSome? (fun o => ((List.range 32).find? (fun r => ((k.tile o.t).line r).poison)).map (fun r => 32 * o.t + r))

/-- The version edges of an operation on core `c` that carries `k` and whose checks of these operands have passed: what it takes, and the
state (R171, R278). -/
def State.versionEdges (s : State) (c : Nat) (dst : Option TDst) (srcs : List TSrc) (k : Tbl Nat) : Tbl Nat × State :=
  let a := srcs.foldl (fun (a : Tbl Nat × State) o =>
    let r := a.2.tileRead c o.t o.ver.toNat k
    (joinSeen a.1 r.1, r.2)) (.empty, s)
  match dst with
  | none => a
  | some o => let r := a.2.tileWrite c o.t o.ver.toNat k; (joinSeen a.1 r.1, r.2)

/-- The same for a word of the issuing stream, which acquires what it takes. -/
def State.wordEdges (s : State) (dst : Option TDst) (srcs : List TSrc) : State :=
  let r := s.versionEdges (s.cur / 4) dst srcs (s.carries s.cur (s.me.region + 1) (s.me.clock 4))
  r.2.acquire s.cur s.cycle r.1

/-- The version checks of a word, and then what it does with a core in which its claims are committed: a fault, a wait, or
`body`, whose sources, when it executes, are read from awake banks and hold no poison (R168 to R174, R202). Each passed check
is a synchronisation point that ends the region (R273). A source bank is looked at only once every version check passes, and a poisoned source
row is taken before its bank has let the group issue: R200 and R202 do not say (DESIGN CHOICE, entry 54). -/
def State.counted (s : State) (exec : Bool) (dst : Option TDst) (srcs : List TSrc) (body : State → Act) : Act :=
  let k := s.myCore
  let ends (u : State) : State :=
    if dst.isSome || !srcs.isEmpty then (u.wordEdges dst srcs).modMe (fun t => { t with region := t.region + 1 }) else u
  let body := fun u => if dst.isSome || !srcs.isEmpty then u.sync (body u) else body u
  match k.checkAll s.cycle dst srcs with
  | (.fault f, _) => .fault f
  | (.wait, _) => .wait s (s.me.ownWait k s.cycle dst srcs)
  | (.pass, k') =>
    if exec then
      match k.poisonRow srcs with
      | some a => .fault { code := .poison, addr := BitVec.ofNat 64 a }
      | none =>
        let b := k'.touchAll s.cycle (srcs.map (·.t))
        if b.1 then body (ends (s.modMyCore (fun _ => b.2)))
        else .wait (s.modMyCore (fun _ => (k.touchAll s.cycle (srcs.map (·.t))).2)) false
    else body (ends (s.modMyCore (fun _ => k')))

/-- The claims of a core-cycle form consumed at the end of cycle `due`. -/
def State.claimAt (s : State) (srcs : List TSrc) (due : Nat) : State :=
  let k := s.myCore
  let cs := (srcs.filter k.hasClaim).map (fun o => (⟨o.t, s.cur, due⟩ : Claim))
  s.modMyCore (fun k => { k with claims := k.claims ++ cs })

/-- Mask registers and S registers that a form reads. -/
def vreads (t : Stream) (i : Instr) (v : Tv) : List PReg :=
  (if v.men = 1 then [.m v.msk.toNat] else [])
    ++ (if isVcmp i && v.men == 1 then [.m v.td.toNat] else [])
    ++ (match i with | .vbcastS _ _ => [t.sp (v.ta.setWidth 5)] | _ => [])

/-- The sources of a form as they stand. -/
def State.vsource (s : State) (i : Instr) (v : Tv) : VSrc :=
  let k := s.myCore
  let t := s.me
  { a := if readsTa i v then (k.tile v.ta.toNat).row else .empty,
    b := if readsTb i then (k.tile v.tb.toNat).row else .empty,
    t := .empty, tap := v.taps, mask := if v.men = 1 then t.mreg v.msk else BitVec.allOnes 512,
    sval := t.sreg (v.ta.setWidth 5) }

/-- The effect of a form of core cycles that issues (R199): its result is written at its landing. -/
def State.vcore (s : State) (i : Instr) (v : Tv) (exec : Bool) : State :=
  let x := s.vsource i v
  let u := s.claimAt (vsrcs i v) (s.cycle + 7)
  if isVcmp i then
    (if exec then u.latch (.m v.td.toNat) 14 (vcmpMask i v x (s.me.m.get 0 v.td.toNat)) else u)
  else match vdst i v with
    | none => u
    | some o =>
      let w := if exec then vresult i v x else (.empty, .empty)
      u.modMyCore (fun k => { k.reserve s.cycle o exec none with
        twrites := k.twrites.put o.t { rdn := o.rdn, exec := exec, rows := w.1, mask := w.2,
                                       due := some (s.cycle + publishAge i) } })

/-- The effect of a rail-bound form that issues: it goes on row cycle by row cycle (R199). -/
def State.vrail (s : State) (i : Instr) (v : Tv) (exec : Bool) : State :=
  let x := s.vsource i v
  let cs := ((vsrcs i v).filter s.myCore.hasClaim).map (·.t)
  let f : VFlight := { instr := i, exec := exec, age := 0, ta := x.a, tb := x.b, mask := x.mask, sval := x.sval,
                       taps := .empty, claims := cs, issued := s.cycle }
  let u := s.modMe (fun t => { t with flights := t.flights ++ [f] })
  match vdst i v with
  | some o => u.modMyCore (fun k => k.reserve s.cycle o exec none)
  | none => u

/-- The effect of a transcendental form that issues: an entry of the unit's queue (R217). -/
def State.vqueue (s : State) (i : Instr) (v : Tv) (exec : Bool) : State :=
  let x := s.vsource i v
  let u := s.claimAt (vsrcs i v) (s.cycle + 7)
  let e : XEntry := { instr := i, exec := exec, gsid := s.cur, src := x.a, mask := x.mask, start := none }
  let o : TDst := ⟨v.td.toNat, v.tdv, v.rdn⟩
  u.modMyCore (fun k => { k.reserve s.cycle o exec none with xt := k.xt ++ [e] })

/-- A TV form (R199, R202). The entry at work in the transcendental unit is one of the eight of its queue: R217 does not say (DESIGN CHOICE,
entry 54). -/
def State.vform (s : State) (i : Instr) (h : Hdr) (v : Tv) : Act :=
  let t := s.me
  let full := (xfunOf i).isSome && decide (8 ≤ s.myCore.xt.length)
  let go (exec : Bool) : Act :=
    if full then
      (match s.myCore.checkAll s.cycle (vdst i v) (vsrcs i v) with
       | (.fault f, _) => .fault f
       | _ => .wait s false)
    else s.counted exec (vdst i v) (vsrcs i v) (fun u =>
      .go (if (xfunOf i).isSome then u.vqueue i v exec
           else if railBound v then u.vrail i v exec else u.vcore i v exec))
  s.slot h (vreads t i v) (if isVcmp i then [(.m v.td.toNat, 14)] else []) (go false) (go true)

/-- VaddF (R205). -/
def execVaddF (h : Hdr) (v : Tv) (s : State) : Host.Outcome State Fault Refusal := (s.vform (.vaddF h v) h v).done s
/-- VaddI (R205). -/
def execVaddI (h : Hdr) (v : Tv) (s : State) : Host.Outcome State Fault Refusal := (s.vform (.vaddI h v) h v).done s
/-- VsubF (R205). -/
def execVsubF (h : Hdr) (v : Tv) (s : State) : Host.Outcome State Fault Refusal := (s.vform (.vsubF h v) h v).done s
/-- VsubI (R205). -/
def execVsubI (h : Hdr) (v : Tv) (s : State) : Host.Outcome State Fault Refusal := (s.vform (.vsubI h v) h v).done s
/-- VmulF (R205). -/
def execVmulF (h : Hdr) (v : Tv) (s : State) : Host.Outcome State Fault Refusal := (s.vform (.vmulF h v) h v).done s
/-- VmulI (R205). -/
def execVmulI (h : Hdr) (v : Tv) (s : State) : Host.Outcome State Fault Refusal := (s.vform (.vmulI h v) h v).done s
/-- Vfma (R205). -/
def execVfma (h : Hdr) (v : Tv) (s : State) : Host.Outcome State Fault Refusal := (s.vform (.vfma h v) h v).done s
/-- VminF (R205). -/
def execVminF (h : Hdr) (v : Tv) (s : State) : Host.Outcome State Fault Refusal := (s.vform (.vminF h v) h v).done s
/-- VminI (R205). -/
def execVminI (h : Hdr) (v : Tv) (s : State) : Host.Outcome State Fault Refusal := (s.vform (.vminI h v) h v).done s
/-- VmaxF (R205). -/
def execVmaxF (h : Hdr) (v : Tv) (s : State) : Host.Outcome State Fault Refusal := (s.vform (.vmaxF h v) h v).done s
/-- VmaxI (R205). -/
def execVmaxI (h : Hdr) (v : Tv) (s : State) : Host.Outcome State Fault Refusal := (s.vform (.vmaxI h v) h v).done s
/-- Vabs (R205). -/
def execVabs (h : Hdr) (v : Tv) (s : State) : Host.Outcome State Fault Refusal := (s.vform (.vabs h v) h v).done s
/-- Vneg (R205). -/
def execVneg (h : Hdr) (v : Tv) (s : State) : Host.Outcome State Fault Refusal := (s.vform (.vneg h v) h v).done s
/-- VcmpF (R206). -/
def execVcmpF (h : Hdr) (v : Tv) (s : State) : Host.Outcome State Fault Refusal := (s.vform (.vcmpF h v) h v).done s
/-- VcmpI (R206). -/
def execVcmpI (h : Hdr) (v : Tv) (s : State) : Host.Outcome State Fault Refusal := (s.vform (.vcmpI h v) h v).done s
/-- Vsel (R206). -/
def execVsel (h : Hdr) (v : Tv) (s : State) : Host.Outcome State Fault Refusal := (s.vform (.vsel h v) h v).done s
/-- Vand (R206). -/
def execVand (h : Hdr) (v : Tv) (s : State) : Host.Outcome State Fault Refusal := (s.vform (.vand h v) h v).done s
/-- Vor (R206). -/
def execVor (h : Hdr) (v : Tv) (s : State) : Host.Outcome State Fault Refusal := (s.vform (.vor h v) h v).done s
/-- Vxor (R206). -/
def execVxor (h : Hdr) (v : Tv) (s : State) : Host.Outcome State Fault Refusal := (s.vform (.vxor h v) h v).done s
/-- Vshl (R206). -/
def execVshl (h : Hdr) (v : Tv) (s : State) : Host.Outcome State Fault Refusal := (s.vform (.vshl h v) h v).done s
/-- VshrN (R206). -/
def execVshrN (h : Hdr) (v : Tv) (s : State) : Host.Outcome State Fault Refusal := (s.vform (.vshrN h v) h v).done s
/-- VshrI (R206). -/
def execVshrI (h : Hdr) (v : Tv) (s : State) : Host.Outcome State Fault Refusal := (s.vform (.vshrI h v) h v).done s
/-- VcvtF (R207). -/
def execVcvtF (h : Hdr) (v : Tv) (s : State) : Host.Outcome State Fault Refusal := (s.vform (.vcvtF h v) h v).done s
/-- VcvtI (R207). -/
def execVcvtI (h : Hdr) (v : Tv) (s : State) : Host.Outcome State Fault Refusal := (s.vform (.vcvtI h v) h v).done s
/-- VqntDb8 (R208). -/
def execVqntDb8 (h : Hdr) (v : Tv) (s : State) : Host.Outcome State Fault Refusal := (s.vform (.vqntDb8 h v) h v).done s
/-- VqntDb4 (R208). -/
def execVqntDb4 (h : Hdr) (v : Tv) (s : State) : Host.Outcome State Fault Refusal := (s.vform (.vqntDb4 h v) h v).done s
/-- VredF (R209). -/
def execVredF (h : Hdr) (v : Tv) (s : State) : Host.Outcome State Fault Refusal := (s.vform (.vredF h v) h v).done s
/-- VredI (R209). -/
def execVredI (h : Hdr) (v : Tv) (s : State) : Host.Outcome State Fault Refusal := (s.vform (.vredI h v) h v).done s
/-- VscanF (R210). -/
def execVscanF (h : Hdr) (v : Tv) (s : State) : Host.Outcome State Fault Refusal := (s.vform (.vscanF h v) h v).done s
/-- VscanI (R210). -/
def execVscanI (h : Hdr) (v : Tv) (s : State) : Host.Outcome State Fault Refusal := (s.vform (.vscanI h v) h v).done s
/-- VpermT (R211). -/
def execVpermT (h : Hdr) (v : Tv) (s : State) : Host.Outcome State Fault Refusal := (s.vform (.vpermT h v) h v).done s
/-- VpermImm (R211). -/
def execVpermImm (h : Hdr) (v : Tv) (s : State) : Host.Outcome State Fault Refusal := (s.vform (.vpermImm h v) h v).done s
/-- Vxrow (R212). -/
def execVxrow (h : Hdr) (v : Tv) (s : State) : Host.Outcome State Fault Refusal := (s.vform (.vxrow h v) h v).done s
/-- VbcastS (R212). -/
def execVbcastS (h : Hdr) (v : Tv) (s : State) : Host.Outcome State Fault Refusal := (s.vform (.vbcastS h v) h v).done s
/-- VbcastRow (R212). -/
def execVbcastRow (h : Hdr) (v : Tv) (s : State) : Host.Outcome State Fault Refusal := (s.vform (.vbcastRow h v) h v).done s
/-- Vtopk (R213). -/
def execVtopk (h : Hdr) (v : Tv) (s : State) : Host.Outcome State Fault Refusal := (s.vform (.vtopk h v) h v).done s
/-- Vrng (R215). -/
def execVrng (h : Hdr) (v : Tv) (s : State) : Host.Outcome State Fault Refusal := (s.vform (.vrng h v) h v).done s
/-- Vmovt (R212). -/
def execVmovt (h : Hdr) (v : Tv) (s : State) : Host.Outcome State Fault Refusal := (s.vform (.vmovt h v) h v).done s
/-- Vexp (R218). -/
def execVexp (h : Hdr) (v : Tv) (s : State) : Host.Outcome State Fault Refusal := (s.vform (.vexp h v) h v).done s
/-- Vlog (R218). -/
def execVlog (h : Hdr) (v : Tv) (s : State) : Host.Outcome State Fault Refusal := (s.vform (.vlog h v) h v).done s
/-- Vsin (R218). -/
def execVsin (h : Hdr) (v : Tv) (s : State) : Host.Outcome State Fault Refusal := (s.vform (.vsin h v) h v).done s
/-- Vcos (R218). -/
def execVcos (h : Hdr) (v : Tv) (s : State) : Host.Outcome State Fault Refusal := (s.vform (.vcos h v) h v).done s
/-- Vtanh (R218). -/
def execVtanh (h : Hdr) (v : Tv) (s : State) : Host.Outcome State Fault Refusal := (s.vform (.vtanh h v) h v).done s
/-- Vrsq (R218). -/
def execVrsq (h : Hdr) (v : Tv) (s : State) : Host.Outcome State Fault Refusal := (s.vform (.vrsq h v) h v).done s
/-- Vrcp (R218). -/
def execVrcp (h : Hdr) (v : Tv) (s : State) : Host.Outcome State Fault Refusal := (s.vform (.vrcp h v) h v).done s
/-- Vsig (R218). -/
def execVsig (h : Hdr) (v : Tv) (s : State) : Host.Outcome State Fault Refusal := (s.vform (.vsig h v) h v).done s

/-! ## VLDS and VSTS (R216) -/

/-- The signed 15-bit count of rows of VLDS and VSTS (R67), as an address. -/
def State.tileAddr (s : State) (sa : BitVec 5) (offHi : BitVec 6) (offLo : BitVec 9) : Word :=
  s.me.sreg sa + ((offHi ++ offLo).signExtend 64 <<< 6)

/-- The mask of VLDS and VSTS. -/
def State.memMask (s : State) (men : BitVec 1) (msk : BitVec 3) : Row :=
  if men = 1 then s.me.mreg msk else BitVec.allOnes 512

/-- A VLDS or VSTS: its version checks, and in its issue cycle the checks of its address, its banks and its effect (R170, R216). -/
def State.tileAccess (s : State) (a : Word) (write : Bool) (dst : Option TDst) (srcs : List TSrc) (eff : State → State) :
    Act :=
  s.counted true dst srcs (fun u =>
    match spCheck a 64 2048 write with
    | some f => .fault f
    | none =>
      match u.myCore.reserveBanks s.cur s.cycle (bankTile s.cycle a.toNat) with
      | none => .wait s false
      | some k => .go (eff (u.modMyCore (fun _ => k))))

/-- The state with an issued access of a whole tile, made from the next cycle on. -/
def State.tileIssue (s : State) (op : SpOp) (a : Nat) : State :=
  s.modMe (fun t => { t with accs := t.accs ++ [⟨op, a, s.word, s.cycle, s.cycle + 1, 0⟩] })

/-- VLDS (R216). -/
def execVlds (h : Hdr) (td : BitVec 6) (tdv rdn : BitVec 4) (sa : BitVec 5) (offHi : BitVec 6) (men : BitVec 1)
    (msk : BitVec 3) (offLo : BitVec 9) (s : State) : Host.Outcome State Fault Refusal :=
  let t := s.me
  let o : TDst := ⟨td.toNat, tdv, rdn⟩
  let a := s.tileAddr sa offHi offLo
  (s.slot h (t.sp sa :: if men = 1 then [.m msk.toNat] else []) []
    (s.counted false (some o) [] (fun u => .go (u.modMyCore (fun k => k.reserve s.cycle o false (some (s.cycle + 9))))))
    (s.tileAccess a false (some o) [] (fun u =>
      (u.modMyCore (fun k => k.reserve s.cycle o true none)).tileIssue
        (.vload td.toNat (s.memMask men msk) .empty none) a.toNat))).done s

/-- VSTS (R216). -/
def execVsts (h : Hdr) (ta : BitVec 6) (tav : BitVec 4) (tap : BitVec 1) (sa : BitVec 5) (offHi : BitVec 6) (men : BitVec 1)
    (msk : BitVec 3) (offLo : BitVec 9) (s : State) : Host.Outcome State Fault Refusal :=
  let t := s.me
  let o : TSrc := ⟨ta.toNat, tav, tap == 1⟩
  let a := s.tileAddr sa offHi offLo
  (s.slot h (t.sp sa :: if men = 1 then [.m msk.toNat] else []) []
    (s.counted false none [o] (fun u => .go (u.claimAt [o] (s.cycle + 8))))
    (s.tileAccess a true none [o] (fun u =>
      (u.claimAt [o] (s.cycle + 8)).tileIssue
        (.vstore ta.toNat (tap == 1) (s.memMask men msk) (s.myCore.tile ta.toNat).row) a.toNat))).done s

/-! ## Row cycles (R23, R199, R203) -/

/-- The rails after every row-quad has moved one station up; it leaves after station X7. A row-quad of rail r at station k
stands at 8 r + k. -/
def shiftRails (x : Tbl Quad) : Tbl Quad :=
  ⟨(x.entries.filter (fun e => e.1 % 8 != 7)).map (fun e => (e.1 + 1, e.2))⟩

/-- The tapped row-quads as a tile. -/
def tappedTile (x : Tbl Quad) : Tbl Line :=
  ⟨(List.range 32).map (fun r => (r, { data := ((x.get 0 (r / 4)) >>> (512 * (r % 4))).setWidth 512 }))⟩

/-- What the form of a flight computes from. -/
def VFlight.source (f : VFlight) (v : Tv) : VSrc :=
  let tile := tappedTile f.taps
  match f.instr with
  | .vfma _ _ => { a := f.ta, b := f.tb, t := tile, tap := true, mask := f.mask, sval := f.sval }
  | _ => { a := if v.taps then tile else f.ta, b := f.tb, t := .empty, tap := v.taps, mask := f.mask, sval := f.sval }

/-- A flight after its tap of this row cycle. -/
def VFlight.tapNow (f : VFlight) (rails : Tbl Quad) : VFlight :=
  match tvOf f.instr with
  | none => f
  | some (_, v) =>
    let k := stationOf f.instr
    if v.taps && decide (k ≤ f.age ∧ f.age < k + 8) then
      { f with taps := f.taps.put (f.age - k) (rails.get 0 (8 * railOf v + k)) }
    else f

/-- The rails after the drive of a flight in this row cycle. A skipped form drives nothing (R202). -/
def VFlight.driveNow (f : VFlight) (rails : Tbl Quad) : Tbl Quad :=
  match tvOf f.instr with
  | none => rails
  | some (_, v) =>
    let k := stationOf f.instr
    if f.exec && v.drives && decide (k + 2 ≤ f.age ∧ f.age < k + 10) then
      rails.put (8 * railOf v + k) (vquad f.instr v (f.source v) (f.age - k - 2))
    else rails

/-- The result of a flight whose whole tile is ready handed to its reserved write, which lands at the end of cycle `now`. -/
def VFlight.finish (f : VFlight) (now : Nat) (k : Core) : Core :=
  match tvOf f.instr with
  | none => k
  | some (_, v) =>
    match vdst f.instr v with
    | some o =>
      if f.age = publishAge f.instr then
        let w := if f.exec then vresult f.instr v (f.source v) else (.empty, .empty)
        { k with twrites := k.twrites.mod { rdn := o.rdn, exec := f.exec } o.t
                   (fun x => { x with rows := w.1, mask := w.2, due := some now }) }
      else k
    | none => k

/-- A flight that has more to do, or whose reserved write a bank or a reader delays (R170, R174). -/
def VFlight.goesOn (f : VFlight) (k : Core) : Bool :=
  decide (f.age < publishAge f.instr) || (match flightDst f with
    | some t => (k.tile t).wpend && f.issued == (k.tile t).resAt
    | none => false)

/-- One row cycle of stream `i` of core `k` (R23): the rails move, then every tap reads, then every drive places its row-quad;
claims are consumed in the seventh row cycle after issue. R23 orders a drive only against an older row-quad: of two drives of one station onto
one rail in one row cycle the later-issued one remains, which is the model's choice (DESIGN CHOICE, entry 53). -/
def Core.rowCycle (k : Core) (i now : Nat) : Core :=
  let t := k.stream i
  let moved := shiftRails t.rails
  let fs := t.flights.map (fun f => f.tapNow moved)
  let rails := fs.foldl (fun r f => f.driveNow r) moved
  let used := (fs.filter (fun f => f.age == 7)).flatMap (·.claims)
  let k := used.foldl (fun (u : Core) r => u.modTile r (fun x => x.consume i)) k
  let k := fs.foldl (fun (u : Core) f => f.finish now u) k
  let fs := fs.filter (fun f => f.goesOn k)
  let fs := fs.map (fun f => { f with age := f.age + 1, claims := if 7 ≤ f.age then [] else f.claims })
  k.modStream i (fun t => { t with rails := rails, flights := fs })

/-- The row cycles of a core: the row of a stream that is held at a wait, but for its own rail-bound instructions, holds still, and so does that
of a stream in the wait cycles of its TEND, from the cycle after the group on (R8, R23, R200, R328). -/
def Core.rowCycles (k : Core) (now : Nat) : Core :=
  [0, 1, 2, 3].foldl (fun (u : Core) i =>
    let t := u.stream i
    if (t.status = .held ∧ t.rowHeld) ∨ (t.status = .atTend ∧ t.issuedAt ≠ now) ∨ (t.flights.isEmpty ∧ t.rails.entries.isEmpty) then u else u.rowCycle i now) k

/-! ## Reserved writes that land (R169, R170) -/

/-- A read of tile register `r` that started before the reservation of its pending write is still reading (R170). Only a rail-bound instruction
whose row has been held can be: every other read is over 8 cycles after it starts, and a reservation made later lands 9 or more cycles on. -/
def Core.readOn (k : Core) (r : Nat) : Bool :=
  [0, 1, 2, 3].any (fun i => (k.stream i).flights.any (fun f =>
    decide (f.age ≤ 7 ∧ f.issued < (k.tile r).resAt) && (match tvOf f.instr with
      | some (_, v) => (vsrcs f.instr v).any (fun o => o.t == r)
      | none => false)))

/-- The reserved write of register `r` due in cycle `due` begins to land in cycle `now`: a reader holds it for at most 8 cycles. -/
def Core.lands (k : Core) (r due now : Nat) : Bool := decide (due ≤ now) && (!k.readOn r || decide (due + 8 ≤ now))

/-- TILE_LANDING (R169, R170, R174): the reserved write of register `site.sub` of core `site.unit` lands when it is due, unless a read in
progress holds it or its bank wakes or refreshes, which delays it. -/
def execTileLanding (s : State) : Host.Outcome State Fault Refusal :=
  let t := s.site.sub
  .next (s.modCore s.site.unit (fun k =>
    match k.twrites.find? t with
    | some w =>
      match w.due with
      | some d => if k.lands t d s.cycle then (let r := k.touch s.cycle t; if r.1 then r.2.publish t else r.2) else k
      | none => k
    | none => k))

/-- The vector rows of every core that runs advance. -/
def State.rows (s : State) : State := { s with cores := s.cores.map (fun _ k => if k.stopped then k else k.rowCycles s.cycle) }

/-! ## The transcendental unit (R217, R219) -/

/-- A row-quad takes 16 slow-path cycles: it holds a subnormal input, or a VSIN or VCOS input of magnitude 2^15 or more. An input that the mask
leaves out counts too: R217 does not say (DESIGN CHOICE, entry 54). -/
def slowQuad (f : XFun) (g : Fmt) (w n : Nat) (x : Tbl Line) (q : Nat) : Bool :=
  let slow (e : Nat) : Bool :=
    let sub := e / 2 ^ g.fbits % 2 ^ g.ebits == 0 && e % 2 ^ g.fbits != 0
    let far := (f == .sin || f == .cos) && (match g.decode e with
      | .inf _ => true
      | .num m k => decide (15 ≤ floorLog m k)
      | _ => false)
    sub || far
  [0, 1, 2, 3].any (fun j => (List.range n).any (fun i => slow (elemOf w (x.get {} (4 * q + j)).data i)))

/-- Cycles from the start of an entry to its publication. -/
def XEntry.cycles (e : XEntry) : Nat :=
  match xfunOf e.instr, tvOf e.instr with
  | some f, some (_, v) =>
    if e.exec then
      let ty := v.ty.toNat
      23 + 16 * ((List.range 8).filter (slowQuad f (tyFmt ty) (tyBits ty) (tyEpr ty) e.src)).length
    else 23
  | _, _ => 23

/-- XT_ENTRY_START (R217): the unit of core `site.unit`, not at work on another entry, starts its oldest queued one. -/
def execXtEntryStart (s : State) : Host.Outcome State Fault Refusal :=
  .next (s.modCore s.site.unit (fun k =>
    match k.xt with
    | e :: r => if e.start.isNone then { k with xt := { e with start := some s.cycle } :: r } else k
    | [] => k))

/-- XT_ENTRY_PUBLISH (R217, R219): the entry at work hands its result to the reserved write, which lands at the end of this cycle (R169), once its
cycles have passed and its bank is awake; an entry that was predicated off brings the old payload. On a stopped core the write keeps the
cycle that it would have landed in. -/
def execXtEntryPublish (s : State) : Host.Outcome State Fault Refusal :=
  .next (s.modCore s.site.unit (fun k =>
    match k.xt with
    | e :: r =>
      match e.start, tvOf e.instr with
      | some a, some (_, v) =>
        if !k.lands v.td.toNat (a + e.cycles) s.cycle then k
        else
          let b := if k.stopped then (true, k) else k.touch s.cycle v.td.toNat
          if b.1 then
            let x : VSrc := { a := e.src, b := .empty, t := .empty, tap := false, mask := e.mask, sval := 0 }
            let w := if e.exec then vresult e.instr v x else (.empty, .empty)
            let c := { b.2 with twrites := b.2.twrites.mod { rdn := v.rdn, exec := e.exec } v.td.toNat
                                  (fun t => { t with rows := w.1, mask := w.2, due := some s.cycle }), xt := r }
            if k.stopped then c else c.publish v.td.toNat
          else b.2
      | _, _ => k
    | [] => k))

end Sys2Proof.Machine
end

