-- ==== Sys2Proof/Machine/Matrix.lean ====
section
/-! DEFINITION. Machine/Matrix.lean: the matrix engine: planes, tiles, the command window, the values of its arithmetic, and the
matrix forms and their start (R220 to R241). -/
namespace Sys2Proof.Machine

/-! ## Commands -/

/-- Operand formats of MMA and SLD. -/
inductive MForm where
  | db8 | db4 | i8 | b16
  deriving DecidableEq, Repr

/-- Output formats of MFIX. -/
inductive XForm where
  | f32 | b16 | i8 | db8 | db4
  deriving DecidableEq, Repr

/-- What a matrix command does. -/
inductive MKind where
  | mma (f : MForm) (prof : Nat) (ts : Bool) (t : Nat) (tv : BitVec 4) (peek : Bool)
  | sld (f : MForm)
  | sswap
  | mrot
  | mfix (f : XForm) (rdn : BitVec 4) (dst : Bool) (t : Nat) (tv : BitVec 4)
  | mzero
  deriving DecidableEq, Repr

/-- A matrix command's slab and kind. -/
def mxOf : Instr → Option (Nat × MKind)
  | .mmaDb8 _ _ _ b p ts t v k => some (b.toNat, .mma .db8 p.toNat (ts == 1) t.toNat v (k == 1))
  | .mmaDb4 _ _ _ b p ts t v k => some (b.toNat, .mma .db4 p.toNat (ts == 1) t.toNat v (k == 1))
  | .mmaI8 _ _ _ b p ts t v k => some (b.toNat, .mma .i8 p.toNat (ts == 1) t.toNat v (k == 1))
  | .mma2 _ _ _ b p ts t v k => some (b.toNat, .mma .b16 p.toNat (ts == 1) t.toNat v (k == 1))
  | .sldDb8 _ _ _ b => some (b.toNat, .sld .db8)
  | .sldDb4 _ _ _ b => some (b.toNat, .sld .db4)
  | .sldI8 _ _ _ b => some (b.toNat, .sld .i8)
  | .sldB16 _ _ _ b => some (b.toNat, .sld .b16)
  | .sswap _ _ b => some (b.toNat, .sswap)
  | .mrot _ _ b => some (b.toNat, .mrot)
  | .mfixF32 _ _ _ b r d t v => some (b.toNat, .mfix .f32 r (d == 1) t.toNat v)
  | .mfixB16 _ _ _ b r d t v => some (b.toNat, .mfix .b16 r (d == 1) t.toNat v)
  | .mfixI8 _ _ _ b r d t v => some (b.toNat, .mfix .i8 r (d == 1) t.toNat v)
  | .mfixDb8 _ _ _ b r d t v => some (b.toNat, .mfix .db8 r (d == 1) t.toNat v)
  | .mfixDb4 _ _ _ b r d t v => some (b.toNat, .mfix .db4 r (d == 1) t.toNat v)
  | .mzero _ _ b => some (b.toNat, .mzero)
  | _ => none

/-! ## Slabs and planes (R220, R221) -/

/-- Slab `b` of a core. -/
def Core.slab (k : Core) (b : Nat) : Slab := k.slabs.get {} b
/-- The core with slab `b` changed. -/
def Core.modSlab (k : Core) (b : Nat) (f : Slab → Slab) : Core := { k with slabs := k.slabs.mod {} b f }
/-- The number of the active plane. -/
def Slab.active (s : Slab) : Nat := if s.act then 1 else 0
/-- The number of the shadow plane. -/
def Slab.shadow (s : Slab) : Nat := if s.act then 0 else 1
/-- Plane 0 or 1. -/
def Slab.plane (s : Slab) (p : Nat) : Tbl PCol := if p = 0 then s.p0 else s.p1
/-- The format of plane 0 or 1. -/
def Slab.pfmt (s : Slab) (p : Nat) : PFmt := if p = 0 then s.pf0 else s.pf1
/-- The slab with plane `p` and its format replaced. -/
def Slab.setPlane (s : Slab) (p : Nat) (t : Tbl PCol) (f : PFmt) : Slab :=
  if p = 0 then { s with p0 := t, pf0 := f } else { s with p1 := t, pf1 := f }

/-- Lines that an SLD reads (R221). -/
def sldLines : MForm → Nat
  | .db8 => 512 | .db4 => 256 | .i8 => 512 | .b16 => 1024

/-- A block's elements as a plane column keeps them, one a byte, put at element `32 j`. -/
def packEls (els : List BElem) (j : Nat) : Nat :=
  (els.foldr (fun (b : BElem) a => BElem.bits false b + 256 * a) 0) * 2 ^ (256 * j)
/-- A block's exponents at their place in a column. -/
def packExps (ex : Exps) (j : Nat) : Nat := (ex.1 + 256 * ex.2) * 2 ^ (16 * j)

/-- 32 B16 values from byte 0 of a line. -/
def b16Values (x : Row) : List FVal := (List.range 32).map (fun i => b16.decode (elemOf 16 x i))

/-- Column `n` as SLD.DB8, .DB4 or .I8 forms it from the lines. -/
def sldColumn (f : MForm) (ls : Nat → Line) (n : Nat) : PCol :=
  match f with
  | .db4 =>
    let l := ls (n / 2)
    let half := l.data >>> (256 * (n % 2))
    { els := BitVec.ofNat 512 ((List.range 64).foldr (fun i a => elemOf 4 half i + 256 * a) 0),
      ex := (l.side >>> (32 * (n % 2))).setWidth 32, poison := l.poison }
  | .i8 => let l := ls n; { els := l.data, ex := 0, poison := l.poison }
  | _ => let l := ls n; { els := l.data, ex := l.side.setWidth 32, poison := l.poison }

/-- The 64 elements of two K-blocks, one a byte. -/
def pairEls (x y : KBlock) : Row := BitVec.ofNat 512 (packEls x.els 0 + packEls y.els 1)
/-- The exponents of two K-blocks. -/
def pairExps (x y : KBlock) : BitVec 32 := BitVec.ofNat 32 (packExps x.ex 0 + packExps y.ex 1)

/-- Column `n` of the hi and lo planes that SLD.B16 forms (R192, R221). -/
def sldSplit (ls : Nat → Line) (n : Nat) : PCol × PCol :=
  let a := splitB16 (b16Values (ls (2 * n)).data)
  let b := splitB16 (b16Values (ls (2 * n + 1)).data)
  let bad := (ls (2 * n)).poison || (ls (2 * n + 1)).poison
  (⟨pairEls a.1 b.1, pairExps a.1 b.1, bad⟩, ⟨pairEls a.2 b.2, pairExps a.2 b.2, bad⟩)

/-- Columns that an SLD writes in one step, from 16 lines (R234). -/
def sldWidth : MForm → Nat
  | .db8 => 16 | .db4 => 32 | .i8 => 16 | .b16 => 8

/-- The slab after step `i` of an SLD, whose line `n` is `ls n`: columns of the shadow plane, and of both planes for B16 (R221, R234). -/
def Slab.loadStep (s : Slab) (f : MForm) (ls : Nat → Line) (i : Nat) : Slab :=
  let w := sldWidth f
  let put (s : Slab) (p : Nat) (g : Nat → PCol) : Slab :=
    s.setPlane p ((s.plane p).splice (w * i) ((List.range w).map (fun j => g (w * i + j)))) (s.pfmt p)
  match f with
  | .b16 => put (put s s.shadow (fun n => (sldSplit ls n).1)) s.active (fun n => (sldSplit ls n).2)
  | _ => put s s.shadow (sldColumn f ls)

/-- The slab at the retirement of an SLD: the formats of the planes that it wrote, and ACT (R234). -/
def Slab.loaded (s : Slab) (f : MForm) : Slab :=
  let fmt (s : Slab) (p : Nat) (x : PFmt) : Slab := s.setPlane p (s.plane p) x
  match f with
  | .b16 => { fmt (fmt s s.shadow .b16hi) s.active .b16lo with act := !s.act }
  | .db8 => fmt s s.shadow .db8
  | .db4 => fmt s s.shadow .db4
  | .i8 => fmt s s.shadow .i8

/-! ## Values (R190 to R192, R222, R232) -/

/-- One row of A or one column of B: its K-blocks, hi before lo pieces; for I8 its integers. -/
structure MVec where
  blocks : List KBlock
  ints   : List Int

/-- Elements of K-block `j`, each of `w` bits. -/
def blockEls (four : Bool) (w : Nat) (x : Row) (j : Nat) : List BElem :=
  (List.range 32).map (fun i => BElem.ofBits four (elemOf w x (32 * j + i)))

/-- 64 I8 values. -/
def i8Values (x : Row) : List Int := (List.range 64).map (fun i => intOf 8 true (elemOf 8 x i))

/-- A row of A as the row buffer takes it, from row m of T and of T + 1: for MMA2 its hi and lo pieces (R192, R222). -/
def bufferRows (f : MForm) (l0 l1 : Line) : Line × Line :=
  match f with
  | .b16 =>
    let a := splitB16 (b16Values l0.data)
    let b := splitB16 (b16Values l1.data)
    ({ data := pairEls a.1 b.1, side := (pairExps a.1 b.1).setWidth 64, tag := 1 },
     { data := pairEls a.2 b.2, side := (pairExps a.2 b.2).setWidth 64, tag := 1 })
  | _ => (l0, {})

/-- A row of A, from its rows of the row buffer (R222). -/
def aVec (f : MForm) (l0 l1 : Line) : MVec :=
  let blk (four : Bool) (w : Nat) (l : Line) (j : Nat) : KBlock := ⟨blockEls four w l.data j, sideExps l.side j⟩
  match f with
  | .db8 => ⟨[blk false 8 l0 0, blk false 8 l0 1], []⟩
  | .db4 => ⟨[blk true 4 l0 0, blk true 4 l0 1], []⟩
  | .i8 => ⟨[], i8Values l0.data⟩
  | .b16 => ⟨[blk false 8 l0 0, blk false 8 l0 1, blk false 8 l1 0, blk false 8 l1 1], []⟩

/-- Column n of B, from the active plane's column and, for MMA2, the other plane's. -/
def bVec (f : MForm) (c d : PCol) : MVec :=
  let blk (four : Bool) (c : PCol) (j : Nat) : KBlock := ⟨blockEls four 8 c.els j, sideExps (c.ex.setWidth 64) j⟩
  match f with
  | .db8 => ⟨[blk false c 0, blk false c 1], []⟩
  | .db4 => ⟨[blk true c 0, blk true c 1], []⟩
  | .i8 => ⟨[], i8Values c.els⟩
  | .b16 => ⟨[blk false c 0, blk false c 1, blk false d 0, blk false d 1], []⟩

/-- The class sums of a row and a column (R190, R192). -/
def vecSums (f : MForm) (a b : MVec) : List ClassSum :=
  let blk (v : MVec) (i : Nat) : KBlock := v.blocks.getD i ⟨[], (0, 0)⟩
  let pair (four : Bool) (i j : Nat) : List ClassSum := classSums four (blk a i) (blk b j)
  match f with
  | .db8 => pair false 0 0 ++ pair false 1 1
  | .db4 => pair true 0 0 ++ pair true 1 1
  | .i8 => [classSumI8 (a.ints.take 32) (b.ints.take 32), classSumI8 (a.ints.drop 32) (b.ints.drop 32)]
  | .b16 => pair false 0 0 ++ pair false 1 1 ++ pair false 0 2 ++ pair false 1 3 ++ pair false 2 0 ++ pair false 3 1

/-- Accumulator value (m, n). -/
def Slab.acc0 (s : Slab) (m n : Nat) : Nat := (s.acc.get 0 (512 * m + n)).toNat

/-- Row `m` of the accumulator after an MMA over N columns of these planes (R191, R232). -/
def Slab.mmaRow (s : Slab) (f : MForm) (prof n : Nat) (planes : List Nat) (m : Nat) : List (BitVec 32) :=
  let p := s.plane (planes.getD 0 0)
  let q := s.plane (planes.getD 1 0)
  let a := aVec f (s.rowbuf.get {} m) (s.rowbuf.get {} (32 + m))
  (List.range n).map (fun j =>
    let b := bVec f (p.get {} j) (q.get {} j)
    let nan := a.blocks.any KBlock.hasNan || b.blocks.any KBlock.hasNan
    BitVec.ofNat 32 (accumulate (profWidth prof) nan (s.acc0 m j) (vecSums f a b)))

/-- Row `m` of the accumulator after a Hadamard pass over N columns (R195, R237). -/
def Slab.rotatedRow (s : Slab) (n m : Nat) : List (BitVec 32) := (rotRow ((List.range n).map (s.acc0 m))).map (BitVec.ofNat 32)

/-! ## The fixer (R238) -/

/-- Group width. -/
def fixWidth : XForm → Nat
  | .f32 => 16 | .b16 => 32 | .i8 => 64 | .db8 => 64 | .db4 => 128

/-- The value of a column as the fixer converts it: scaled, +0 beyond CURN, rectified. -/
def Slab.fixValue (s : Slab) (m c : Nat) : FVal :=
  let scale := (s.fix.setWidth 8 : BitVec 8).toInt
  let v := if s.curn ≤ c then .zero false
    else match f32.decode (s.acc0 m c) with
      | .num a e => .num a (e + scale)
      | x => x
  if s.fix.getLsbD 8 then
    (match v with
     | .nan => .nan
     | x => if x.neg? then .zero false else x)
  else v

/-- Row `m` of the output tile whose first column is `c` (R238). -/
def Slab.fixRow (s : Slab) (f : XForm) (c m : Nat) : Line :=
  let vs := (List.range (fixWidth f)).map (fun i => s.fixValue m (c + i))
  let quant (four : Bool) : Line :=
    let bs := (List.range (fixWidth f / 32)).map (fun j => quantise four 0 ((vs.drop (32 * j)).take 32))
    { data := rowOfList (if four then 10 else 9) (bs.flatMap (fun b => b.2.map (BElem.bits four))),
      side := BitVec.ofNat 64 (bs.foldr (fun b t => b.1.1 + 256 * b.1.2 + 65536 * t) 0), tag := if four then 2 else 1 }
  match f with
  | .f32 => { data := rowOfList 6 (vs.map (f32.round 0 false)) }
  | .b16 => { data := rowOfList 8 (vs.map (b16.round 0 false)) }
  | .i8 => { data := rowOfList 0 (vs.map (fun v => intBits 8 (clampInt 8 true (FVal.toInteger 0 v)))) }
  | .db8 => quant false
  | .db4 => quant true

/-- A whole output tile. -/
def Slab.fixTile (s : Slab) (f : XForm) (c : Nat) : List Line := (List.range 32).map (s.fixRow f c)

/-! ## Tiles (R223 to R225) -/

/-- Every claim that the window of slab `b` holds is released. -/
def Core.releaseWindow (k : Core) (b : Nat) : Core :=
  (((k.slab b).window.flatMap (·.held)).foldl (fun (u : Core) t => u.modTile t (fun x => { x with held := x.held - 1 })) k).modSlab
    b (fun s => { s with window := [] })

/-- The tile of slab `b` ends. -/
def Core.endTile (k : Core) (b : Nat) : Core := (k.releaseWindow b).modSlab b (fun s => { s with tile := .closed })

/-- A tile starts on slab `b` with the captured configuration; a skipped start clears nothing and is not anchored (R223,
R233). -/
def Core.startTile (k : Core) (b : Nat) (fix cfg : Word) (skip : Bool) : Core :=
  let k := if (k.slab b).tile = .closed then k else k.endTile b
  k.modSlab b (fun s => { s with
    tile := if skip then .unanchored else .anchored, acc := if skip then s.acc else .empty,
    bad := if skip then s.bad else s.bad.filter (fun a => decide (16384 ≤ a)), curs := 0, window := [], fix := fix, cfg := cfg, replayed := false })

/-- A command on a closed slab opens an unanchored tile. -/
def Core.openTile (k : Core) (b : Nat) : Core :=
  if (k.slab b).tile = .closed then
    k.modSlab b (fun s => { s with tile := .unanchored, curs := 0, window := [], replayed := false })
  else k

/-- A command enters the window; a seventeenth ends the tile first (R224). `ok` is false where it leaves the tile
unanchored. -/
def Core.enterWindow (k : Core) (b : Nat) (w : WinEntry) (ok : Bool) : Core :=
  let k := if 16 ≤ (k.slab b).window.length then (k.endTile b).openTile b else k
  k.modSlab b (fun s => { s with
    window := s.window ++ [w], tile := if ok then s.tile else .unanchored })

/-! ## Start (R228 to R241) -/

/-- What the evaluation of a head comes to. -/
inductive MStart where
  | wait (k : Core)
  | fault (f : FaultInfo)
  | go (k : Core) (x : MExec)

/-- A command in execution on slab `b`. -/
def Core.busy (k : Core) (b : Nat) (p : MExec → Bool) : Bool := k.mexec.any (fun x => x.slab == b && p x)

/-- Passes of an MMA (R230). -/
def passes : MForm → Nat
  | .db8 => 6 | .db4 => 2 | .i8 => 8 | .b16 => 6

/-- The format that a plane must have (R232). -/
def needFmt : MForm → PFmt
  | .db8 => .db8 | .db4 => .db4 | .i8 => .i8 | .b16 => .b16hi

/-- An MMA's N is none that R232 allows. -/
def badN (n : Nat) : Bool := n % 16 != 0 || decide (n < 16 ∨ 512 < n)

/-- The start of an MMA or MMA2 (R232, R233). -/
def Core.startMma (k : Core) (now g : Nat) (e : QEntry) (foot : Foot) (b : Nat) (f : MForm) (ts : Bool) (t : Nat)
    (tv : BitVec 4) (peek : Bool) : MStart :=
  let skip := e.skip || e.cancel
  let s := k.slab b
  let planes := if f = .b16 then [s.active, s.shadow] else [s.active]
  let srcs : List TSrc := if f = .b16 then [⟨t, tv, peek⟩, ⟨t + 1, tv, peek⟩] else [⟨t, tv, peek⟩]
  let n := e.x.toNat
  if k.busy b (fun x => !x.load || (decide (f = .b16) && x.load) || x.writes.any planes.contains) then .wait k
  else if !skip && !foot.declared then .fault (footFault 0 (fpOf e.instr) true false)
  else if badN n then .fault { code := .arith, info := 2 }
  else if !skip && (s.pfmt s.active != needFmt f || (decide (f = .b16) && s.pfmt s.shadow != .b16lo)) then
    .fault { code := .arith, info := 3 }
  else match k.checkAll now none srcs with
    | (.fault x, _) => .fault x
    | (.wait, _) => .wait k
    | (.pass, k') =>
      let poisonCol := planes.findSome? (fun p => (List.range n).find? (fun j => ((s.plane p).get {} j).poison))
      match (if skip then none else k.poisonRow srcs), (if skip then none else poisonCol) with
      | some a, _ => .fault { code := .poison, addr := BitVec.ofNat 64 a }
      | none, some _ => .fault { code := .poison, info := 3 }
      | none, none =>
        let woken := if skip then (true, k') else k'.touchAll now (srcs.map (·.t))
        if !woken.1 then .wait (k.touchAll now (srcs.map (·.t))).2
        else
          let claimed := (srcs.filter k.hasClaim).map (·.t)
          let k1 := if ts then woken.2.startTile b e.conf e.conf2 skip else woken.2.openTile b
          let w : WinEntry := { instr := e.instr, n := e.x, planes := if skip then [] else planes, tiles := srcs.map (·.t),
                                ver := tv.toNat, held := if skip then [] else claimed, skip := skip, gsid := g }
          let k2 := (k1.enterWindow b w (!skip && claimed.length == srcs.length)).modSlab b (fun s => { s with curn := n })
          .go k2 { entry := e, gsid := g, slab := b, load := false, start := now,
                   retire := now + (if skip then 7 else if f = .b16 then 579 else 32 * passes f + 3),
                   reads := if skip then [] else planes, claims := claimed }

/-- The start of an SLD (R234, R235). It waits behind a replay on its slab (R243). -/
def Core.startSld (k : Core) (now g : Nat) (e : QEntry) (foot : Foot) (landed : Bool) (b : Nat) (f : MForm) : MStart :=
  let skip := e.skip || e.cancel
  let s := k.slab b
  let writes := if f = .b16 then [0, 1] else [s.shadow]
  let n := 64 * sldLines f
  let a := e.y.toNat
  let slot := fpOf e.instr
  let x : MExec := { entry := e, gsid := g, slab := b, load := true, start := now, retire := now }
  if k.busy b (fun x => x.load || decide (f = .b16) || x.rerun || x.reads.any writes.contains) then .wait k
  else if skip then .go k x
  else if !landed then .wait k
  else if !foot.declared then .fault (footFault 0 slot true false)
  else if a % 64 ≠ 0 then .fault { code := .align, addr := e.y, info := 4 }
  else if spEnd < a + n then .fault { code := .perm, addr := e.y, info := 4 }
  else if !foot.rd.holdsSp a n then .fault (footFault e.y slot false false)
  else if k.checker foot then .fault (footFault e.y slot false true)
  else .go k { x with retire := now + sldLines f / 16 + 3, writes := writes }

/-- The start of an MFIX (R239, R240). -/
def Core.startMfix (k : Core) (now g : Nat) (e : QEntry) (foot : Foot) (landed : Bool) (b : Nat) (f : XForm) (rdn : BitVec 4)
    (dst : Bool) (t : Nat) (tv : BitVec 4) : MStart :=
  let skip := e.skip || e.cancel
  let slot := fpOf e.instr
  let w := fixWidth f
  let k0 := k.openTile b
  let s := k0.slab b
  let x : MExec := { entry := e, gsid := g, slab := b, load := false, start := now, retire := now }
  let advance (k : Core) (n : Nat) : Core := k.modSlab b (fun s => { s with curs := s.curs + w * n })
  if k.busy b (fun x => !x.load) then .wait k
  else if !skip && !foot.declared then .fault (footFault 0 slot true false)
  else if dst then
    let o : TDst := ⟨t, tv, rdn⟩
    match k.checkDst o 0 with
    | .fault x => .fault x
    | .wait => .wait k
    | .pass =>
      let rows : Tbl Line := if skip then .empty else ⟨(List.range 32).zip (s.fixTile f s.curs)⟩
      let k1 := k0.reserve now o (!skip) none
      let k2 := { k1 with twrites := k1.twrites.put t { rdn := rdn, exec := !skip, rows := rows, due := some (now + 11) } }
      .go (advance k2 1) { x with retire := now + 11, groups := 1 }
  else
    let n := if s.curn ≤ s.curs then 1 else (s.curn - s.curs + w - 1) / w
    let a := e.x.toNat
    if skip then .go (advance k0 n) x
    else if !landed then .wait k
    else if a % 64 ≠ 0 then .fault { code := .align, addr := e.x, info := 5 }
    else if spEnd < a + 2048 * n then .fault { code := .perm, addr := e.x, info := 5 }
    else if !foot.wr.holdsSp a (2048 * n) then .fault (footFault e.x slot false false)
    else if k.checker foot then .fault (footFault e.x slot false true)
    else .go (advance k0 n) { x with retire := now + 8 * n + 3, groups := n }

/-- The evaluation of the head `e` of stream `g`'s MX queue: unit, start checks in order, and the start (R228 to R231). A skipped SLD, SSWAP, MROT,
MZERO or MFIX to scratchpad retires and pushes in its start cycle: R144 and R230 do not say (DESIGN CHOICE, entry 54). -/
def Core.startMx (k : Core) (now g : Nat) (e : QEntry) (foot : Foot) (landed : Bool) : MStart :=
  let skip := e.skip || e.cancel
  let slot := fpOf e.instr
  let undeclared := !skip && !foot.declared
  match mxOf e.instr with
  | none => .wait k
  | some (b, kind) =>
    let x : MExec := { entry := e, gsid := g, slab := b, load := false, start := now, retire := now }
    let s := k.slab b
    match kind with
    | .mma f _ ts t tv peek => k.startMma now g e foot b f ts t tv peek
    | .sld f => k.startSld now g e foot landed b f
    | .mfix f rdn dst t tv => k.startMfix now g e foot landed b f rdn dst t tv
    | .sswap =>
      if k.busy b (fun _ => true) then .wait k
      else if undeclared then .fault (footFault 0 slot true false)
      else .go (if skip then k else k.modSlab b (fun s => { s with act := !s.act })) x
    | .mrot =>
      if k.busy b (fun x => !x.load) then .wait k
      else if undeclared then .fault (footFault 0 slot true false)
      else if !skip && s.curn % 64 != 0 then .fault { code := .arith, info := 4 }
      else
        let w : WinEntry := { instr := e.instr, n := BitVec.ofNat 64 s.curn, planes := [], tiles := [], ver := 0, held := [],
                              skip := skip, gsid := g }
        .go ((k.openTile b).enterWindow b w (!skip)) { x with retire := if skip then now else now + 515 }
    | .mzero =>
      if k.busy b (fun x => !x.load) then .wait k
      else if undeclared then .fault (footFault 0 slot true false)
      else .go ((k.startTile b e.conf e.conf2 skip).modSlab b (fun s => { s with curn := 512 }))
        { x with retire := if skip then now else now + 7 }

/-- The command has a version operand, so that a passing check of it is a synchronisation operation (R273). -/
def versioned (i : Instr) : Bool :=
  match mxOf i with
  | some (_, .mma ..) => true
  | some (_, .mfix _ _ dst _ _) => dst
  | _ => false

/-- The counted operands of a matrix command: its destination, and its sources. -/
def versionsOf (i : Instr) : Option TDst × List TSrc :=
  match mxOf i with
  | some (_, .mma f _ _ t tv peek) =>
    (none, ⟨t, tv, peek⟩ :: if f = .b16 then [⟨t + 1, tv, peek⟩] else [])
  | some (_, .mfix _ rdn true t tv) => (some ⟨t, tv, rdn⟩, [])
  | _ => (none, [])

/-- The head of the MX queue of stream `i` of core `c` evaluated: whether it has started, and the state. -/
def State.tryMx (s : State) (c i : Nat) : Bool × State :=
  let g := 4 * c + i
  let t := s.stream g
  let k := s.core c
  match t.mxq.find? (fun e => !e.started) with
  | none => (false, s)
  | some e =>
    let cut := e.cancel && e.cutAt == s.cycle
    let e := e.spared s.cycle
    if isMarker e.instr || e.fault.isSome || decide (s.cycle ≤ e.entered) || !t.turn 1 e.faultAt then (false, s)
    else if !(e.skip || e.cancel) && k.tracked e.order (t.slotOf (fpOf e.instr)) then (false, s)
    else match (if e.popped then some t else t.popTokens 1 e.instr) with
      | none => (false, s)
      | some t' =>
        match k.startMx s.cycle g e (t.slotOf (fpOf e.instr)) (t.landedBy e.entered) with
        | .wait k' => (false, s.modCore c (fun _ => k'))
        | .fault f => (false, if cut then s else s.commandFault g 1 e ((mxOf e.instr).elim 0 (·.1)) f)
        | .go k' x =>
          match (if versioned e.instr then t.charge else none) with
          | some f => (false, s.commandFault g 1 e ((mxOf e.instr).elim 0 (·.1)) f)
          | none =>
            let mark (e : QEntry) : QEntry := { e.spared s.cycle with started := true, popped := true, faultAt := 0 }
            let o := versionsOf e.instr
            let r := s.versionEdges c o.1 o.2 (s.carries g e.region (t'.before 1 e))
            let t' := (if versioned e.instr then { t' with region := t'.region + 1 } else t').learn 1 { seen := r.1 }
            (true, r.2.modCore c (fun _ =>
              { k'.modStream i (fun _ => t'.modEntry 1 e.number mark) with
                mexec := k'.mexec ++ [{ x with entry := mark e }], mxLast := some i }))

/-- MATRIX_COMMAND_START (R228): the engine of core `site.unit` starts at most one head, round-robin from the stream after the
one that started last. -/
def execMatrixCommandStart (s : State) : Host.Outcome State Fault Refusal :=
  let c := s.site.unit
  let first := match (s.core c).mxLast with | some i => i + 1 | none => 0
  let go (a : Bool × State) (j : Nat) : Bool × State := if a.1 then a else a.2.tryMx c ((first + j) % 4)
  .next ([0, 1, 2, 3].foldl go (false, s)).2

/-! ## Issue -/

/-- CONF (R226, R227): a shadow register, MX.FIX.b at 0x200 + b or MX.CFG.b at 0x208 + b; reserved bits read zero. -/
def execConf (h : Hdr) (sa : BitVec 5) (reg : BitVec 16) (s : State) : Host.Outcome State Fault Refusal :=
  let t := s.me
  let v := t.sreg sa
  let b := reg.toNat % 8
  (s.plain h [t.sp sa] [] (.go (s.modMyCore (fun k => k.modSlab b (fun l =>
    if reg.toNat % 16 < 8 then { l with fixSh := v &&& 0x1FF#64 } else { l with cfgSh := v &&& 1#64 }))))).done s

/-- A matrix command with operand registers SX and SY, where it names them. -/
def State.matrix (s : State) (h : Hdr) (i : Instr) (x y : Option (BitVec 5)) : Act :=
  s.engine h 1 i (x.toList ++ y.toList) (x.getD 0) (y.getD 0) 0

/-- MmaDb8 enters the MX queue (R232). -/
def execMmaDb8 (h : Hdr) (ec : Ec) (sx : BitVec 5) (slab : BitVec 3) (prof : BitVec 4) (ts : BitVec 1) (t : BitVec 6) (tv : BitVec 4)
    (peek : BitVec 1) (s : State) : Host.Outcome State Fault Refusal :=
  (s.matrix h (.mmaDb8 h ec sx slab prof ts t tv peek) (some sx) none).done s
/-- MmaDb4 enters the MX queue (R232). -/
def execMmaDb4 (h : Hdr) (ec : Ec) (sx : BitVec 5) (slab : BitVec 3) (prof : BitVec 4) (ts : BitVec 1) (t : BitVec 6) (tv : BitVec 4)
    (peek : BitVec 1) (s : State) : Host.Outcome State Fault Refusal :=
  (s.matrix h (.mmaDb4 h ec sx slab prof ts t tv peek) (some sx) none).done s
/-- MmaI8 enters the MX queue (R232). -/
def execMmaI8 (h : Hdr) (ec : Ec) (sx : BitVec 5) (slab : BitVec 3) (prof : BitVec 4) (ts : BitVec 1) (t : BitVec 6) (tv : BitVec 4)
    (peek : BitVec 1) (s : State) : Host.Outcome State Fault Refusal :=
  (s.matrix h (.mmaI8 h ec sx slab prof ts t tv peek) (some sx) none).done s
/-- Mma2 enters the MX queue (R232). -/
def execMma2 (h : Hdr) (ec : Ec) (sx : BitVec 5) (slab : BitVec 3) (prof : BitVec 4) (ts : BitVec 1) (t : BitVec 6) (tv : BitVec 4)
    (peek : BitVec 1) (s : State) : Host.Outcome State Fault Refusal :=
  (s.matrix h (.mma2 h ec sx slab prof ts t tv peek) (some sx) none).done s
/-- SldDb8 enters the MX queue (R234). -/
def execSldDb8 (h : Hdr) (ec : Ec) (sy : BitVec 5) (slab : BitVec 3) (s : State) :
    Host.Outcome State Fault Refusal := (s.matrix h (.sldDb8 h ec sy slab) none (some sy)).done s
/-- SldDb4 enters the MX queue (R234). -/
def execSldDb4 (h : Hdr) (ec : Ec) (sy : BitVec 5) (slab : BitVec 3) (s : State) :
    Host.Outcome State Fault Refusal := (s.matrix h (.sldDb4 h ec sy slab) none (some sy)).done s
/-- SldI8 enters the MX queue (R234). -/
def execSldI8 (h : Hdr) (ec : Ec) (sy : BitVec 5) (slab : BitVec 3) (s : State) :
    Host.Outcome State Fault Refusal := (s.matrix h (.sldI8 h ec sy slab) none (some sy)).done s
/-- SldB16 enters the MX queue (R234). -/
def execSldB16 (h : Hdr) (ec : Ec) (sy : BitVec 5) (slab : BitVec 3) (s : State) :
    Host.Outcome State Fault Refusal := (s.matrix h (.sldB16 h ec sy slab) none (some sy)).done s
/-- SSWAP enters the MX queue (R236). -/
def execSswap (h : Hdr) (ec : Ec) (slab : BitVec 3) (s : State) : Host.Outcome State Fault Refusal :=
  (s.matrix h (.sswap h ec slab) none none).done s
/-- MROT enters the MX queue (R237). -/
def execMrot (h : Hdr) (ec : Ec) (slab : BitVec 3) (s : State) : Host.Outcome State Fault Refusal :=
  (s.matrix h (.mrot h ec slab) none none).done s
/-- MZERO enters the MX queue (R241). -/
def execMzero (h : Hdr) (ec : Ec) (slab : BitVec 3) (s : State) : Host.Outcome State Fault Refusal :=
  (s.matrix h (.mzero h ec slab) none none).done s
/-- MfixF32 enters the MX queue (R239). -/
def execMfixF32 (h : Hdr) (ec : Ec) (sx : BitVec 5) (slab : BitVec 3) (rdn : BitVec 4) (dst : BitVec 1) (t : BitVec 6)
    (tv : BitVec 4) (s : State) : Host.Outcome State Fault Refusal :=
  (s.matrix h (.mfixF32 h ec sx slab rdn dst t tv) (if dst = 0 then some sx else none) none).done s
/-- MfixB16 enters the MX queue (R239). -/
def execMfixB16 (h : Hdr) (ec : Ec) (sx : BitVec 5) (slab : BitVec 3) (rdn : BitVec 4) (dst : BitVec 1) (t : BitVec 6)
    (tv : BitVec 4) (s : State) : Host.Outcome State Fault Refusal :=
  (s.matrix h (.mfixB16 h ec sx slab rdn dst t tv) (if dst = 0 then some sx else none) none).done s
/-- MfixI8 enters the MX queue (R239). -/
def execMfixI8 (h : Hdr) (ec : Ec) (sx : BitVec 5) (slab : BitVec 3) (rdn : BitVec 4) (dst : BitVec 1) (t : BitVec 6)
    (tv : BitVec 4) (s : State) : Host.Outcome State Fault Refusal :=
  (s.matrix h (.mfixI8 h ec sx slab rdn dst t tv) (if dst = 0 then some sx else none) none).done s
/-- MfixDb8 enters the MX queue (R239). -/
def execMfixDb8 (h : Hdr) (ec : Ec) (sx : BitVec 5) (slab : BitVec 3) (rdn : BitVec 4) (dst : BitVec 1) (t : BitVec 6)
    (tv : BitVec 4) (s : State) : Host.Outcome State Fault Refusal :=
  (s.matrix h (.mfixDb8 h ec sx slab rdn dst t tv) (if dst = 0 then some sx else none) none).done s
/-- MfixDb4 enters the MX queue (R239). -/
def execMfixDb4 (h : Hdr) (ec : Ec) (sx : BitVec 5) (slab : BitVec 3) (rdn : BitVec 4) (dst : BitVec 1) (t : BitVec 6)
    (tv : BitVec 4) (s : State) : Host.Outcome State Fault Refusal :=
  (s.matrix h (.mfixDb4 h ec sx slab rdn dst t tv) (if dst = 0 then some sx else none) none).done s

end Sys2Proof.Machine
end

