-- ==== Sys2Proof/Machine/Banks.lean ====
section
/-! DEFINITION. Machine/Banks.lean: the engines' claims on scratchpad banks: every bank cycle that no stream has reserved goes to one of the
matrix, LD and ST engines, by a priority that rotates each cycle (R130, R131). -/
namespace Sys2Proof.Machine

/-! ## What the matrix engine asks for -/

/-- A command that was predicated off or cancelled before it started. -/
def MExec.skipped (x : MExec) : Bool := x.entry.skip || x.entry.cancel

/-- Steps of a form, and of a fixer of `groups` groups (R230). -/
def mxSteps (i : Instr) (groups : Nat) : Nat :=
  match mxOf i with
  | some (_, .mma .b16 ..) => 576
  | some (_, .mma f ..) => 32 * passes f
  | some (_, .sld f) => sldLines f / 16
  | some (_, .mrot) => 512
  | some (_, .mfix ..) => 8 * groups
  | some (_, .mzero) => 8
  | _ => 0

/-- A command whose steps, and those of a replay before it, have all run. -/
def MExec.complete (x : MExec) : Bool := x.skipped || (x.todo.isEmpty && decide (mxSteps x.entry.instr x.groups ≤ x.steps))

/-- Scratchpad lines that the next step of a command reads or writes. -/
def MExec.spLines (x : MExec) : List Nat :=
  match mxOf x.entry.instr with
  | some (_, .sld _) => (List.range 16).map (fun j => x.entry.y.toNat / 64 + 16 * x.steps + j)
  | some (_, .mfix _ _ false _ _) =>
    if x.todo.isEmpty then (List.range 4).map (fun j => x.entry.x.toNat / 64 + 32 * (x.steps / 8) + 4 * (x.steps % 8) + j) else []
  | _ => []

/-! ## What a copy engine asks for -/

/-- Scratchpad lines that line `i` of a copy with the index list `idx` reads or writes. -/
def CopyJob.spLines (j : CopyJob) (idx : List Nat) (i : Nat) : List Nat :=
  let p := j.piece idx i
  let a := if j.ld then p.dst else p.src
  if j.kind = .fill ∧ !j.ld then []
  else if a / 64 = (a + p.n - 1) / 64 then [a / 64] else [a / 64, a / 64 + 1]

/-- The lines of scratchpad that the LD or the ST engine would access next for stream `t`: for its command and for its chain entry. -/
def Stream.nextLines (t : Stream) (ld : Bool) : List Nat :=
  let cmd := match (if ld then t.ldq else t.stq) with
    | e :: _ => (match e.job with
      | some j => if e.started && !e.skip && !e.cancel && e.fault.isNone && decide (e.prog < j.lines) then j.spLines e.idx e.prog else []
      | none => [])
    | [] => []
  let c := if ld then t.ldChain else t.stChain
  let chain := match c.entry with
    | some e =>
      let j := chainJob ld e
      if c.run && c.waited && !c.skip && c.fault.isNone && decide (c.prog < j.lines) then j.spLines c.idx c.prog else []
    | none => []
  cmd ++ chain

/-! ## Who has a bank (R131) -/

/-- The engines' numbers, as their bank cycles name them past every stream. -/
inductive Engine where
  | matrix | ld | st
  deriving DecidableEq, Repr

/-- The engine of a copy. -/
def copyEngine (ld : Bool) : Engine := if ld then .ld else .st
/-- The number under which the bank cycles of an engine stand. -/
def Engine.num : Engine → Nat
  | .matrix => 1024
  | .ld => 1025
  | .st => 1026

/-- The place of an engine in the priority of cycle `now`, 0 first: it rotates by one engine every cycle, in which the matrix engine is first
in cycle 0 (entry 16). -/
def Engine.rank (e : Engine) (now : Nat) : Nat := (e.num + 2 - now % 3) % 3

/-- The lines of scratchpad that an engine of core `k` asks for. -/
def Core.asks (k : Core) (e : Engine) : List Nat :=
  match e with
  | .matrix => (k.mexec.filter (fun x => !x.failed && !x.complete)).flatMap MExec.spLines
  | .ld => [0, 1, 2, 3].flatMap (fun i => (k.stream i).nextLines true)
  | .st => [0, 1, 2, 3].flatMap (fun i => (k.stream i).nextLines false)

/-- Engine `e` may access lines `ls` in cycle `now`: no stream has reserved one of their banks, no engine has used it in this cycle, and no
engine that comes before it asks for it. -/
def Core.bankFree (k : Core) (e : Engine) (ls : List Nat) (now : Nat) : Bool :=
  let before := [Engine.matrix, .ld, .st].filter (fun x => decide (x.rank now < e.rank now))
  ls.all (fun l => !k.spRes.any (fun r => r.bank == l % 16 && r.cycle == now)
    && !before.any (fun x => (k.asks x).any (fun m => m % 16 == l % 16)))

/-- The banks of lines `ls` used by engine `e` in cycle `now`. -/
def Core.useBanks (k : Core) (e : Engine) (ls : List Nat) (now : Nat) : Core :=
  { k with spRes := k.spRes ++ ls.map (fun l => { bank := l % 16, cycle := now, gsid := e.num, made := now }) }

end Sys2Proof.Machine
end

