-- ==== Sys2Proof/Machine/Copy.lean ====
section
/-! DEFINITION. Machine/Copy.lean: the copy engines, their commands, and chains (R147 to R156). -/
namespace Sys2Proof.Machine

/-! ## The checks of a copy (R149, R150) -/

/-- A scratchpad offset, VA or list offset of a copy breaks its alignment (R149): the offending address and INFO. -/
def CopyJob.misaligned (j : CopyJob) : Option (Word × Word) :=
  let m := match j.kind with | .rows => 64 | _ => 8
  let usesSp := j.kind != .fill || j.ld
  let usesVa := j.kind != .fill || !j.ld
  if usesSp && j.spad.toNat % m != 0 then some (j.spad, if j.ld then 5 else 4)
  else if usesVa && j.va.toNat % m != 0 then some (j.va, if j.ld then 0 else 1)
  else if j.kind = .rows ∧ j.list % 4 ≠ 0 then some (BitVec.ofNat 64 j.list, 4)
  else none

/-- The scratchpad ranges that a copy names: whether it writes them, offset, length (R150). -/
def CopyJob.ranges (j : CopyJob) : List (Bool × Nat × Nat) :=
  (if j.kind = .fill ∧ !j.ld then [] else [(j.ld, j.spad.toNat, j.bytes)])
    ++ (if j.kind = .rows then [(false, j.list, 4 * j.count)] else [])

/-- The checks of R150 before any byte moves, and the checker of R158. The index list of GATH and SCAT is held to the read region of the slot,
which is of one kind (R157): a GATH, whose rows are read at VAs, then always takes FOOTPRINT there or at its rows; R150 names no other region
for the list (DEDUCED, entry 54). -/
def Core.copyChecks (k : Core) (j : CopyJob) (foot : Foot) : Option FaultInfo :=
  let badLen := match j.kind with
    | .rows => (j.len &&& 0xFFFFFFF800080000#64) != 0
        || decide (j.count < 1 ∨ 6144 < j.count ∨ 393216 < j.count * j.rowBytes)
    | _ => decide (393216 < j.len.toNat ∨ j.len.toNat % 8 ≠ 0)
  if badLen then some { code := .illegal }
  else match j.misaligned with
    | some (a, i) => some { code := .align, addr := a, info := i }
    | none =>
      match j.ranges.find? (fun r => decide (0 < r.2.2 ∧ spEnd < r.2.1 + r.2.2)) with
      | some r => some { code := .perm, addr := BitVec.ofNat 64 r.2.1, info := spInfo r.1 }
      | none =>
        if !foot.declared then some (footFault (BitVec.ofNat 64 ((j.ranges.headD (false, j.va.toNat, 0)).2.1)) j.fp true false)
        else match j.ranges.find? (fun r => !(if r.1 then foot.wr else foot.rd).holdsSp r.2.1 r.2.2) with
          | some r => some (footFault (BitVec.ofNat 64 r.2.1) j.fp false false)
          | none =>
            if k.checker foot then some (footFault (BitVec.ofNat 64 ((j.ranges.headD (false, 0, 0)).2.1)) j.fp false true)
            else none

/-! ## One line (R147, R150, R152) -/

/-- The checks of a global range of a copy: bits 63:48, and the footprint region of its direction. -/
def vaCheck (foot : Foot) (fp a n : Nat) (write : Bool) : Option FaultInfo :=
  let va := BitVec.ofNat 64 a
  if 2 ^ 48 ≤ a then some (permFault va (if write then .write else .read))
  else if !(if write then foot.wr else foot.rd).holdsVa a n then some (footFault va fp false false)
  else none

/-- The source bytes of a piece from memory: their value, the line where it is one whole aligned line, and whether any source
line is poisoned. A source that crosses a line is read as two accesses. -/
def State.readPiece (s : State) (w : Who) (foot : Foot) (fp a n : Nat) :
    Except FaultInfo (Row × Line × Bool × State) :=
  let n1 := min n (64 - a % 64)
  let one (s : State) (a n : Nat) : Except FaultInfo (Row × Line × Bool × State) :=
    match vaCheck foot fp a n false with
    | some f => .error f
    | none =>
      match s.plainRead w (BitVec.ofNat 64 a) n with
      | .error f => .error f
      | .ok (p, u) =>
        let l := u.lineAt p.pa
        .ok (BitVec.ofNat 512 (Memory.getNat u.mem p.pa n), l, l.poison, u)
  match one s a n1 with
  | .error f => .error f
  | .ok r =>
    if n1 = n then .ok r
    else match one r.2.2.2 (a + n1) (n - n1) with
      | .error f => .error f
      | .ok q => .ok (r.1 ||| (q.1 <<< (8 * n1)), r.2.1, r.2.2.1 || q.2.2.1, q.2.2.2)

/-- `n` bytes of scratchpad from `a`, across one line's end, with the first line and the poison of the lines read. -/
def Core.readSp (k : Core) (a n : Nat) : Row × Line × Bool :=
  let n1 := min n (64 - a % 64)
  let lo : Row := BitVec.ofNat 512 (k.spGet a n1)
  let l := k.line (a / 64)
  if n1 = n then (lo, l, l.poison)
  else (lo ||| (BitVec.ofNat 512 (k.spGet (a + n1) (n - n1)) <<< (8 * n1)), l, l.poison || (k.line (a / 64 + 1)).poison)

/-- The pattern bytes of a FILL for `n` bytes from byte `o` of its range (R150). -/
def fillBytes (p : Word) (o n : Nat) : Row :=
  BitVec.ofNat 512 ((List.range n).foldr (fun i a => (p >>> (8 * ((o + i) % 8))).toNat % 256 + 256 * a) 0)

/-- Bytes put into scratchpad: a whole line with side field, tag and poison, or data that keeps them and may add poison
(R132, R152). -/
def Core.writeSp (k : Core) (a n : Nat) (v : Row) (whole : Option Line) (bad : Bool) : Core :=
  match whole with
  | some l => { k with sp := k.sp.put (a / 64) l }
  | none =>
    let u := k.spSet a n v
    if bad then { u with sp := u.sp.put (a / 64) { u.line (a / 64) with poison := true } } else u

/-- Bytes put into memory by an access already checked. -/
def State.writeOut (s : State) (p : Place) (n : Nat) (v : Row) (whole : Option Line) (bad : Bool) : State :=
  match whole with
  | some l => s.writeLine p l
  | none => s.writeBytes p.pa n v.toNat bad

/-- Line `i` of a copy moved by core `c`, or the fault that stops it there (R150). -/
def State.copyLine (s : State) (w : Who) (j : CopyJob) (foot : Foot) (idx : List Nat) (i : Nat) : Except FaultInfo State :=
  let c := w.gsid / 4
  let p := j.piece idx i
  let source : Except FaultInfo (Row × Line × Bool × State) :=
    if j.kind = .fill then
      (let v := fillBytes j.src (p.dst - j.dest.toNat) p.n; .ok (v, { data := v }, false, s))
    else if j.ld then s.readPiece w foot j.fp p.src p.n
    else (let r := (s.core c).readSp p.src p.n; .ok (r.1, r.2.1, r.2.2, s))
  match source with
  | .error f => .error f
  | .ok (v, l, bad, u) =>
    let whole := if p.n = 64 ∧ (j.kind = .fill ∨ p.src % 64 = 0) then some l else none
    if j.ld then .ok (u.modCore c (fun k => k.writeSp p.dst p.n v whole bad))
    else match vaCheck foot j.fp p.dst p.n true with
      | some f => .error f
      | none =>
        match u.plainWrite w (BitVec.ofNat 64 p.dst) p.n with
        | .error f => .error f
        | .ok (q, u) => .ok (u.writeOut q p.n v whole bad)

/-! ## Commands (R144, R147, R151, R153) -/

/-- COPY_COMMAND_START (R147): the command at the head of queue `site.sub` (0 LD, 2 ST) of stream `site.unit` pops its tokens, and
then starts once the footprint tracker lets it and its earlier scratchpad writes have landed; its first checks are made
(R150). A skipped command starts without them. -/
def execCopyCommandStart (s : State) : Host.Outcome State Fault Refusal :=
  let g := s.site.unit
  let q := s.site.sub
  let t := s.stream g
  match t.queue q with
  | [] => .next s
  | e :: _ =>
    match e.job with
    | none => .next s
    | some j =>
      if e.started || e.fault.isSome || decide (s.cycle ≤ e.entered) || !t.turn q e.faultAt then .next s
      else match (if e.popped then some t else t.popTokens q e.instr) with
        | none => .next s
        | some t' =>
          let u := s.modStream g (fun _ => t'.modEntry q e.number (fun e => { e with popped := true }))
          let foot := t.slotOf j.fp
          let e := e.spared s.cycle
          let begin' (idx : List Nat) : State := u.modStream g (fun t =>
            t.modEntry q e.number (fun e => { e.spared s.cycle with started := true, faultAt := 0, idx := idx }))
          if e.skip || e.cancel then .next (begin' [])
          else if (s.core (g / 4)).tracked e.order foot || !t.landedBy e.entered then .next u
          else match (s.core (g / 4)).copyChecks j foot with
            | some f => .next (if e.cutAt = s.cycle then u else u.commandFault g q e 0 f)
            | none => .next (begin' ((s.core (g / 4)).indices j))

/-- Who an engine command's accesses belong to (R148). -/
def Stream.copyWho (t : Stream) (g q : Nat) (e : QEntry) (j : CopyJob) : Who :=
  { gsid := g, region := e.region, queue := q, number := e.number, clock := t.before q e, cpid := e.cpid, rd := j.rd,
    hint := j.hint }

/-- COPY_COMMAND_RETIRE (R131, R147, R151): the started command of queue `site.sub` of stream `site.unit` moves its next line where its engine
has the bank, or takes the fault of that line, and once its last line has moved it pushes its tokens and retires. -/
def execCopyCommandRetire (s : State) : Host.Outcome State Fault Refusal :=
  let g := s.site.unit
  let q := s.site.sub
  let t := s.stream g
  match t.queue q with
  | [] => .next s
  | e :: _ =>
    match e.job with
    | none => .next s
    | some j =>
      if !e.started || e.fault.isSome || !t.turn q e.faultAt then .next s
      else if e.skip || e.cancel || decide (j.lines ≤ e.prog) then
        (match t.pushTokens ((s.core (g / 4)).room (g % 4)) q e.instr ((t.before q e).raise q e.number) with
         | none => .next s
         | some t' => .next (s.modStream g (fun _ => (t'.retired q e).dropEntry q e.number)))
      else if !(s.core (g / 4)).bankFree (copyEngine j.ld) (j.spLines e.idx e.prog) s.cycle then .next s
      else match (s.modCore (g / 4) (·.useBanks (copyEngine j.ld) (j.spLines e.idx e.prog) s.cycle)).copyLine (t.copyWho g q e j) j
          (t.slotOf j.fp) e.idx e.prog with
        | .error f => .next (s.commandFault g q { e with prog := j.progress e.prog } 0 f)
        | .ok u => .next (u.modStream g (fun t =>
            t.modEntry q e.number (fun e => { e with prog := e.prog + 1, faultAt := 0 })))

/-- A copy form enters its queue (R148). -/
def State.copyForm (s : State) (h : Hdr) (q : Nat) (i : Instr) (sx sy sz : BitVec 5) : Act :=
  s.engine h q i [sx, sy, sz] sx sy sz

/-- CPY.LD (R150). -/
def execCpyLd (h : Hdr) (ec : Ec) (sx sy sz : BitVec 5) (rd : BitVec 3) (hint : BitVec 2) (s : State) :
    Host.Outcome State Fault Refusal := (s.copyForm h 0 (.cpyLd h ec sx sy sz rd hint) sx sy sz).done s
/-- CPY.ST (R150). -/
def execCpySt (h : Hdr) (ec : Ec) (sx sy sz : BitVec 5) (rd : BitVec 3) (hint : BitVec 2) (s : State) :
    Host.Outcome State Fault Refusal := (s.copyForm h 2 (.cpySt h ec sx sy sz rd hint) sx sy sz).done s
/-- GATH (R150). -/
def execGath (h : Hdr) (ec : Ec) (sx sy sz : BitVec 5) (rd : BitVec 3) (hint : BitVec 2) (rowl : BitVec 6) (s : State) :
    Host.Outcome State Fault Refusal := (s.copyForm h 0 (.gath h ec sx sy sz rd hint rowl) sx sy sz).done s
/-- SCAT (R150). -/
def execScat (h : Hdr) (ec : Ec) (sx sy sz : BitVec 5) (rd : BitVec 3) (hint : BitVec 2) (rowl : BitVec 6) (s : State) :
    Host.Outcome State Fault Refusal := (s.copyForm h 2 (.scat h ec sx sy sz rd hint rowl) sx sy sz).done s
/-- FILL.LD (R150). -/
def execFillLd (h : Hdr) (ec : Ec) (sx sy sz : BitVec 5) (rd : BitVec 3) (hint : BitVec 2) (s : State) :
    Host.Outcome State Fault Refusal := (s.copyForm h 0 (.fillLd h ec sx sy sz rd hint) sx sy sz).done s
/-- FILL.ST (R150). -/
def execFillSt (h : Hdr) (ec : Ec) (sx sy sz : BitVec 5) (rd : BitVec 3) (hint : BitVec 2) (s : State) :
    Host.Outcome State Fault Refusal := (s.copyForm h 2 (.fillSt h ec sx sy sz rd hint) sx sy sz).done s

/-! ## Chains (R155, R156) -/

/-- The chain unit of a stream for the LD or the ST engine. -/
def Stream.chain (t : Stream) (ld : Bool) : Chain := if ld then t.ldChain else t.stChain
/-- The stream with a chain unit changed. -/
def Stream.modChain (t : Stream) (ld : Bool) (f : Chain → Chain) : Stream :=
  if ld then { t with ldChain := f t.ldChain } else { t with stChain := f t.stChain }

/-- CLINK: the head of a chain unit (R156). The entry in progress stays in its region; the one taken from the new head belongs to this
form's (R274). -/
def State.clink (s : State) (h : Hdr) (sy : BitVec 5) (ld : Bool) : Act :=
  let t := s.me
  let v := t.sreg sy
  s.plain h [t.sp sy] []
    (if v.toNat % 64 ≠ 0 ∨ v.extractLsb' 48 16 ≠ 0 then .fault { code := .align, addr := v }
     else .go (s.modMe (fun t => t.modChain ld (fun c =>
       { c with head := v, pend := c.pend || c.run, linked := t.region, lclock := t.clock 4 }))))

/-- CLINK.LD (R156). -/
def execClinkLd (h : Hdr) (sy : BitVec 5) (s : State) : Host.Outcome State Fault Refusal := (s.clink h sy true).done s
/-- CLINK.ST (R156). -/
def execClinkSt (h : Hdr) (sy : BitVec 5) (s : State) : Host.Outcome State Fault Refusal := (s.clink h sy false).done s

/-- CKICK (R156). -/
def execCkick (h : Hdr) (eng : BitVec 1) (s : State) : Host.Outcome State Fault Refusal :=
  (s.plain h [] [] (.go (s.modMe (fun t => t.modChain (eng == 0) (fun c =>
    if !c.run && c.head != 0 then
      { c with cur := c.head, run := true, entry := none, fp := none, waited := false, prog := 0, region := t.region,
               kicked := s.cycle, cpid := t.cpid.toNat, clock := t.clock 4 }
    else c))))).done s

/-- Who an access of a chain unit belongs to, in queue `q`: the fetch of an entry, or its copy. -/
def Stream.chainWho (t : Stream) (g q : Nat) (c : Chain) (rd hint : Nat) : Who :=
  { gsid := g, region := c.region, queue := q, number := c.order, clock := c.clock, cpid := t.cpid.toNat, rd := rd, hint := hint }

/-- A fault of a chain entry: the unit holds at it and the linking stream parks (R155). An entry that a RESUME of action 1 or 2
finds faulted is skipped work (R377): it waits, copies nothing, posts where it can, and the unit moves on; where the entry
itself could not be read the unit stops (entry 21). -/
def State.chainFault (s : State) (g : Nat) (ld : Bool) (c : Chain) (f : FaultInfo) : State :=
  let p := match c.entry with | some e => (chainJob ld e).progress c.prog | none => 0
  let f := { f with src := if f.src = 4 then 4 else 3, unit := if ld then 0 else 2, word := c.cur, prog := p }
  let s := if f.src = 4 then s.modStream g (fun t => { t with charge := none }) else s
  (s.modStream g (fun t => t.modChain ld (fun c => { c with fault := some f, faultAt := s.cycle + 1 }))).parkHeld g f

/-- The unit with the entry that it has read. -/
def Chain.holding (c : Chain) (e : Row) : Chain := { c with entry := some e, faultAt := 0, kicked := 0 }

/-- The unit at the fetch of an entry that copies `j`. One that an image has restored in the middle of its entry keeps its place in the issue
order, and past the wait it goes on where it stood (R155, R159, R381); its index list is `idx` again. -/
def Chain.fetched (c : Chain) (j : CopyJob) (idx : List Nat) (order cpid : Nat) : Chain :=
  let c := if c.fp.isSome then { c with fp := some j.fp } else { c with fp := some j.fp, order := order, cpid := cpid }
  if c.waited then
    { c with prog := match j.kind with | .rows => c.prog * (j.rowl + 1) + c.idx.headD 0 | _ => c.prog, idx := idx }
  else { c with prog := 0, idx := [] }

/-- CHAIN_ENTRY_FETCH (R155): the running unit `site.sub` (0 LD, 1 ST) of stream `site.unit` reads its current entry with a plain
load, RD 3 and ALLOC, and checks its fields. The first fetch after a CKICK waits for the scratchpad writes before it (R430). The entry's
lines carry the CPID that the stream holds at the fetch: R116 names none for an entry (DESIGN CHOICE, entry 52). -/
def execChainEntryFetch (s : State) : Host.Outcome State Fault Refusal :=
  let g := s.site.unit
  let ld := s.site.sub == 0
  let t := s.stream g
  let c := t.chain ld
  if c.skip && c.entry.isNone then .next (s.modStream g (fun t => t.modChain ld (fun c => { c with run := false, skip := false, fp := none })))
  else if !c.run || c.entry.isSome || c.fault.isSome || !t.landedBy c.kicked || !t.turn (if ld then 0 else 2) c.faultAt then .next s
  else match s.plainRead (t.chainWho g fetchQ c 3 0) c.cur 64 with
    | .error f => .next (s.chainFault g ld c f)
    | .ok (p, u) =>
      let l := u.lineAt p.pa
      if l.poison then .next (s.chainFault g ld c { code := .poison, addr := c.cur, info := 2 })
      else if chainBad l.data then .next (s.chainFault g ld c (ringFault 0 0 false))
      else
        let k := s.core (g / 4)
        .next ((u.modCore (g / 4) (fun k => { k with orders := k.orders + 1 })).modStream g (fun t =>
          t.modChain ld (fun c => (c.fetched (chainJob ld l.data) (k.indices (chainJob ld l.data)) k.orders t.cpid.toNat).holding l.data)))

/-- The ring wait of a chain entry holds (R136, R155). -/
def Core.chainReady (k : Core) (e : Row) : Bool :=
  let h := entryByte e 12
  let r := k.ringBefore h
  let n := entryHalf e 14
  if entryByte e 11 % 2 = 0 then true
  else if entryByte e 11 / 2 % 2 = 1 then decide (n ≤ r.filled.toNat)
  else decide (n ≤ r.count.toNat - r.filled.toNat)

/-- What the wait of a chain entry acquires (R140). -/
def State.entrySeen (s : State) (c : Nat) (e : Row) : Tbl Nat :=
  let r := (s.core c).ring (entryByte e 12)
  let filled := entryByte e 11 / 2 % 2 == 1
  if entryByte e 11 % 2 = 0 then .empty
  else s.ringSeen c (entryByte e 12) filled (if filled then r.filled.toNat else r.count.toNat - r.filled.toNat) (entryHalf e 14)

/-- CHAIN_WAIT_SATISFIED (R140, R155): the wait of the entry holds, the tracker lets it start, and its first checks are made; its
copy begins. The wait is an acquire at .C, which ends the stream's region (R273). -/
def execChainWaitSatisfied (s : State) : Host.Outcome State Fault Refusal :=
  let g := s.site.unit
  let ld := s.site.sub == 0
  let t := s.stream g
  let c := t.chain ld
  match c.entry with
  | none => .next s
  | some e =>
    let k := s.core (g / 4)
    let j := chainJob ld e
    let foot := t.slotOf j.fp
    if !c.run || c.waited || c.fault.isSome || !t.turn (if ld then 0 else 2) c.faultAt || !k.chainReady e
        || k.tracked c.order foot then .next s
    else if c.skip then .next (s.modStream g (fun t => t.modChain ld (fun c => { c with waited := true, faultAt := 0 })))
    else match (if entryByte e 11 % 2 = 1 then t.charge else none), k.copyChecks j foot with
      | some f, _ => .next (s.chainFault g ld c f)
      | none, some f => .next (s.chainFault g ld c f)
      | none, none =>
        let got := s.entrySeen (g / 4) e
        .next (s.modStream g (fun t =>
          (if entryByte e 11 % 2 = 1 then { t with region := t.region + 1 } else t).modChain ld (fun c =>
            { c with waited := true, idx := k.indices j, faultAt := 0, clock := c.clock.acquire got })))

/-- The unit after an entry: HEAD where PEND is set, else NEXT; at 0 it stops (R155). -/
def Chain.moveOn (c : Chain) (next : Word) : Chain :=
  let cur := if c.pend then c.head else next
  { c with cur := cur, pend := false, run := cur != 0, entry := none, fp := none, waited := false, prog := 0, skip := false, idx := [],
           region := if c.pend then c.linked else c.region, clock := if c.pend then c.clock.join c.lclock else c.clock }

/-- CHAIN_ENTRY_RETIRE (R131, R155): the entry's copy moves its next line, where its engine has the bank; once its last line has moved, its post advances a ring under
R139, as a release of its own writes at .C that ends the stream's region (R273), and the unit moves on. -/
def execChainEntryRetire (s : State) : Host.Outcome State Fault Refusal :=
  let g := s.site.unit
  let ld := s.site.sub == 0
  let t := s.stream g
  let c := t.chain ld
  match c.entry with
  | none => .next s
  | some e =>
    let j := chainJob ld e
    if !c.run || !c.waited || c.fault.isSome || !t.turn (if ld then 0 else 2) c.faultAt then .next s
    else if !c.skip && decide (c.prog < j.lines) then
      if !(s.core (g / 4)).bankFree (copyEngine ld) (j.spLines c.idx c.prog) s.cycle then .next s
      else match (s.modCore (g / 4) (·.useBanks (copyEngine ld) (j.spLines c.idx c.prog) s.cycle)).copyLine
          { t.chainWho g chainQ c j.rd j.hint with cpid := c.cpid } j (t.slotOf j.fp) c.idx c.prog with
      | .error f => .next (s.chainFault g ld c f)
      | .ok u => .next (u.modStream g (fun t => t.modChain ld (fun c => { c with prog := c.prog + 1, faultAt := 0 })))
    else
      let moved (u : State) : State := u.modStream g (fun t => t.modChain ld (fun c => c.moveOn (entryWord e 0)))
      if entryByte e 11 / 4 % 2 = 0 then .next (moved s)
      else
        let h := entryByte e 13
        let up := entryByte e 11 / 8 % 2 == 0
        match (if c.skip then none else t.charge), ((s.core (g / 4)).ring h).advance h (entryHalf e 16) up with
        | some f, _ => .next (s.chainFault g ld c f)
        | none, .error f => .next (if c.skip then moved s else s.chainFault g ld c f)
        | none, .ok r =>
          let k := s.carries g c.region c.clock
          let u := s.ringMoves (g / 4) h (entryHalf e 16) up ((s.core (g / 4)).ring h) k
          .next (moved ((u.modCore (g / 4) (fun k => { k with rings := k.rings.put h r })).modStream g (fun t =>
            { t with region := t.region + 1 })))

end Sys2Proof.Machine
end

