-- ==== Sys2Proof/Machine/Notify.lean ====
section
/-! DEFINITION. Machine/Notify.lean: notifications to the host (R419), and the codes of faults (R371). -/
namespace Sys2Proof.Machine

/-- The number of a fault code (R371). -/
def FCode.num : FCode → Nat
  | .illegal => 1 | .align => 2 | .page => 3 | .perm => 4 | .version => 5 | .latency => 6 | .memrace => 7
  | .footprint => 8 | .ring => 9 | .poison => 10 | .segment => 11 | .deadlock => 12 | .queue => 13 | .journal => 14
  | .arith => 15 | .trap => 16

/-- The ring of notifications takes an entry: EN is 1 and it is not full. -/
def HostPort.room (h : HostPort) : Bool := h.hnq.getLsbD 63 && (h.hnqW - h.hnqR).toNat != 256

/-- An entry written at slot W mod 256 of the ring in host memory, and W raised. -/
def HostPort.put (h : HostPort) (code aux arg cycle : Nat) : HostPort :=
  let a := (h.hnq.extractLsb' 12 34).toNat * 4096 + 16 * (h.hnqW.toNat % 256)
  let v := code + aux % 2 ^ 16 * 2 ^ 16 + arg % 2 ^ 32 * 2 ^ 32 + cycle % 2 ^ 64 * 2 ^ 64
  { h with mem := Memory.setNat h.mem a 16 v, hnqW := h.hnqW + 1 }

/-- Notification `code` with AUX and ARG (R419): written, or kept as a pending bit. An entry does not overtake an earlier one of
its code. -/
def State.notify (s : State) (code aux arg : Nat) : State :=
  if s.host.room && !s.host.pending.getLsbD code then { s with host := s.host.put code aux arg s.cycle }
  else { s with host := { s.host with pending := s.host.pending ||| BitVec.ofNat 16 (2 ^ code) } }

/-- Pending notifications written while there is room, in ascending CODE order, with ARG 0. The manual gives no AUX for them:
a free value stands there (entry 3). -/
def State.flushNotes (s : State) : State :=
  [1, 2, 3, 4, 5, 6, 7, 8, 9, 10].foldl (fun (u : State) c =>
    if u.host.pending.getLsbD c && u.host.room then
      let aux := (Config.freeValue u.free).toNat % 2 ^ 16
      { u.draw with host := { u.host.put c aux 0 u.cycle with pending := u.host.pending &&& ~~~BitVec.ofNat 16 (2 ^ c) } }
    else u) s

end Sys2Proof.Machine
end

