-- ==== Sys2Proof/Machine/Manager.lean ====
section
/-! DEFINITION. Machine/Manager.lean: the queue manager of a launch and join records (R315 to R320). -/
namespace Sys2Proof.Machine

/-! ## Queues by number: 0 to 15 TQ, 16 to 31 SQ -/

/-- Queue `q` of a launch. -/
def Launch.queue (l : Launch) (q : Nat) : Queue := l.queues.get {} q
/-- The launch with queue `q` changed. -/
def Launch.modQueue (l : Launch) (q : Nat) (f : Queue → Queue) : Launch := { l with queues := l.queues.mod {} q f }
/-- A queue that is enabled. -/
def Queue.enabled (q : Queue) : Bool := q.logcap != 0
/-- Slots of a queue. -/
def Queue.cap (q : Queue) : Nat := 2 ^ q.logcap
/-- A queue is full when TAIL - FREE = CAP (R316). -/
def Queue.full (q : Queue) : Bool := (q.tail - q.free).toNat == q.cap
/-- A queue is empty when HEAD = TAIL (R316). -/
def Queue.isEmpty (q : Queue) : Bool := q.head == q.tail
/-- Bytes of a slot of queue `n`. -/
def slotSize (n : Nat) : Nat := if n < 16 then 32 else 16
/-- The VA of slot `i` of queue `n`. -/
def Queue.slot (q : Queue) (n : Nat) (i : BitVec 32) : Word :=
  q.base + BitVec.ofNat 64 (i.toNat % q.cap * slotSize n)

/-- FREE advances over every consecutive free slot (R316). -/
def Queue.settle (q : Queue) : Nat → Queue
  | 0 => q
  | n + 1 =>
    let i := q.free.toNat % q.cap
    if q.freed.contains i && q.free != q.head then
      Queue.settle { q with free := q.free + 1, freed := q.freed.filter (· != i) } n
    else q

/-- The slot at `va` marked free (R316). -/
def Queue.release (q : Queue) (n : Nat) (va : Word) : Queue :=
  let i := (va - q.base).toNat / slotSize n
  let q := { q with freed := i :: q.freed }
  q.settle q.freed.length

/-- A QUEUE fault (R373). -/
def queueFault (va : Word) (n : Nat) : FaultInfo := { code := .queue, addr := va, info := BitVec.ofNat 64 n }

/-! ## Records (R317) -/

/-- A continuation record. -/
abbrev TRec := BitVec 256

/-- CODE's address. -/
def TRec.code (r : TRec) : Word := (r.setWidth 48 : BitVec 48).setWidth 64
/-- FRAME. -/
def TRec.frame (r : TRec) : Word := r.extractLsb' 64 64
/-- JOIN. -/
def TRec.join (r : TRec) : Word := r.extractLsb' 128 64
/-- BOUND. -/
def TRec.bound (r : TRec) : BitVec 32 := r.extractLsb' 192 32
/-- INC. -/
def TRec.inc (r : TRec) : BitVec 4 := r.extractLsb' 224 4
/-- BEN. -/
def TRec.ben (r : TRec) : Bool := r.getLsbD 232
/-- DEPTH. -/
def TRec.depth (r : TRec) : BitVec 16 := r.extractLsb' 240 16
/-- The record with DEPTH set. -/
def TRec.setDepth (r : TRec) (d : Nat) : TRec := (r.setWidth 240).setWidth 256 ||| (BitVec.ofNat 256 (d % 2 ^ 16) <<< 240)
/-- Every stated limit of R317 holds. -/
def TRec.ok (r : TRec) : Bool :=
  r.extractLsb' 0 3 == 0 && r.extractLsb' 48 8 == 0 && decide ((r.extractLsb' 56 8).toNat ≤ 2)
    && r.extractLsb' 128 5 == 0 && r.extractLsb' 228 4 == 0 && r.extractLsb' 233 7 == 0

/-- The record is dominated at a kill point of core `c` (R337, R342): BEN, and the shadow of INC under its queue's type. -/
def State.prunes (s : State) (c : Nat) (r : TRec) (btype : Bool) : Bool :=
  r.ben && s.dominated c r.inc.toNat r.bound (some btype)

/-! ## Accesses of a stream to records and slots -/

/-- `n` bytes (at most 64, within a line) at `va` read plainly. -/
def State.readRec (s : State) (w : Who) (va : Word) (n : Nat) : Except FaultInfo (Nat × State) :=
  match s.plainRead w va n with
  | .error f => .error f
  | .ok (p, u) =>
    if (u.lineAt p.pa).poison then .error { code := .poison, addr := va, info := 2 } else .ok (Memory.getNat u.mem p.pa n, u)

/-- `n` bytes at `va` as a marked atomic operates on them: read, with the place for the write. -/
def State.atomRec (s : State) (w : Who) (va : Word) (n : Nat) : Except FaultInfo (Nat × Place × State) :=
  match s.marked w va n .atomic with
  | .error f => .error f
  | .ok (p, u) =>
    if (u.lineAt p.pa).poison then .error { code := .poison, addr := va, info := 2 } else .ok (Memory.getNat u.mem p.pa n, p, u)

/-- `v` written into slot TAIL of queue `q` of the launch of core `c` by a marked access, a release at .V, and TAIL raised (R325, R326). The
queue is enabled and has room. -/
def State.putSlot (s : State) (w : Who) (c q v : Nat) : Except FaultInfo State :=
  let d := (s.launchOf c).queue q
  match s.marked w (d.slot q d.tail) (slotSize q) .write with
  | .error f => .error f
  | .ok (p, u) =>
    .ok (((u.writeBytes p.pa (slotSize q) v false).headsNew (wordsOf p.pa (slotSize q)) { s.headBy w 3 with fixed := true }).modLaunchOf c (fun l =>
      l.modQueue q (fun d => { d with tail := d.tail + 1, freed := d.freed.filter (· != d.tail.toNat % d.cap) })))

/-! ## Join records (R319, R320) -/

/-- What updates a join record. -/
inductive JoinEvent where
  | enqueues | spawnPrunes | takeDominated | takeInvalid | ended | killed | abandoned (code : Nat) | tjoin
  deriving DecidableEq, Repr

/-- The event lowers PEND. -/
def JoinEvent.lowers : JoinEvent → Bool
  | .enqueues | .spawnPrunes => false
  | _ => true

/-- A count that saturates at 2^32 - 1. -/
def saturate (n : Nat) : Nat := min n 0xFFFFFFFF

/-- A join record, bytes 0 to 31. -/
abbrev JoinRec := BitVec 256

/-- PEND. -/
def JoinRec.pend (r : JoinRec) : Nat := (r.extractLsb' 0 32).toNat
/-- FIRED. -/
def JoinRec.fired (r : JoinRec) : Bool := r.getLsbD 151
/-- CONT. -/
def JoinRec.cont (r : JoinRec) : Word := r.extractLsb' 192 64
/-- The task queue of the continuation. -/
def JoinRec.cq (r : JoinRec) : Nat := (r.extractLsb' 144 4).toNat

/-- The fields after an event, or none where the update is refused: a reserved field not zero, or PEND 0 to be lowered. -/
def JoinRec.update (r : JoinRec) (e : JoinEvent) : Option JoinRec :=
  if r.extractLsb' 148 3 != 0 || r.extractLsb' 152 40 != 0 || (e.lowers && r.pend == 0) then none
  else
    let f (i : Nat) : Nat := (r.extractLsb' (32 * i) 32).toNat
    let pend := match e with
      | .enqueues => f 0 + 1
      | .spawnPrunes => f 0
      | _ => f 0 - 1
    let done := match e with | .ended => saturate (f 1 + 1) | _ => f 1
    let pruned := match e with
      | .spawnPrunes | .takeDominated | .killed => saturate (f 2 + 1)
      | _ => f 2
    let bad := match e with | .takeInvalid | .abandoned _ => true | _ => false
    let faulted := if bad then saturate (f 3 + 1) else f 3
    let fcode := match e with
      | .takeInvalid => if f 3 = 0 then FCode.queue.num else (r.extractLsb' 128 16).toNat
      | .abandoned c => if f 3 = 0 then c else (r.extractLsb' 128 16).toNat
      | _ => (r.extractLsb' 128 16).toNat
    some (BitVec.ofNat 256 (pend % 2 ^ 32 + done * 2 ^ 32 + pruned * 2 ^ 64 + faulted * 2 ^ 96 + fcode * 2 ^ 128)
      ||| (r >>> 144 <<< 144))

/-- One record read and updated by an atomic with .AR at .V, without a continuation: the state, the record as it now stands, its place, and
the issuer with what it has acquired. -/
def State.joinWrite (s : State) (w : Who) (va : Word) (e : JoinEvent) : Except FaultInfo (State × JoinRec × Place × Who) :=
  match s.atomRec w va 32 with
  | .error f => .error f
  | .ok (v, p, u) =>
    match JoinRec.update (BitVec.ofNat 256 v) e with
    | none => .error (queueFault va 3)
    | some r =>
      let ks := wordsOf p.pa 32
      let got := headsSeen (u.known.headsOf ks) w.gsid 3
      let w := { w with clock := w.clock.acquire got }
      .ok (((u.writeBytes p.pa 32 r.toNat false).acquire w.gsid s.cycle got).continues w.gsid 3 ks (some { s.headBy w 3 with fixed := true }),
        r, p, w)

/-- The join update of R320 by a stream of core `c` on the record at `va`, whole: with the continuation that it fires, and the hold
of that continuation on a record of its own. -/
def State.joinUpdate (s : State) (w : Who) (c : Nat) (va : Word) (e : JoinEvent) : Except FaultInfo State :=
  match s.joinWrite w va e with
  | .error f => .error f
  | .ok (u, r, p, w) =>
    if !(e.lowers && r.pend == 0 && r.cont != 0 && !r.fired) then .ok u
    else
      let u := u.writeBytes p.pa 32 (r ||| (1#256 <<< 151)).toNat false
      let q := (u.launchOf c).queue r.cq
      if !q.enabled then .error (queueFault r.cont 0)
      else if r.cont.toNat % 32 ≠ 0 then .error (queueFault r.cont 2)
      else match u.readRec w r.cont 32 with
        | .error f => .error f
        | .ok (v, u) =>
          let k : TRec := BitVec.ofNat 256 v
          if !k.ok then .error (queueFault r.cont 2)
          else if q.full then .error (queueFault r.cont 1)
          else
            if k.join = 0 then u.putSlot w c r.cq v
            else match u.joinWrite w k.join .enqueues with
              | .error f => .error f
              | .ok (u, _, _, w) => u.putSlot w c r.cq v

end Sys2Proof.Machine
end

