-- ==== Sys2Proof/Machine/Faults.lean ====
section
/-! DEFINITION. Machine/Faults.lean: delivery of fault records and resumption of parked streams (R372, R374 to R378). -/
namespace Sys2Proof.Machine

/-- A record as its 64 bytes (R372). -/
def FRec.toNat (r : FRec) : Nat :=
  r.code.num + r.kind * 2 ^ 16 + r.src * 2 ^ 24 + r.gsid % 2 ^ 16 * 2 ^ 32 + r.unit % 2 ^ 8 * 2 ^ 48
    + r.lid % 2 ^ 32 * 2 ^ 64 + r.ctx % 2 ^ 12 * 2 ^ 96 + r.pc.toNat * 2 ^ 128 + r.word.toNat * 2 ^ 192
    + r.addr.toNat * 2 ^ 256 + r.info.toNat * 2 ^ 320 + r.args.toNat * 2 ^ 384 + r.prog % 2 ^ 32 * 2 ^ 448
    + r.num % 2 ^ 32 * 2 ^ 480

/-! ## Delivery -/

/-- A power of two. -/
def isPow2 (n : Nat) : Bool := n != 0 && (n &&& (n - 1)) == 0

/-- A marked write of `n` bytes of the device itself under context `ctx`, where the page takes it. It belongs to no region
(entry 15). -/
def State.ownWrite (s : State) (ctx : Nat) (va : Word) (n v : Nat) (k : AccKind) : Option State :=
  match s.place ctx va k with
  | .error _ => none
  | .ok p =>
    if p.isDevice then none else some ((((s.holdTrans p.die va.toNat p.leaf).recallFor p n).writeBytes p.pa n v false).endsHeads p.pa n)

/-- Every page of the `n` bytes at `va` translates with RP and W under context `ctx` (R374); a page is 4 KiB or larger (R78). -/
def State.ringOk (s : State) (ctx : Nat) (va : Word) (n : Nat) : Bool :=
  (List.range ((va.toNat % 4096 + n + 4095) / 4096)).all (fun i =>
    match s.place ctx (BitVec.ofNat 64 (va.toNat / 4096 * 4096 + 4096 * i)) .atomic with
    | .ok p => !p.isDevice
    | .error _ => false)

/-- A record written to the fault ring of core `c`'s launch, with its VA and HENTRY; none while the ring is full or unwritable
(R374, R375). The units hold the ring's translations from then on, and its header is read through a memory-side page or a scale range as
any other read is (R81, R87, R93). -/
def State.writeRecord (s : State) (c : Nat) (r : FRec) : Option (State × Word × Word) :=
  let l := s.launchOf c
  match s.place l.ctx l.fring .atomic with
  | .error _ => none
  | .ok p =>
    let s := s.readFor p
    let f (o n : Nat) : Nat := Memory.getNat s.mem (p.pa + o) n
    let cap := f 0 4
    let widx := f 4 4
    if !(isPow2 cap && decide (16 ≤ cap) && decide (cap ≤ 65536)) then none
    else if cap ≤ (widx + 2 ^ 32 - f 8 4) % 2 ^ 32 ∨ s.ringOk l.ctx l.fring (64 + 64 * cap) = false then none
    else
      let va := l.fring + BitVec.ofNat 64 (64 + 64 * (widx % cap))
      match (s.holdRange l.ctx l.fring.toNat (64 + 64 * cap) .atomic).ownWrite l.ctx va 64 r.toNat .atomic with
      | none => none
      | some u => (u.ownWrite l.ctx (l.fring + 4) 4 ((widx + 1) % 2 ^ 32) .atomic).map
          (fun u => (u, va, BitVec.ofNat 64 (f 16 8)))

/-- The handler record of R375 for the fault record at `va` put into TQ[HQ], where HQEN, HENTRY and the queue let it. -/
def State.spawnHandler (s : State) (c : Nat) (va entry : Word) : Option State :=
  let l := s.launchOf c
  let q := l.queue l.hq
  if l.hqen && entry != 0 && q.enabled && !q.full then
    (s.ownWrite l.ctx (q.slot l.hq q.tail) 32 ((codeAddr entry).toNat % 2 ^ 48 + 2 * 2 ^ 56 + va.toNat * 2 ^ 64) .write).map
      (fun u => u.modLaunchOf c (fun l => l.modQueue l.hq (fun q => { q with tail := q.tail + 1 })))
  else none

/-- The undelivered record of stream `g` delivered; where the ring does not take it, it stays pending and the host is told
once (R375). -/
def State.deliver (s : State) (g : Nat) : State :=
  let t := s.stream g
  let c := g / 4
  match t.pend with
  | none => s
  | some r =>
    match s.writeRecord c r with
    | none =>
      let u := if t.waitRing then s else s.notify 4 g (s.launchOf c).lid.toNat
      u.modStream g (fun t => { t with waitRing := true })
    | some (u, va, entry) =>
      let u := u.modStream g (fun t => { t with pend := none, waitRing := t.coreRec.isSome && t.waitRing })
      match u.spawnHandler c va entry with
      | some v => v
      | none => u.notify 2 g r.num

/-- The record that a core-context fault has given stream `g`, written where the ring takes it (R376). It spawns no handler. -/
def State.deliverCore (s : State) (g : Nat) : State :=
  let t := s.stream g
  match t.coreRec with
  | none => s
  | some r =>
    match s.writeRecord (g / 4) r with
    | none =>
      let u := if t.waitRing then s else s.notify 4 g (s.launchOf (g / 4)).lid.toNat
      u.modStream g (fun t => { t with waitRing := true })
    | some (u, _, _) => u.modStream g (fun t => { t with coreRec := none, waitRing := t.pend.isSome && t.waitRing })

/-- FAULT_DELIVERY (R375): the context engine delivers the record of stream `site.unit`; that of a stopped context waits (R378). -/
def execFaultDelivery (s : State) : Host.Outcome State Fault Refusal :=
  .next (if (s.stream s.site.unit).waitRing || (s.core (s.site.unit / 4)).stopped then s else s.deliver s.site.unit)

/-- FAULT_RING_RETRY (R375): the device reads RIDX again and writes what stream `site.unit` still has pending; that of a stopped context
waits (R378). -/
def execFaultRingRetry (s : State) : Host.Outcome State Fault Refusal :=
  .next (if (s.core (s.site.unit / 4)).stopped then s else (s.deliver s.site.unit).deliverCore s.site.unit)

/-- The records of a core-context fault of core `c` that have not been tried yet, or all of them, written in the order of their numbers, and
the host notified where the fault has not notified it yet, whether or not it has parked a stream (R376). -/
def State.coreFaultOut (s : State) (c : Nat) (all : Bool) : State :=
  let u := [0, 1, 2, 3].foldl (fun (u : State) i =>
    if (u.stream (4 * c + i)).waitRing && !all then u else u.deliverCore (4 * c + i)) s
  if (s.core c).ctxNote then (u.notify 3 c (s.launchOf c).lid.toNat).modCore c (fun k => { k with ctxNote := false }) else u

/-- CORE_CONTEXT_FAULT (R376): the streams of core `site.unit` stand parked; their records are written, in the order of their
numbers, and the host is notified. A stopped context waits (R378). -/
def execCoreContextFault (s : State) : Host.Outcome State Fault Refusal :=
  .next (if (s.core s.site.unit).stopped then s else s.coreFaultOut s.site.unit false)

/-! ## Resumption (R377) -/

/-- A stream that RESUME acts on: parked by a stream fault or a trap. -/
def Stream.resumable (t : Stream) : Bool :=
  decide (t.status = .parked) && (match t.parkedBy with | some r => r.kind != 2 | none => false)

/-- Every held fault of a stream dropped: the operation that held it is evaluated again, in its turn (R375). -/
def Stream.unhold (t : Stream) : Stream :=
  let q (l : List QEntry) : List QEntry := l.map (fun e => { e with fault := none })
  { t with ldq := q t.ldq, mxq := q t.mxq, stq := q t.stq, aq := q t.aq,
           ldChain := { t.ldChain with fault := none }, stChain := { t.stChain with fault := none } }

/-- The faulted operations of a stream become skipped work (R144, R284, R377). -/
def Stream.skipFaulted (t : Stream) : Stream :=
  let q (l : List QEntry) : List QEntry := l.map (fun e =>
    if e.fault.isSome then { e with fault := none, faultAt := 0, cancel := true } else e)
  let c (u : Chain) : Chain := if u.fault.isSome then { u with fault := none, faultAt := 0, skip := true } else u
  { t with ldq := q t.ldq, mxq := q t.mxq, stq := q t.stq, aq := q t.aq, ldChain := c t.ldChain, stChain := c t.stChain }

/-- The queued operations and unstarted engine commands of a stream become skipped work (R377). -/
def Stream.skipQueued (t : Stream) : Stream :=
  let q (l : List QEntry) : List QEntry := l.map (fun e =>
    if e.started || e.done then e else { e with cancel := true, fault := none, faultAt := 0 })
  { t with ldq := q t.ldq, mxq := q t.mxq, stq := q t.stq, aq := q t.aq }

/-- A parked stream goes on (action 0): at its PC, at TEND, halted, or idle at the take, as it was. -/
def Stream.resume (t : Stream) : Stream :=
  if t.resumable then { t.unhold with status := t.parkedIn, parkedBy := none } else t

/-- A parked stream abandons its item (action 1): it proceeds as TEND, with the join update of an abandoned task. -/
def Stream.abandonItem (t : Stream) : Stream :=
  if t.resumable then
    { t.skipFaulted.skipQueued with
      status := .atTend, parkedBy := none, xfer := {}, seg := { t.seg with isOpen := false },
      region := t.region + 1,
      abandon := t.parkedBy.map (fun r => BitVec.ofNat 16 r.code.num) }
  else t

/-- A parked stream halts (action 2): what HALT does (R262). -/
def State.haltParked (s : State) (g : Nat) : State :=
  if (s.stream g).resumable then
    (s.perform g 4).modStream g (fun t =>
      { t.skipFaulted with status := .halted, parkedBy := none, xfer := {}, region := t.region + 1 })
  else s

/-- A write of `v` to RESUME of stream `g` (R377). -/
def State.resumeWrite (s : State) (g : Nat) (v : Word) : State :=
  match v.toNat with
  | 0 => s.modStream g Stream.resume
  | 1 => s.modStream g Stream.abandonItem
  | 2 => s.haltParked g
  | _ => s

/-- RESUME_STREAM (R377): action 0 on stream `site.unit`. -/
def execResumeStream (s : State) : Host.Outcome State Fault Refusal := .next (s.resumeWrite s.site.unit 0)
/-- ABANDON_STREAM (R377): action 1 on stream `site.unit`. -/
def execAbandonStream (s : State) : Host.Outcome State Fault Refusal := .next (s.resumeWrite s.site.unit 1)
/-- HALT_STREAM (R377): action 2 on stream `site.unit`. -/
def execHaltStream (s : State) : Host.Outcome State Fault Refusal := .next (s.resumeWrite s.site.unit 2)

end Sys2Proof.Machine
end

