-- ==== Sys2Proof/Machine/Journal.lean ====
section
/-! DEFINITION. Machine/Journal.lean: the journal engines, their rings, the partner's side, and the forms that act at issue
(R350 to R358, R365). The queued forms perform through these operations in Machine/Aqueue.lean. -/
namespace Sys2Proof.Machine

/-- A JOURNAL fault (R373). -/
def journalFault (n : Word) (die : Nat) : FaultInfo := { code := .journal, addr := n, info := BitVec.ofNat 64 die }

/-- JPAIR.EN. -/
def jEn (v : Word) : Bool := v.getLsbD 63
/-- JPAIR.LOGSZ. -/
def jLogsz (v : Word) : Nat := (v.extractLsb' 56 6).toNat
/-- JPAIR.PDEV. -/
def jPdev (v : Word) : Nat := (v.extractLsb' 42 14).toNat
/-- JPAIR.NEGBASE as a PA. -/
def jNegbase (v : Word) : Nat := (v.extractLsb' 12 30).toNat * 65536
/-- The quarter size Q. -/
def jQuarter (v : Word) : Nat := 2 ^ (jLogsz v - 2)
/-- JPAIR without its reserved bits. -/
def jMask (v : Word) : Word := v &&& 0xBFFFFFFFFFFFF000#64
/-- The device number of this device (FAB.ID). -/
def State.devnum (s : State) : Nat := (s.fab.id.extractLsb' 0 14).toNat
/-- The journal engine of die `d`. -/
def State.jnOf (s : State) (d : Nat) : Jn := s.jn.get {} d
/-- The state with the journal engine of die `d` changed. -/
def State.modJn (s : State) (d : Nat) (f : Jn → Jn) : State := { s with jn := s.jn.mod {} d f }

/-- The limits of R355 on a JROUTE value. -/
def jrouteOk (v : Word) : Bool :=
  let n := (v.extractLsb' 60 3).toNat
  v.getLsbD 63 && decide (1 ≤ n) && (List.range 7).all (fun i =>
    let b := (v.extractLsb' (8 * i) 8).toNat
    if i < n then decide (b ≤ 55) else decide (b = 0))

/-- CRC-32C over bytes given as numbers of `n` bytes (R352). -/
def crcOf (l : List (Nat × Nat)) : BitVec 32 := l.foldl (fun c x => crcNat c x.1 x.2) 0xFFFFFFFF#32 ^^^ 0xFFFFFFFF#32

/-- The full journal number of entry `k` of die `d` (R351). -/
def jNumber (d k : Nat) : Word := BitVec.ofNat 64 (d * 2 ^ 62 + k)

/-! ## Rings (R353, R358) -/

/-- Data bytes of a ring of quarter size `q`. -/
def ringBytes (q : Nat) : Nat := q - 64
/-- Lines from OLDEST to NEXT. -/
def JRing.used (r : JRing) : Nat := r.live.foldl (fun a e => a + e.lines) 0
/-- The ring has room for `n` lines. -/
def JRing.room (r : JRing) (q n : Nat) : Bool := decide (64 * (r.used + n) ≤ ringBytes q)
/-- The ring with an entry at NEXT. -/
def JRing.add (r : JRing) (q : Nat) (e : JRec) : JRing :=
  { r with live := r.live ++ [e], next := (e.off + 64 * e.lines) % ringBytes q }

/-- A durable truncation entry `t` covers record `e` (R358). -/
def JRec.covers (t e : JRec) : Bool := t.trunc && !e.trunc && t.seq == e.seq && decide (e.step ≤ t.step ∧ e.k < t.k)

/-- Entries made dead by what is durable up to `dur`. -/
def JRing.mark (r : JRing) (dur : Nat) : JRing :=
  let ts := r.live.filter (fun t => t.trunc && decide (t.k ≤ dur))
  { r with live := r.live.map (fun e =>
      if e.trunc then { e with dead := e.dead || (decide (e.k ≤ dur) && !r.live.any (fun x => e.covers x)) }
      else { e with dead := e.dead || ts.any (fun t => t.covers e) }) }

/-- OLDEST advances over leading dead entries. -/
def JRing.settle (r : JRing) (dur : Nat) : Nat → JRing
  | 0 => r
  | n + 1 =>
    let m := r.mark dur
    match m.live with
    | e :: rest =>
      if e.dead then
        JRing.settle { m with live := rest, oldest := match rest with | x :: _ => x.off | [] => m.next } dur n
      else m
    | [] => m

/-- Lines written into a ring whose control line stands at `base`, from offset `off`, wrapping at its end. Cached copies of the lines stay:
R110 does not say whether these writes remove them (DESIGN CHOICE, entry 54). -/
def State.ringWrite (s : State) (base q off : Nat) (ls : List Row) : State :=
  (ls.zip (List.range ls.length)).foldl (fun (u : State) x =>
    let a := base + 64 + (off + 64 * x.2) % ringBytes q
    { (u.pset a 64 x.1.toNat).setPoison a false with sides := u.sides.drop (a / 64) }) s

/-- The control line of a ring (R353). -/
def State.ringControl (s : State) (base : Nat) (r : JRing) (ackn : Word) (src : Nat) : State :=
  s.pset base 64 (r.oldest + r.next * 2 ^ 64 + ackn.toNat * 2 ^ 128 + src * 2 ^ 192)

/-! ## Entries (R350 to R352) -/

/-- The stamp of an entry. -/
def stamp (n : Word) (src lines ty : Nat) (crc : BitVec 32) : Nat :=
  n.toNat + src % 2 ^ 16 * 2 ^ 64 + lines * 2 ^ 80 + ty * 2 ^ 88 + crc.toNat * 2 ^ 96

/-- A record header that breaks a limit of R350. -/
def headerBad (h : BitVec 256) : Bool :=
  let len := (h.extractLsb' 112 16).toNat
  decide (4 < (h.extractLsb' 96 8).toNat) || h.extractLsb' 104 8 != 0 || decide (992 < len) || decide (len % 8 ≠ 0)
    || h.extractLsb' 160 32 != 0

/-- LEN of a header. -/
def headerLen (h : BitVec 256) : Nat := (h.extractLsb' 112 16).toNat
/-- Lines of a record entry. -/
def recordLines (len : Nat) : Nat := 1 + (len + 63) / 64

/-- The lines of an entry: stamp and 32 bytes, then the payload in whole lines. -/
def entryLines (n : Word) (src ty : Nat) (head : BitVec 256) (len payload : Nat) : List Row :=
  let crc := crcOf [(32, head.toNat), (len, payload)]
  let lines := recordLines len
  BitVec.ofNat 512 (stamp n src lines ty crc + head.toNat * 2 ^ 256)
    :: (List.range (lines - 1)).map (fun i => BitVec.ofNat 512 (payload / 2 ^ (512 * i)))

/-- A journal packet of die `d` leaves by its link, across the die-to-die bridge where that lies on another C-die: it is lost where the link is
down (R355). -/
def State.ship (s : State) (d : Nat) (e : JEntry) : State :=
  if (s.fab.links.get {} ((s.jnOf d).route.extractLsb' 56 4).toNat).down then s else s.modJn d (fun j => { j with sent := j.sent ++ [e] })

/-- The out ports of a JROUTE value, one for each hop. -/
def jPorts (v : Word) : List Nat := (List.range (v.extractLsb' 60 3).toNat).map (fun i => (v.extractLsb' (8 * i) 8).toNat)

/-- The entry of the local ring of die `d` that `e` describes, as it travels to the partner on the route in force. -/
def State.travel (s : State) (d : Nat) (e : JRec) : JEntry :=
  let j := s.jnOf d
  let base := (j.jlocal.extractLsb' 16 30).toNat * 65536
  { size := jQuarter s.jpair, first := j.first, dest := jPdev s.jpair, link := (j.route.extractLsb' 56 4).toNat, route := jPorts j.route, die := d, offset := e.off, src := s.devnum, number := jNumber d e.k, pa := jNegbase s.jpair + d * jQuarter s.jpair,
    lines := (List.range e.lines).map (fun i => s.prow (base + 64 + (e.off + 64 * i) % ringBytes (jQuarter s.jpair))) }

/-- An entry accepted by the engine of die `d`: numbered, written to the local ring and shipped, behind the tail where a reseat runs
(R351, R352, R365). `head` is the header, or SEQ and STEP of a truncation. The ring has room. -/
def State.journal (s : State) (d : Nat) (trunc : Bool) (head : BitVec 256) (len payload : Nat) : State × Word :=
  let j := s.jnOf d
  let q := jQuarter s.jpair
  let base := (j.jlocal.extractLsb' 16 30).toNat * 65536
  let k := j.lastn + 1
  let n := jNumber d k
  let ls := entryLines n s.devnum (if trunc then 1 else 0) head len payload
  let e : JRec := { k := k, off := j.ring.next, lines := ls.length, trunc := trunc, seq := head.extractLsb' 0 64,
                    step := (head.extractLsb' 64 32).toNat, dead := false }
  let r := j.ring.add q e
  let u := (s.ringWrite base q e.off ls).ringControl base r (if j.dur = 0 then 0 else jNumber d j.dur) s.devnum
  let u := u.modJn d (fun j => { j with lastn := k, ring := r, tail := if j.reseat then j.tail ++ [e] else j.tail })
  (if j.reseat then u else u.ship d (u.travel d e), n)

/-! ## Acknowledgments, silence, reseat (R356, R357, R365) -/

/-- JOURNAL_ACK_RECEIVE (R356, R358): an acknowledgment of entry `site.val` of die `site.unit` from device `site.sub`. Only the partner's
counts. Truncations that have become durable take effect. -/
def execJournalAckReceive (s : State) : Host.Outcome State Fault Refusal :=
  let d := s.site.unit
  let k := s.site.val.toNat % 2 ^ 62
  let j := s.jnOf d
  if s.site.sub = jPdev s.jpair ∧ jEn s.jpair ∧ j.dur < k then
    let r := j.ring.settle k (j.ring.live.length + 1)
    let base := (j.jlocal.extractLsb' 16 30).toNat * 65536
    .next ((s.ringControl base r (jNumber d k) s.devnum).modJn d (fun j =>
      { j with dur := k, silent := false, since := 0, ring := r }))
  else .next s

/-- The count of R357 at the end of a cycle. -/
def Jn.count (j : Jn) : Jn := if j.dur < j.lastn then { j with since := j.since + 1 } else { j with since := 0 }

/-- JOURNAL_SILENT (R357): DUR of die `site.unit` has not risen for 1,048,576 cycles. -/
def execJournalSilent (s : State) : Host.Outcome State Fault Refusal :=
  let d := s.site.unit
  let j := s.jnOf d
  if 1048576 ≤ j.since ∧ !j.silent then .next ((s.modJn d (fun j => { j with silent := true })).notify 5 d 0)
  else .next s

/-- RESEAT_TAIL_SENT (R365): the tail of die `site.unit` has left for the new partner, with the entries accepted behind it. -/
def execReseatTailSent (s : State) : Host.Outcome State Fault Refusal :=
  let d := s.site.unit
  let j := s.jnOf d
  if j.reseat then
    .next ((j.tail.foldl (fun (u : State) e => u.ship d (u.travel d e)) s).modJn d (fun j =>
      { j with reseat := false, tail := [] }))
  else .next s

/-- JRESEAT (R365): acts at issue on every die. -/
def execJreseat (h : Hdr) (a : Aq) (s : State) : Host.Outcome State Fault Refusal :=
  let v := s.me.sreg a.sa
  let p := s.jpair
  let bad := !jEn p || !jEn v || jLogsz v != jLogsz p || decide (jNegbase v % 2 ^ jLogsz v ≠ 0) || decide (jPdev v = s.devnum)
    || [0, 1, 2, 3].any (fun d => !jrouteOk (s.jnOf d).jroute)
  (s.plain h [s.me.sp a.sa] []
    (if !(s.launchOf (s.cur / 4)).priv then .fault privFault
     else if bad then .fault (journalFault 0 0)
     else if [0, 1, 2, 3].any (fun d => (s.jnOf d).reseat) then .wait s false
     else .go ([0, 1, 2, 3].foldl (fun (u : State) d => u.modJn d (fun j =>
       { j with route := j.jroute, reseat := true, tail := j.ring.live,
                first := match j.ring.live with | e :: _ => e.k | [] => j.lastn + 1 })) { s with jpair := jMask v }))).done s

/-- SYSWR to JPAIR (R354). Setting EN puts the routes in force (R355). -/
def execSyswrJpair (h : Hdr) (sa : BitVec 5) (s : State) : Host.Outcome State Fault Refusal :=
  let v := jMask (s.me.sreg sa)
  let p := s.jpair
  let size := decide (jLogsz v < 20 ∨ 36 < jLogsz v)
  let bad :=
    if jEn v then
      jEn p || size || decide (jNegbase v % 2 ^ jLogsz v ≠ 0) || decide (jPdev v = s.devnum)
        || [0, 1, 2, 3].any (fun d => !jrouteOk (s.jnOf d).jroute)
    else jEn p && [0, 1, 2, 3].any (fun d => decide ((s.jnOf d).dur < (s.jnOf d).lastn))
  (s.plain h [s.me.sp sa] []
    (if v != p && !(s.launchOf (s.cur / 4)).priv then .fault privFault
     else if bad then .fault (journalFault 0 0)
     else
       let u := { s with jpair := v }
       .go (if jEn v then [0, 1, 2, 3].foldl (fun (u : State) d => u.modJn d (fun j => { j with route := j.jroute, first := j.lastn + 1 })) u
            else u))).done s

/-- JROUTE_WRITE (R355): a write of `site.val` to JROUTE of die `site.unit`, held until the next pairing or reseat. -/
def execJrouteWrite (s : State) : Host.Outcome State Fault Refusal :=
  .next (s.modJn s.site.unit (fun j => { j with jroute := s.site.val }))

/-! ## The partner's side (R356, R420) -/

/-- An entry that NEGWIN accepts: its whole quarter lies in the window (R420). -/
def State.negAccepts (s : State) (e : JEntry) : Bool :=
  let w := s.host.negwin
  let base := (w.extractLsb' 12 30).toNat * 65536
  let size := 2 ^ (w.extractLsb' 56 6).toNat
  w.getLsbD 63 && decide (e.src = (w.extractLsb' 42 14).toNat) && decide (base ≤ e.pa ∧ e.pa + e.size ≤ base + size)

/-- SEQ, STEP and kind of an entry from its first line. -/
def entryRecord (e : JEntry) : JRec :=
  let l : Row := e.lines.headD 0
  { k := e.number.toNat % 2 ^ 62, off := e.offset, lines := e.lines.length, trunc := l.extractLsb' 88 8 == 1#8,
    seq := l.extractLsb' 256 64, step := (l.extractLsb' 320 32).toNat, dead := false }

/-- The entry is the next that a quarter takes (R356): no lower one is still to come. In a quarter that nothing has been written to, and in one
whose source comes back to this partner, that is the first that its die ships to it (R365, entry 27). -/
def NegQ.next (g : NegQ) (e : JEntry) : Bool :=
  let k := (entryRecord e).k
  decide (k ≤ e.first) || decide (g.acked ≠ 0 ∧ k ≤ g.acked + 1)

/-- The ring of a quarter with `r` in it: one written before stays as it is, and one that leaves a gap begins the ring anew, everything older
being dead at its source (R358, R365). -/
def NegQ.ringWith (g : NegQ) (q : Nat) (r : JRec) : JRing :=
  if r.k ≤ g.acked then g.ring
  else if g.ring.live.isEmpty || decide (g.acked + 1 < r.k) then { ({ g.ring with live := [] } : JRing).add q r with oldest := r.off }
  else g.ring.add q r

/-- The partner writes the entries that it holds for a quarter, in number order without a gap, each with the control line, and
acknowledges along the entry's return list. -/
def State.negWrite (s : State) (die : Nat) : Nat → State
  | 0 => s
  | n + 1 =>
    let g := s.negs.get {} die
    match g.wait.find? g.next with
    | none => s
    | some e =>
      let q := e.size
      let r := entryRecord e
      let k := max g.acked r.k
      let ring := g.ringWith q r
      let ring := ring.settle k (ring.live.length + 1)
      let u := (s.ringWrite e.pa q e.offset e.lines).ringControl e.pa ring (jNumber die k) e.src
      State.negWrite { u with negs := u.negs.put die { acked := k, ring := ring, acks := g.acks ++ [k], backs := g.backs ++ [e.back],
                                                        wait := g.wait.filter (fun x => x != e) } } die n

/-- NEGWIN takes a value: the quarters begin anew. -/
def State.setNegwin (s : State) (v : Word) : State :=
  { s with host := { s.host with negwin := v &&& 0xBFFFFFFFFFFFF000#64 }, negs := .empty }

/-- A write to NEGWIN, held while an accepted entry is unwritten (R420). -/
def State.writeNegwin (s : State) (v : Word) : State :=
  if s.negs.entries.any (fun g => !g.2.wait.isEmpty) then { s with host := { s.host with negHeld := s.host.negHeld ++ [v] } }
  else s.setNegwin v

/-- JOURNAL_ENTRY_RECEIVE (R356, R420): this device, as the partner, takes the entry that arrives. -/
def execJournalEntryReceive (s : State) : Host.Outcome State Fault Refusal :=
  match s.site.input with
  | .entry e =>
    if s.negAccepts e then
      let g := s.negs.get {} e.die
      let u := { s with negs := s.negs.put e.die { g with wait := g.wait ++ [e] } }
      let u := u.negWrite e.die (g.wait.length + 1)
      .next (if u.negs.entries.all (fun g => g.2.wait.isEmpty) then
          u.host.negHeld.foldl State.setNegwin { u with host := { u.host with negHeld := [] } } else u)
    else .next s
  | _ => .next s

/-- NEGWIN_WRITE (R420). -/
def execNegwinWrite (s : State) : Host.Outcome State Fault Refusal := .next (s.writeNegwin s.site.val)

end Sys2Proof.Machine
end

