-- ==== Sys2Proof/Decode.lean ====
section
/-! DEFINITION. Decode.lean: from the bits of an instruction word to an instruction, or a refusal by name (R45 to R74), and
the encoder that goes the other way, written from the same tables. -/
namespace Sys2Proof

/-- Why a word is no instruction; each raises ILLEGAL when the word's group issues (R47, R50). -/
inductive DecodeError where
  /-- fewer than 8 bytes -/
  | truncated
  /-- a nonzero reserved field (R9) -/
  | reservedField
  /-- a selector, width, register or immediate the form does not accept (R48) -/
  | badSelector
  deriving DecidableEq, Repr

/-- G, QS and QN (R45). -/
def hdr (w : Word) : Hdr := ⟨w.extractLsb' 55 1, w.extractLsb' 52 3, w.extractLsb' 51 1⟩

/-- The TV body (R63). -/
def tvOf (w : Word) : Tv :=
  ⟨w.extractLsb' 45 6, w.extractLsb' 41 4, w.extractLsb' 37 4, w.extractLsb' 31 6, w.extractLsb' 27 4,
   w.extractLsb' 26 1, w.extractLsb' 20 6, w.extractLsb' 16 4, w.extractLsb' 15 1, w.extractLsb' 12 3,
   w.extractLsb' 9 3, w.extractLsb' 8 1, w.extractLsb' 7 1, w.extractLsb' 5 2, w.extractLsb' 0 5⟩

/-- Bits 50:36 of the EC body (R68). -/
def ecOf (w : Word) : Ec :=
  ⟨w.extractLsb' 50 1, w.extractLsb' 49 1, w.extractLsb' 48 1, w.extractLsb' 47 1, w.extractLsb' 41 6,
   w.extractLsb' 36 5⟩

/-- The AQ body (R71). -/
def aqOf (w : Word) : Aq :=
  ⟨w.extractLsb' 46 5, w.extractLsb' 41 5, w.extractLsb' 36 5, w.extractLsb' 35 1, w.extractLsb' 34 1,
   w.extractLsb' 33 1, w.extractLsb' 32 1, w.extractLsb' 28 4, w.extractLsb' 25 3, w.extractLsb' 22 3,
   w.extractLsb' 19 3, w.extractLsb' 17 2, w.extractLsb' 0 17⟩

/-- SYSWR's control register number picks its row: HOMEMAP, FMT.SCALE.n, FMT.BASE.n, WAYMASK.n, INCCFG.n and JPAIR
have rows of their own (R62, R259). -/
def readSyswr (w : Word) : Instr :=
  let reg := w.extractLsb' 0 16
  let sa := w.extractLsb' 41 5
  if reg = 0x20 then .syswrHomemap (hdr w) sa
  else if reg.extractLsb' 3 13 = 7 then .syswrFmtScale (hdr w) sa (w.extractLsb' 0 3)
  else if reg.extractLsb' 3 13 = 6 then .syswrFmtBase (hdr w) sa (w.extractLsb' 0 3)
  else if reg.extractLsb' 3 13 = 3 then .syswrWaymask (hdr w) sa (w.extractLsb' 0 3)
  else if reg.extractLsb' 4 12 = 5 then .syswrInccfg (hdr w) sa (w.extractLsb' 0 4)
  else if reg = 0x40 then .syswrJpair (hdr w) sa
  else .syswr (hdr w) sa reg

/-- One entry of the opcode map (R54): the body bits the form leaves reserved (R9), and the reading of its operands. -/
structure OpRow where
  op : Nat
  reserved : Word
  read : Word → Instr

/-- Row 0_ of the opcode map of R54. -/
def opRows0 : List OpRow :=
  [⟨0x00, 0x0007FFFFFFFFFFFF, fun w => .nop (hdr w)⟩,
   ⟨0x01, 0x0000000FFFFFFFFF, fun w => .add (hdr w) (w.extractLsb' 46 5) (w.extractLsb' 41 5) (w.extractLsb' 36 5)⟩,
   ⟨0x02, 0x0000000FFFFFFFFF, fun w => .sub (hdr w) (w.extractLsb' 46 5) (w.extractLsb' 41 5) (w.extractLsb' 36 5)⟩,
   ⟨0x03, 0x000001F000000000, fun w => .addi (hdr w) (w.extractLsb' 46 5) (w.extractLsb' 41 5) (w.extractLsb' 0 36)⟩,
   ⟨0x04, 0x0000000FFFFFFFFF, fun w => .mul (hdr w) (w.extractLsb' 46 5) (w.extractLsb' 41 5) (w.extractLsb' 36 5)⟩,
   ⟨0x05, 0x0000000FFFFFFFFF, fun w => .mulh (hdr w) (w.extractLsb' 46 5) (w.extractLsb' 41 5) (w.extractLsb' 36 5)⟩,
   ⟨0x06, 0x0000000FFFFFFFFF, fun w => .mulhn (hdr w) (w.extractLsb' 46 5) (w.extractLsb' 41 5) (w.extractLsb' 36 5)⟩,
   ⟨0x07, 0x0000000FFFFFFFFF, fun w => .divs (hdr w) (w.extractLsb' 46 5) (w.extractLsb' 41 5) (w.extractLsb' 36 5)⟩,
   ⟨0x08, 0x0000000FFFFFFFFF, fun w => .divn (hdr w) (w.extractLsb' 46 5) (w.extractLsb' 41 5) (w.extractLsb' 36 5)⟩,
   ⟨0x09, 0x0000000FFFFFFFFF, fun w => .and (hdr w) (w.extractLsb' 46 5) (w.extractLsb' 41 5) (w.extractLsb' 36 5)⟩,
   ⟨0x0A, 0x0000000FFFFFFFFF, fun w => .or (hdr w) (w.extractLsb' 46 5) (w.extractLsb' 41 5) (w.extractLsb' 36 5)⟩,
   ⟨0x0B, 0x0000000FFFFFFFFF, fun w => .xor (hdr w) (w.extractLsb' 46 5) (w.extractLsb' 41 5) (w.extractLsb' 36 5)⟩,
   ⟨0x0C, 0x0000000FFFFFFFFF, fun w => .andn (hdr w) (w.extractLsb' 46 5) (w.extractLsb' 41 5) (w.extractLsb' 36 5)⟩,
   ⟨0x0D, 0x0000000FFFFFFFFF, fun w => .shl (hdr w) (w.extractLsb' 46 5) (w.extractLsb' 41 5) (w.extractLsb' 36 5)⟩,
   ⟨0x0E, 0x0000000FFFFFFFFF, fun w => .shrl (hdr w) (w.extractLsb' 46 5) (w.extractLsb' 41 5) (w.extractLsb' 36 5)⟩,
   ⟨0x0F, 0x0000000FFFFFFFFF, fun w => .shra (hdr w) (w.extractLsb' 46 5) (w.extractLsb' 41 5) (w.extractLsb' 36 5)⟩]

/-- Row 1_ of the opcode map of R54. -/
def opRows1 : List OpRow :=
  [⟨0x10, 0x0000000FFFFFFFFF, fun w => .mins (hdr w) (w.extractLsb' 46 5) (w.extractLsb' 41 5) (w.extractLsb' 36 5)⟩,
   ⟨0x11, 0x0000000FFFFFFFFF, fun w => .maxs (hdr w) (w.extractLsb' 46 5) (w.extractLsb' 41 5) (w.extractLsb' 36 5)⟩,
   ⟨0x12, 0x0000000FFFFFFFFF, fun w => .minn (hdr w) (w.extractLsb' 46 5) (w.extractLsb' 41 5) (w.extractLsb' 36 5)⟩,
   ⟨0x13, 0x0000000FFFFFFFFF, fun w => .maxn (hdr w) (w.extractLsb' 46 5) (w.extractLsb' 41 5) (w.extractLsb' 36 5)⟩,
   ⟨0x14, 0x0000000FFFFFFFF8, fun w => .sel (hdr w) (w.extractLsb' 46 5) (w.extractLsb' 41 5) (w.extractLsb' 36 5) (w.extractLsb' 0 3)⟩,
   ⟨0x15, 0x000001FFFFFFFFFF, fun w => .clz (hdr w) (w.extractLsb' 46 5) (w.extractLsb' 41 5)⟩,
   ⟨0x16, 0x000001FFFFFFFFFF, fun w => .popc (hdr w) (w.extractLsb' 46 5) (w.extractLsb' 41 5)⟩,
   ⟨0x17, 0x000001FFFFFFE000, fun w => .bfxI (hdr w) (w.extractLsb' 46 5) (w.extractLsb' 41 5) (w.extractLsb' 6 7) (w.extractLsb' 0 6)⟩,
   ⟨0x18, 0x000001FFFFFFE000, fun w => .bfxN (hdr w) (w.extractLsb' 46 5) (w.extractLsb' 41 5) (w.extractLsb' 6 7) (w.extractLsb' 0 6)⟩,
   ⟨0x19, 0x000001FFFFFFE000, fun w => .bfi (hdr w) (w.extractLsb' 46 5) (w.extractLsb' 41 5) (w.extractLsb' 6 7) (w.extractLsb' 0 6)⟩,
   ⟨0x1A, 0x00003FF000000000, fun w => .movi (hdr w) (w.extractLsb' 46 5) (w.extractLsb' 0 36)⟩,
   ⟨0x1B, 0x00003FFFF0000000, fun w => .movh (hdr w) (w.extractLsb' 46 5) (w.extractLsb' 0 28)⟩,
   ⟨0x1C, 0x0000000000000000, fun w => .lea (hdr w) (w.extractLsb' 46 5) (w.extractLsb' 41 5) (w.extractLsb' 36 5) (w.extractLsb' 34 2) (w.extractLsb' 0 34)⟩,
   ⟨0x1D, 0x0006000FFFFFFFF0, fun w => .cmpReg (hdr w) (w.extractLsb' 46 3) (w.extractLsb' 41 5) (w.extractLsb' 36 5) (w.extractLsb' 0 4)⟩,
   ⟨0x1E, 0x000601F000000000, fun w => .cmpImm (hdr w) (w.extractLsb' 46 3) (w.extractLsb' 41 5) (w.extractLsb' 4 32) (w.extractLsb' 0 4)⟩,
   ⟨0x1F, 0x0006318FFFFFFFFC, fun w => .qop (hdr w) (w.extractLsb' 46 3) (w.extractLsb' 41 3) (w.extractLsb' 36 3) (w.extractLsb' 0 2)⟩]

/-- Row 2_ of the opcode map of R54. -/
def opRows2 : List OpRow :=
  [⟨0x20, 0x000001F000000000, fun w => .lds (hdr w) (w.extractLsb' 46 5) (w.extractLsb' 41 5) (w.extractLsb' 32 4) (w.extractLsb' 0 32)⟩,
   ⟨0x21, 0x0007C00000000000, fun w => .sts (hdr w) (w.extractLsb' 41 5) (w.extractLsb' 36 5) (w.extractLsb' 32 4) (w.extractLsb' 0 32)⟩,
   ⟨0x22, 0x0000FE0000000000, fun w => .pbr (hdr w) (w.extractLsb' 48 3) (w.extractLsb' 0 41)⟩,
   ⟨0x23, 0x00001FFFFFFFFFFF, fun w => .brq (hdr w) (w.extractLsb' 48 3) (w.extractLsb' 45 3)⟩,
   ⟨0x24, 0x0000FFFFFFFFFFFF, fun w => .br (hdr w) (w.extractLsb' 48 3)⟩,
   ⟨0x25, 0x0000FFFFFFFFFFFF, fun w => .call (hdr w) (w.extractLsb' 48 3)⟩,
   ⟨0x26, 0x0000FFFFFFFFFFFF, fun w => .ret (hdr w) (w.extractLsb' 48 3)⟩,
   ⟨0x27, 0x0000FFFFFFFFFFFF, fun w => .loop (hdr w) (w.extractLsb' 48 3)⟩,
   ⟨0x28, 0x0007FFFFFFFFFFFF, fun w => .rotz (hdr w)⟩,
   ⟨0x29, 0x000631FFFFFFFFFF, fun w => .anym (hdr w) (w.extractLsb' 46 3) (w.extractLsb' 41 3)⟩,
   ⟨0x2A, 0x000631FFFFFFFFFF, fun w => .allm (hdr w) (w.extractLsb' 46 3) (w.extractLsb' 41 3)⟩,
   ⟨0x2B, 0x000701FFFFFFFFFF, fun w => .osend (hdr w) (w.extractLsb' 45 3) (w.extractLsb' 41 4)⟩,
   ⟨0x2C, 0x0000E1FFFFFFFFFF, fun w => .bro (hdr w) (w.extractLsb' 48 3) (w.extractLsb' 41 4)⟩,
   ⟨0x2D, 0x0007FFFFFFFFF000, fun w => .qcut (hdr w) (w.extractLsb' 6 6) (w.extractLsb' 0 6)⟩,
   ⟨0x2E, 0x0007FFFFFFFF0000, fun w => .wait (hdr w) (w.extractLsb' 0 16)⟩,
   ⟨0x2F, 0x0007FFFFFFFFFFFF, fun w => .yield (hdr w)⟩]

/-- Row 3_ of the opcode map of R54. -/
def opRows3 : List OpRow :=
  [⟨0x30, 0x0007FFFFFFFFFFFF, fun w => .halt (hdr w)⟩,
   ⟨0x31, 0x0007FFFFFFFF0000, fun w => .trap (hdr w) (w.extractLsb' 0 16)⟩,
   ⟨0x32, 0x00003FFFFFFF0000, fun w => .sysrd (hdr w) (w.extractLsb' 46 5) (w.extractLsb' 0 16)⟩,
   ⟨0x33, 0x0007C1FFFFFF0000, readSyswr⟩,
   ⟨0x34, 0x0007C1FFFFFF0000, fun w => .conf (hdr w) (w.extractLsb' 41 5) (w.extractLsb' 0 16)⟩,
   ⟨0x35, 0x00003FFFFFFF0000, fun w => .snap (hdr w) (w.extractLsb' 46 5) (w.extractLsb' 0 16)⟩,
   ⟨0x36, 0x00003FFFFFFFFFFF, fun w => .rdcyc (hdr w) (w.extractLsb' 46 5)⟩,
   ⟨0x37, 0x0007C1FFFFFFFFF8, fun w => .icinv (hdr w) (w.extractLsb' 41 5) (w.extractLsb' 0 3)⟩]

/-- Row 4_ of the opcode map of R54. -/
def opRows4 : List OpRow :=
  [⟨0x40, 0x0000000000000000, fun w => .vaddF (hdr w) (tvOf w)⟩,
   ⟨0x41, 0x0000000000000000, fun w => .vaddI (hdr w) (tvOf w)⟩,
   ⟨0x42, 0x0000000000000000, fun w => .vsubF (hdr w) (tvOf w)⟩,
   ⟨0x43, 0x0000000000000000, fun w => .vsubI (hdr w) (tvOf w)⟩,
   ⟨0x44, 0x0000000000000000, fun w => .vmulF (hdr w) (tvOf w)⟩,
   ⟨0x45, 0x0000000000000000, fun w => .vmulI (hdr w) (tvOf w)⟩,
   ⟨0x46, 0x0000000000000000, fun w => .vfma (hdr w) (tvOf w)⟩,
   ⟨0x47, 0x0000000000000000, fun w => .vminF (hdr w) (tvOf w)⟩,
   ⟨0x48, 0x0000000000000000, fun w => .vminI (hdr w) (tvOf w)⟩,
   ⟨0x49, 0x0000000000000000, fun w => .vmaxF (hdr w) (tvOf w)⟩,
   ⟨0x4A, 0x0000000000000000, fun w => .vmaxI (hdr w) (tvOf w)⟩,
   ⟨0x4B, 0x0000000000000000, fun w => .vabs (hdr w) (tvOf w)⟩,
   ⟨0x4C, 0x0000000000000000, fun w => .vneg (hdr w) (tvOf w)⟩,
   ⟨0x4D, 0x0000000000000000, fun w => .vcmpF (hdr w) (tvOf w)⟩,
   ⟨0x4E, 0x0000000000000000, fun w => .vcmpI (hdr w) (tvOf w)⟩,
   ⟨0x4F, 0x0000000000000000, fun w => .vsel (hdr w) (tvOf w)⟩]

/-- Row 5_ of the opcode map of R54. -/
def opRows5 : List OpRow :=
  [⟨0x50, 0x0000000000000000, fun w => .vand (hdr w) (tvOf w)⟩,
   ⟨0x51, 0x0000000000000000, fun w => .vor (hdr w) (tvOf w)⟩,
   ⟨0x52, 0x0000000000000000, fun w => .vxor (hdr w) (tvOf w)⟩,
   ⟨0x53, 0x0000000000000000, fun w => .vshl (hdr w) (tvOf w)⟩,
   ⟨0x54, 0x0000000000000000, fun w => .vshrN (hdr w) (tvOf w)⟩,
   ⟨0x55, 0x0000000000000000, fun w => .vshrI (hdr w) (tvOf w)⟩,
   ⟨0x56, 0x0000000000000000, fun w => .vcvtF (hdr w) (tvOf w)⟩,
   ⟨0x57, 0x0000000000000000, fun w => .vcvtI (hdr w) (tvOf w)⟩,
   ⟨0x58, 0x0000000000000000, fun w => .vqntDb8 (hdr w) (tvOf w)⟩,
   ⟨0x59, 0x0000000000000000, fun w => .vqntDb4 (hdr w) (tvOf w)⟩,
   ⟨0x5A, 0x0000000000000000, fun w => .vredF (hdr w) (tvOf w)⟩,
   ⟨0x5B, 0x0000000000000000, fun w => .vredI (hdr w) (tvOf w)⟩,
   ⟨0x5C, 0x0000000000000000, fun w => .vscanF (hdr w) (tvOf w)⟩,
   ⟨0x5D, 0x0000000000000000, fun w => .vscanI (hdr w) (tvOf w)⟩,
   ⟨0x5E, 0x0000000000000000, fun w => .vpermT (hdr w) (tvOf w)⟩,
   ⟨0x5F, 0x0000000000000000, fun w => .vpermImm (hdr w) (tvOf w)⟩]

/-- Row 6_ of the opcode map of R54. -/
def opRows6 : List OpRow :=
  [⟨0x60, 0x0000000000000000, fun w => .vxrow (hdr w) (tvOf w)⟩,
   ⟨0x61, 0x0000000000000000, fun w => .vbcastS (hdr w) (tvOf w)⟩,
   ⟨0x62, 0x0000000000000000, fun w => .vbcastRow (hdr w) (tvOf w)⟩,
   ⟨0x63, 0x0000000000000000, fun w => .vtopk (hdr w) (tvOf w)⟩,
   ⟨0x64, 0x0000000000000000, fun w => .vrng (hdr w) (tvOf w)⟩,
   ⟨0x65, 0x0000000000000000, fun w => .vmovt (hdr w) (tvOf w)⟩,
   ⟨0x66, 0x0000001FFC003000, fun w => .vlds (hdr w) (w.extractLsb' 45 6) (w.extractLsb' 41 4) (w.extractLsb' 37 4) (w.extractLsb' 21 5) (w.extractLsb' 15 6) (w.extractLsb' 14 1) (w.extractLsb' 9 3) (w.extractLsb' 0 9)⟩,
   ⟨0x67, 0x0007FFE000003000, fun w => .vsts (hdr w) (w.extractLsb' 31 6) (w.extractLsb' 27 4) (w.extractLsb' 26 1) (w.extractLsb' 21 5) (w.extractLsb' 15 6) (w.extractLsb' 14 1) (w.extractLsb' 9 3) (w.extractLsb' 0 9)⟩,
   ⟨0x68, 0x0000000000000000, fun w => .vexp (hdr w) (tvOf w)⟩,
   ⟨0x69, 0x0000000000000000, fun w => .vlog (hdr w) (tvOf w)⟩,
   ⟨0x6A, 0x0000000000000000, fun w => .vsin (hdr w) (tvOf w)⟩,
   ⟨0x6B, 0x0000000000000000, fun w => .vcos (hdr w) (tvOf w)⟩,
   ⟨0x6C, 0x0000000000000000, fun w => .vtanh (hdr w) (tvOf w)⟩,
   ⟨0x6D, 0x0000000000000000, fun w => .vrsq (hdr w) (tvOf w)⟩,
   ⟨0x6E, 0x0000000000000000, fun w => .vrcp (hdr w) (tvOf w)⟩,
   ⟨0x6F, 0x0000000000000000, fun w => .vsig (hdr w) (tvOf w)⟩]

/-- Row 8_ of the opcode map of R54. -/
def opRows8 : List OpRow :=
  [⟨0x80, 0x000000007FE00003, fun w => .mmaDb8 (hdr w) (ecOf w) (w.extractLsb' 31 5) (w.extractLsb' 18 3) (w.extractLsb' 14 4) (w.extractLsb' 13 1) (w.extractLsb' 7 6) (w.extractLsb' 3 4) (w.extractLsb' 2 1)⟩,
   ⟨0x81, 0x000000007FE00003, fun w => .mmaDb4 (hdr w) (ecOf w) (w.extractLsb' 31 5) (w.extractLsb' 18 3) (w.extractLsb' 14 4) (w.extractLsb' 13 1) (w.extractLsb' 7 6) (w.extractLsb' 3 4) (w.extractLsb' 2 1)⟩,
   ⟨0x82, 0x000000007FE00003, fun w => .mmaI8 (hdr w) (ecOf w) (w.extractLsb' 31 5) (w.extractLsb' 18 3) (w.extractLsb' 14 4) (w.extractLsb' 13 1) (w.extractLsb' 7 6) (w.extractLsb' 3 4) (w.extractLsb' 2 1)⟩,
   ⟨0x83, 0x000000007FE00003, fun w => .mma2 (hdr w) (ecOf w) (w.extractLsb' 31 5) (w.extractLsb' 18 3) (w.extractLsb' 14 4) (w.extractLsb' 13 1) (w.extractLsb' 7 6) (w.extractLsb' 3 4) (w.extractLsb' 2 1)⟩,
   ⟨0x84, 0x0000000F83E3FFFF, fun w => .sldDb8 (hdr w) (ecOf w) (w.extractLsb' 26 5) (w.extractLsb' 18 3)⟩,
   ⟨0x85, 0x0000000F83E3FFFF, fun w => .sldDb4 (hdr w) (ecOf w) (w.extractLsb' 26 5) (w.extractLsb' 18 3)⟩,
   ⟨0x86, 0x0000000F83E3FFFF, fun w => .sldI8 (hdr w) (ecOf w) (w.extractLsb' 26 5) (w.extractLsb' 18 3)⟩,
   ⟨0x87, 0x0000000F83E3FFFF, fun w => .sldB16 (hdr w) (ecOf w) (w.extractLsb' 26 5) (w.extractLsb' 18 3)⟩,
   ⟨0x88, 0x0000000FFFE3FFFF, fun w => .sswap (hdr w) (ecOf w) (w.extractLsb' 18 3)⟩,
   ⟨0x89, 0x0000000FFFE3FFFF, fun w => .mrot (hdr w) (ecOf w) (w.extractLsb' 18 3)⟩,
   ⟨0x8A, 0x000000007FE00007, fun w => .mfixF32 (hdr w) (ecOf w) (w.extractLsb' 31 5) (w.extractLsb' 18 3) (w.extractLsb' 14 4) (w.extractLsb' 13 1) (w.extractLsb' 7 6) (w.extractLsb' 3 4)⟩,
   ⟨0x8B, 0x000000007FE00007, fun w => .mfixB16 (hdr w) (ecOf w) (w.extractLsb' 31 5) (w.extractLsb' 18 3) (w.extractLsb' 14 4) (w.extractLsb' 13 1) (w.extractLsb' 7 6) (w.extractLsb' 3 4)⟩,
   ⟨0x8C, 0x000000007FE00007, fun w => .mfixI8 (hdr w) (ecOf w) (w.extractLsb' 31 5) (w.extractLsb' 18 3) (w.extractLsb' 14 4) (w.extractLsb' 13 1) (w.extractLsb' 7 6) (w.extractLsb' 3 4)⟩,
   ⟨0x8D, 0x000000007FE00007, fun w => .mfixDb8 (hdr w) (ecOf w) (w.extractLsb' 31 5) (w.extractLsb' 18 3) (w.extractLsb' 14 4) (w.extractLsb' 13 1) (w.extractLsb' 7 6) (w.extractLsb' 3 4)⟩,
   ⟨0x8E, 0x000000007FE00007, fun w => .mfixDb4 (hdr w) (ecOf w) (w.extractLsb' 31 5) (w.extractLsb' 18 3) (w.extractLsb' 14 4) (w.extractLsb' 13 1) (w.extractLsb' 7 6) (w.extractLsb' 3 4)⟩,
   ⟨0x8F, 0x0000000FFFE3FFFF, fun w => .mzero (hdr w) (ecOf w) (w.extractLsb' 18 3)⟩]

/-- Row 9_ of the opcode map of R54. -/
def opRows9 : List OpRow :=
  [⟨0x90, 0x000000000000FFFF, fun w => .cpyLd (hdr w) (ecOf w) (w.extractLsb' 31 5) (w.extractLsb' 26 5) (w.extractLsb' 21 5) (w.extractLsb' 18 3) (w.extractLsb' 16 2)⟩,
   ⟨0x91, 0x000000000000FFFF, fun w => .cpySt (hdr w) (ecOf w) (w.extractLsb' 31 5) (w.extractLsb' 26 5) (w.extractLsb' 21 5) (w.extractLsb' 18 3) (w.extractLsb' 16 2)⟩,
   ⟨0x92, 0x00000000000003FF, fun w => .gath (hdr w) (ecOf w) (w.extractLsb' 31 5) (w.extractLsb' 26 5) (w.extractLsb' 21 5) (w.extractLsb' 18 3) (w.extractLsb' 16 2) (w.extractLsb' 10 6)⟩,
   ⟨0x93, 0x00000000000003FF, fun w => .scat (hdr w) (ecOf w) (w.extractLsb' 31 5) (w.extractLsb' 26 5) (w.extractLsb' 21 5) (w.extractLsb' 18 3) (w.extractLsb' 16 2) (w.extractLsb' 10 6)⟩,
   ⟨0x94, 0x000000000000FFFF, fun w => .fillLd (hdr w) (ecOf w) (w.extractLsb' 31 5) (w.extractLsb' 26 5) (w.extractLsb' 21 5) (w.extractLsb' 18 3) (w.extractLsb' 16 2)⟩,
   ⟨0x95, 0x000000000000FFFF, fun w => .fillSt (hdr w) (ecOf w) (w.extractLsb' 31 5) (w.extractLsb' 26 5) (w.extractLsb' 21 5) (w.extractLsb' 18 3) (w.extractLsb' 16 2)⟩,
   ⟨0x96, 0x0007FFFF83FFFFFF, fun w => .clinkLd (hdr w) (w.extractLsb' 26 5)⟩,
   ⟨0x97, 0x0007FFFF83FFFFFF, fun w => .clinkSt (hdr w) (w.extractLsb' 26 5)⟩,
   ⟨0x98, 0x0007FFFFFFFFFFFE, fun w => .ckick (hdr w) (w.extractLsb' 0 1)⟩,
   ⟨0x99, 0x0007FFF0001FFFC0, fun w => .hconf (hdr w) (w.extractLsb' 31 5) (w.extractLsb' 26 5) (w.extractLsb' 21 5) (w.extractLsb' 4 2) (w.extractLsb' 0 4)⟩,
   ⟨0x9A, 0x0007FFFFFFF00000, fun w => .radvp (hdr w) (w.extractLsb' 4 16) (w.extractLsb' 0 4)⟩,
   ⟨0x9B, 0x0007FFFFFFF00000, fun w => .radvc (hdr w) (w.extractLsb' 4 16) (w.extractLsb' 0 4)⟩,
   ⟨0x9C, 0x0007FFFFFFF00000, fun w => .rwaitf (hdr w) (w.extractLsb' 4 16) (w.extractLsb' 0 4)⟩,
   ⟨0x9D, 0x0007FFFFFFF00000, fun w => .rwaite (hdr w) (w.extractLsb' 4 16) (w.extractLsb' 0 4)⟩,
   ⟨0x9E, 0x0007FFFFFFFFFFFC, fun w => .tksend (hdr w) (w.extractLsb' 0 2)⟩,
   ⟨0x9F, 0x0007FFFFFFFFFFFC, fun w => .tkwait (hdr w) (w.extractLsb' 0 2)⟩]

/-- Row A_ of the opcode map of R54. -/
def opRowsA : List OpRow :=
  [⟨0xA0, 0x0000000000000000, fun w => .gld (hdr w) (aqOf w)⟩,
   ⟨0xA1, 0x0000000000000000, fun w => .gst (hdr w) (aqOf w)⟩,
   ⟨0xA2, 0x0000000000000000, fun w => .aaddN32 (hdr w) (aqOf w)⟩,
   ⟨0xA3, 0x0000000000000000, fun w => .aaddN64 (hdr w) (aqOf w)⟩,
   ⟨0xA4, 0x0000000000000000, fun w => .afaddF32 (hdr w) (aqOf w)⟩,
   ⟨0xA5, 0x0000000000000000, fun w => .afaddB16 (hdr w) (aqOf w)⟩,
   ⟨0xA6, 0x0000000000000000, fun w => .aminI32 (hdr w) (aqOf w)⟩,
   ⟨0xA7, 0x0000000000000000, fun w => .aminI64 (hdr w) (aqOf w)⟩,
   ⟨0xA8, 0x0000000000000000, fun w => .aminN32 (hdr w) (aqOf w)⟩,
   ⟨0xA9, 0x0000000000000000, fun w => .aminN64 (hdr w) (aqOf w)⟩,
   ⟨0xAA, 0x0000000000000000, fun w => .amaxI32 (hdr w) (aqOf w)⟩,
   ⟨0xAB, 0x0000000000000000, fun w => .amaxI64 (hdr w) (aqOf w)⟩,
   ⟨0xAC, 0x0000000000000000, fun w => .amaxN32 (hdr w) (aqOf w)⟩,
   ⟨0xAD, 0x0000000000000000, fun w => .amaxN64 (hdr w) (aqOf w)⟩,
   ⟨0xAE, 0x0000000000000000, fun w => .aandN32 (hdr w) (aqOf w)⟩,
   ⟨0xAF, 0x0000000000000000, fun w => .aandN64 (hdr w) (aqOf w)⟩]

/-- Row B_ of the opcode map of R54. -/
def opRowsB : List OpRow :=
  [⟨0xB0, 0x0000000000000000, fun w => .aorN32 (hdr w) (aqOf w)⟩,
   ⟨0xB1, 0x0000000000000000, fun w => .aorN64 (hdr w) (aqOf w)⟩,
   ⟨0xB2, 0x0000000000000000, fun w => .axorN32 (hdr w) (aqOf w)⟩,
   ⟨0xB3, 0x0000000000000000, fun w => .axorN64 (hdr w) (aqOf w)⟩,
   ⟨0xB4, 0x0000000000000000, fun w => .axchgN32 (hdr w) (aqOf w)⟩,
   ⟨0xB5, 0x0000000000000000, fun w => .axchgN64 (hdr w) (aqOf w)⟩,
   ⟨0xB6, 0x0000000000000000, fun w => .axchgN128 (hdr w) (aqOf w)⟩,
   ⟨0xB7, 0x0000000000000000, fun w => .acasN32 (hdr w) (aqOf w)⟩,
   ⟨0xB8, 0x0000000000000000, fun w => .acasN64 (hdr w) (aqOf w)⟩,
   ⟨0xB9, 0x0000000000000000, fun w => .acasN128 (hdr w) (aqOf w)⟩,
   ⟨0xBA, 0x0000000000000000, fun w => .aprom (hdr w) (aqOf w)⟩,
   ⟨0xBB, 0x0000000000000000, fun w => .fence (hdr w) (aqOf w)⟩,
   ⟨0xBC, 0x0000000000000000, fun w => .pf (hdr w) (aqOf w)⟩,
   ⟨0xBD, 0x0000000000000000, fun w => .linv (hdr w) (aqOf w)⟩,
   ⟨0xBE, 0x0000000000000000, fun w => .lwb (hdr w) (aqOf w)⟩,
   ⟨0xBF, 0x0000000000000000, fun w => .dvred (hdr w) (aqOf w)⟩]

/-- Row C_ of the opcode map of R54. -/
def opRowsC : List OpRow :=
  [⟨0xC0, 0x0000000000000000, fun w => .tspawn (hdr w) (aqOf w)⟩,
   ⟨0xC1, 0x0000000000000000, fun w => .tstageReg (hdr w) (aqOf w)⟩,
   ⟨0xC2, 0x0000000000000000, fun w => .tstageImm (hdr w) (aqOf w)⟩,
   ⟨0xC3, 0x0007FFFFFFFFFFFF, fun w => .tend (hdr w)⟩,
   ⟨0xC4, 0x0000000000000000, fun w => .tjoin (hdr w) (aqOf w)⟩,
   ⟨0xC5, 0x0000000000000000, fun w => .joinReg (hdr w) (aqOf w)⟩,
   ⟨0xC6, 0x0000000000000000, fun w => .joinImm (hdr w) (aqOf w)⟩,
   ⟨0xC7, 0x0000000000000000, fun w => .leaveReg (hdr w) (aqOf w)⟩,
   ⟨0xC8, 0x0000000000000000, fun w => .leaveImm (hdr w) (aqOf w)⟩,
   ⟨0xC9, 0x0000000000000000, fun w => .bargReg (hdr w) (aqOf w)⟩,
   ⟨0xCA, 0x0000000000000000, fun w => .bargImm (hdr w) (aqOf w)⟩,
   ⟨0xCB, 0x0000000000000000, fun w => .gcountReg (hdr w) (aqOf w)⟩,
   ⟨0xCC, 0x0000000000000000, fun w => .gcountImm (hdr w) (aqOf w)⟩,
   ⟨0xCD, 0x0000000000000000, fun w => .imprv (hdr w) (aqOf w)⟩,
   ⟨0xCE, 0x0000000000000000, fun w => .iread (hdr w) (aqOf w)⟩,
   ⟨0xCF, 0x0000000000000000, fun w => .kchk (hdr w) (aqOf w)⟩]

/-- Row D_ of the opcode map of R54. -/
def opRowsD : List OpRow :=
  [⟨0xD0, 0x0000000000000000, fun w => .jrec (hdr w) (aqOf w)⟩,
   ⟨0xD1, 0x0000000000000000, fun w => .jwait (hdr w) (aqOf w)⟩,
   ⟨0xD2, 0x0000000000000000, fun w => .emitN32 (hdr w) (aqOf w)⟩,
   ⟨0xD3, 0x0000000000000000, fun w => .emitN64 (hdr w) (aqOf w)⟩,
   ⟨0xD4, 0x0000000000000000, fun w => .jtrunc (hdr w) (aqOf w)⟩,
   ⟨0xD5, 0x0000000000000000, fun w => .jreseat (hdr w) (aqOf w)⟩,
   ⟨0xD6, 0x0000000000000000, fun w => .seg (hdr w) (w.extractLsb' 32 19) (w.extractLsb' 0 32)⟩,
   ⟨0xD7, 0x0007FFFFFFFFFFFF, fun w => .segend (hdr w)⟩]

/-- The opcode map of R54. -/
def opRows : List OpRow :=
  opRows0 ++ opRows1 ++ opRows2 ++ opRows3 ++ opRows4 ++ opRows5 ++ opRows6 ++ opRows8 ++ opRows9 ++ opRowsA ++ opRowsB ++ opRowsC ++ opRowsD

/-- The entry of a primary opcode. -/
def opRow? (op : Nat) : Option OpRow := opRows.find? (fun r => r.op == op)

/-- Decoding one word: the reserved fields first, then the selectors (R47, R48). An unassigned primary opcode decodes as
UNASSIGNED_OPCODE, which raises ILLEGAL when it issues (R55). -/
def decode (w : Word) : Except DecodeError Instr :=
  match opRow? (w.extractLsb' 56 8).toNat with
  | none => .ok (.unassignedOpcode w)
  | some r =>
    if w &&& r.reserved != 0 then .error .reservedField
    else if (r.read w).wf then .ok (r.read w)
    else .error .badSelector

/-- A little-endian word from its bytes (R4). -/
def wordOfBytes (bs : List Byte) : Word :=
  (bs.take 8).foldr (fun b acc => (acc <<< 8) ||| b.setWidth 64) 0

/-- Decoding the first word of any list of bytes; the rest follows it. -/
def decodeBytes (bs : List Byte) : Except DecodeError (Instr × List Byte) :=
  if bs.length < 8 then .error .truncated
  else match decode (wordOfBytes bs) with
    | .ok i => .ok (i, bs.drop 8)
    | .error e => .error e

/-- Bits 63:51 in front of a body (R45). -/
def wordOf (op : BitVec 8) (h : Hdr) (body : BitVec 51) : Word := op ++ h.g ++ h.qs ++ h.qn ++ body

/-- The TV body (R63). -/
def tvBody (v : Tv) : BitVec 51 :=
  v.td ++ v.tdv ++ v.rdn ++ v.ta ++ v.tav ++ v.tap ++ v.tb ++ v.tbv ++ v.tbp ++ v.rail ++ v.msk ++ v.men ++ v.sat
    ++ v.rnd ++ v.ty

/-- Bits 50:36 of the EC body (R68). -/
def ecBody (e : Ec) : BitVec 15 := e.pbl ++ e.pbr ++ e.pal ++ e.par ++ e.tag ++ e.fp

/-- The AQ body (R71). -/
def aqBody (a : Aq) : BitVec 51 :=
  a.sd ++ a.sa ++ a.sb ++ a.pbl ++ a.pbr ++ a.pal ++ a.par ++ a.wk ++ a.ord ++ a.scp ++ a.rd ++ a.hint ++ a.off

/-- The word of an instruction, from the encoding tables of R57 to R74 (an event has no word). -/
def encode : Instr → Word
  | .nop h => wordOf 0x00 h ((0 : BitVec 51))
  | .add h sd sa sb => wordOf 0x01 h (sd ++ sa ++ sb ++ (0 : BitVec 36))
  | .sub h sd sa sb => wordOf 0x02 h (sd ++ sa ++ sb ++ (0 : BitVec 36))
  | .addi h sd sa imm => wordOf 0x03 h (sd ++ sa ++ (0 : BitVec 5) ++ imm)
  | .mul h sd sa sb => wordOf 0x04 h (sd ++ sa ++ sb ++ (0 : BitVec 36))
  | .mulh h sd sa sb => wordOf 0x05 h (sd ++ sa ++ sb ++ (0 : BitVec 36))
  | .mulhn h sd sa sb => wordOf 0x06 h (sd ++ sa ++ sb ++ (0 : BitVec 36))
  | .divs h sd sa sb => wordOf 0x07 h (sd ++ sa ++ sb ++ (0 : BitVec 36))
  | .divn h sd sa sb => wordOf 0x08 h (sd ++ sa ++ sb ++ (0 : BitVec 36))
  | .and h sd sa sb => wordOf 0x09 h (sd ++ sa ++ sb ++ (0 : BitVec 36))
  | .or h sd sa sb => wordOf 0x0A h (sd ++ sa ++ sb ++ (0 : BitVec 36))
  | .xor h sd sa sb => wordOf 0x0B h (sd ++ sa ++ sb ++ (0 : BitVec 36))
  | .andn h sd sa sb => wordOf 0x0C h (sd ++ sa ++ sb ++ (0 : BitVec 36))
  | .shl h sd sa sb => wordOf 0x0D h (sd ++ sa ++ sb ++ (0 : BitVec 36))
  | .shrl h sd sa sb => wordOf 0x0E h (sd ++ sa ++ sb ++ (0 : BitVec 36))
  | .shra h sd sa sb => wordOf 0x0F h (sd ++ sa ++ sb ++ (0 : BitVec 36))
  | .mins h sd sa sb => wordOf 0x10 h (sd ++ sa ++ sb ++ (0 : BitVec 36))
  | .maxs h sd sa sb => wordOf 0x11 h (sd ++ sa ++ sb ++ (0 : BitVec 36))
  | .minn h sd sa sb => wordOf 0x12 h (sd ++ sa ++ sb ++ (0 : BitVec 36))
  | .maxn h sd sa sb => wordOf 0x13 h (sd ++ sa ++ sb ++ (0 : BitVec 36))
  | .sel h sd sa sb qsel => wordOf 0x14 h (sd ++ sa ++ sb ++ (0 : BitVec 33) ++ qsel)
  | .clz h sd sa => wordOf 0x15 h (sd ++ sa ++ (0 : BitVec 41))
  | .popc h sd sa => wordOf 0x16 h (sd ++ sa ++ (0 : BitVec 41))
  | .bfxI h sd sa width lsb => wordOf 0x17 h (sd ++ sa ++ (0 : BitVec 5) ++ (0 : BitVec 23) ++ width ++ lsb)
  | .bfxN h sd sa width lsb => wordOf 0x18 h (sd ++ sa ++ (0 : BitVec 5) ++ (0 : BitVec 23) ++ width ++ lsb)
  | .bfi h sd sa width lsb => wordOf 0x19 h (sd ++ sa ++ (0 : BitVec 5) ++ (0 : BitVec 23) ++ width ++ lsb)
  | .movi h sd imm => wordOf 0x1A h (sd ++ (0 : BitVec 10) ++ imm)
  | .movh h sd imm => wordOf 0x1B h (sd ++ (0 : BitVec 10) ++ (0 : BitVec 8) ++ imm)
  | .lea h sd sa sb sc disp => wordOf 0x1C h (sd ++ sa ++ sb ++ sc ++ disp)
  | .cmpReg h qd sa sb cond => wordOf 0x1D h ((0 : BitVec 2) ++ qd ++ sa ++ sb ++ (0 : BitVec 32) ++ cond)
  | .cmpImm h qd sa imm cond => wordOf 0x1E h ((0 : BitVec 2) ++ qd ++ sa ++ (0 : BitVec 5) ++ imm ++ cond)
  | .qop h qd qa qb qop => wordOf 0x1F h ((0 : BitVec 2) ++ qd ++ (0 : BitVec 2) ++ qa ++ (0 : BitVec 2) ++ qb ++ (0 : BitVec 34) ++ qop)
  | .lds h sd sa wk off => wordOf 0x20 h (sd ++ sa ++ (0 : BitVec 5) ++ wk ++ off)
  | .sts h sa sb wk off => wordOf 0x21 h ((0 : BitVec 5) ++ sa ++ sb ++ wk ++ off)
  | .pbr h j off => wordOf 0x22 h (j ++ (0 : BitVec 3) ++ (0 : BitVec 4) ++ off)
  | .brq h j qc => wordOf 0x23 h (j ++ qc ++ (0 : BitVec 4) ++ (0 : BitVec 41))
  | .br h j => wordOf 0x24 h (j ++ (0 : BitVec 48))
  | .call h j => wordOf 0x25 h (j ++ (0 : BitVec 48))
  | .ret h j => wordOf 0x26 h (j ++ (0 : BitVec 48))
  | .loop h j => wordOf 0x27 h (j ++ (0 : BitVec 48))
  | .rotz h => wordOf 0x28 h ((0 : BitVec 51))
  | .anym h qd mk => wordOf 0x29 h ((0 : BitVec 2) ++ qd ++ (0 : BitVec 2) ++ mk ++ (0 : BitVec 41))
  | .allm h qd mk => wordOf 0x2A h ((0 : BitVec 2) ++ qd ++ (0 : BitVec 2) ++ mk ++ (0 : BitVec 41))
  | .osend h qc hd => wordOf 0x2B h ((0 : BitVec 3) ++ qc ++ hd ++ (0 : BitVec 41))
  | .bro h j hd => wordOf 0x2C h (j ++ (0 : BitVec 3) ++ hd ++ (0 : BitVec 41))
  | .qcut h hi lo => wordOf 0x2D h ((0 : BitVec 39) ++ hi ++ lo)
  | .wait h n => wordOf 0x2E h ((0 : BitVec 35) ++ n)
  | .yield h => wordOf 0x2F h ((0 : BitVec 51))
  | .halt h => wordOf 0x30 h ((0 : BitVec 51))
  | .trap h n => wordOf 0x31 h ((0 : BitVec 35) ++ n)
  | .sysrd h sd reg => wordOf 0x32 h (sd ++ (0 : BitVec 30) ++ reg)
  | .syswr h sa reg => wordOf 0x33 h ((0 : BitVec 5) ++ sa ++ (0 : BitVec 25) ++ reg)
  | .syswrHomemap h sa => wordOf 0x33 h ((0 : BitVec 5) ++ sa ++ (0 : BitVec 25) ++ (32 : BitVec 16))
  | .syswrFmtScale h sa n => wordOf 0x33 h ((0 : BitVec 5) ++ sa ++ (0 : BitVec 25) ++ (7 : BitVec 13) ++ n)
  | .syswrFmtBase h sa n => wordOf 0x33 h ((0 : BitVec 5) ++ sa ++ (0 : BitVec 25) ++ (6 : BitVec 13) ++ n)
  | .syswrWaymask h sa n => wordOf 0x33 h ((0 : BitVec 5) ++ sa ++ (0 : BitVec 25) ++ (3 : BitVec 13) ++ n)
  | .syswrInccfg h sa n => wordOf 0x33 h ((0 : BitVec 5) ++ sa ++ (0 : BitVec 25) ++ (5 : BitVec 12) ++ n)
  | .syswrJpair h sa => wordOf 0x33 h ((0 : BitVec 5) ++ sa ++ (0 : BitVec 25) ++ (64 : BitVec 16))
  | .conf h sa reg => wordOf 0x34 h ((0 : BitVec 5) ++ sa ++ (0 : BitVec 25) ++ reg)
  | .snap h sd reg => wordOf 0x35 h (sd ++ (0 : BitVec 30) ++ reg)
  | .rdcyc h sd => wordOf 0x36 h (sd ++ (0 : BitVec 46))
  | .icinv h sa scope => wordOf 0x37 h ((0 : BitVec 5) ++ sa ++ (0 : BitVec 38) ++ scope)
  | .vaddF h v => wordOf 0x40 h (tvBody v)
  | .vaddI h v => wordOf 0x41 h (tvBody v)
  | .vsubF h v => wordOf 0x42 h (tvBody v)
  | .vsubI h v => wordOf 0x43 h (tvBody v)
  | .vmulF h v => wordOf 0x44 h (tvBody v)
  | .vmulI h v => wordOf 0x45 h (tvBody v)
  | .vfma h v => wordOf 0x46 h (tvBody v)
  | .vminF h v => wordOf 0x47 h (tvBody v)
  | .vminI h v => wordOf 0x48 h (tvBody v)
  | .vmaxF h v => wordOf 0x49 h (tvBody v)
  | .vmaxI h v => wordOf 0x4A h (tvBody v)
  | .vabs h v => wordOf 0x4B h (tvBody v)
  | .vneg h v => wordOf 0x4C h (tvBody v)
  | .vcmpF h v => wordOf 0x4D h (tvBody v)
  | .vcmpI h v => wordOf 0x4E h (tvBody v)
  | .vsel h v => wordOf 0x4F h (tvBody v)
  | .vand h v => wordOf 0x50 h (tvBody v)
  | .vor h v => wordOf 0x51 h (tvBody v)
  | .vxor h v => wordOf 0x52 h (tvBody v)
  | .vshl h v => wordOf 0x53 h (tvBody v)
  | .vshrN h v => wordOf 0x54 h (tvBody v)
  | .vshrI h v => wordOf 0x55 h (tvBody v)
  | .vcvtF h v => wordOf 0x56 h (tvBody v)
  | .vcvtI h v => wordOf 0x57 h (tvBody v)
  | .vqntDb8 h v => wordOf 0x58 h (tvBody v)
  | .vqntDb4 h v => wordOf 0x59 h (tvBody v)
  | .vredF h v => wordOf 0x5A h (tvBody v)
  | .vredI h v => wordOf 0x5B h (tvBody v)
  | .vscanF h v => wordOf 0x5C h (tvBody v)
  | .vscanI h v => wordOf 0x5D h (tvBody v)
  | .vpermT h v => wordOf 0x5E h (tvBody v)
  | .vpermImm h v => wordOf 0x5F h (tvBody v)
  | .vxrow h v => wordOf 0x60 h (tvBody v)
  | .vbcastS h v => wordOf 0x61 h (tvBody v)
  | .vbcastRow h v => wordOf 0x62 h (tvBody v)
  | .vtopk h v => wordOf 0x63 h (tvBody v)
  | .vrng h v => wordOf 0x64 h (tvBody v)
  | .vmovt h v => wordOf 0x65 h (tvBody v)
  | .vlds h td tdv rdn sa offHi men msk offLo => wordOf 0x66 h (td ++ tdv ++ rdn ++ (0 : BitVec 11) ++ sa ++ offHi ++ men ++ (0 : BitVec 2) ++ msk ++ offLo)
  | .vsts h ta tav tap sa offHi men msk offLo => wordOf 0x67 h ((0 : BitVec 14) ++ ta ++ tav ++ tap ++ sa ++ offHi ++ men ++ (0 : BitVec 2) ++ msk ++ offLo)
  | .vexp h v => wordOf 0x68 h (tvBody v)
  | .vlog h v => wordOf 0x69 h (tvBody v)
  | .vsin h v => wordOf 0x6A h (tvBody v)
  | .vcos h v => wordOf 0x6B h (tvBody v)
  | .vtanh h v => wordOf 0x6C h (tvBody v)
  | .vrsq h v => wordOf 0x6D h (tvBody v)
  | .vrcp h v => wordOf 0x6E h (tvBody v)
  | .vsig h v => wordOf 0x6F h (tvBody v)
  | .mmaDb8 h ec sx slab prof ts t tv peek => wordOf 0x80 h (ecBody ec ++ sx ++ (0 : BitVec 10) ++ slab ++ prof ++ ts ++ t ++ tv ++ peek ++ (0 : BitVec 2))
  | .mmaDb4 h ec sx slab prof ts t tv peek => wordOf 0x81 h (ecBody ec ++ sx ++ (0 : BitVec 10) ++ slab ++ prof ++ ts ++ t ++ tv ++ peek ++ (0 : BitVec 2))
  | .mmaI8 h ec sx slab prof ts t tv peek => wordOf 0x82 h (ecBody ec ++ sx ++ (0 : BitVec 10) ++ slab ++ prof ++ ts ++ t ++ tv ++ peek ++ (0 : BitVec 2))
  | .mma2 h ec sx slab prof ts t tv peek => wordOf 0x83 h (ecBody ec ++ sx ++ (0 : BitVec 10) ++ slab ++ prof ++ ts ++ t ++ tv ++ peek ++ (0 : BitVec 2))
  | .sldDb8 h ec sy slab => wordOf 0x84 h (ecBody ec ++ (0 : BitVec 5) ++ sy ++ (0 : BitVec 5) ++ slab ++ (0 : BitVec 18))
  | .sldDb4 h ec sy slab => wordOf 0x85 h (ecBody ec ++ (0 : BitVec 5) ++ sy ++ (0 : BitVec 5) ++ slab ++ (0 : BitVec 18))
  | .sldI8 h ec sy slab => wordOf 0x86 h (ecBody ec ++ (0 : BitVec 5) ++ sy ++ (0 : BitVec 5) ++ slab ++ (0 : BitVec 18))
  | .sldB16 h ec sy slab => wordOf 0x87 h (ecBody ec ++ (0 : BitVec 5) ++ sy ++ (0 : BitVec 5) ++ slab ++ (0 : BitVec 18))
  | .sswap h ec slab => wordOf 0x88 h (ecBody ec ++ (0 : BitVec 15) ++ slab ++ (0 : BitVec 18))
  | .mrot h ec slab => wordOf 0x89 h (ecBody ec ++ (0 : BitVec 15) ++ slab ++ (0 : BitVec 18))
  | .mfixF32 h ec sx slab rdn dst t tv => wordOf 0x8A h (ecBody ec ++ sx ++ (0 : BitVec 10) ++ slab ++ rdn ++ dst ++ t ++ tv ++ (0 : BitVec 3))
  | .mfixB16 h ec sx slab rdn dst t tv => wordOf 0x8B h (ecBody ec ++ sx ++ (0 : BitVec 10) ++ slab ++ rdn ++ dst ++ t ++ tv ++ (0 : BitVec 3))
  | .mfixI8 h ec sx slab rdn dst t tv => wordOf 0x8C h (ecBody ec ++ sx ++ (0 : BitVec 10) ++ slab ++ rdn ++ dst ++ t ++ tv ++ (0 : BitVec 3))
  | .mfixDb8 h ec sx slab rdn dst t tv => wordOf 0x8D h (ecBody ec ++ sx ++ (0 : BitVec 10) ++ slab ++ rdn ++ dst ++ t ++ tv ++ (0 : BitVec 3))
  | .mfixDb4 h ec sx slab rdn dst t tv => wordOf 0x8E h (ecBody ec ++ sx ++ (0 : BitVec 10) ++ slab ++ rdn ++ dst ++ t ++ tv ++ (0 : BitVec 3))
  | .mzero h ec slab => wordOf 0x8F h (ecBody ec ++ (0 : BitVec 15) ++ slab ++ (0 : BitVec 18))
  | .cpyLd h ec sx sy sz rd hint => wordOf 0x90 h (ecBody ec ++ sx ++ sy ++ sz ++ rd ++ hint ++ (0 : BitVec 16))
  | .cpySt h ec sx sy sz rd hint => wordOf 0x91 h (ecBody ec ++ sx ++ sy ++ sz ++ rd ++ hint ++ (0 : BitVec 16))
  | .gath h ec sx sy sz rd hint rowl => wordOf 0x92 h (ecBody ec ++ sx ++ sy ++ sz ++ rd ++ hint ++ rowl ++ (0 : BitVec 10))
  | .scat h ec sx sy sz rd hint rowl => wordOf 0x93 h (ecBody ec ++ sx ++ sy ++ sz ++ rd ++ hint ++ rowl ++ (0 : BitVec 10))
  | .fillLd h ec sx sy sz rd hint => wordOf 0x94 h (ecBody ec ++ sx ++ sy ++ sz ++ rd ++ hint ++ (0 : BitVec 16))
  | .fillSt h ec sx sy sz rd hint => wordOf 0x95 h (ecBody ec ++ sx ++ sy ++ sz ++ rd ++ hint ++ (0 : BitVec 16))
  | .clinkLd h sy => wordOf 0x96 h ((0 : BitVec 20) ++ sy ++ (0 : BitVec 26))
  | .clinkSt h sy => wordOf 0x97 h ((0 : BitVec 20) ++ sy ++ (0 : BitVec 26))
  | .ckick h eng => wordOf 0x98 h ((0 : BitVec 50) ++ eng)
  | .hconf h sx sy sz kind hd => wordOf 0x99 h ((0 : BitVec 15) ++ sx ++ sy ++ sz ++ (0 : BitVec 15) ++ kind ++ hd)
  | .radvp h n hd => wordOf 0x9A h ((0 : BitVec 31) ++ n ++ hd)
  | .radvc h n hd => wordOf 0x9B h ((0 : BitVec 31) ++ n ++ hd)
  | .rwaitf h n hd => wordOf 0x9C h ((0 : BitVec 31) ++ n ++ hd)
  | .rwaite h n hd => wordOf 0x9D h ((0 : BitVec 31) ++ n ++ hd)
  | .tksend h q => wordOf 0x9E h ((0 : BitVec 49) ++ q)
  | .tkwait h q => wordOf 0x9F h ((0 : BitVec 49) ++ q)
  | .gld h a => wordOf 0xA0 h (aqBody a)
  | .gst h a => wordOf 0xA1 h (aqBody a)
  | .aaddN32 h a => wordOf 0xA2 h (aqBody a)
  | .aaddN64 h a => wordOf 0xA3 h (aqBody a)
  | .afaddF32 h a => wordOf 0xA4 h (aqBody a)
  | .afaddB16 h a => wordOf 0xA5 h (aqBody a)
  | .aminI32 h a => wordOf 0xA6 h (aqBody a)
  | .aminI64 h a => wordOf 0xA7 h (aqBody a)
  | .aminN32 h a => wordOf 0xA8 h (aqBody a)
  | .aminN64 h a => wordOf 0xA9 h (aqBody a)
  | .amaxI32 h a => wordOf 0xAA h (aqBody a)
  | .amaxI64 h a => wordOf 0xAB h (aqBody a)
  | .amaxN32 h a => wordOf 0xAC h (aqBody a)
  | .amaxN64 h a => wordOf 0xAD h (aqBody a)
  | .aandN32 h a => wordOf 0xAE h (aqBody a)
  | .aandN64 h a => wordOf 0xAF h (aqBody a)
  | .aorN32 h a => wordOf 0xB0 h (aqBody a)
  | .aorN64 h a => wordOf 0xB1 h (aqBody a)
  | .axorN32 h a => wordOf 0xB2 h (aqBody a)
  | .axorN64 h a => wordOf 0xB3 h (aqBody a)
  | .axchgN32 h a => wordOf 0xB4 h (aqBody a)
  | .axchgN64 h a => wordOf 0xB5 h (aqBody a)
  | .axchgN128 h a => wordOf 0xB6 h (aqBody a)
  | .acasN32 h a => wordOf 0xB7 h (aqBody a)
  | .acasN64 h a => wordOf 0xB8 h (aqBody a)
  | .acasN128 h a => wordOf 0xB9 h (aqBody a)
  | .aprom h a => wordOf 0xBA h (aqBody a)
  | .fence h a => wordOf 0xBB h (aqBody a)
  | .pf h a => wordOf 0xBC h (aqBody a)
  | .linv h a => wordOf 0xBD h (aqBody a)
  | .lwb h a => wordOf 0xBE h (aqBody a)
  | .dvred h a => wordOf 0xBF h (aqBody a)
  | .tspawn h a => wordOf 0xC0 h (aqBody a)
  | .tstageReg h a => wordOf 0xC1 h (aqBody a)
  | .tstageImm h a => wordOf 0xC2 h (aqBody a)
  | .tend h => wordOf 0xC3 h ((0 : BitVec 51))
  | .tjoin h a => wordOf 0xC4 h (aqBody a)
  | .joinReg h a => wordOf 0xC5 h (aqBody a)
  | .joinImm h a => wordOf 0xC6 h (aqBody a)
  | .leaveReg h a => wordOf 0xC7 h (aqBody a)
  | .leaveImm h a => wordOf 0xC8 h (aqBody a)
  | .bargReg h a => wordOf 0xC9 h (aqBody a)
  | .bargImm h a => wordOf 0xCA h (aqBody a)
  | .gcountReg h a => wordOf 0xCB h (aqBody a)
  | .gcountImm h a => wordOf 0xCC h (aqBody a)
  | .imprv h a => wordOf 0xCD h (aqBody a)
  | .iread h a => wordOf 0xCE h (aqBody a)
  | .kchk h a => wordOf 0xCF h (aqBody a)
  | .jrec h a => wordOf 0xD0 h (aqBody a)
  | .jwait h a => wordOf 0xD1 h (aqBody a)
  | .emitN32 h a => wordOf 0xD2 h (aqBody a)
  | .emitN64 h a => wordOf 0xD3 h (aqBody a)
  | .jtrunc h a => wordOf 0xD4 h (aqBody a)
  | .jreseat h a => wordOf 0xD5 h (aqBody a)
  | .seg h count sig => wordOf 0xD6 h (count ++ sig)
  | .segend h => wordOf 0xD7 h ((0 : BitVec 51))
  | .unassignedOpcode w => w
  | .syswrRetire => 0
  | .icinvComplete => 0
  | .xtEntryStart => 0
  | .xtEntryPublish => 0
  | .tileLanding => 0
  | .latentWriteLanding => 0
  | .matrixCommandStart => 0
  | .matrixCommandRetire => 0
  | .engineUncorrectableError => 0
  | .copyCommandStart => 0
  | .copyCommandRetire => 0
  | .chainEntryFetch => 0
  | .chainWaitSatisfied => 0
  | .chainEntryRetire => 0
  | .tokenMarkerStart => 0
  | .aqOperationPerform => 0
  | .releaseMarkerPerform => 0
  | .developerBlockStart => 0
  | .developerFlagStore => 0
  | .itemEnd => 0
  | .barrierComplete => 0
  | .itemTake => 0
  | .itemStart => 0
  | .shadowUpdate => 0
  | .reseatTailSent => 0
  | .journalEntryReceive => 0
  | .journalAckReceive => 0
  | .journalSilent => 0
  | .probeSend => 0
  | .probeForward => 0
  | .bankDrowsy => 0
  | .bankGated => 0
  | .bankRefresh => 0
  | .bankWakeDone => 0
  | .faultDelivery => 0
  | .faultRingRetry => 0
  | .coreContextFault => 0
  | .resumeStream => 0
  | .abandonStream => 0
  | .haltStream => 0
  | .pctlSave => 0
  | .contextStop => 0
  | .saveComplete => 0
  | .pctlResume => 0
  | .pctlRestore => 0
  | .resetPartition => 0
  | .resetEngine => 0
  | .resetLink => 0
  | .resetChannel => 0
  | .resetComplete => 0
  | .sourceLasting => 0
  | .laneRepairPause => 0
  | .laneRepairDone => 0
  | .dieHeartbeatLoss => 0
  | .junctionOvertemp => 0
  | .mailboxGo => 0
  | .launchLoad => 0
  | .streamsStart => 0
  | .launchEnd => 0
  | .deviceReset => 0
  | .bootPhaseComplete => 0
  | .hostMemoryRead => 0
  | .hostMemoryWrite => 0
  | .hostRegisterWrite => 0
  | .ctxrootWrite => 0
  | .tuInvGo => 0
  | .tuInvDone => 0
  | .negwinWrite => 0
  | .jrouteWrite => 0
  | .hnqReadIndexWrite => 0
  | .attnGo => 0
  | .ksOpen => 0
  | .ksAgree => 0
  | .ksInstall => 0
  | .ksClose => 0
  | .cringEnable => 0
  | .ringVisit => 0
  | .workRequestFinish => 0
  | .switchHop => 0
  | .redTimeout => 0
  | .apertureDelivery => 0
  | .pullReply => 0
  | .pullReplyReceive => 0
  | .remoteAccessRequest => 0
  | .flitReceive => 0
  | .linkDown => 0
  | .restoreComplete => 0
  | .hbmScrub => 0
  | .packetStatusReturn => 0
  | .attnReportComplete => 0
  | .keySessionCommandDone => 0

/-- The constructor is an event of the device: no word encodes it. -/
def Instr.isEvent : Instr → Bool
  | .syswrRetire | .icinvComplete | .xtEntryStart | .xtEntryPublish | .tileLanding | .latentWriteLanding | .matrixCommandStart
  | .matrixCommandRetire | .engineUncorrectableError | .copyCommandStart | .copyCommandRetire | .chainEntryFetch
  | .chainWaitSatisfied | .chainEntryRetire | .tokenMarkerStart | .aqOperationPerform | .releaseMarkerPerform
  | .developerBlockStart | .developerFlagStore | .itemEnd | .barrierComplete | .itemTake | .itemStart | .shadowUpdate
  | .reseatTailSent | .journalEntryReceive | .journalAckReceive | .journalSilent | .probeSend | .probeForward | .bankDrowsy
  | .bankGated | .bankRefresh | .bankWakeDone | .faultDelivery | .faultRingRetry | .coreContextFault | .resumeStream
  | .abandonStream | .haltStream | .pctlSave | .contextStop | .saveComplete | .pctlResume | .pctlRestore | .resetPartition
  | .resetEngine | .resetLink | .resetChannel | .resetComplete | .sourceLasting | .laneRepairPause | .laneRepairDone
  | .dieHeartbeatLoss | .junctionOvertemp | .mailboxGo | .launchLoad | .streamsStart | .launchEnd | .deviceReset
  | .bootPhaseComplete | .hostMemoryRead | .hostMemoryWrite | .hostRegisterWrite | .ctxrootWrite | .tuInvGo | .tuInvDone
  | .negwinWrite | .jrouteWrite | .hnqReadIndexWrite | .attnGo | .ksOpen | .ksAgree | .ksInstall | .ksClose | .cringEnable
  | .ringVisit | .workRequestFinish | .switchHop | .redTimeout | .apertureDelivery | .pullReply | .pullReplyReceive
  | .remoteAccessRequest | .flitReceive | .linkDown | .restoreComplete | .hbmScrub | .packetStatusReturn | .attnReportComplete
  | .keySessionCommandDone => true
  | _ => false

/-- The decoder on a row's bits as spec/opcode_table.json numbers them: one 64-bit word, little-endian, every bit above
`nbits` zero. -/
def decodeTableWord (nbits w : Nat) : Option Instr :=
  (decode (BitVec.ofNat 64 (w % 2 ^ nbits))).toOption

end Sys2Proof
end

