-- ==== Sys2Proof/Machine/MatrixRun.lean ====
section
/-! DEFINITION. Machine/MatrixRun.lean: the matrix engine at work: the steps of the commands in execution, their retirement, and errors
inside the engine with their replays (R171, R230 to R243). -/
namespace Sys2Proof.Machine

/-! ## What a command works on -/

/-- Cycles from a form's last step to the one at whose end it retires (R230). -/
def mxTail (i : Instr) : Nat := match mxOf i with | some (_, .mzero) => 0 | _ => 4

/-- The command itself as the window would list it: its N, its planes and its A registers. -/
def MExec.own (x : MExec) (s : Slab) : WinEntry :=
  { instr := x.entry.instr, n := match mxOf x.entry.instr with | some (_, .mma ..) => x.entry.x | _ => BitVec.ofNat 64 s.curn,
    planes := x.reads, tiles := (versionsOf x.entry.instr).2.map (·.t), ver := 0, held := [], skip := x.skipped, gsid := x.gsid }

/-- What runs on the unit: a window entry that a replay reruns, or the command itself (R243). -/
def MExec.work (x : MExec) (s : Slab) : WinEntry := x.todo.headD (x.own s)

/-- The micro-PC of a command in execution: the steps that it has completed, 0 while a replay reruns the window before it (R230, R243). -/
def MExec.microPc (x : MExec) : Nat := if x.todo.isEmpty then x.steps else 0

/-- The first column of group `g` of a fixer in execution, whose start has moved CURS past all its groups (R239). -/
def MExec.fixColumn (x : MExec) (s : Slab) (f : XForm) (g : Nat) : Nat := s.curs - fixWidth f * x.groups + fixWidth f * g

/-! ## One step (R230) -/

/-- The accumulator row that step `i` of an MMA makes final, at the last pass of the row (R230). -/
def mmaRowAt (f : MForm) (i : Nat) : Option Nat :=
  match f with
  | .b16 => if 384 ≤ i ∧ i % 6 = 5 then some ((i - 384) / 6) else none
  | _ => if i % passes f = passes f - 1 then some (i / passes f) else none
/-- The row of the row buffer that step `i` of an MMA reads. -/
def mmaRowIn (f : MForm) (i : Nat) : Nat := match f with | .b16 => i % 192 / 6 | _ => i / passes f

/-- Place `key` of the slab is a row of the row buffer that the A read of step `i` of a command overwrites (R230). -/
def WinEntry.overwrites (w : WinEntry) (i key : Nat) : Bool :=
  match mxOf w.instr with
  | some (_, .mma ..) => decide (i < 8 ∧ 16384 ≤ key ∧ key < 16448 ∧ (key - 16384) % 32 / 4 = i)
  | _ => false

/-- The slab after step `i` of a command of its compute unit that changes the accumulator. `a r m` is row m of tile register r: row-quad q is
read in step q (R230). -/
def Slab.runStep (s : Slab) (w : WinEntry) (i : Nat) (a : Nat → Nat → Line) : Slab :=
  match mxOf w.instr with
  | some (_, .mma f prof _ t ..) =>
    let s := if i < 8 then
        let rows := (List.range 4).map (fun j => bufferRows f (a t (4 * i + j)) (a (t + 1) (4 * i + j)))
        let hi := s.rowbuf.splice (4 * i) (rows.map Prod.fst)
        { s with
          rowbuf := if f = .b16 then hi.splice (32 + 4 * i) (rows.map Prod.snd) else hi
          bad := s.bad.filter (fun k => !w.overwrites i k) }
      else s
    match mmaRowAt f i with
    | some m => { s with acc := s.acc.splice (512 * m) (s.mmaRow f prof w.n.toNat w.planes m) }
    | none => s
  | some (_, .mrot) =>
    if i % 16 = 15 then { s with acc := s.acc.splice (512 * (i / 16)) (s.rotatedRow w.n.toNat (i / 16)) } else s
  | _ => s

/-- The places of the slab, numbered as `Slab.bad` numbers them, that step `i` of a command reads (R230, R242); what its own A read has
overwritten before is no more. -/
def MExec.readsAt (x : MExec) (s : Slab) (w : WinEntry) (i key : Nat) : Bool :=
  let row := key / 512
  let col := key % 512
  !w.overwrites i key && match mxOf w.instr with
  | some (_, .mma f ..) =>
    if key < 16384 then mmaRowAt f i == some row && decide (col < w.n.toNat)
    else if key < 16448 then (key - 16384) % 32 == mmaRowIn f i && (decide (key < 16416) || decide (f = .b16))
    else decide (16512 ≤ key) && w.planes.contains ((key - 16512) / 512) && decide ((key - 16512) % 512 < w.n.toNat)
  | some (_, .mrot) => key == 16448 || (decide (key < 16384) && i % 16 == 0 && row == i / 16 && decide (col < w.n.toNat))
  | some (_, .mfix f ..) =>
    let c := x.fixColumn s f (i / 8)
    decide (key < 16384) && row / 4 == i % 8 && decide (c ≤ col ∧ col < c + fixWidth f ∧ col < s.curn)
  | _ => false

/-- The core after a step of command `x`, without its count (R230, R234, R239). -/
def Core.stepEffect (k : Core) (x : MExec) : Core :=
  let s := k.slab x.slab
  let w := x.work s
  match mxOf w.instr with
  | some (b, .sld f) =>
    let base := x.entry.y.toNat / 64
    let seen := s.window.any (fun w => w.planes.any x.writes.contains)
    let fresh (key : Nat) : Bool := decide (16512 ≤ key) && x.writes.contains ((key - 16512) / 512)
      && (key - 16512) % 512 / sldWidth f == x.steps
    k.modSlab b (fun s =>
      let u := s.loadStep f (fun n => k.line (base + n)) x.steps
      { u with bad := u.bad.filter (fun a => !fresh a), tile := if seen && decide (u.tile ≠ .closed) then .unanchored else u.tile })
  | some (_, .mfix f _ false ..) =>
    let c := x.fixColumn s f (x.steps / 8)
    let rows := (List.range 4).map (fun j => s.fixRow f c (4 * (x.steps % 8) + j))
    { k with sp := k.sp.splice (x.entry.x.toNat / 64 + 32 * (x.steps / 8) + 4 * (x.steps % 8)) rows }
  | _ => k.modSlab x.slab (fun s => s.runStep w x.steps (fun t m => (k.tile t).line m))

/-- The command after a completed step: a rerun entry that has run all its steps gives way to the next (R243). -/
def MExec.stepped (x : MExec) : MExec :=
  match x.todo with
  | [] => { x with steps := x.steps + 1 }
  | w :: r => if x.steps + 1 < mxSteps w.instr 0 then { x with steps := x.steps + 1 } else { x with steps := 0, todo := r }

/-- The commands of the core with `x`'s slab and unit changed. -/
def Core.modExec (k : Core) (x : MExec) (f : MExec → MExec) : Core :=
  { k with mexec := k.mexec.map (fun y => if y.slab = x.slab ∧ y.load = x.load then f y else y) }

/-! ## Errors (R242, R243) -/

/-- A core-context POISON fault of the engine (R242): it names the slab, the command's word and its micro-PC. -/
def MExec.coreFault (x : MExec) : FaultInfo :=
  { code := .poison, src := 6, unit := 1 + 4 * x.slab, word := x.entry.va, info := 4, prog := x.microPc }

/-- The tile register that a fixer publishes. -/
def MExec.dest (x : MExec) : Option Nat := match mxOf x.entry.instr with | some (_, .mfix _ _ true t _) => some t | _ => none

/-- The window entries that a replay for `x` reruns before it: all but itself (R243). -/
def MExec.replayList (x : MExec) (s : Slab) : List WinEntry :=
  match mxOf x.entry.instr with
  | some (_, .mfix ..) => s.window
  | _ => s.window.dropLast

/-- A command whose window replays, with the rerun's first cycle `from`: it runs again from micro-PC 0 after the entries before it, and retires as
much later; a fixer's destination publishes then (R243). -/
def Core.replay (k : Core) (x : MExec) (first : Nat) : Core :=
  let s := k.slab x.slab
  let todo := x.replayList s
  let own := mxSteps x.entry.instr x.groups
  let retire := first + (todo.map (fun w => mxSteps w.instr 0)).foldl (· + ·) own - 1 + mxTail x.entry.instr
  let k := (k.modSlab x.slab (fun s =>
    { s with acc := .empty, replayed := true, bad := s.bad.filter (fun a => decide (16512 ≤ a)) })).modExec x
      (fun y => { y with steps := 0, todo := todo, rerun := true, retire := retire })
  match x.dest with
  | some t => { k with twrites := k.twrites.map (fun n w => if n = t then { w with due := some retire } else w) }
  | none => k

/-- An uncorrectable error in the accumulator, the row buffer or the constant store is consumed by command `x` (R242, R243): a
replay, the first in this tile, of an anchored tile under REPLAY; or a core-context fault, after which a fixer's destination never
publishes: the fixer writes no poisoned value (R239). `first` is the cycle of the replay's first step. -/
def State.engineError (s : State) (c : Nat) (x : MExec) (first : Nat) : State :=
  let b := (s.core c).slab x.slab
  if b.tile = .anchored ∧ b.cfg.getLsbD 0 ∧ !b.replayed then s.modCore c (fun k => k.replay x first)
  else (s.modCore c (fun k =>
    let k := k.modExec x (fun y => { y with failed := true })
    match x.dest with
    | some t => { k with twrites := k.twrites.map (fun n w => if n = t then { w with due := none } else w) }
    | none => k)).parkCore c x.coreFault

/-- What the start of command `x` did to its slab and to the tile store undone: an MMA's or MROT's place in the window, a fixer's advance of
CURS and its reservation (R231, R242). -/
def Core.unstart (k : Core) (x : MExec) : Core :=
  match mxOf x.entry.instr with
  | some (b, .mma ..) | some (b, .mrot) => k.modSlab b (fun s => { s with window := s.window.dropLast })
  | some (b, .mfix f ..) =>
    let k := k.modSlab b (fun s => { s with curs := s.curs - fixWidth f * x.groups })
    match x.dest with
    | some t => { k.modTile t (fun y => { y with wpend := false }) with twrites := k.twrites.drop t }
    | none => k
  | _ => k

/-- The command that met a poisoned plane goes back to its queue's head with its fault, as at its start: its claims are
restored, what its start did is undone, its pops stand, and the accumulator keeps the rows already done (R231, R242). -/
def State.planeError (s : State) (c : Nat) (x : MExec) (cols : List (Nat × Nat)) : State :=
  let g := x.gsid
  let i := g % 4
  let u := s.modCore c (fun k =>
    let k := k.modSlab x.slab (fun b => cols.foldl (fun (b : Slab) p =>
      b.setPlane p.1 ((b.plane p.1).mod {} p.2 (fun y => { y with poison := true })) (b.pfmt p.1)) b)
    let k := x.claims.foldl (fun (k : Core) t => k.modTile t (fun y =>
      if x.got then { y with rdrem := y.rdrem + 1, held := y.held - 1, clb := y.clb &&& ~~~BitVec.ofNat 4 (2 ^ i) }
      else { y with commit := y.commit - 1 })) k
    let k := (k.unstart x).modSlab x.slab (fun b => { b with
      bad := b.bad.filter (fun a => !cols.any (fun p => a == 16512 + 512 * p.1 + p.2)) })
    { k.modStream i (fun t => t.modEntry 1 x.entry.number (fun e => { e with started := false })) with
      mexec := k.mexec.filter (fun y => !(y.slab == x.slab && y.load == x.load)) })
  u.commandFault g 1 x.entry x.slab { code := .poison, info := 3 }

/-- A plane and column of a place. -/
def planeOf (key : Nat) : Nat × Nat := ((key - 16512) / 512, (key - 16512) % 512)

/-- Errors found by command `x` in these places, each counted at its source (R242, R393): those of planes poison the columns. -/
def State.found (s : State) (c : Nat) (x : MExec) (keys : List Nat) (first : Nat) : State :=
  let u := keys.foldl (fun (u : State) k => u.countError 0 (slabSource c x.slab k)) s
  if keys.any (fun k => decide (k < 16512)) then u.engineError c x first else u.planeError c x (keys.map planeOf)

/-- The tile registers that the step of a rerun reads again; the command's own first read has woken their banks at its start (R173, R243). -/
def MExec.rereads (x : MExec) (s : Slab) : List Nat := if x.rerun && decide (x.steps < 8) then (x.work s).tiles else []

/-- A cycle in which a command's step waits: it retires, and its destination publishes, as much later. -/
def Core.delay (k : Core) (x : MExec) : Core :=
  let k := k.modExec x (fun y => { y with retire := y.retire + 1 })
  match x.dest with
  | some t => { k with twrites := k.twrites.map (fun n w => if n = t then { w with due := w.due.map (· + 1) } else w) }
  | none => k

/-- The step of command `x` of core `c` in this cycle: it waits for a bank, meets an error in what it reads, or runs (R131, R173, R230,
R242). -/
def State.stepMx (s : State) (c : Nat) (x : MExec) : State :=
  let k := s.core c
  let b := k.slab x.slab
  if x.failed || x.skipped || (x.todo.isEmpty && decide (mxSteps x.entry.instr x.groups ≤ x.steps)) then s
  else
    let r := k.touchAll s.cycle (x.rereads b)
    let s := s.modCore c (fun _ => r.2)
    if !r.1 || !k.bankFree .matrix x.spLines s.cycle then s.modCore c (·.delay x)
    else
      let hits := b.bad.filter (x.readsAt b (x.work b) x.steps)
      if hits.isEmpty then s.modCore c (fun k => ((k.stepEffect x).modExec x MExec.stepped).useBanks .matrix x.spLines s.cycle)
      else s.found c x hits (s.cycle + 1)

/-- The steps of this cycle of every command in execution on core `c`. -/
def State.stepMatrix (s : State) (c : Nat) : State := (s.core c).mexec.foldl (fun (u : State) x => u.stepMx c x) s

/-- ENGINE_UNCORRECTABLE_ERROR (R242): on core `site.unit`, slab `site.sub`. With bit 63 of `site.val` clear and bit 62 clear, the command in
execution on the compute unit consumes an error in the accumulator, row buffer or constant store; with bit 63 set, one in column
`site.val` of a plane that it reads; a command that reads none of these consumes nothing. With bit 62 set the place that bits 15:0 number is
struck and stays dormant until something reads it. -/
def execEngineUncorrectableError (s : State) : Host.Outcome State Fault Refusal :=
  let c := s.site.unit
  let n := (s.site.val.setWidth 9 : BitVec 9).toNat
  if s.site.val.getLsbD 62 then
    .next (s.modCore c (fun k => k.modSlab s.site.sub (fun b => { b with bad := b.bad ++ [(s.site.val.setWidth 16 : BitVec 16).toNat] })))
  else match (s.core c).mexec.find? (fun x => x.slab == s.site.sub && !x.load && !x.failed) with
  | none => .next s
  | some x =>
    match mxOf x.entry.instr with
    | none | some (_, .sswap) | some (_, .mzero) | some (_, .sld _) => .next s
    | _ =>
      if x.skipped then .next s
      else if s.site.val.getLsbD 63 then
        (if x.reads.isEmpty || decide (x.entry.x.toNat ≤ n) then .next s
         else .next ((s.countError 0 (slabSource c x.slab (16512 + n))).planeError c x (x.reads.map (fun p => (p, n)))))
      else .next ((s.countError 0 (slabSource c x.slab 0)).engineError c x s.cycle)

/-! ## Claims and retirement (R171, R230) -/

/-- The A claims of a command consumed, and held unless it is skipped (R171, R172). -/
def Core.consumeMx (k : Core) (x : MExec) : Core :=
  if x.got then k
  else
    let k := x.claims.foldl (fun (u : Core) t => u.modTile t (fun y =>
      let y := y.consume (x.gsid % 4)
      if x.skipped then y else { y with held := y.held + 1 })) k
    k.modExec x (fun y => { y with got := true })

/-- The claims whose A read completes in cycle `now` (R230). -/
def Core.consumeMxDue (k : Core) (now : Nat) : Core :=
  k.mexec.foldl (fun (u : Core) x => if x.start + 7 ≤ now then u.consumeMx x else u) k

/-- The effects of a command at its retirement: an SLD's formats and ACT, and the tile end of a fixer (R234, R239). -/
def Core.finishMx (k : Core) (x : MExec) : Core :=
  match mxOf x.entry.instr with
  | some (b, .sld f) => if x.skipped then k else k.modSlab b (·.loaded f)
  | some (b, .mfix ..) => if (k.slab b).curn ≤ (k.slab b).curs then k.endTile b else k
  | _ => k

/-- The number of the unit that a command runs on: its slab twice, plus 1 for the load port. -/
def mxUnit (slab : Nat) (load : Bool) : Nat := 2 * slab + if load then 1 else 0

/-- A fixer's destination that has still to publish: any other write of the register is reserved after the retirement, and lands later than the
next cycle. -/
def Core.unpublished (k : Core) (x : MExec) : Bool :=
  match x.dest.bind k.twrites.find? with
  | some w => (match w.due with | some d => decide (d ≤ x.retire + 1) | none => false)
  | none => false

/-- MATRIX_COMMAND_RETIRE (R230): the command on unit `site.sub` (slab x 2, plus 1 for the load port) of core `site.unit` retires
at the end of its last cycle, once its pushes have room; a fixer's destination has then published. -/
def execMatrixCommandRetire (s : State) : Host.Outcome State Fault Refusal :=
  let c := s.site.unit
  let k := s.core c
  match k.mexec.find? (fun x => mxUnit x.slab x.load == s.site.sub) with
  | none => .next s
  | some x =>
    let i := x.gsid % 4
    let t := k.stream i
    if x.failed || decide (s.cycle < x.retire) || !x.complete || k.unpublished x then .next s
    else match t.pushTokens (k.room i) 1 x.entry.instr ((t.before 1 x.entry).raise 1 x.entry.number) with
      | none => .next s
      | some t' =>
        let k := ((k.consumeMx x).finishMx x).modStream i (fun _ => (t'.retired 1 x.entry).dropEntry 1 x.entry.number)
        .next (s.modCore c (fun _ => { k with
          mexec := k.mexec.filter (fun y => !(y.slab == x.slab && y.load == x.load)) }))

end Sys2Proof.Machine
end

