-- ==== Sys2Proof/Machine/Pack.lean ====
section
/-! DEFINITION. Machine/Pack.lean: the records of a context image as bytes, and what those bytes give back (R372, R384 to R387). The
manual names what each record holds; where it does not lay out the bits, the bits are the model's (entry 25). `x` is the last cycle that
the context has seen: a count k of an image stands for cycle x + k (R166). -/
namespace Sys2Proof.Machine

/-- A bit of a number. -/
def bit (v i : Nat) : Bool := v / 2 ^ i % 2 == 1
/-- A Bool as a number. -/
def num (b : Bool) : Nat := if b then 1 else 0
/-- `n` bits of a number from bit `i`. -/
def bits (v i n : Nat) : Nat := v / 2 ^ i % 2 ^ n

/-! ## Streams (R386) -/

/-- STATE of a stream. -/
def Stream.stateCode (t : Stream) : Nat :=
  (match t.status with
   | .never => 0 | .running => 1 | .held => 2 | .parked => 3 | .halted => 4 | .idle => 5 | .atTend => 6)
    + if t.pend.isSome || t.coreRec.isSome then 8 else 0

/-- What a STATE says. A stream held at a wait evaluates its group again. -/
def statusOf (v : Nat) : Status :=
  match v % 8 with
  | 1 | 2 => .running | 3 => .parked | 4 => .halted | 5 => .idle | 6 => .atTend | _ => .never

/-- A region as 12 bytes: byte 0 its kind (0 empty, 1 scratchpad, 2 VA), then base and length. -/
def FRegion.pack : FRegion → Nat
  | .empty => 0
  | .sp b n => 1 + b % 2 ^ 48 * 2 ^ 8 + n % 2 ^ 40 * 2 ^ 56
  | .va b n => 2 + b % 2 ^ 48 * 2 ^ 8 + n % 2 ^ 40 * 2 ^ 56
/-- The region that 12 bytes give. -/
def unpackRegion (v : Nat) : FRegion :=
  match v % 256 with
  | 0 => .empty
  | 1 => .sp (bits v 8 48) (bits v 56 40)
  | _ => .va (bits v 8 48) (bits v 56 40)
/-- A footprint slot as 32 bytes. -/
def Foot.pack (f : Foot) : Nat := num f.declared + f.rd.pack * 2 ^ 32 + f.wr.pack * 2 ^ 144
/-- The slot that 32 bytes give. -/
def unpackFoot (v : Nat) : Foot := ⟨bit v 0, unpackRegion (bits v 32 96), unpackRegion (bits v 144 96)⟩

/-- TINFO. -/
def Task.info (t : Task) : Nat :=
  t.bound.toNat + t.inc.toNat * 2 ^ 32 + num t.ben * 2 ^ 36 + num t.btype * 2 ^ 37 + num t.killed * 2 ^ 38
    + t.depth.toNat * 2 ^ 48
/-- The task with TINFO taken from a number. -/
def Task.setInfo (t : Task) (v : Nat) : Task :=
  { t with bound := BitVec.ofNat 32 v, inc := BitVec.ofNat 4 (v / 2 ^ 32), ben := bit v 36, btype := bit v 37,
           killed := bit v 38, depth := BitVec.ofNat 16 (v / 2 ^ 48) }

/-- SEGST. -/
def Seg.st (g : Seg) : Nat := g.crc.toNat + g.n % 2 ^ 19 * 2 ^ 32 + num g.isOpen * 2 ^ 63
/-- SEGEXP. -/
def Seg.exp (g : Seg) : Nat := g.sig.toNat + g.count.toNat * 2 ^ 32

/-- The register that a LATENCY number names (R373). -/
def regOf (v : Nat) : PReg := if v < 32 then .s v else if v < 40 then .q (v - 32) else if v < 56 then .m (v - 48) else .j (v - 56)

/-- A latent write as 16 bytes: value, register as R373 numbers it, k. An M value stands in its own slot. -/
def Latent.pack (l : Latent) (x : Nat) : Nat :=
  let m := match l.reg with | .m _ => true | _ => false
  (if m then 0 else (match l.val with | some v => v.toNat % 2 ^ 64 | none => 0))
    + l.reg.addr.toNat * 2 ^ 64 + (l.due - x) % 2 ^ 32 * 2 ^ 96
/-- The latent write that 16 bytes give. -/
def unpackLatent (v x : Nat) : Latent :=
  { reg := regOf (bits v 64 32), val := some (BitVec.ofNat 512 (v % 2 ^ 64)), issued := x, due := x + bits v 96 32 }

/-- The fault code of a number (R371). -/
def codeOf (v : Nat) : FCode :=
  [.illegal, .align, .page, .perm, .version, .latency, .memrace, .footprint, .ring, .poison, .segment, .deadlock, .queue,
    .journal, .arith, .trap].getD (v - 1) .trap
/-- The record that 64 bytes give. -/
def unpackRec (v : Nat) : FRec :=
  let w (i : Nat) : Word := BitVec.ofNat 64 (bits v i 64)
  { code := codeOf (bits v 0 16), kind := bits v 16 8, src := bits v 24 8, gsid := bits v 32 16, unit := bits v 48 8,
    lid := bits v 64 32, ctx := bits v 96 12, pc := w 128, word := w 192, addr := w 256, info := w 320, args := w 384,
    prog := bits v 448 32, num := bits v 480 32 }

/-! ## Queues (R387) -/

/-- An entry of an access queue, and the TKSEND of one. -/
def isAqEntry (i : Instr) : Bool := match i with | .tksend _ q => q == 3 | _ => tagOf i == none

/-- RD and HINT of an entry. -/
def rdHint : Instr → Nat × Nat
  | .cpyLd _ _ _ _ _ rd hint | .cpySt _ _ _ _ _ rd hint | .fillLd _ _ _ _ _ rd hint | .fillSt _ _ _ _ _ rd hint => (rd.toNat, hint.toNat)
  | .gath _ _ _ _ _ rd hint _ | .scat _ _ _ _ _ rd hint _ => (rd.toNat, hint.toNat)
  | i => if isAqEntry i then ((encode i).toNat / 2 ^ 17 % 8, (encode i).toNat / 2 ^ 15 % 4) else (0, 0)

/-- A matrix entry captures configuration in bytes 32 to 39; the others show CPID, RD and HINT there. -/
def QEntry.isMx (e : QEntry) : Bool := (mxOf e.instr).isSome

/-- The progress of an entry, bytes 40 to 43: lines, or rows of a GATH or SCAT and from bit 16 on the lines of the row that it is in. For an
access-queue operation bit 0 says that it has performed, and bit 1 that its reply carries a value. -/
def QEntry.progress (e : QEntry) : Nat :=
  match e.job with
  | some j => (match j.kind with | .rows => e.prog / (j.rowl + 1) + e.prog % (j.rowl + 1) * 2 ^ 16 | _ => e.prog)
  | none => if isAqEntry e.instr then num e.done + 2 * num e.reply.isSome else e.prog

/-- Bytes 32 to 39 of an entry. -/
def QEntry.caught (e : QEntry) : Nat :=
  if e.isMx then e.conf.toNat % 2 ^ 9 + e.conf2.toNat % 2 * 2 ^ 16
  else e.cpid % 8 + 8 * (rdHint e.instr).1 + 64 * (rdHint e.instr).2

/-- A queue entry as 64 bytes; `prog` is the progress that it shows. -/
def QEntry.packWith (e : QEntry) (prog : Nat) : Nat :=
  (encode e.instr).toNat + e.x.toNat * 2 ^ 64 + e.y.toNat * 2 ^ 128 + (if isAqEntry e.instr then e.dest else e.z.toNat) * 2 ^ 192
    + e.caught * 2 ^ 256 + prog % 2 ^ 32 * 2 ^ 320
    + (1 + 2 * num (e.started || e.done) + 4 * num e.cancel + 8 * num e.fault.isSome + 16 * num e.popped) * 2 ^ 352

/-- A queue entry as 64 bytes. -/
def QEntry.pack (e : QEntry) : Nat := e.packWith e.progress

/-- The entry of queue `q` that 64 bytes give, the `n`-th of its queue, in a stream whose registers are those of `t`. What the bytes do not
hold is taken from the registers as they stand, its predicate among them, or is nothing (entry 25): a fault that the entry held is met
again. `order` is its place in the issue order. -/
def unpackEntry (t : Stream) (n order v x : Nat) : Option QEntry :=
  match decode (BitVec.ofNat 64 v) with
  | .error _ => none
  | .ok i =>
    let w (o : Nat) : Word := BitVec.ofNat 64 (bits v o 64)
    let c := bits v 256 64
    let st := bits v 352 8
    let p := bits v 320 32
    let aq := isAqEntry i
    let mx := (mxOf i).isSome
    let wide := match i with | .axchgN128 _ _ | .acasN128 _ _ => true | _ => false
    let dest := bits v 192 5
    let e : QEntry := { instr := i, x := w 64, y := w 128, z := if aq then t.s.get 0 dest else w 192, dest := if aq then dest else 0,
                        conf := if mx then BitVec.ofNat 64 (c % 2 ^ 9) else 0, conf2 := if mx then BitVec.ofNat 64 (c / 2 ^ 16 % 2) else 1,
                        cpid := if mx then 0 else c % 8, number := n, order := order, entered := x, cancel := bit st 2,
                        skip := !t.executes (hdr (BitVec.ofNat 64 v)),
                        started := bit st 1, popped := bit st 4, idx := if wide then [dest + 1] else [] }
    let e := if aq then { e with done := bit p 0, started := bit st 1 && !bit p 0, since := x, reply := if bit p 1 then some 0 else none }
      else { e with prog := match e.job with
        | some j => (match j.kind with | .rows => p % 2 ^ 16 * (j.rowl + 1) + p / 2 ^ 16 | _ => p)
        | none => p }
    some e

/-- A rail-bound instruction in progress as 32 bytes: word, row cycles since issue, whether it executes, S value, the tile registers
whose claims it holds, and the cycles since its issue. -/
def VFlight.pack (f : VFlight) (x : Nat) : Nat :=
  (encode f.instr).toNat + f.age % 2 ^ 32 * 2 ^ 64 + num f.exec * 2 ^ 96 + (x - f.issued) % 2 ^ 30 * 2 ^ 98 + f.sval.toNat * 2 ^ 128
    + f.claims.foldl (fun a t => a ||| 2 ^ (t % 64)) 0 * 2 ^ 192
/-- The flight that 32 bytes give; it reads its sources from the registers of `k`, and its mask from the stream's. -/
def unpackFlight (k : Core) (t : Stream) (v x : Nat) : Option VFlight :=
  match decode (BitVec.ofNat 64 v) with
  | .error _ => none
  | .ok i =>
    (tvOf i).map (fun p =>
      { instr := i, exec := bit v 96, age := bits v 64 32, ta := (k.tile p.2.ta.toNat).row, tb := (k.tile p.2.tb.toNat).row,
        mask := if p.2.men == 1#1 then t.mreg p.2.msk else BitVec.allOnes 512, sval := BitVec.ofNat 64 (bits v 128 64), taps := .empty,
        issued := x - bits v 98 30, claims := (List.range 64).filter (fun r => bit v (192 + r)) })

/-- Claims of reads that are not rail-bound, eight to 32 bytes: bit 97 marks them, and from bit 128 on stand a tile register and k each. -/
def packClaims (cs : List Claim) (x : Nat) : Nat :=
  2 ^ 97 + 2 ^ 128 * cs.foldr (fun c a => c.tile % 256 + (c.due - x) % 256 * 2 ^ 8 + a * 2 ^ 16) 0
/-- The claims of stream `g` that 32 bytes give. -/
def unpackClaims (g v x : Nat) : List Claim :=
  (List.range 8).filterMap (fun i =>
    let c := bits v (128 + 16 * i) 16
    if c / 256 = 0 then none else some { tile := c % 256, gsid := g, due := x + c / 256 })

/-! ## Rings, chains, tiles -/

/-- A handle as 32 bytes. -/
def Ring.pack (r : Ring) : Nat :=
  (match r.kind with | .data => 0 | .token => 1 | .outcome => 2) + r.count.toNat * 2 ^ 16 + r.base.toNat * 2 ^ 32
    + r.size.toNat * 2 ^ 64 + r.pi.toNat * 2 ^ 96 + r.ci.toNat * 2 ^ 112 + r.filled.toNat * 2 ^ 128 + r.obits.toNat * 2 ^ 192
/-- The handle that 32 bytes give. -/
def unpackRing (v : Nat) : Ring :=
  { kind := match v % 256 with | 0 => .data | 1 => .token | _ => .outcome, count := BitVec.ofNat 16 (v / 2 ^ 16),
    base := BitVec.ofNat 19 (v / 2 ^ 32), size := BitVec.ofNat 19 (v / 2 ^ 64), pi := BitVec.ofNat 16 (v / 2 ^ 96),
    ci := BitVec.ofNat 16 (v / 2 ^ 112), filled := BitVec.ofNat 17 (v / 2 ^ 128), obits := BitVec.ofNat 64 (v / 2 ^ 192) }

/-- A chain unit as 32 bytes: HEAD, CUR, its flags, the progress of its entry (rows of a GATH or SCAT, and the lines of the row that it is
in), the entry's place in the issue order, its CPID, and the footprint slot of an entry that has been fetched. -/
def Chain.pack (c : Chain) : Nat :=
  let p := match c.entry with
    | some e => (let j := chainJob true e; ((j.progress c.prog), match j.kind with | .rows => c.prog % (j.rowl + 1) | _ => 0))
    | none => (c.prog, 0)
  c.head.toNat + c.cur.toNat * 2 ^ 64
    + (num c.run + 2 * num c.pend + 4 * num c.waited + 8 * num c.fault.isSome + 16 * num c.skip + 32 * num c.fp.isSome) * 2 ^ 128
    + p.2 * 2 ^ 136 + p.1 % 2 ^ 32 * 2 ^ 160 + c.order % 2 ^ 32 * 2 ^ 192 + c.cpid % 8 * 2 ^ 224 + c.fp.getD 0 % 32 * 2 ^ 227
/-- The unit that 32 bytes give. An entry in progress is read again from CUR; until then `prog` counts its rows or lines, and `idx` keeps the
lines of the row that it is in. -/
def unpackChain (v x : Nat) : Chain :=
  { head := BitVec.ofNat 64 v, cur := BitVec.ofNat 64 (v / 2 ^ 64), run := bit v 128, pend := bit v 129, waited := bit v 130,
    skip := bit v 132, prog := bits v 160 32, idx := [bits v 136 8], order := bits v 192 32, cpid := bits v 224 3, kicked := x,
    fp := if bit v 133 then some (bits v 227 5) else none }

/-- A tile register's counts as 16 bytes. -/
def Tile.pack (x : Tile) : Nat :=
  x.wcnt.toNat + x.rdrem.toNat * 2 ^ 16 + x.commit.toNat * 2 ^ 24 + num x.isOpen * 2 ^ 32 + x.held.toNat * 2 ^ 40
    + x.clb.toNat * 2 ^ 48 + num x.wpend * 2 ^ 56
/-- The register with the counts of an image. -/
def Tile.unpack (x : Tile) (v : Nat) : Tile :=
  { x with wcnt := BitVec.ofNat 16 v, rdrem := BitVec.ofNat 4 (v / 2 ^ 16), commit := BitVec.ofNat 4 (v / 2 ^ 24),
           isOpen := bit v 32, held := BitVec.ofNat 4 (v / 2 ^ 40), clb := BitVec.ofNat 4 (v / 2 ^ 48), wpend := bit v 56 }

/-- Side field, tag and poison of a line as 9 bytes. -/
def Line.flags (l : Line) : Nat := l.side.toNat + (l.tag.toNat + 4 * num l.poison) * 2 ^ 64
/-- The line with the side field, tag and poison of 9 bytes. -/
def Line.withFlags (l : Line) (v : Nat) : Line :=
  { l with side := BitVec.ofNat 64 v, tag := BitVec.ofNat 2 (v / 2 ^ 64), poison := bit v 66 }

/-! ## Slabs (R220, R384) -/

/-- A plane format's number. -/
def PFmt.num : PFmt → Nat
  | .none => 0 | .db8 => 1 | .db4 => 2 | .i8 => 3 | .b16hi => 4 | .b16lo => 5
/-- The plane format of a number. -/
def fmtOf (v : Nat) : PFmt := [.none, .db8, .db4, .i8, .b16hi, .b16lo].getD v .none

/-- Slab control as 56 bytes: micro-PC and load-port progress are `mx` and `ld`, the engine's round-robin pointer `rr`. -/
def Slab.pack (l : Slab) (mx ld rr : Nat) : Nat :=
  num l.act + l.pf0.num * 2 ^ 8 + l.pf1.num * 2 ^ 16
    + (match l.tile with | .closed => 0 | .anchored => 1 | .unanchored => 2) * 2 ^ 24
    + l.curn % 2 ^ 32 * 2 ^ 32 + l.curs % 2 ^ 32 * 2 ^ 64 + num l.replayed * 2 ^ 96 + rr % 8 * 2 ^ 104
    + l.fix.toNat * 2 ^ 128 + l.cfg.toNat * 2 ^ 192 + l.fixSh.toNat * 2 ^ 256 + l.cfgSh.toNat * 2 ^ 320
    + mx % 2 ^ 32 * 2 ^ 384 + ld % 2 ^ 32 * 2 ^ 416
/-- The slab with the control of 56 bytes. -/
def Slab.unpack (l : Slab) (v : Nat) : Slab :=
  let w (i : Nat) : Word := BitVec.ofNat 64 (bits v i 64)
  { l with
    act := bit v 0, pf0 := fmtOf (bits v 8 8), pf1 := fmtOf (bits v 16 8),
    tile := match bits v 24 8 with | 0 => .closed | 1 => .anchored | _ => .unanchored
    curn := bits v 32 32, curs := bits v 64 32, replayed := bit v 96, fix := w 128, cfg := w 192, fixSh := w 256, cfgSh := w 320 }

/-- A window entry as 16 bytes: word, N, planes, which of its A registers hold a claim, whether it was skipped, and its stream. -/
def WinEntry.pack (w : WinEntry) : Nat :=
  let has (l : List Nat) (i : Nat) : Nat := match w.tiles[i]? with | some t => num (l.contains t) | none => 0
  (encode w.instr).toNat + w.n.toNat % 2 ^ 16 * 2 ^ 64 + num (w.planes.contains 0) * 2 ^ 80 + num (w.planes.contains 1) * 2 ^ 81
    + (if w.planes.head? = some 1 then 2 ^ 82 else 0) + has w.held 0 * 2 ^ 83 + has w.held 1 * 2 ^ 84 + num w.skip * 2 ^ 85
    + w.gsid % 4 * 2 ^ 86
/-- The window entry of core `c` that 16 bytes give. -/
def unpackWin (c v : Nat) : Option WinEntry :=
  match decode (BitVec.ofNat 64 v) with
  | .error _ => none
  | .ok i =>
    let ts := (versionsOf i).2
    let tiles := ts.map (·.t)
    let p := (if bit v 80 then [0] else []) ++ (if bit v 81 then [1] else [])
    some { instr := i, n := BitVec.ofNat 64 (bits v 64 16), planes := if bit v 82 then p.reverse else p, tiles := tiles,
           ver := (ts.head?.map (·.ver.toNat)).getD 0, held := (tiles.zipIdx.filter (fun t => bit v (83 + t.2))).map Prod.fst,
           skip := bit v 85, gsid := 4 * c + bits v 86 2 }

/-- The progress of a matrix command in execution: steps, cycles until it retires where its steps are done, window entries that a replay has
still to rerun, whether its A read is complete, whether it has failed, the groups of a fixer, and whether a replay runs it. -/
def MExec.pack (e : MExec) (x : Nat) : Nat :=
  e.steps % 2 ^ 10 + (if e.complete then (e.retire - x) % 16 * 2 ^ 10 else 0) + e.todo.length % 32 * 2 ^ 14 + num e.got * 2 ^ 19
    + num e.failed * 2 ^ 20 + e.groups % 64 * 2 ^ 21 + num e.rerun * 2 ^ 27

/-- The command in execution that a started entry of stream `g` and its progress `p` give on core `k`. -/
def unpackExec (k : Core) (g x : Nat) (e : QEntry) : Option MExec :=
  let p := e.prog
  let skip := e.skip || e.cancel
  (mxOf e.instr).map (fun m =>
    let b := k.slab m.1
    let own := b.window.reverse.find? (fun w => w.instr == e.instr && w.gsid == g)
    let rerun := (match m.2 with | .mfix .. => b.window | _ => b.window.dropLast)
    let steps := bits p 0 10
    let got := bit p 19
    let y : MExec :=
      { entry := { e with prog := 0 }, gsid := g, slab := m.1, load := match m.2 with | .sld _ => true | _ => false, start := x + 1 - steps,
        retire := 0, reads := if skip then [] else (own.map (·.planes)).getD [],
        writes := match m.2 with | .sld .b16 => [0, 1] | .sld _ => [b.shadow] | _ => [],
        claims := if got then (own.map (·.held)).getD [] else ((versionsOf e.instr).2.filter k.hasClaim).map (·.t), got := got,
        groups := bits p 21 6, steps := steps, todo := rerun.drop (rerun.length - bits p 14 5), failed := bit p 20,
        rerun := bit p 27 }
    let rest := (y.todo.map (fun w => mxSteps w.instr 0)).foldl (· + ·) (mxSteps e.instr y.groups) - steps
    let retire := if y.complete then x + bits p 10 4 else x + rest + mxTail e.instr
    { y with retire := retire, start := if skip && !got then retire - 7 else y.start })

end Sys2Proof.Machine
end

