-- ==== Sys2Proof/Machine/Sheet.lean ====
section
/-! DEFINITION. Machine/Sheet.lean: the context image of a core, which the contact sheet shows, SNAP reads, and save, restore
and launch carry (R175, R176, R311, R383 to R387). Where the manual names a section's content and not the bits in it, the
bits are the model's (entry 25). -/
namespace Sys2Proof.Machine

/-- An array of `count` values of `bytes` bytes at offsets `base` + `stride` i of the image: how the core gives value `i`, and
the core with value `i` taken from an image. -/
structure Field where
  base   : Nat
  stride : Nat
  count  : Nat
  bytes  : Nat
  get    : Core → Nat → Nat
  set    : Core → Nat → Nat → Core

/-- Byte `o` of the image, where the field holds it. -/
def Field.byte? (f : Field) (k : Core) (o : Nat) : Option Nat :=
  let i := (o - f.base) / f.stride
  let r := (o - f.base) % f.stride
  if f.base ≤ o ∧ i < f.count ∧ r < f.bytes then some (f.get k i / 2 ^ (8 * r) % 256) else none

/-- A number without repetitions of consecutive equals. -/
def dedup : List Nat → List Nat
  | a :: b :: r => if a = b then dedup (b :: r) else a :: dedup (b :: r)
  | l => l

/-- The cells of an image that the field takes in. -/
def Field.hits (f : Field) (img : List Host.Cell) : List Host.Cell :=
  img.filter (fun c => decide (f.base ≤ c.1 ∧ (c.1 - f.base) / f.stride < f.count ∧ (c.1 - f.base) % f.stride < f.bytes))

/-- The values of the field that an image gives as core `o` gives them. -/
def Field.kept (f : Field) (o : Core) (img : List Host.Cell) : List Bool :=
  let hits := f.hits img
  (List.range f.count).map (fun i => f.get o i == Memory.getNat hits (f.base + f.stride * i) f.bytes)

/-- The core with the field taken from an image: a value whose bytes are all zero is what the core holds before. -/
def Field.load (f : Field) (img : List Host.Cell) (k : Core) : Core :=
  let hits := f.hits img
  (dedup (hits.map (fun c => (c.1 - f.base) / f.stride))).foldl
    (fun k i => f.set k i (Memory.getNat hits (f.base + f.stride * i) f.bytes)) k

/-- An image with the field written into it. -/
def Field.save (f : Field) (k : Core) (img : List Host.Cell) : List Host.Cell :=
  (List.range f.count).foldl (fun m i =>
    let v := f.get k i
    if v = 0 then m else Memory.setNat m (f.base + f.stride * i) f.bytes v) img

/-! ## Stream records (R386) -/

/-- One value of a stream at offset `off` of the record of stream `s`. -/
def streamField (s off bytes : Nat) (get : Stream → Nat) (set : Stream → Nat → Stream) : Field :=
  ⟨0x1000 + 0x2000 * s + off, bytes, 1, bytes, fun k _ => get (k.stream s), fun k _ v => k.modStream s (fun t => set t v)⟩

/-- An array of a stream at offset `off` of its record. -/
def streamArray (s off stride count bytes : Nat) (get : Stream → Nat → Nat) (set : Stream → Nat → Nat → Stream) : Field :=
  ⟨0x1000 + 0x2000 * s + off, stride, count, bytes, fun k i => get (k.stream s) i,
    fun k i v => k.modStream s (fun t => set t i v)⟩

/-- A stream with the status that STATE gives. One that stands parked is resumable unless a core-context fault has parked it; what it was doing
is no part of the image: running (entry 25). -/
def Stream.withState (t : Stream) (v : Nat) : Stream :=
  { t with status := statusOf v, started := v % 8 != 0, parkedIn := .running,
           parkedBy := if statusOf v = .parked then some { code := .trap } else none }

/-- A stream with the pending record of an image. -/
def Stream.withRecord (t : Stream) (v : Nat) : Stream :=
  let r := unpackRec v
  if r.kind = 2 then { t with coreRec := some r, parkedBy := some r } else { t with pend := some r, parkedBy := some r }

/-- The value of latent write `i` of a stream replaced by an M value. -/
def Stream.withMask (t : Stream) (i v : Nat) : Stream :=
  let put (l : Latent × Nat) : Latent := if l.2 = i then { l.1 with val := some (BitVec.ofNat 512 v) } else l.1
  { t with latents := t.latents.zipIdx.map put }

/-- The fields of the record of stream `s`, as at the end of cycle `x`. -/
def streamFields (x s : Nat) : List Field :=
  let w (v : Nat) : Word := BitVec.ofNat 64 v
  [ streamField s 0x000 8 Stream.stateCode Stream.withState,
    streamField s 0x008 8 (fun t => t.pc.toNat) (fun t v => { t with pc := codeAddr (w v) }),
    streamField s 0x010 8
      (fun t => match t.xfer.target with
        | some a => a.toNat % 2 ^ 48 + t.xfer.left * 2 ^ 48 + 2 ^ 63
        | none => t.xfer.left * 2 ^ 48)
      (fun t v => { t with xfer := { left := v / 2 ^ 48 % 4, target := if bit v 63 then some (codeAddr (w (v % 2 ^ 48))) else none,
                                     ready := t.xfer.ready, call := t.xfer.call } }),
    streamField s 0x018 8 (fun t => t.lc.toNat + t.ec.toNat * 2 ^ 32 + t.rotb.toNat * 2 ^ 40)
      (fun t v => { t with lc := BitVec.ofNat 32 v, ec := BitVec.ofNat 8 (v / 2 ^ 32), rotb := BitVec.ofNat 4 (v / 2 ^ 40) }),
    streamField s 0x028 8 (fun t => t.cpid.toNat) (fun t v => { t with cpid := BitVec.ofNat 3 v }),
    streamField s 0x030 8 (fun t => t.jlast.toNat) (fun t v => { t with jlast := w v }),
    streamField s 0x038 8 (fun t => t.seg.st)
      (fun t v => { t with seg := { t.seg with isOpen := bit v 63, n := v / 2 ^ 32 % 2 ^ 19, crc := BitVec.ofNat 32 v } }),
    streamField s 0x040 8 (fun t => t.seg.exp)
      (fun t v => { t with seg := { t.seg with count := BitVec.ofNat 19 (v / 2 ^ 32), sig := BitVec.ofNat 32 v } }),
    streamField s 0x048 8 (fun t => t.task.slot.toNat) (fun t v => { t with task := { t.task with slot := w v, active := v != 0 } }),
    streamField s 0x050 8 (fun t => t.task.join.toNat) (fun t v => { t with task := { t.task with join := w v } }),
    streamField s 0x058 8 (fun t => t.task.info) (fun t v => { t with task := t.task.setInfo v }),
    streamField s 0x060 8
      (fun t => (List.range 8).foldl (fun a i => a + num (if i = 0 then true else t.q.get false i) * 2 ^ i) 0)
      (fun t v => { t with q := (List.range 8).foldl (fun q i => if bit v i && decide (0 < i) then q.put i true else q) .empty }),
    streamArray s 0x068 8 8 8 (fun t i => (t.j.get 0 i).toNat) (fun t i v => { t with j := t.j.put i (codeAddr (w v)) }),
    streamArray s 0x100 8 32 8 (fun t i => if i = 0 then 0 else (t.s.get 0 i).toNat)
      (fun t i v => if i = 0 then t else { t with s := t.s.put i (w v) }),
    streamArray s 0x200 64 8 64 (fun t i => (t.m.get 0 i).toNat) (fun t i v => { t with m := t.m.put i (BitVec.ofNat 512 v) }),
    streamArray s 0x400 16 64 16 (fun t i => match (t.latents)[i]? with | some l => l.pack x | none => 0)
      (fun t _ v => { t with latents := t.latents ++ [unpackLatent v x] }),
    streamArray s 0x800 32 32 32 (fun t i => (t.slotOf i).pack) (fun t i v => { t with foot := t.foot.put i (unpackFoot v) }),
    streamArray s 0x1000 64 64 64
      (fun t i => match (t.latents)[i]? with
        | some l => (match l.reg, l.val with | .m _, some v => v.toNat | _, _ => 0)
        | none => 0) Stream.withMask ]

/-- STRCTL as the record of stream `s` holds it. An image sets EXPCHK and MARK. -/
def strctlField (c s : Nat) : Field :=
  streamField s 0x020 8 (fun t => (t.strctl (4 * c + s)).toNat) (fun t v => { t with expchk := bit v 0, mark := bit v 1 })

/-! ## Queue records (R387) -/

/-- The progress that entry `e` of queue `q` shows: that of a matrix command in execution is its engine's (R230). -/
def Core.progressOf (k : Core) (x q : Nat) (e : QEntry) : Nat :=
  match (if q = 1 then k.mexec.find? (fun m => m.entry.number == e.number && m.entry.va == e.va && m.entry.instr == e.instr) else none) with
  | some m => m.pack x
  | none => e.progress

/-- The stream with `n` tokens in FIFO or reply channel `i` of an image, counted 0 to 7 and 8 to 10. -/
def Stream.withTokens (t : Stream) (i n : Nat) : Stream :=
  let l : List Clock := List.replicate n {}
  if i < 8 then { t with tokens := t.tokens.put i l } else if i < 11 then { t with replies := t.replies.put (i - 8) l } else t

/-- The rows' claims of a core that no rail-bound instruction of stream `i` holds. -/
def Core.claimsOf (k : Core) (i : Nat) : List Claim := k.claims.filter (fun c => c.gsid % 4 == i)

/-- Record `i` of the instructions in progress of stream `s`: its rail-bound instructions, and after them the claims of its other reads. -/
def Core.inProgress (k : Core) (x s i : Nat) : Nat :=
  let fs := (k.stream s).flights
  match fs[i]? with
  | some f => f.pack x
  | none => (match (k.claimsOf s).drop (8 * (i - fs.length)) with | [] => 0 | cs => packClaims (cs.take 8) x)

/-- The core with a record of the instructions in progress of stream `s` of core `c` taken in. -/
def Core.takeProgress (k : Core) (x c s v : Nat) : Core :=
  if bit v 97 then { k with claims := k.claims ++ unpackClaims (4 * c + s) v x }
  else match unpackFlight k (k.stream s) v x with
    | some f =>
      let k := match flightDst f with | some r => k.modTile r (fun y => { y with resAt := f.issued }) | none => k
      k.modStream s (fun t => { t with flights := t.flights ++ [f] })
    | none => k

/-- The queue record of stream `s` of core `c`, and its pending record. -/
def queueFields (x c s : Nat) : List Field :=
  let b := 0x9000 + 0x4000 * s
  let put (q : Nat) (k : Core) (v : Nat) : Core := k.modStream s (fun t =>
    match unpackEntry t (t.counts.count q + 1) (64 * s + 16 * q + (t.queue q).length) v x with
    | some e => { t.setQueue q (t.queue q ++ [e]) with counts := t.counts.raise q e.number }
    | none => t)
  let q (n : Nat) : Field := ⟨b + 0x400 * n, 64, 16, 64,
    fun k i => match ((k.stream s).queue n)[i]? with | some e => e.packWith (k.progressOf x n e) | none => 0, fun k _ v => put n k v⟩
  [ q 0, q 1, q 2, q 3,
    ⟨b + 0x1000, 1, 12, 1, fun k i =>
      let t := k.stream s
      if i < 8 then (t.fifo i).length else if i < 11 then (t.replies.get [] (i - 8)).length
      else (t.aq.filter (fun e => e.done)).length, fun k i v => k.modStream s (fun t => t.withTokens i v)⟩,
    ⟨b + 0x1040, 16, 16, 16, fun k i =>
      match ((k.stream s).aq)[i]? with | some e => (match e.reply with | some v => v.toNat | none => 0) | none => 0,
      fun k i v => k.modStream s (fun t => { t with
        aq := t.aq.zipIdx.map (fun e => if e.2 = i ∧ e.1.reply.isSome then { e.1 with reply := some (BitVec.ofNat 128 v) } else e.1) })⟩,
    ⟨b + 0x1200, 256, 24, 256, fun k i => ((k.stream s).rails.get 0 (8 + i)).toNat,
      fun k i v => k.modStream s (fun t => { t with rails := t.rails.put (8 + i) (BitVec.ofNat 2048 v) })⟩,
    ⟨b + 0x2A00, 32, 16, 32, fun k i => k.inProgress x s i, fun k _ v => k.takeProgress x c s v⟩,
    streamField s 0xC00 64 (fun t =>
      match t.pend, t.coreRec with
      | some r, _ => r.toNat
      | none, some r => r.toNat
      | none, none => 0) Stream.withRecord ]

/-! ## Core fields -/

/-- A tile row changed. -/
def Core.modRow (k : Core) (i : Nat) (f : Line → Line) : Core :=
  k.modTile (i / 32) (fun x => { x with row := x.row.put (i % 32) (f (x.line (i % 32))) })
/-- A scratchpad line changed. -/
def Core.modLine (k : Core) (i : Nat) (f : Line → Line) : Core := { k with sp := k.sp.put i (f (k.line i)) }

/-- Tile registers. -/
def tileFields : List Field :=
  [ ⟨0x20000, 64, 2048, 64, fun k i => ((k.tile (i / 32)).line (i % 32)).data.toNat,
      fun k i v => k.modRow i (fun l => { l with data := BitVec.ofNat 512 v })⟩,
    ⟨0x40000, 16, 2048, 9, fun k i => ((k.tile (i / 32)).line (i % 32)).flags, fun k i v => k.modRow i (fun l => l.withFlags v)⟩,
    ⟨0x48000, 16, 64, 8, fun k i => (k.tile i).pack, fun k i v => k.modTile i (fun x => x.unpack v)⟩ ]

/-- Rings and chain units. -/
def ringFields (x : Nat) : List Field :=
  [ ⟨0x19000, 32, 16, 32, fun k i => (k.ring i).pack, fun k i v => { k with rings := k.rings.put i (unpackRing v) }⟩,
    ⟨0x19200, 32, 8, 32, fun k i => ((k.stream (i / 2)).chain (i % 2 == 0)).pack,
      fun k i v => k.modStream (i / 2) (fun t => t.modChain (i % 2 == 0) (fun _ => unpackChain v x))⟩ ]

/-- Scratchpad. -/
def spFields : List Field :=
  [ ⟨0x78000, 64, 6144, 64, fun k i => (k.line i).data.toNat,
      fun k i v => k.modLine i (fun l => { l with data := BitVec.ofNat 512 v })⟩,
    ⟨0xD8000, 8, 6144, 8, fun k i => (k.line i).side.toNat,
      fun k i v => k.modLine i (fun l => { l with side := BitVec.ofNat 64 v })⟩,
    ⟨0xE4000, 1, 6144, 1, fun k i => (k.line i).tag.toNat + 4 * num (k.line i).poison,
      fun k i v => k.modLine i (fun l => { l with tag := BitVec.ofNat 2 v, poison := bit v 2 })⟩ ]

/-- Row `i` of tile register `t` as its pending write leaves it. -/
def Core.pendingRow (k : Core) (t i : Nat) : Line :=
  match k.twrites.find? t with
  | some w =>
    if w.exec then (match w.rows.find? i with
      | some l => ((k.tile t).line i).merge l (w.mask.get (BitVec.allOnes 64) i)
      | none => if w.due.isSome then (k.tile t).line i else {})
    else {}
  | none => {}

/-- Readers, presence, execution and k of a pending write; one whose landing a bank or a reader has held past its cycle has a k of 1. -/
def TWrite.head (w : TWrite) (x : Nat) : Nat :=
  w.rdn.toNat + 2 ^ 4 + num w.exec * 2 ^ 5 + (match w.due with | some d => max 1 (d - x) % 2 ^ 32 | none => 0) * 2 ^ 8
/-- The pending write that these bits give: it brings every row. -/
def unpackWrite (v x : Nat) : TWrite :=
  { rdn := BitVec.ofNat 4 v, exec := bit v 5, rows := if bit v 5 then ⟨(List.range 32).map (fun i => (i, {}))⟩ else .empty,
    due := if bits v 8 32 = 0 then none else some (x + bits v 8 32) }

/-- The pending write of tile register `t` (R176): rows as it leaves them, per row side field and flags, and with row 0 the readers and k. A
write whose producer still runs has no k: the producer stands among the instructions in progress or in a queue. -/
def pendingFields (x t : Nat) : List Field :=
  let modPending (k : Core) (i : Nat) (f : Line → Line) : Core :=
    { k with twrites := k.twrites.mod { rdn := 0, exec := false } t (fun w => { w with rows := w.rows.mod {} i f }) }
  [ ⟨0x50800 + 0xA00 * t, 16, 32, 16, fun k i =>
      (k.pendingRow t i).flags + if i = 0 then (match k.twrites.find? t with | some w => w.head x * 2 ^ 72 | none => 0) else 0,
      fun k i v =>
        let k := if i = 0 ∧ bit v 76 then { k with twrites := k.twrites.put t (unpackWrite (bits v 72 40) x) } else k
        if v % 2 ^ 72 = 0 then k else modPending k i (fun l => l.withFlags (v % 2 ^ 72))⟩,
    ⟨0x50000 + 0xA00 * t, 64, 32, 64, fun k i => (k.pendingRow t i).data.toNat,
      fun k i v => modPending k i (fun l => { l with data := BitVec.ofNat 512 v })⟩ ]

/-! ## Slabs (R384) -/

/-- The command in execution on a unit. -/
def Core.execOn (k : Core) (n : Nat) (load : Bool) : Option MExec := k.mexec.find? (fun m => m.slab == n && m.load == load)

/-- Slab control, the command windows and the marks of accumulator values of core `c`. -/
def slabFields (c : Nat) : List Field :=
  (List.range 8).flatMap (fun n =>
    [ ⟨0xE6000 + 0x400 * n, 64, 1, 64,
        fun k _ => (k.slab n).pack (((k.execOn n false).map (·.microPc)).getD 0) (((k.execOn n true).map (·.steps)).getD 0)
          (if n = 0 then (match k.mxLast with | some i => i + 1 | none => 0) else 0),
        fun k _ v =>
          let k := k.modSlab n (fun l => l.unpack v)
          if n = 0 then { k with mxLast := if bits v 104 8 = 0 then none else some (bits v 104 8 - 1) } else k⟩,
      ⟨0xE6080 + 0x400 * n, 16, 16, 16, fun k i => match ((k.slab n).window)[i]? with | some e => e.pack | none => 0,
        fun k _ v => k.modSlab n (fun l => { l with window := l.window ++ (unpackWin c v).toList })⟩,
      ⟨0xE6200 + 0x400 * n, 2, 256, 2, fun k i => match ((k.slab n).bad)[i]? with | some a => a + 1 | none => 0,
        fun k _ v => k.modSlab n (fun l => { l with bad := l.bad ++ [v - 1] })⟩ ])

/-- A plane column by its index in the image. -/
def Core.planeCol (k : Core) (i : Nat) : PCol := ((k.slab (i / 1024)).plane (i / 512 % 2)).get {} (i % 512)
/-- A plane column changed. -/
def Core.modCol (k : Core) (i : Nat) (f : PCol → PCol) : Core :=
  k.modSlab (i / 1024) (fun l => l.setPlane (i / 512 % 2) ((l.plane (i / 512 % 2)).mod {} (i % 512) f) (l.pfmt (i / 512 % 2)))

/-- A value modulo 2^`w`. -/
def wrapInt (w : Nat) (v : Int) : Nat := (v % 2 ^ w).toNat

/-- A row of A with its elements cut to their low `n` bits. -/
def MVec.low (v : MVec) (n : Nat) : MVec :=
  ⟨v.blocks.map (fun b => { b with els := b.els.map (fun x => { x with mag := x.mag % 2 ^ n }) }), v.ints.map (· % 2 ^ n)⟩

/-- The class sums of a row and a column after `i` steps of an MMA (R230): those of finished products whole, those of the product in progress
over the magnitude bits done, and 0 for the products to come. -/
def sumsAfter (f : MForm) (a b : MVec) (i : Nat) : List Int :=
  let p := match f with | .b16 => i / 192 | _ => 0
  let whole := (vecSums f a b).map Prod.fst
  let cut := (vecSums f (a.low (i % passes f)) b).map Prod.fst
  whole.take (8 * p) ++ ((cut.drop (8 * p)).take 8) ++ (whole.drop (8 * p + 8)).map (fun _ => 0)

/-- A command of the window of slab `n` reads lo pieces of A: the row buffer holds them too. -/
def Core.lowRows (k : Core) (n : Nat) : Bool :=
  (k.slab n).window.any (fun w => match mxOf w.instr with | some (_, .mma .b16 ..) => true | _ => false)

/-- Bytes that the image has for the sums of a column of slab `n`, beside the rows of its row buffer: 8 slabs share 64 KiB (R384). -/
def Core.sumBytes (k : Core) (n : Nat) : Nat := if k.lowRows n then 6 else 11

/-- What the units of slab `n` have of the row in progress in column `j` (R220, R233, R237): the class sums of an MMA, of each as many low bits as
there is room for; of an MROT its q value and the sum over the bits done. All of it follows from the row buffer, the plane, the accumulator and
the micro-PC, from which a restored command goes on (entry 25). -/
def Core.partialSums (k : Core) (n j : Nat) : Nat :=
  let s := k.slab n
  match k.execOn n false with
  | none => 0
  | some m =>
    let w := m.work s
    if m.skipped || decide (w.n.toNat ≤ j ∨ mxSteps w.instr 0 ≤ m.steps) then 0
    else match mxOf w.instr with
      | some (_, .mma f ..) =>
        let r := mmaRowIn f m.steps
        let a := aVec f (s.rowbuf.get {} r) (s.rowbuf.get {} (32 + r))
        let b := bVec f ((s.plane (w.planes.getD 0 0)).get {} j) ((s.plane (w.planes.getD 1 0)).get {} j)
        let sums := sumsAfter f a b m.steps
        let width := 8 * k.sumBytes n / sums.length
        sums.foldr (fun c t => wrapInt width c + t * 2 ^ width) 0
      | some (_, .mrot) =>
        let q := rotQ ((List.range w.n.toNat).map (s.acc0 (m.steps / 16)))
        let sum := ((q.drop (64 * (j / 64))).take 64).zipIdx.foldl
          (fun a p => a + hadamard (j % 64) p.2 * (p.1 % 2 ^ (m.steps % 16))) 0
        wrapInt 16 (q.getD j 0) + wrapInt 32 sum * 2 ^ 16
      | _ => 0

/-- Row `i` of a slab's row buffer changed. -/
def Core.modBuffer (k : Core) (n i : Nat) (f : Line → Line) : Core := k.modSlab n (fun l => { l with rowbuf := l.rowbuf.mod {} i f })

/-- Part B: planes, exponents, accumulators, row buffers, and the values of rows in progress. Of the 8 KiB of a slab the rows of the row buffer
and their flags take the first 2,336 bytes; the lo rows of an MMA2 and 6 bytes a column follow, or else 11 bytes a column. -/
def bulkFields : List Field :=
  [ ⟨0x180000, 64, 8192, 64, fun k i => (k.planeCol i).els.toNat,
      fun k i v => k.modCol i (fun c => { c with els := BitVec.ofNat 512 v })⟩,
    ⟨0x200000, 8, 8192, 5, fun k i => (k.planeCol i).ex.toNat + num (k.planeCol i).poison * 2 ^ 32,
      fun k i v => k.modCol i (fun c => { c with ex := BitVec.ofNat 32 v, poison := bit v 32 })⟩,
    ⟨0x210000, 4, 131072, 4, fun k i => ((k.slab (i / 16384)).acc.get 0 (i % 16384)).toNat,
      fun k i v => k.modSlab (i / 16384) (fun l => { l with acc := l.acc.put (i % 16384) (BitVec.ofNat 32 v) })⟩ ]
    ++ (List.range 8).flatMap (fun n =>
      let rows (off i0 : Nat) (on : Core → Bool) : List Field :=
        [ ⟨0x290000 + 0x2000 * n + off, 64, 32, 64, fun k i => if on k then ((k.slab n).rowbuf.get {} (i0 + i)).data.toNat else 0,
            fun k i v => if on k then k.modBuffer n (i0 + i) (fun l => { l with data := BitVec.ofNat 512 v }) else k⟩,
          ⟨0x290800 + 0x2000 * n + off, 9, 32, 9, fun k i => if on k then ((k.slab n).rowbuf.get {} (i0 + i)).flags else 0,
            fun k i v => if on k then k.modBuffer n (i0 + i) (fun l => l.withFlags v) else k⟩ ]
      let sums (off b : Nat) : Field :=
        ⟨0x290000 + 0x2000 * n + off, b, 512, b, fun k j => if k.sumBytes n = b then k.partialSums n j else 0, fun k _ _ => k⟩
      rows 0 0 (fun _ => true) ++ rows 0x920 32 (fun k => k.lowRows n) ++ [sums 0x920 11, sums 0x1240 6])

/-- What LOAD takes from an image: stream-private registers, latent writes, footprints, tile registers, handles, chain units and slab
state (R311). -/
def loadFields (c x : Nat) : List Field :=
  [0, 1, 2, 3].flatMap (fun s => strctlField c s :: streamFields x s) ++ ringFields x ++ tileFields ++ slabFields c

/-- Every field of the image of core `c` below the header, as at the end of cycle `x`. -/
def imageFields (c x : Nat) : List Field :=
  loadFields c x ++ spFields ++ [0, 1, 2, 3].flatMap (queueFields x c) ++ (List.range 64).flatMap (pendingFields x) ++ bulkFields

/-! ## The header (R385) -/

/-- Word `i` of the header of core `c` in state `k`; `saved` in an image written by SAVE. -/
def State.header (s : State) (c : Nat) (k : Core) (saved : Bool) (i : Nat) : Nat :=
  let l := s.launchOf c
  match i with
  | 0 => 1
  | 1 => num saved + 2 + 4 * num k.ctxFault
  | 2 => l.lid.toNat
  | 3 => l.ctx
  | 4 => l.args.toNat
  | 5 => k.stopCyc.toNat
  | 6 => k.cctl.toNat
  | 7 => k.ringLock.toNat
  | 8 => c
  | _ => 0

/-- The last cycle that core state `k` has seen: the stop's, or for a running core whose state is that of the end of the cycle before, that
one. -/
def State.lastCycle (s : State) (k : Core) : Nat := if k.stopped then k.stopCyc.toNat else s.cycle - 1

/-- Where a contact sheet shows the indices of the queues, past the last section of R384 (entry 52). -/
def indexBase : Nat := 0x2A0000

/-- The word of queue indices at `o` from `indexBase` on the contact sheet of core `c` (R316): 16 bytes a queue on the sheet of the launch's
lead core, TAIL, HEAD and FREE from the lowest byte; they belong to the queue manager and stand in no image. -/
def State.indexByte (s : State) (c o : Nat) : Nat :=
  if (s.core c).launch = some c then
    (let q := (s.launches.get {} c).queues.get {} (o / 16)
     (q.tail.toNat + q.head.toNat * 2 ^ 32 + q.free.toNat * 2 ^ 64) / 2 ^ (8 * (o % 16)) % 256)
  else 0

/-- Byte `o` of the contact sheet of core `c`, whose state is `k`. -/
def State.sheetByte (s : State) (c : Nat) (k : Core) (o : Nat) : Nat :=
  if o < 0x1000 then s.header c k false (o / 8) / 2 ^ (8 * (o % 8)) % 256
  else if indexBase ≤ o then s.indexByte c (o - indexBase)
  else ((imageFields c (s.lastCycle k)).findSome? (fun f => (f.byte? k o).filter (· != 0))).getD 0

/-- The aligned 8-byte word at `o` of the contact sheet of core `c`, whose state is `k`. -/
def State.sheetWord (s : State) (c : Nat) (k : Core) (o : Nat) : Word :=
  BitVec.ofNat 64 ((List.range 8).foldr (fun i a => s.sheetByte c k (o + i) + 256 * a) 0)

/-- Core `c` belongs to a launch in LOAD or RUN. -/
def State.inLaunch (s : State) (c : Nat) : Bool :=
  (s.core c).launch.isSome && decide ((s.core c).mbState = 2 ∨ (s.core c).mbState = 3)

/-- Core `c` as a read of its contact sheet shows it: a running core as it stood at the end of the cycle before (R383). -/
def State.shownCore (s : State) (c : Nat) : Core := if (s.core c).stopped then s.core c else s.before.get {} c

/-- The contact sheet of core `c` as device register space shows it (R383). -/
def State.sheetRead (s : State) (c o : Nat) : Word := if s.inLaunch c then s.sheetWord c (s.shownCore c) o else 0

/-- The tile register that a read at offset `o` of a contact sheet reads. -/
def sheetTile (o : Nat) : Option Nat :=
  if 0x20000 ≤ o ∧ o < 0x40000 then some ((o - 0x20000) / 2048)
  else if 0x40000 ≤ o ∧ o < 0x48000 then some ((o - 0x40000) / 512)
  else if 0x48000 ≤ o ∧ o < 0x48400 then some ((o - 0x48000) / 16)
  else none

/-- A debugger's read at offset `o` of core `c`'s contact sheet: it waits for a reserved landing of the tile register that it reads, and
for its bank, which it wakes (R173, R175). Whether it is made in this cycle, and the state. On a stopped core nothing lands, so it waits for its
bank alone. -/
def State.sheetTouch (s : State) (c o : Nat) : Bool × State :=
  match (if s.inLaunch c then sheetTile o else none) with
  | none => (true, s)
  | some t =>
    if !(s.core c).stopped && ((s.core c).tile t).wpend then (false, s)
    else
      let r := (s.core c).touch s.cycle t
      (r.1, s.modCore c (fun _ => r.2))

/-- SNAP (R260): the part-A word of the issuing core as it stood at the end of the cycle before, latency 4. -/
def execSnap (h : Hdr) (sd : BitVec 5) (reg : BitVec 16) (s : State) : Host.Outcome State Fault Refusal :=
  let c := s.cur / 4
  (s.alu h [] sd 4 (s.sheetWord c (s.before.get {} c) (8 * reg.toNat))).done s

/-! ## Images in memory -/

/-- The cells of memory from `pa`, `n` bytes, by their offset. -/
def State.cellsAt (s : State) (pa n : Nat) : List Host.Cell :=
  (s.mem.filter (fun c => decide (pa ≤ c.1 ∧ c.1 < pa + n))).map (fun c => (c.1 - pa, c.2))

/-- The image of core `c` as SAVE writes it. -/
def State.image (s : State) (c : Nat) (k : Core) : List Host.Cell :=
  let head := (List.range 9).foldl (fun m i => Memory.setNat m (8 * i) 8 (s.header c k true i)) []
  (imageFields c k.stopCyc.toNat).foldl (fun m f => f.save k m) head

/-- The core without what an image restores. -/
def Core.blank (k : Core) : Core :=
  { k with
    streams := (((Tbl.empty.put 0 {}).put 1 {}).put 2 {}).put 3 {}, tiles := .empty, twrites := .empty, claims := [], sp := .empty,
    spRes := [], rings := .empty, slabs := .empty, mexec := [], mxLast := none, xt := [], probes := [], lent := none, lentUsed := false,
    granted := none }

/-- CCTL and RINGCFG of an image's header. -/
def Core.loadHeader (k : Core) (img : List Host.Cell) : Core :=
  let w (i : Nat) : Nat := Memory.getNat img (8 * i) 8
  { k with detmode := bit (w 6) 0, detStart := bit (w 6) 0, trsaw := bit (w 6) 1, ringLock := BitVec.ofNat 16 (w 7) }

/-- The core with fields loaded from an image, and handles as a wait of the next cycle sees them. -/
def Core.loadFrom (k : Core) (fs : List Field) (img : List Host.Cell) : Core :=
  let u := fs.foldl (fun k f => f.load img k) (k.blank.loadHeader img)
  { u with ringsPrev := u.rings }

/-- The core with a launch image loaded over it (R311). -/
def Core.loadImage (k : Core) (c : Nat) (img : List Host.Cell) : Core := k.loadFrom (loadFields c 0) img

/-- The matrix commands that an image shows as started, in execution again (R230, R233, R235, R240). -/
def Core.resumeMatrix (k : Core) (c x : Nat) : Core :=
  let go (k : Core) (i : Nat) : Core :=
    let t := k.stream i
    let xs := (t.mxq.filter (·.started)).filterMap (unpackExec k (4 * c + i) x)
    { k.modStream i (fun t => { t with mxq := t.mxq.map (fun e => { e with prog := 0 }) }) with mexec := k.mexec ++ xs }
  [0, 1, 2, 3].foldl go k

/-- The index lists of GATH and SCAT commands that an image shows as started (R134). -/
def Core.resumeCopies (k : Core) : Core :=
  let again (e : QEntry) : QEntry :=
    match e.job with
    | some j => if e.started then { e with idx := k.indices j } else e
    | none => e
  { k with streams := k.streams.map (fun _ t => { t with ldq := t.ldq.map again, stq := t.stq.map again }) }

/-- The orders given out so far stand above those of an image's entries and chain units. -/
def Core.ordersAbove (k : Core) : Nat :=
  let all := k.streams.entries.flatMap (fun t => (t.2.ldq ++ t.2.mxq ++ t.2.stq).map (·.order) ++ [t.2.ldChain.order, t.2.stChain.order])
  all.foldl (fun a b => max a (b + 1)) k.orders

end Sys2Proof.Machine
end

