-- ==== Sys2Proof/Machine/Regs.lean ====
section
/-! DEFINITION. Machine/Regs.lean: device register space as it reads, and what a launch may do there (R43, R82, R417). -/
namespace Sys2Proof.Machine

/-- The first address of device register space. -/
def devBase : Nat := 0x080000000000

/-- MBCTL of core `c` (R305). -/
def Core.mbctl (k : Core) : Word :=
  BitVec.ofNat 64 (k.mbErr.toNat * 2 ^ 24 + k.mbState.toNat * 2 ^ 16 + num k.mbGo)
/-- PCTL of a core (R380). -/
def Core.pctl (k : Core) : Word :=
  BitVec.ofNat 64 (k.pctlCmd.toNat * 2 ^ 62 + num k.pctlBusy * 2 ^ 61 + num k.stopped * 2 ^ 60 + k.pctlErr.toNat * 2 ^ 56
    + k.pctlArea.toNat * 2 ^ 12)
/-- JN.LASTN of a die (R354). -/
def Jn.lastnReg (j : Jn) : Word := BitVec.ofNat 64 (j.lastn % 2 ^ 62 + num j.reseat * 2 ^ 62 + num j.silent * 2 ^ 63)
/-- BOOTST (R418). -/
def HostPort.bootst (h : HostPort) : Word :=
  BitVec.ofNat 64 (h.numv.toNat * 2 ^ 56 + h.fwver.toNat * 2 ^ 40 + h.err.toNat * 16 + h.phase.toNat)
/-- KSCTL (R423). -/
def KeySession.ctl (k : KeySession) : Word :=
  BitVec.ofNat 64 (num k.go * 2 ^ 63 + k.status.toNat * 2 ^ 48 + k.slot.toNat * 2 ^ 32 + k.kind.toNat * 16 + k.cmd.toNat)
/-- Word `i` of a buffer. -/
def wordAt {n : Nat} (v : BitVec n) (i : Nat) : Word := v.extractLsb' (64 * i) 64

/-- A register of device register space by its place in the map of R417. -/
inductive DevReg where
  | bootst | hnq | hnqW | hnqR | negwin
  | attn (i : Nat)
  | mailbox (c i : Nat)
  | mbctl (c : Nat)
  | jlocal (d : Nat) | lastn (d : Nat) | dur (d : Nat) | jroute (d : Nat)
  | pctl (c : Nat)
  | resume (g : Nat)
  | ectl (k : Nat)
  | rstctl | fabId
  | cring (n : Nat) | lsr (k : Nat) | apwin (w : Nat) | ctxroot (n : Nat)
  | tuInv (st : Nat)
  | ks (i : Nat)
  | sheet (c o : Nat)
  deriving DecidableEq, Repr

/-- Words of ATTN that name a register: the nonce, GO and the report. -/
def attnWord (i : Nat) : Bool := decide (i ≤ 6 ∨ (32 ≤ i ∧ i < 64))
/-- Words of the key session that name a register: KSCTL and the five buffers. -/
def ksWord (i : Nat) : Bool :=
  decide (i = 0 ∨ (8 ≤ i ∧ i < 14) ∨ (16 ≤ i ∧ i < 28) ∨ (32 ≤ i ∧ i < 44) ∨ (48 ≤ i ∧ i < 60) ∨ (64 ≤ i ∧ i < 72))

/-- The register whose aligned word stands at the physical address `a`, if any (R417). -/
def devReg (a : Nat) : Option DevReg :=
  let o := a - devBase
  if a < devBase ∨ a % 8 ≠ 0 then none
  else if o = 0 then some .bootst
  else if o = 0x100 then some .hnq
  else if o = 0x108 then some .hnqW
  else if o = 0x110 then some .hnqR
  else if o = 0x200 then some .negwin
  else if 0x1000 ≤ o ∧ o < 0x1200 then (if attnWord ((o - 0x1000) / 8) then some (.attn ((o - 0x1000) / 8)) else none)
  else if 0x10000 ≤ o ∧ o < 0x1F000 then
    let c := (o - 0x10000) / 0x100
    let i := (o - 0x10000) % 0x100 / 8
    if i < 16 then some (.mailbox c i) else if i = 16 then some (.mbctl c) else none
  else if 0x20000 ≤ o ∧ o < 0x20100 then
    let d := (o - 0x20000) / 0x40
    match (o - 0x20000) % 0x40 / 8 with
    | 0 => some (.jlocal d) | 1 => some (.lastn d) | 2 => some (.dur d) | 3 => some (.jroute d) | _ => none
  else if 0x30000 ≤ o ∧ o < 0x33C00 then
    let c := (o - 0x30000) / 0x40
    let i := (o - 0x30000) % 0x40 / 8
    if i = 0 then some (.pctl c) else if i ≤ 4 then some (.resume (4 * c + i - 1)) else none
  else if 0x40000 ≤ o ∧ o < 0x40020 then some (.ectl ((o - 0x40000) / 8))
  else if o = 0x50000 then some .rstctl
  else if o = 0x60000 then some .fabId
  else if 0x60100 ≤ o ∧ o < 0x60180 then some (.cring ((o - 0x60100) / 8))
  else if 0x60200 ≤ o ∧ o < 0x60400 then some (.lsr ((o - 0x60200) / 8))
  else if 0x70000 ≤ o ∧ o < 0x78000 then some (.apwin ((o - 0x70000) / 8))
  else if 0x80000 ≤ o ∧ o < 0x88000 then some (.ctxroot ((o - 0x80000) / 8))
  else if 0x90000 ≤ o ∧ o < 0x90800 ∧ o % 0x100 = 0 then some (.tuInv ((o - 0x90000) / 0x100))
  else if 0xA0000 ≤ o ∧ o < 0xA0240 then (if ksWord ((o - 0xA0000) / 8) then some (.ks ((o - 0xA0000) / 8)) else none)
  else if 0x1000000000 ≤ o ∧ o < 0x1000000000 + 240 * 0x400000 then
    some (.sheet ((o - 0x1000000000) / 0x400000) (o % 0x400000))
  else none

/-- A register as it reads; a write-only register and a secret read zero (R9, R377, R423). -/
def State.readReg (s : State) : DevReg → Word
  | .bootst => s.host.bootst
  | .hnq => s.host.hnq
  | .hnqW => s.host.hnqW.setWidth 64
  | .hnqR => s.host.hnqR.setWidth 64
  | .negwin => s.host.negwin
  | .attn i => if i < 6 then wordAt s.host.nonce i else if i = 6 then (if s.host.go then 1 else 0) else wordAt s.host.report (i - 32)
  | .mailbox c i => if i < 8 then wordAt (s.core c).mailbox i else wordAt (s.core c).mailbox2 (i - 8)
  | .mbctl c => (s.core c).mbctl
  | .jlocal d => (s.jnOf d).jlocal
  | .lastn d => (s.jnOf d).lastnReg
  | .dur d => BitVec.ofNat 64 ((s.jnOf d).dur % 2 ^ 62)
  | .jroute d => (s.jnOf d).jroute
  | .pctl c => (s.core c).pctl
  | .resume _ => 0
  | .ectl k => s.ectl k
  | .rstctl => s.ras.rstctl
  | .fabId => s.fab.id
  | .cring n => s.fab.cring.get 0 n
  | .lsr k => s.fab.lsr.get 0 k
  | .apwin w => s.fab.apwin.get 0 w
  | .ctxroot n => s.ctxroots.get 0 n
  | .tuInv _ => s.tuInv
  | .ks i => if i = 0 then s.host.ks.ctl else if 16 ≤ i ∧ i < 28 then wordAt s.host.ks.dpub (i - 16)
             else if 32 ≤ i ∧ i < 44 then wordAt s.host.ks.dsig (i - 32) else 0
  | .sheet c o => s.sheetRead c o

/-- A read of a register: whether it is made in this cycle, and the state; only one of a contact sheet waits (R175). -/
def State.regTouch (s : State) : DevReg → Bool × State
  | .sheet c o => s.sheetTouch c o
  | _ => (true, s)

/-- What a launch may do with a register, from the column of R417: load it, for any launch or a privileged one, or store to it. -/
def launchMay (s : State) (c : Nat) (r : DevReg) (write : Bool) : Bool :=
  let priv := (s.launchOf c).priv
  match r with
  | .bootst | .fabId => !write
  | .jlocal _ | .lastn _ | .dur _ | .jroute _ | .sheet _ _ => !write && priv
  | .resume g => write && (s.core (g / 4)).launch == (s.core c).launch
  | .tuInv _ => write && priv
  | _ => false

/-- A write of `v` to TU.INV with GO = 1 starts the invalidation; any other write sets its fields; a write while GO reads 1 is
ignored (R82). -/
def State.writeTuInv (s : State) (v : Word) : State :=
  if s.tuInv.getLsbD 63 then s else { s with tuInv := v &&& 0xCFFFFFFFFFFFFFFF#64 }

/-- A store by a launch to a register that it may write: RESUME or TU.INV. -/
def State.storeReg (s : State) (r : DevReg) (v : Word) : State :=
  match r with
  | .resume g => s.resumeWrite g v
  | .tuInv _ => s.writeTuInv v
  | _ => s

/-- TU_INV_GO (R82): a write of `site.val` to a TU.INV register. -/
def execTuInvGo (s : State) : Host.Outcome State Fault Refusal := .next (s.writeTuInv s.site.val)

/-- The lines of context `ctx` in the 64 KiB granules from `first`, `n` of them, or of the whole context with `all`, written back and
invalidated in every cache, I-caches included (R82). -/
def State.dropLines (s : State) (ctx first n : Nat) (all : Bool) : State :=
  let hit (x va : Nat) : Bool := x == ctx && (all || decide (first ≤ va / 2 ^ 16 ∧ va / 2 ^ 16 < first + n))
  let lines := s.l2.entries.filter (fun e => hit e.2.ctx (e.2.va * 64))
  (lines.foldl (fun (u : State) e => u.purge (e.1 / 2048 / 192) e.2.ctx (e.2.va * 64)) s).dropIcache
    (fun _ l => hit l.ctx (l.va * 64))

/-- TU_INV_DONE (R82): translations and cached lines are gone, and GO reads 0. -/
def execTuInvDone (s : State) : Host.Outcome State Fault Refusal :=
  let v := s.tuInv
  if v.getLsbD 63 then
    let ctx := (v.extractLsb' 48 12).toNat
    let all := v.getLsbD 62
    let first := (v.extractLsb' 16 32).toNat
    let n := (v.extractLsb' 0 16).toNat
    let gone (t : Trans) : Bool := t.ctx == ctx && (all || (List.range n).any (fun i =>
      decide (t.va ≤ (first + i) * 2 ^ 16 ∧ (first + i) * 2 ^ 16 < t.va + t.size)))
    let u := { s with trans := s.trans.map (fun _ l => l.filter (fun t => !gone t)) }
    .next { u.dropLines ctx first n all with tuInv := v &&& 0x7FFFFFFFFFFFFFFF#64 }
  else .next s

/-- CTXROOT_WRITE (R76): the root of context `site.unit`, in all eight base dies. -/
def execCtxrootWrite (s : State) : Host.Outcome State Fault Refusal :=
  .next { s with ctxroots := s.ctxroots.put s.site.unit (s.site.val &&& 0x80003FFFFFFFF000#64) }

end Sys2Proof.Machine
end

