-- ==== Sys2Proof/Machine/Aqueue.lean ====
section
/-! DEFINITION. Machine/Aqueue.lean: how the forms of the access queue enter it, and what its memory forms do when they perform
(R127, R128, R269 to R272, R279 to R290, R431). -/
namespace Sys2Proof.Machine

/-! ## The forms -/

/-- The AQ fields of a form that enters the access queue. -/
def aqBody : Instr → Option Aq
  | .gld _ a | .gst _ a | .aaddN32 _ a | .aaddN64 _ a | .afaddF32 _ a | .afaddB16 _ a | .aminI32 _ a | .aminI64 _ a
  | .aminN32 _ a | .aminN64 _ a | .amaxI32 _ a | .amaxI64 _ a | .amaxN32 _ a | .amaxN64 _ a | .aandN32 _ a | .aandN64 _ a
  | .aorN32 _ a | .aorN64 _ a | .axorN32 _ a | .axorN64 _ a | .axchgN32 _ a | .axchgN64 _ a | .axchgN128 _ a
  | .acasN32 _ a | .acasN64 _ a | .acasN128 _ a | .aprom _ a | .fence _ a | .pf _ a | .linv _ a | .lwb _ a | .dvred _ a
  | .tspawn _ a | .tstageReg _ a | .tstageImm _ a | .tjoin _ a | .joinReg _ a | .joinImm _ a | .leaveReg _ a
  | .leaveImm _ a | .bargReg _ a | .bargImm _ a | .gcountReg _ a | .gcountImm _ a | .imprv _ a | .iread _ a | .jrec _ a
  | .jwait _ a | .emitN32 _ a | .emitN64 _ a | .jtrunc _ a => some a
  | _ => none

/-- What an atomic does to the old value (R285). -/
inductive AtOp where
  | add | faddF32 | faddB16 | min | max | and | or | xor | xchg | cas
  deriving DecidableEq, Repr

/-- The operation, width and signedness of an atomic form. -/
def atomicOf : Instr → Option (AtOp × Nat × Bool)
  | .aaddN32 _ _ => some (.add, 4, false) | .aaddN64 _ _ => some (.add, 8, false)
  | .afaddF32 _ _ => some (.faddF32, 4, false) | .afaddB16 _ _ => some (.faddB16, 4, false)
  | .aminI32 _ _ => some (.min, 4, true) | .aminI64 _ _ => some (.min, 8, true)
  | .aminN32 _ _ => some (.min, 4, false) | .aminN64 _ _ => some (.min, 8, false)
  | .amaxI32 _ _ => some (.max, 4, true) | .amaxI64 _ _ => some (.max, 8, true)
  | .amaxN32 _ _ => some (.max, 4, false) | .amaxN64 _ _ => some (.max, 8, false)
  | .aandN32 _ _ => some (.and, 4, false) | .aandN64 _ _ => some (.and, 8, false)
  | .aorN32 _ _ => some (.or, 4, false) | .aorN64 _ _ => some (.or, 8, false)
  | .axorN32 _ _ => some (.xor, 4, false) | .axorN64 _ _ => some (.xor, 8, false)
  | .axchgN32 _ _ => some (.xchg, 4, false) | .axchgN64 _ _ => some (.xchg, 8, false)
  | .axchgN128 _ _ => some (.xchg, 16, false)
  | .acasN32 _ _ => some (.cas, 4, false) | .acasN64 _ _ => some (.cas, 8, false)
  | .acasN128 _ _ => some (.cas, 16, false)
  | _ => none

/-- ORD asks for a release. -/
def relOrd (a : Aq) : Bool := a.ord == 2 || a.ord == 3
/-- ORD asks for an acquire. -/
def acqOrd (a : Aq) : Bool := a.ord == 1 || a.ord == 3

/-- A form that is a synchronisation operation (R273): it ends its stream's region when it issues. -/
def aqSyncs : Instr → Bool
  | .gld _ a | .gst _ a | .fence _ a => a.ord != 0
  | .tspawn _ _ | .tstageReg _ _ | .tstageImm _ _ | .tjoin _ _ | .bargReg _ _ | .bargImm _ _ | .imprv _ _
  | .emitN32 _ _ | .emitN64 _ _ => true
  | .iread _ a => a.ord == 1
  | i => match atomicOf i, aqBody i with | some _, some a => a.ord != 0 | _, _ => false

/-- A release that marker mode lets leave the head of its queue (R282, R325, R338). -/
def aqMarks : Instr → Bool
  | .gst _ a | .fence _ a => relOrd a
  | .tspawn _ _ | .tstageReg _ _ | .tstageImm _ _ | .imprv _ _ => true
  | i => match atomicOf i, aqBody i with | some _, some a => relOrd a | _, _ => false

/-- A release that orders no later operation of its queue behind itself: one that is no acquire. -/
def aqLetsPass (i : Instr) : Bool := aqMarks i && (match aqBody i with | some a => !(acqOrd a) | none => false)

/-! ## Entering the queue -/

/-- ALIGN or PERM of an access of `n` bytes at `va`, checked at issue (R283, R286). -/
def addrCheck (va : Word) (n : Nat) (k : AccKind) : Option FaultInfo :=
  if va.extractLsb' 48 16 != 0 then some (permFault va k)
  else if va.toNat % n ≠ 0 then some { code := .align, addr := va, info := accInfo k false 0 }
  else none

/-- The checks that a form makes at issue, on the value `x` of Sa and `y` of Sb. -/
def aqCheck (i : Instr) (x y : Word) : Option FaultInfo :=
  let off (a : Aq) : Word := x + a.off.signExtend 64
  match i with
  | .gld _ a => addrCheck (off a) (wkBytes a.wk) .read
  | .gst _ a => addrCheck (off a) (wkBytes a.wk) .write
  | .aprom _ a => addrCheck (off a) 8 .read
  | .emitN32 _ a => addrCheck (off a) 4 .write
  | .emitN64 _ a => addrCheck (off a) 8 .write
  | .linv _ _ | .lwb _ _ => addrCheck x 1 .read
  | .tspawn _ _ => addrCheck x 32 .read
  | .tstageImm _ _ => addrCheck x 16 .read
  | .tstageReg _ _ =>
    (addrCheck x 16 .read).or (if y.extractLsb' 4 60 != 0 then some { code := .queue, addr := x, info := 0 } else none)
  | .tjoin _ _ => addrCheck x 32 .atomic
  | .jrec _ _ =>
    if x.toNat % 32 ≠ 0 then some { code := .align, addr := x, info := 4 }
    else if y.toNat % 8 ≠ 0 then some { code := .align, addr := y, info := 4 }
    else if 0x5FFFF < x.toNat + 31 then some { code := .perm, addr := x, info := 4 }
    else none
  | i => match atomicOf i, aqBody i with
    | some o, some a => addrCheck (off a) o.2.1 .atomic
    | _, _ => none

/-- A form put into the access queue, or held while it is full; a held fault is delivered to the group that waits (R272). -/
def State.aqEnter (s : State) (i : Instr) (a : Aq) (skip : Bool) : Act :=
  let t := s.me
  if queueSize ≤ t.aq.length then
    (match t.aqFault with
     | some f => .fault f
     | none => .wait s false)
  else
    let e : QEntry :=
      { instr := i, va := s.word, x := t.sreg a.sa, y := t.sreg a.sb, y2 := t.sreg (a.sb + 1), z := t.sreg a.sd,
        z2 := t.sreg (a.sd + 1), dest := physS t.rotb a.sd.toNat, cpid := t.cpid.toNat, entered := s.cycle, skip := skip,
        idx := if (atomicOf i).any (fun o => o.2.1 == 16) then [physS t.rotb (a.sd + 1).toNat] else [] }
    let u := s.modMe (fun t => t.enter 3 e)
    .go (if aqSyncs i && !skip then u.endRegion s.cur else u)

/-- A form that checks its address at issue and enters the access queue; predicated off, it enters as skipped work (R284). -/
def State.aqForm (s : State) (h : Hdr) (i : Instr) (a : Aq) (rs : List (BitVec 5)) : Act :=
  let t := s.me
  s.slot h (rs.map t.sp) [] (s.aqEnter i a true)
    (match aqCheck i (t.sreg a.sa) (t.sreg a.sb) with
     | some f => .fault f
     | none => s.aqEnter i a false)

/-- A form that ignores its predicate (R293, R327). -/
def State.aqAlways (s : State) (h : Hdr) (i : Instr) (a : Aq) (rs : List (BitVec 5)) : Act :=
  let t := s.me
  s.always h (rs.map t.sp)
    (match aqCheck i (t.sreg a.sa) (t.sreg a.sb) with
     | some f => .fault f
     | none => s.aqEnter i a false)

/-- GLD (R283). -/
def execGld (h : Hdr) (a : Aq) (s : State) : Host.Outcome State Fault Refusal := (s.aqForm h (.gld h a) a [a.sa]).done s
/-- GST (R283). -/
def execGst (h : Hdr) (a : Aq) (s : State) : Host.Outcome State Fault Refusal := (s.aqForm h (.gst h a) a [a.sa, a.sb]).done s
/-- AADD_N32 (R285, R286). -/
def execAaddN32 (h : Hdr) (a : Aq) (s : State) : Host.Outcome State Fault Refusal :=
  (s.aqForm h (.aaddN32 h a) a [a.sa, a.sb]).done s
/-- AADD_N64 (R285, R286). -/
def execAaddN64 (h : Hdr) (a : Aq) (s : State) : Host.Outcome State Fault Refusal :=
  (s.aqForm h (.aaddN64 h a) a [a.sa, a.sb]).done s
/-- AFADD_F32 (R285, R286). -/
def execAfaddF32 (h : Hdr) (a : Aq) (s : State) : Host.Outcome State Fault Refusal :=
  (s.aqForm h (.afaddF32 h a) a [a.sa, a.sb]).done s
/-- AFADD_B16 (R285, R286). -/
def execAfaddB16 (h : Hdr) (a : Aq) (s : State) : Host.Outcome State Fault Refusal :=
  (s.aqForm h (.afaddB16 h a) a [a.sa, a.sb]).done s
/-- AMIN_I32 (R285, R286). -/
def execAminI32 (h : Hdr) (a : Aq) (s : State) : Host.Outcome State Fault Refusal :=
  (s.aqForm h (.aminI32 h a) a [a.sa, a.sb]).done s
/-- AMIN_I64 (R285, R286). -/
def execAminI64 (h : Hdr) (a : Aq) (s : State) : Host.Outcome State Fault Refusal :=
  (s.aqForm h (.aminI64 h a) a [a.sa, a.sb]).done s
/-- AMIN_N32 (R285, R286). -/
def execAminN32 (h : Hdr) (a : Aq) (s : State) : Host.Outcome State Fault Refusal :=
  (s.aqForm h (.aminN32 h a) a [a.sa, a.sb]).done s
/-- AMIN_N64 (R285, R286). -/
def execAminN64 (h : Hdr) (a : Aq) (s : State) : Host.Outcome State Fault Refusal :=
  (s.aqForm h (.aminN64 h a) a [a.sa, a.sb]).done s
/-- AMAX_I32 (R285, R286). -/
def execAmaxI32 (h : Hdr) (a : Aq) (s : State) : Host.Outcome State Fault Refusal :=
  (s.aqForm h (.amaxI32 h a) a [a.sa, a.sb]).done s
/-- AMAX_I64 (R285, R286). -/
def execAmaxI64 (h : Hdr) (a : Aq) (s : State) : Host.Outcome State Fault Refusal :=
  (s.aqForm h (.amaxI64 h a) a [a.sa, a.sb]).done s
/-- AMAX_N32 (R285, R286). -/
def execAmaxN32 (h : Hdr) (a : Aq) (s : State) : Host.Outcome State Fault Refusal :=
  (s.aqForm h (.amaxN32 h a) a [a.sa, a.sb]).done s
/-- AMAX_N64 (R285, R286). -/
def execAmaxN64 (h : Hdr) (a : Aq) (s : State) : Host.Outcome State Fault Refusal :=
  (s.aqForm h (.amaxN64 h a) a [a.sa, a.sb]).done s
/-- AAND_N32 (R285, R286). -/
def execAandN32 (h : Hdr) (a : Aq) (s : State) : Host.Outcome State Fault Refusal :=
  (s.aqForm h (.aandN32 h a) a [a.sa, a.sb]).done s
/-- AAND_N64 (R285, R286). -/
def execAandN64 (h : Hdr) (a : Aq) (s : State) : Host.Outcome State Fault Refusal :=
  (s.aqForm h (.aandN64 h a) a [a.sa, a.sb]).done s
/-- AOR_N32 (R285, R286). -/
def execAorN32 (h : Hdr) (a : Aq) (s : State) : Host.Outcome State Fault Refusal :=
  (s.aqForm h (.aorN32 h a) a [a.sa, a.sb]).done s
/-- AOR_N64 (R285, R286). -/
def execAorN64 (h : Hdr) (a : Aq) (s : State) : Host.Outcome State Fault Refusal :=
  (s.aqForm h (.aorN64 h a) a [a.sa, a.sb]).done s
/-- AXOR_N32 (R285, R286). -/
def execAxorN32 (h : Hdr) (a : Aq) (s : State) : Host.Outcome State Fault Refusal :=
  (s.aqForm h (.axorN32 h a) a [a.sa, a.sb]).done s
/-- AXOR_N64 (R285, R286). -/
def execAxorN64 (h : Hdr) (a : Aq) (s : State) : Host.Outcome State Fault Refusal :=
  (s.aqForm h (.axorN64 h a) a [a.sa, a.sb]).done s
/-- AXCHG_N32 (R285, R286). -/
def execAxchgN32 (h : Hdr) (a : Aq) (s : State) : Host.Outcome State Fault Refusal :=
  (s.aqForm h (.axchgN32 h a) a [a.sa, a.sb]).done s
/-- AXCHG_N64 (R285, R286). -/
def execAxchgN64 (h : Hdr) (a : Aq) (s : State) : Host.Outcome State Fault Refusal :=
  (s.aqForm h (.axchgN64 h a) a [a.sa, a.sb]).done s
/-- AXCHG_N128 (R285, R286). -/
def execAxchgN128 (h : Hdr) (a : Aq) (s : State) : Host.Outcome State Fault Refusal :=
  (s.aqForm h (.axchgN128 h a) a [a.sa, a.sb, a.sb + 1]).done s
/-- ACAS_N32 (R285, R286). -/
def execAcasN32 (h : Hdr) (a : Aq) (s : State) : Host.Outcome State Fault Refusal :=
  (s.aqForm h (.acasN32 h a) a [a.sa, a.sb, a.sd]).done s
/-- ACAS_N64 (R285, R286). -/
def execAcasN64 (h : Hdr) (a : Aq) (s : State) : Host.Outcome State Fault Refusal :=
  (s.aqForm h (.acasN64 h a) a [a.sa, a.sb, a.sd]).done s
/-- ACAS_N128 (R285, R286). -/
def execAcasN128 (h : Hdr) (a : Aq) (s : State) : Host.Outcome State Fault Refusal :=
  (s.aqForm h (.acasN128 h a) a [a.sa, a.sb, a.sb + 1, a.sd, a.sd + 1]).done s
/-- APROM (R289). -/
def execAprom (h : Hdr) (a : Aq) (s : State) : Host.Outcome State Fault Refusal := (s.aqForm h (.aprom h a) a [a.sa]).done s
/-- FENCE (R288). -/
def execFence (h : Hdr) (a : Aq) (s : State) : Host.Outcome State Fault Refusal := (s.aqForm h (.fence h a) a []).done s
/-- PF (R127): predicated off, it does nothing. -/
def execPf (h : Hdr) (a : Aq) (s : State) : Host.Outcome State Fault Refusal :=
  (s.plain h [s.me.sp a.sa] [] (s.aqEnter (.pf h a) a false)).done s
/-- LINV (R128). -/
def execLinv (h : Hdr) (a : Aq) (s : State) : Host.Outcome State Fault Refusal := (s.aqForm h (.linv h a) a [a.sa]).done s
/-- LWB (R128). -/
def execLwb (h : Hdr) (a : Aq) (s : State) : Host.Outcome State Fault Refusal := (s.aqForm h (.lwb h a) a [a.sa]).done s

/-! ## What an operation comes to -/

/-- What an operation at the head comes to: it performs, with the value of its reply token; it has to wait, or waits having woken a
bank; it faults; or it leaves the head and completes later (a barrier arrival). -/
inductive Perf where
  | done (reply : Option (BitVec 128)) (s : State)
  | hold
  | later (s : State)
  | fault (f : FaultInfo)
  | left (s : State)
  deriving DecidableEq, Repr

/-- A result that may be a fault. -/
def Perf.ofExcept (x : Except FaultInfo State) : Perf := match x with | .ok s => .done none s | .error f => .fault f

/-- The address Sa + OFF of an entry. -/
def QEntry.addr (e : QEntry) (a : Aq) : Word := e.x + a.off.signExtend 64

/-- The issuer of an access of entry `e` of stream `g`'s access queue. -/
def State.aqWho (s : State) (g : Nat) (e : QEntry) (a : Aq) : Who :=
  { gsid := g, region := e.region, queue := 3, number := e.number, clock := (s.stream g).before 3 e, cpid := e.cpid,
    rd := a.rd.toNat, hint := a.hint.toNat }

/-- A read of device register space by a launch: eight bytes of a register that the launch may load (R43). A read of a contact sheet is
a debugger's (R175). -/
def State.devLoad (s : State) (c : Nat) (va : Word) (pa n : Nat) : Perf :=
  match (if n = 8 then devReg pa else none) with
  | some r =>
    if launchMay s c r false then
      (let t := s.regTouch r
       if t.1 then .done (some ((t.2.readReg r).setWidth 128)) t.2 else .later t.2)
    else .fault (permFault va .read)
  | none => .fault (permFault va .read)

/-- A write of device register space by a launch (R43). -/
def State.devStore (s : State) (c : Nat) (va : Word) (pa n : Nat) (v : Word) : Perf :=
  match (if n = 8 then devReg pa else none) with
  | some r => if launchMay s c r true then .done none (s.storeReg r v) else .fault (permFault va .write)
  | none => .fault (permFault va .write)

/-- The POISON of a target line in memory (R391). -/
def memPoison (va : Word) : FaultInfo := { code := .poison, addr := va, info := 2 }

/-- GLD at the head (R283). -/
def State.gld (s : State) (g : Nat) (e : QEntry) (a : Aq) : Perf :=
  let va := e.addr a
  let n := wkBytes a.wk
  let w := s.aqWho g e a
  match (if acqOrd a then s.place (s.ctxOf (g / 4)) va .read else (s.look (g / 4) va .read).map (fun x => x.1)) with
  | .error f => .fault f
  | .ok d =>
    if d.isDevice then s.devLoad (g / 4) va d.pa n
    else match (if acqOrd a then s.marked w va n .read else s.plainRead w va n) with
      | .error f => .fault f
      | .ok (p, u) =>
        if (u.lineAt p.pa).poison then .fault (memPoison va)
        else
          let u := if acqOrd a then u.readsAcq g a.scp.toNat e.entered (wordsOf p.pa n) else u
          .done (some ((wkExtend a.wk (Memory.getNat u.mem p.pa n)).setWidth 128)) u

/-- A release of stream `w.gsid` on these words recorded at their unit (R289). The newest of a stream stands for its earlier ones. -/
def State.promote (s : State) (w : Who) (ks : List Nat) (scp : Nat) : State :=
  if 4 ≤ scp then s
  else { s with releases := ks.map (fun k => ⟨k, w.gsid, w.number, w.clock, scp⟩)
           ++ s.releases.filter (fun r => !(ks.contains r.word && r.gsid == w.gsid)) }

/-- GST at the head (R283). -/
def State.gst (s : State) (g : Nat) (e : QEntry) (a : Aq) : Perf :=
  let va := e.addr a
  let n := wkBytes a.wk
  let w := s.aqWho g e a
  let v := e.y.toNat % 2 ^ (8 * n)
  match (if relOrd a then s.place (s.ctxOf (g / 4)) va .write else (s.look (g / 4) va .write).map (fun x => x.1)) with
  | .error f => .fault f
  | .ok d =>
    if d.isDevice then (if relOrd a then s.release w a.scp.toNat else s).devStore (g / 4) va d.pa n e.y
    else if relOrd a then
      match (s.release w a.scp.toNat).marked w va n .write with
      | .error f => .fault f
      | .ok (p, u) =>
        let ks := wordsOf p.pa n
        .done none (((u.writeBytes p.pa n v false).promote w ks a.scp.toNat).headsNew ks (s.headBy w a.scp.toNat))
    else match s.plainWrite w va n a.scp.toNat with
      | .error f => .fault f
      | .ok (p, u) => .done none (u.writeBytes p.pa n v false)

/-- A floating-point sum, rounded to nearest even (R180 to R183, R285). -/
def faddBits (f : Fmt) (x y : Nat) : Nat := f.round 0 false ((f.decode x).add 0 (f.decode y))

/-- The new value of an atomic of `n` bytes with old value `m`, operand `b` and compare value `c`; none where it writes nothing
(R285). -/
def atomicNew (op : AtOp) (n : Nat) (signed : Bool) (m b c : Nat) : Option Nat :=
  let less (x y : Nat) : Bool := if signed then decide (intOf (8 * n) true x < intOf (8 * n) true y) else decide (x < y)
  match op with
  | .add => some ((m + b) % 2 ^ (8 * n))
  | .faddF32 => some (faddBits f32 m b)
  | .faddB16 => some (faddBits b16 (m % 2 ^ 16) (b % 2 ^ 16) + faddBits b16 (m / 2 ^ 16) (b / 2 ^ 16) * 2 ^ 16)
  | .min => some (if less b m then b else m)
  | .max => some (if less m b then b else m)
  | .and => some (m &&& b)
  | .or => some (m ||| b)
  | .xor => some (m ^^^ b)
  | .xchg => some b
  | .cas => if m = c then some b else none

/-- The value that an atomic's reply token carries (R285). -/
def atomicReply (n : Nat) (signed : Bool) (m : Nat) : BitVec 128 :=
  if n = 16 then BitVec.ofNat 128 m
  else if signed then ((BitVec.ofInt 64 (intOf (8 * n) true m)).setWidth 128) else BitVec.ofNat 128 m

/-- An atomic at the head (R285, R286). -/
def State.atomic (s : State) (g : Nat) (e : QEntry) (a : Aq) (op : AtOp) (n : Nat) (signed : Bool) : Perf :=
  let va := e.addr a
  let w := s.aqWho g e a
  let b := (e.y.toNat + e.y2.toNat * 2 ^ 64) % 2 ^ (8 * n)
  let c := (e.z.toNat + e.z2.toNat * 2 ^ 64) % 2 ^ (8 * n)
  let s := if relOrd a then s.release w a.scp.toNat else s
  match s.marked w va n .atomic with
  | .error f => .fault f
  | .ok (p, u) =>
    if (u.lineAt p.pa).poison then .fault (memPoison va)
    else
      let m := Memory.getNat u.mem p.pa n
      let r := some (atomicReply n signed m)
      let ks := wordsOf p.pa n
      let scp := a.scp.toNat
      let got := if acqOrd a then headsSeen (u.known.headsOf ks) g scp else .empty
      let h := s.headBy { w with clock := w.clock.acquire got } scp
      let u := if acqOrd a then u.acquire g e.entered got else u.readsOwed g ks
      match atomicNew op n signed m b c with
      | some v =>
        let x := (u.writeBytes p.pa n v false).continues g scp ks (if relOrd a then some h else none)
        .done r (if relOrd a then x.promote w ks scp else x)
      | none => .done r u

/-- Every release on word `k` narrower than scope number `scp` by an issuer that `near` admits promoted to it (R289): what the release
required performs at that scope. -/
def State.promoteAt (s : State) (k scp : Nat) (near : Nat → Bool) : State :=
  let hit (r : Release) : Bool := r.word == k && decide (r.scope < scp) && near r.gsid
  let u := (s.releases.filter hit).foldl (fun (u : State) r =>
    u.release { gsid := r.gsid, region := 0, queue := 3, number := r.number, clock := r.clock, cpid := 0, rd := 0, hint := 0 } scp) s
  { u with releases := u.releases.map (fun r => if hit r then { r with scope := scp } else r) }

/-- APROM at the head (R289): the narrower releases on its word by issuers within its scope count at that scope from now on. -/
def State.aprom (s : State) (g : Nat) (e : QEntry) (a : Aq) : Perf :=
  let va := e.addr a
  let scp := a.scp.toNat
  match s.place (s.ctxOf (g / 4)) va .read with
  | .error f => .fault f
  | .ok p =>
    if p.isDevice then .fault (permFault va .read)
    else if (s.lineAt p.pa).poison then .fault (memPoison va)
    else
      let u := (s.holdTrans p.die va.toNat p.leaf).recallFor p 8
      if s.noShadow (s.aqWho g e a) u then .fault shadowFault
      else .done none ((u.promoteAt (p.pa / 8) scp (fun h => within scp (h / 4) (g / 4))).promotes g scp (p.pa / 8))

/-- FENCE at the head (R288). -/
def State.fence (s : State) (g : Nat) (e : QEntry) (a : Aq) : Perf :=
  let w := s.aqWho g e a
  let scp := a.scp.toNat
  let got := if acqOrd a then headsSeen (s.known.owed.get [] g) g scp else .empty
  let u := s.acquire g e.entered got
  .done none (if relOrd a then (u.release w scp).fences g scp (s.carries g (w.region + 1) (w.clock.acquire got)) else u)

/-- PF at the head (R127): never a fault, so that it fills nothing where it would have to spill into a full shadow area (R277). -/
def State.prefetch (s : State) (g : Nat) (e : QEntry) (a : Aq) : Perf :=
  let va := e.addr a
  .done none (match s.look (g / 4) va .read with
    | .error _ => s
    | .ok (p, h) =>
      if p.isDevice || s.memorySide p then s
      else
        let u := h.cacheLoad (g / 4) p e.cpid a.rd.toNat a.hint.toNat
        if s.noShadow (s.aqWho g e a) u then s else u)

/-! ## LINV and LWB (R128) -/

/-- The copy of a line at a level written back to the level that receives it, and left valid and clean, or removed with `inv`. -/
def State.cleanAt (s : State) (l : Level) (ctx va : Nat) (inv : Bool) : State :=
  match s.find l ctx va with
  | none => s
  | some (k, x) =>
    let u := match l with
      | .l1 _ | .rdc _ => s.evict l k
      | .l2 _ => if inv then s.evict l k else { (s.flushSide x.pa).performLine ctx va 4 with sides := s.sides }
    if inv then u
    else
      let st : CState := match l, x.state with
        | .l2 _, _ => .clean
        | _, .m => .e
        | _, y => y
      u.setLine l k { x with state := st }

/-- The levels that a scope names for a stream of core `c`, nearest first. -/
def scopeLevels (scp c : Nat) (die : Nat) : List Level :=
  let l1s (d : Nat) : List Level := (List.range 60).map (fun i => .l1 (60 * d + i))
  match scp with
  | 0 | 1 => [.l1 c]
  | 2 => l1s (dieOf c) ++ [.rdc (dieOf c)]
  | _ => (l1s 0 ++ l1s 1 ++ l1s 2 ++ l1s 3) ++ [.rdc 0, .rdc 1, .rdc 2, .rdc 3, .l2 die]

/-- A line written back, and with `inv` removed, in the caches of a scope: the L1D copies keep their lines when an RDC is only
cleaned, since a cleaned copy leaves what lies above it. -/
def State.cleanLine (s : State) (ls : List Level) (ctx va : Nat) (inv : Bool) : State :=
  ls.foldl (fun (u : State) l =>
    match l, inv with
    | .rdc e, false =>
      (match u.find l ctx va with
       | some (k, x) =>
         if x.state = .m then ((u.dirty (homeOf x.pa) ctx va).performLine ctx va 4).setLine l k { x with state := .e } else u
       | none => u)
      |> fun v => ((List.range 60).foldl (fun (v : State) i => v.cleanAt (.l1 (60 * e + i)) ctx va false) v)
    | _, _ => u.cleanAt l ctx va inv) s

/-- LINV (`inv`) and LWB at the head. A memory-side page holds no cached line, so both end there with no effect. R43 gives an LINV or LWB
of device register space PERM, and R128 has the scopes below .V translate nothing: that those scopes follow R128 and complete there
without a fault is the model's choice (DESIGN CHOICE, entry 52). -/
def State.lineOp (s : State) (g : Nat) (e : QEntry) (a : Aq) (inv : Bool) : Perf :=
  let va := e.addr a
  let c := g / 4
  let scp := a.scp.toNat
  let ends (u : State) : Perf := if s.noShadow (s.aqWho g e a) u then .fault shadowFault else .done none u
  if scp < 3 then ends (s.cleanLine (scopeLevels scp c 0) (s.ctxOf c) va.toNat inv)
  else match s.place (s.ctxOf c) va .read with
    | .error f => .fault f
    | .ok p =>
      if p.isDevice then .fault (permFault va .read)
      else if p.leaf.ms then .done none (s.holdTrans p.die va.toNat p.leaf)
      else ends ((s.holdTrans p.die va.toNat p.leaf).cleanLine (scopeLevels scp c p.die) p.ctx p.va inv)

end Sys2Proof.Machine
end

