-- ==== Sys2Proof/Machine/Fetch.lean ====
section
/-! DEFINITION. Machine/Fetch.lean: instruction fetch through the I-cache, forming an issue group, and the checks a group
meets before any word of it is evaluated (R7, R46 to R52, R122 to R124). -/
namespace Sys2Proof.Machine

/-- The number of way 0 of the I-cache set of `va`. -/
def iSet (va : Nat) : Nat := va / 64 % 128 * 8

/-- The I-cache line of core `k` that holds `va` of context `ctx`. -/
def Core.iline (k : Core) (ctx va : Nat) : Option ILine :=
  ((List.range 8).map (fun w => iSet va + w)).findSome? (fun i =>
    (k.icache.find? i).bind (fun l => if l.ctx = ctx ∧ l.va = va / 64 then some l else none))

/-- The overlay way of `va`, where the launch pins one for it (R124). -/
def Core.overlayWay (k : Core) (va : Nat) : Option Nat :=
  if k.ovb ≤ va ∧ va < k.ovb + 8192 * k.ovk then some ((va - k.ovb) / 8192) else none

/-- The way that a fill of `va` takes: its overlay way; else, of the ways that are not pinned and not `dead` (R394), the lowest invalid
one; else RRIP's victim, its set aged (R112, R124). -/
def Core.iVictim (k : Core) (dead : Nat → Bool) (va : Nat) : Nat × Core :=
  match k.overlayWay va with
  | some w => (iSet va + w, k)
  | none =>
    let ws := (((List.range 8).filter (fun w => decide (k.ovk ≤ w))).map (fun w => iSet va + w)).filter (fun i => !dead i)
    match ws.find? (fun i => (k.icache.find? i).isNone) with
    | some i => (i, k)
    | none =>
      let top := ws.foldl (fun m i => max m (k.irrpv.get 3 i)) 0
      let v := (ws.find? (fun i => k.irrpv.get 3 i == top)).getD (iSet va + 7)
      (v, { k with irrpv := ws.foldl (fun t i => t.put i (k.irrpv.get 3 i + (7 - top))) k.irrpv })

/-- Line `l`, which stands at `p`, put into entry `i` of core `c`'s I-cache at RRPV 3. The remap filter counts it and no longer counts
what stood there (R83). -/
def State.iPut (s : State) (c i : Nat) (p : Place) (l : ILine) : State :=
  let old := (s.core c).icache.find? i
  let u := s.modCore c (fun k => { k with icache := k.icache.drop i })
  let u := match old with | some o => u.unfilter o.pa | none => u
  let u := u.filterIn p.ctx p.va p.pa
  u.modCore c (fun k => { k with icache := k.icache.put i { l with pa := p.pa / 64 * 64 }, irrpv := k.irrpv.put i 3 })

/-- A line filled into core `c`'s I-cache, where a way may take it (R112, R124, R394). -/
def State.iFill (s : State) (c : Nat) (p : Place) (l : ILine) : State :=
  let dead (i : Nat) : Bool := s.ras.disabled.contains (icacheRow c i)
  let v := (s.core c).iVictim dead (l.va * 64)
  if dead v.1 then s
  else (s.modCore c (fun _ => v.2)).iPut c v.1 p { l with pin := (v.2.overlayWay (l.va * 64)).isSome }

/-- A hit sets the line's RRPV to 0. R112 has the I-cache replace as the data caches do, whose hits promote by the hint tables; which hits
of the I-cache promote is not said, and that all do is the model's choice (DESIGN CHOICE, entry 52). -/
def Core.iHit (k : Core) (ctx va : Nat) : Core :=
  match ((List.range 8).map (fun w => iSet va + w)).find? (fun i =>
      match k.icache.find? i with | some l => l.ctx == ctx && l.va == va / 64 | none => false) with
  | some i => { k with irrpv := k.irrpv.put i 0 }
  | none => k

/-- The word at `a` of a line. -/
def ILine.word (l : ILine) (a : Word) : Word := (l.data >>> (8 * (a.toNat % 64))).setWidth 64

/-- The POISON fault of a fetch of a poisoned line (R391). -/
def fetchPoison (a : Word) : FaultInfo := { code := .poison, word := a, addr := a, info := 2 }

/-- The word at `a` in the I-cache line of core `c` that has the name (`ctx`, `va`). -/
def State.iWord (s : State) (c ctx va : Nat) (a : Word) (l : ILine) : Except FaultInfo (Word × State) :=
  if l.poison then .error (fetchPoison a) else .ok (l.word a, s.modCore c (fun k => k.iHit ctx va))

/-- The instruction word at `a` for stream `g`: from the I-cache, or filled from the point of coherence under R111 and R122. A fetch that
misses under its own name is made again under the canonical one of its line, by which alone the line stands in I-caches (R84); another
device's memory fills none (R128, R401). A scale range is handled as a memory-side page, from which no fetch is permitted (R79, R93). A
fault is raised only by the group that holds the word. -/
def State.fetchWord (s : State) (g : Nat) (a : Word) : Except FaultInfo (Word × State) :=
  let c := g / 4
  let ctx := s.ctxOf c
  match s.homeFor ctx a .fetch with
  | .error f => .error { f with word := a }
  | .ok _ =>
    match (s.core c).iline ctx a.toNat with
    | some l => s.iWord c ctx a.toNat a l
    | none =>
      match s.look c a .fetch with
      | .error f => .error { f with word := a }
      | .ok (p, h) =>
        let x := s.lineAt p.pa
        if (s.scaleAt p.pa).isSome then .error { permFault a .fetch with word := a }
        else match (s.core c).iline p.ctx p.va with
        | some l => h.iWord c p.ctx p.va a l
        | none =>
        if x.poison then .error (fetchPoison a)
        else
          let l : ILine := { ctx := p.ctx, va := p.va / 64, data := x.data, poison := x.poison, pin := false }
          let ls := ((path c p.die).filter (fun l => match l with | .l1 _ => false | _ => true)).reverse
          let newRdc := decide (dieOf c ≠ p.die) && (h.find (.rdc (dieOf c)) p.ctx p.va).isNone
          let r := h.filterRoom p.pa
          let u := if s.memorySide p then h
            else (if newRdc then r.shareLine c p else r).fillOut p (s.stream g).cpid.toNat 3 false ls
          .ok (l.word a, if p.isRemote then h else u.iFill c p l)

/-! ## Groups (R49, R50, R53) -/

/-- Slot classes (R7). -/
inductive Class where
  | s | v | m | c
  deriving DecidableEq, Repr

/-- The slot class of a primary opcode (R53). -/
def classOf (op : Nat) : Class :=
  if op = 0 then .c
  else if op ≤ 0x21 then .s
  else if op ≤ 0x37 then .c
  else if 0x40 ≤ op ∧ op ≤ 0x6F then .v
  else if op = 0xC3 then .c
  else if 0x80 ≤ op ∧ op ≤ 0xD5 then .m
  else .c

/-- A stream-private register that an instruction names as a destination (R50). -/
inductive Dest where
  | s (n : BitVec 5) | q (n : BitVec 3) | m (n : Nat) | j (n : BitVec 3) | lc | ec | rotb
  deriving DecidableEq, Repr

/-- The stream-private registers an instruction names as destinations. -/
def dests : Instr → List Dest
  | .add _ d _ _ | .sub _ d _ _ | .addi _ d _ _ | .mul _ d _ _ | .mulh _ d _ _ | .mulhn _ d _ _ | .divs _ d _ _
  | .divn _ d _ _ | .and _ d _ _ | .or _ d _ _ | .xor _ d _ _ | .andn _ d _ _ | .shl _ d _ _ | .shrl _ d _ _
  | .shra _ d _ _ | .mins _ d _ _ | .maxs _ d _ _ | .minn _ d _ _ | .maxn _ d _ _ | .sel _ d _ _ _ | .clz _ d _
  | .popc _ d _ | .bfxI _ d _ _ _ | .bfxN _ d _ _ _ | .bfi _ d _ _ _ | .movi _ d _ | .movh _ d _ | .lea _ d _ _ _ _
  | .lds _ d _ _ _ | .sysrd _ d _ | .snap _ d _ | .rdcyc _ d => [.s d]
  | .cmpReg _ q _ _ _ | .cmpImm _ q _ _ _ | .qop _ q _ _ _ | .anym _ q _ | .allm _ q _ => [.q q]
  | .vcmpF _ v | .vcmpI _ v => [.m v.td.toNat]
  | .pbr _ j _ => [.j j]
  | .syswr _ _ r => if r = 0x100 then [.lc] else if r = 0x101 then [.ec] else if r = 0x102 then [.rotb] else []
  | .loop _ _ => [.lc, .ec, .rotb]
  | .rotz _ => [.rotb]
  | .gld _ a | .aaddN32 _ a | .aaddN64 _ a | .afaddF32 _ a | .afaddB16 _ a | .aminI32 _ a | .aminI64 _ a | .aminN32 _ a
  | .aminN64 _ a | .amaxI32 _ a | .amaxI64 _ a | .amaxN32 _ a | .amaxN64 _ a | .aandN32 _ a | .aandN64 _ a | .aorN32 _ a
  | .aorN64 _ a | .axorN32 _ a | .axorN64 _ a | .axchgN32 _ a | .axchgN64 _ a | .acasN32 _ a | .acasN64 _ a
  | .gcountReg _ a | .gcountImm _ a | .iread _ a | .jrec _ a => [.s a.sd]
  | .axchgN128 _ a | .acasN128 _ a => [.s a.sd, .s (a.sd + 1)]
  | _ => []

/-- One word of a group: its address, its bits and its class, with its reading. -/
structure GWord where
  addr : Word
  bits : Word
  read : Except DecodeError Instr

/-- SEG and SEGEND must be the only word of their group (R388). -/
def alone : Instr → Bool
  | .seg _ _ _ => true
  | .segend _ => true
  | _ => false

/-- A transfer-class form (R249). -/
def transferClass : Instr → Bool
  | .brq _ _ _ | .br _ _ | .call _ _ | .ret _ _ | .loop _ _ | .bro _ _ _ => true
  | _ => false

/-- The first word of a group that makes it ILLEGAL (R50). R50 and R372 say the lowest-addressed offending word; that of two words which
share a slot class or a destination the later one offends, and of a group of more than four the fifth, is the model's choice (DESIGN
CHOICE, entry 53). A word offends when: it does not decode, or repeats a slot class, or names a
destination that an earlier word names, or stands beside SEG or SEGEND; in a group of several words also an unassigned
opcode, and a transfer-class form in a delay group (`delay`), which `exec` refuses in the same way. -/
def illegalIn (many delay : Bool) : List GWord → List Class → List Dest → Option Word
  | [], _, _ => none
  | w :: r, cs, ds =>
    let cl := classOf (w.bits.extractLsb' 56 8).toNat
    match w.read with
    | .error _ => some w.addr
    | .ok (.unassignedOpcode _) => if many then some w.addr else illegalIn many delay r cs ds
    | .ok i =>
      if (many && (alone i || (delay && transferClass i))) || cs.contains cl || (dests i).any (fun d => ds.contains d)
      then some w.addr
      else illegalIn many delay r (cl :: cs) (dests i ++ ds)

/-- What fetch brings for the next group: its words, or the fault of the group. -/
inductive Fetched where
  | words (ws : List GWord) (s : State)
  | bad (f : FaultInfo) (s : State)

/-- Words from `a` up to the next G = 1, at most `n` of them; a fifth word, or a word that cannot be fetched, ends the
group with its fault (R49, R50, R52). -/
def State.gather (s : State) (g : Nat) : Nat → Word → List GWord → Fetched
  | 0, a, acc =>
    .bad { code := .illegal, word := (illegalIn true (0 < (s.stream g).xfer.left) acc.reverse [] []).getD a } s
  | n + 1, a, acc =>
    match s.fetchWord g a with
    | .error f =>
      match illegalIn (0 < acc.length) (0 < (s.stream g).xfer.left) acc.reverse [] [] with
      | some w => .bad { code := .illegal, word := w } s
      | none => .bad f s
    | .ok (w, u) =>
      let acc := { addr := a, bits := w, read := decode w } :: acc
      if w.getLsbD 55 then .words acc.reverse u else u.gather g n (a + 8) acc

end Sys2Proof.Machine
end

