-- ==== Sys2Proof/Machine/Groups.lean ====
section
/-! DEFINITION. Machine/Groups.lean: groups and barriers (R291 to R293). -/
namespace Sys2Proof.Machine

/-- Group `n` of a launch. -/
def Launch.group (l : Launch) (n : Nat) : Group := l.groups.get {} n
/-- The launch with group `n` replaced; a group without members does not exist (R291). -/
def Launch.setGroup (l : Launch) (n : Nat) (x : Group) : Launch :=
  { l with groups := if x.members.isEmpty then l.groups.drop n else l.groups.put n x }

/-- The group number of a register form, in Sb, or of an immediate form; none where bits 63:16 of Sb are not zero. -/
def groupNo (reg : Bool) (e : QEntry) (a : Aq) : Option Nat :=
  if reg then (if e.y.extractLsb' 16 48 = 0 then some (e.y.toNat % 2 ^ 16) else none) else some (a.off.toNat % 2 ^ 16)

/-- The QUEUE fault of group membership (R373). -/
def groupFault : FaultInfo := queueFault 0 4

/-- JOIN at the head (R292). -/
def State.joinGroup (s : State) (g : Nat) (n : Option Nat) : Perf :=
  match n with
  | none => .fault groupFault
  | some n =>
    let l := s.launchOf (g / 4)
    let x := l.group n
    if x.members.contains g then .fault groupFault
    else if x.members.isEmpty && decide (4096 ≤ l.groups.entries.length) then .fault (queueFault 0 1)
    else .done none (s.modLaunchOf (g / 4) (fun l => l.setGroup n { x with members := x.members ++ [g] }))

/-- LEAVE at the head (R292). -/
def State.leaveGroup (s : State) (g : Nat) (n : Option Nat) : Perf :=
  match n with
  | none => .fault groupFault
  | some n =>
    let x := (s.launchOf (g / 4)).group n
    if x.members.contains g then
      .done none (s.modLaunchOf (g / 4) (fun l =>
        l.setGroup n { x with members := x.members.filter (· != g), arrived := x.arrived.filter (· != g) }))
    else .fault groupFault

/-- GCOUNT at the head (R292). -/
def State.countMembers (s : State) (g : Nat) (n : Option Nat) : Perf :=
  match n with
  | none => .fault groupFault
  | some n => .done (some (BitVec.ofNat 128 ((s.launchOf (g / 4)).group n).members.length)) s

/-- A write that an arrival counts, made and not yet performed at .V (R293). -/
def Arrival.counts (w : Arrival) (k : Track) : Bool :=
  decide (k.gsid = w.gsid ∧ k.region ≤ w.region ∧ k.write ∧ k.reached < 4 ∧ (k.queue = chainQ → k.number < w.orders))

/-- The bytes that an access has touched in its word. -/
def Track.count (k : Track) : Nat := ((List.range 8).filter (fun i => k.bytes.getLsbD i)).length

/-- The bytes of a stream's writes that an arrival counts and that have not been performed at .V (R293): those made at a narrower scope, and
those still to be made by its ST commands and developer blocks issued up to the arrival's region and by the chain entry then in progress. -/
def State.pendBytes (s : State) (w : Arrival) : Nat :=
  let t := s.stream w.gsid
  let k := s.core (w.gsid / 4)
  let rest (j : CopyJob) (started : Bool) (idx : List Nat) (n : Nat) : Nat := j.left (if started then idx else k.indices j) n
  let cmd (e : QEntry) : Nat :=
    if e.region ≤ w.region ∧ !e.skip ∧ !e.cancel then (match e.job with | some j => rest j e.started e.idx e.prog | none => 0) else 0
  let c := t.stChain
  let chain := match c.entry with
    | some e => if c.run ∧ w.chain = some c.order then rest (chainJob false e) c.waited c.idx c.prog else 0
    | none => 0
  let dev (b : DevBlock) : Nat := if b.gsid = w.gsid ∧ b.region ≤ w.region then (if b.begun then 8 else b.len + 8) else 0
  ((s.tracks.filter w.counts).map Track.count).sum + (t.stq.map cmd).sum + chain + (s.devq.entries.map (fun q => (q.2.map dev).sum)).sum

/-- What an arrival of stream `g` in region `r` counts: the ST chain entry counts where it is in progress. -/
def State.arrivalOf (s : State) (g r : Nat) : Arrival :=
  let c := (s.stream g).stChain
  { gsid := g, region := r, orders := (s.core (g / 4)).orders,
    chain := if c.run && c.entry.isSome && !c.skip && decide (c.region ≤ r) then some c.order else none }

/-- PEND of a group as the writes that its arrivals count perform (R293). -/
def State.groupPend (s : State) (x : Group) : Nat := (x.waits.map s.pendBytes).sum

/-- The writes that an arrival counts and that have been made performed at .V: the barrier is a release of them (R293). -/
def State.performCounted (s : State) (w : Arrival) : State :=
  { s with tracks := s.tracks.map (fun k => if w.counts k then { k with level := 4 } else k) }

/-- At the end of a cycle the writes that the arrivals of every launch count, and that have been made, are performed at .V, and PEND falls by
them (R293). -/
def State.settleGroups (s : State) : State :=
  let waits := s.launches.entries.flatMap (fun e => e.2.groups.entries.flatMap (fun x => x.2.waits))
  if waits.isEmpty then s
  else
    let u := waits.foldl State.performCounted s
    { u with launches := u.launches.map (fun _ l =>
        { l with groups := l.groups.map (fun _ x => if x.waits.isEmpty then x else { x with pend := BitVec.ofNat 40 (u.groupPend x) }) }) }

/-- BARG at the head (R293): the stream arrives, with its writes that are not performed at .V counted. -/
def State.arrive (s : State) (g : Nat) (e : QEntry) (n : Option Nat) : Perf :=
  match n with
  | none => .fault groupFault
  | some n =>
    let x := (s.launchOf (g / 4)).group n
    let w := s.arrivalOf g e.region
    let pend := s.groupPend x + s.pendBytes w
    if !x.members.contains g then .fault groupFault
    else if 2 ^ 40 - 1 < pend then .fault (queueFault 0 5)
    else
      let k := s.carries g (e.region + 1) ((s.stream g).before 3 e)
      .left (s.modLaunchOf (g / 4) (fun l =>
        l.setGroup n { x with arrived := x.arrived ++ [g], waits := x.waits ++ [w], pend := BitVec.ofNat 40 pend,
                              seen := joinSeen x.seen k }))

/-- JOIN (reg) (R292). -/
def execJoinReg (h : Hdr) (a : Aq) (s : State) : Host.Outcome State Fault Refusal := (s.aqForm h (.joinReg h a) a [a.sb]).done s
/-- JOIN (imm) (R292). -/
def execJoinImm (h : Hdr) (a : Aq) (s : State) : Host.Outcome State Fault Refusal := (s.aqForm h (.joinImm h a) a []).done s
/-- LEAVE (reg) (R292). -/
def execLeaveReg (h : Hdr) (a : Aq) (s : State) : Host.Outcome State Fault Refusal := (s.aqForm h (.leaveReg h a) a [a.sb]).done s
/-- LEAVE (imm) (R292). -/
def execLeaveImm (h : Hdr) (a : Aq) (s : State) : Host.Outcome State Fault Refusal := (s.aqForm h (.leaveImm h a) a []).done s
/-- BARG (reg) (R293): its predicate is ignored. -/
def execBargReg (h : Hdr) (a : Aq) (s : State) : Host.Outcome State Fault Refusal := (s.aqAlways h (.bargReg h a) a [a.sb]).done s
/-- BARG (imm) (R293): its predicate is ignored. -/
def execBargImm (h : Hdr) (a : Aq) (s : State) : Host.Outcome State Fault Refusal := (s.aqAlways h (.bargImm h a) a []).done s
/-- GCOUNT (reg) (R292). -/
def execGcountReg (h : Hdr) (a : Aq) (s : State) : Host.Outcome State Fault Refusal :=
  (s.aqForm h (.gcountReg h a) a [a.sb]).done s
/-- GCOUNT (imm) (R292). -/
def execGcountImm (h : Hdr) (a : Aq) (s : State) : Host.Outcome State Fault Refusal :=
  (s.aqForm h (.gcountImm h a) a []).done s

/-- The barrier entry that waits at the keeper. -/
def isBarg : Instr → Bool
  | .bargReg _ _ | .bargImm _ _ => true
  | _ => false

/-- A stream whose barrier has completed: the arrival's reply token is pushed in cycle `now`, and acquires what the members have released
(R293, R431). -/
def Stream.barrierDone (t : Stream) (now : Nat) (k : Tbl Nat) : Stream :=
  match t.aq.find? (fun e => isBarg e.instr && e.started && !e.done) with
  | some e =>
    let t := t.acquired e.entered k
    let c := t.before 3 e
    { (t.modEntry 3 e.number (fun e => { e with done := true, since := now, clock := c })).retired 3 { e with clock := c } with aqAt := now + 1 }
  | none => t

/-- BARRIER_COMPLETE (R293): group `site.sub` of the launch whose lead core is `site.unit`: every member has arrived and PEND is 0. -/
def execBarrierComplete (s : State) : Host.Outcome State Fault Refusal :=
  let l := s.site.unit
  let n := s.site.sub
  let x := (s.launches.get {} l).group n
  if !x.members.isEmpty && x.members.all (fun m => x.arrived.contains m) && s.groupPend x == 0 then
    let u := x.arrived.foldl (fun (u : State) m => u.modStream m (fun t => t.barrierDone s.cycle x.seen)) s
    .next { u with launches := u.launches.mod {} l (fun l =>
      l.setGroup n { x with arrived := [], waits := [], pend := 0, seen := .empty, gen := x.gen + 1 }) }
  else .next s

end Sys2Proof.Machine
end

