-- ==== Sys2Proof/Machine/Spawn.lean ====
section
/-! DEFINITION. Machine/Spawn.lean: TSPAWN, TSTAGE, TJOIN, the incumbent forms, the kill checks, and the journal forms of the access
queue (R324 to R327, R334 to R345, R359 to R364). -/
namespace Sys2Proof.Machine

/-- TSPAWN (R324). -/
def execTspawn (h : Hdr) (a : Aq) (s : State) : Host.Outcome State Fault Refusal := (s.aqForm h (.tspawn h a) a [a.sa]).done s
/-- TSTAGE (reg) (R324). -/
def execTstageReg (h : Hdr) (a : Aq) (s : State) : Host.Outcome State Fault Refusal :=
  (s.aqForm h (.tstageReg h a) a [a.sa, a.sb]).done s
/-- TSTAGE (imm) (R324). -/
def execTstageImm (h : Hdr) (a : Aq) (s : State) : Host.Outcome State Fault Refusal :=
  (s.aqForm h (.tstageImm h a) a [a.sa]).done s
/-- TJOIN (R327): its predicate is ignored. -/
def execTjoin (h : Hdr) (a : Aq) (s : State) : Host.Outcome State Fault Refusal := (s.aqAlways h (.tjoin h a) a [a.sa]).done s
/-- IMPRV (R338). -/
def execImprv (h : Hdr) (a : Aq) (s : State) : Host.Outcome State Fault Refusal := (s.aqForm h (.imprv h a) a [a.sa, a.sb]).done s
/-- IREAD (R340). -/
def execIread (h : Hdr) (a : Aq) (s : State) : Host.Outcome State Fault Refusal := (s.aqForm h (.iread h a) a []).done s
/-- JREC (R359). -/
def execJrec (h : Hdr) (a : Aq) (s : State) : Host.Outcome State Fault Refusal := (s.aqForm h (.jrec h a) a [a.sa, a.sb]).done s
/-- JWAIT (R361). -/
def execJwait (h : Hdr) (a : Aq) (s : State) : Host.Outcome State Fault Refusal := (s.aqForm h (.jwait h a) a [a.sa]).done s
/-- EMIT.N32 (R362). -/
def execEmitN32 (h : Hdr) (a : Aq) (s : State) : Host.Outcome State Fault Refusal :=
  (s.aqForm h (.emitN32 h a) a [a.sa, a.sb]).done s
/-- EMIT.N64 (R362). -/
def execEmitN64 (h : Hdr) (a : Aq) (s : State) : Host.Outcome State Fault Refusal :=
  (s.aqForm h (.emitN64 h a) a [a.sa, a.sb]).done s
/-- JTRUNC (R364). -/
def execJtrunc (h : Hdr) (a : Aq) (s : State) : Host.Outcome State Fault Refusal :=
  (s.aqForm h (.jtrunc h a) a [a.sa, a.sb]).done s

/-! ## Enqueues (R325) -/

/-- TSPAWN into task queue `q` at the head, after its release. -/
def State.spawn (s : State) (g : Nat) (e : QEntry) (w : Who) (q : Nat) : Perf :=
  let c := g / 4
  let d := (s.launchOf c).queue q
  if !d.enabled then .fault (queueFault e.x 0)
  else match s.readRec w e.x 32 with
    | .error f => .fault f
    | .ok (v, u) =>
      let r : TRec := BitVec.ofNat 256 v
      let depth := min ((s.stream g).task.depth.toNat + 1) 65535
      if !r.ok then .fault (queueFault e.x 2)
      else if d.depthmax ≠ 0 ∧ d.depthmax.toNat < depth then .fault (queueFault e.x 8)
      else if s.prunes c r d.btype then
        (if r.join = 0 then .done none u else Perf.ofExcept (u.joinUpdate w c r.join .spawnPrunes))
      else if d.full then .fault (queueFault e.x 1)
      else
        match (if r.join = 0 then .ok u else u.joinUpdate w c r.join .enqueues) with
        | .error f => .fault f
        | .ok u => Perf.ofExcept (u.putSlot w c q (r.setDepth depth).toNat)

/-- TSTAGE into stage queue `n` at the head, after its release. -/
def State.stage (s : State) (g : Nat) (e : QEntry) (w : Who) (n : Nat) : Perf :=
  let c := g / 4
  let d := (s.launchOf c).queue (16 + n)
  if !d.enabled then .fault (queueFault e.x 0)
  else match s.readRec w e.x 16 with
    | .error f => .fault f
    | .ok (v, u) => if d.full then .fault (queueFault e.x 1) else Perf.ofExcept (u.putSlot w c (16 + n) v)

/-! ## Kill points (R342, R343) -/

/-- The task of stream `g` is killed where it has BEN = 1 and its bound is dominated. A kill determined in the cycle of the stream's HALT absorbs
the HALT: the stream stands at TEND instead (R378). -/
def State.killCheck (s : State) (g : Nat) : State :=
  let t := s.stream g
  if t.task.active && t.task.ben && s.dominated (g / 4) t.task.inc.toNat t.task.bound (some t.task.btype) then
    s.modStream g (fun t =>
      { t with task := { t.task with killed := true },
               status := if t.status = .halted ∧ t.issuedAt = s.cycle then .atTend else t.status })
  else s

/-- TJOIN at the head (R327): a kill point, and the decrement, as an atomic with .AR at .V. -/
def State.tjoin (s : State) (g : Nat) (e : QEntry) (w : Who) : Perf :=
  Perf.ofExcept (((s.killCheck g).release w 3).joinUpdate w (g / 4) e.x .tjoin)

/-- KCHK (R345): acts in its issue cycle; `off` holds the slot. -/
def execKchk (h : Hdr) (a : Aq) (s : State) : Host.Outcome State Fault Refusal :=
  let t := s.me
  let b : BitVec 32 := (t.sreg a.sa).setWidth 32
  let n := a.off.toNat % 16
  let kill := s.dominated (s.cur / 4) n b none
  (s.plain h [t.sp a.sa] []
    (if !t.task.active then .go s
     else .go (s.modMe (fun t => { t with task :=
       { t.task with bound := b, inc := BitVec.ofNat 4 n, ben := true, killed := t.task.killed || kill } })))).done s

/-! ## The incumbent (R336 to R341) -/

/-- A stream of core `c` may use incumbent slot `n` (R336). -/
def State.usable (s : State) (c n : Nat) : Bool :=
  let cfg := (s.incs.get {} n).cfg
  cfg.getLsbD 63 && decide ((cfg.extractLsb' 32 12).toNat = s.ctxOf c)

/-- `x` is strictly better than `v` under a slot's configuration (R338). -/
def Inc.better (cfg : Word) (x v : BitVec 32) : Bool :=
  let less (a b : BitVec 32) : Bool :=
    if cfg.getLsbD 61 then (f32.decode a.toNat).cond 2 (f32.decode b.toNat) else a.slt b
  if cfg.getLsbD 62 then less x v else less v x

/-- IMPRV at the incumbent unit, after its release (R338): a better value is broadcast to every core, and the slot's release sequence goes
on. -/
def State.improve (s : State) (g : Nat) (e : QEntry) (w : Who) (n : Nat) : Perf :=
  if !s.usable (g / 4) n then .fault (queueFault 0 6)
  else
    let i := s.incs.get {} n
    let x : BitVec 32 := e.x.setWidth 32
    let p : BitVec 32 := e.y.setWidth 32
    if Inc.better i.cfg x i.value then
      .done none ({ s with incs := s.incs.put n { i with value := x, payload := p },
                           shadowMs := s.shadowMs ++ (List.range 240).map (fun c => (c, n, x, p)) }.continues g 3 [slotWord n]
                    (some { s.headBy w 3 with fixed := true }))
    else .done none s

/-- IREAD at the head (R340): the slot, as an acquire at .V, or the core's shadow of it. -/
def State.iread (s : State) (g : Nat) (e : QEntry) (n : Nat) (acq : Bool) : Perf :=
  if !s.usable (g / 4) n then .fault (queueFault 0 6)
  else
    let v := if acq then ((s.incs.get {} n).value, (s.incs.get {} n).payload) else s.shadows.get (0, 0) (16 * (g / 4) + n)
    .done (some (BitVec.ofNat 128 (v.2.toNat * 2 ^ 32 + v.1.toNat))) (if acq then s.readsAcq g 3 e.entered [slotWord n] else s)

/-- SHADOW_UPDATE (R341): the oldest broadcast still on its way to core `site.unit`; a shadow takes only a better value. -/
def execShadowUpdate (s : State) : Host.Outcome State Fault Refusal :=
  let c := s.site.unit
  match s.shadowMs.find? (fun m => m.1 == c) with
  | none => .next s
  | some m =>
    let k := 16 * c + m.2.1
    let old := s.shadows.get (0, 0) k
    let u := { s with shadowMs := s.shadowMs.erase m }
    .next (if Inc.better (s.incs.get {} m.2.1).cfg m.2.2.1 old.1 then { u with shadows := u.shadows.put k (m.2.2.1, m.2.2.2) } else u)

/-! ## The journal (R359 to R364) -/

/-- The journal of die `d` takes entries. -/
def State.journals (s : State) (d : Nat) : Bool := jEn s.jpair && (s.jnOf d).jlocal.getLsbD 63

/-- Bytes of scratchpad from `a`, which may span lines. -/
def Core.spBytes (k : Core) (a : Nat) : Nat → Nat
  | 0 => 0
  | n + 1 => k.spGet a 1 + 256 * k.spBytes (a + 1) n

/-- JREC at the head (R359). -/
def State.jrec (s : State) (g : Nat) (e : QEntry) : Perf :=
  let k := s.core (g / 4)
  let d := dieOf (g / 4)
  let h := e.x.toNat
  let p := e.y.toNat
  if !(s.stream g).landedBy e.entered then .hold
  else if !s.journals d then .fault (journalFault 0 d)
  else
    let hdr : BitVec 256 := BitVec.ofNat 256 (k.spBytes h 32)
    let len := headerLen hdr
    let bad (a : Nat) : Bool := (k.line (a / 64)).poison
    if headerBad hdr then .fault (journalFault 0 d)
    else if 0 < len ∧ 0x5FFFF < p + len - 1 then .fault { code := .perm, addr := e.y, info := 4 }
    else if bad h then .fault { code := .poison, addr := e.x, info := 1 }
    else match (if 0 < len then (List.range ((p % 64 + len + 63) / 64)).find? (fun i => bad (p + 64 * i)) else none) with
      | some i => .fault { code := .poison, addr := BitVec.ofNat 64 ((p / 64 + i) * 64), info := 1 }
      | none =>
        if !(s.jnOf d).ring.room (jQuarter s.jpair) (recordLines len) then .hold
        else
          let r := s.journal d false hdr len (k.spBytes p len)
          .done (some (r.2.setWidth 128)) (r.1.modStream g (fun t => { t with jlast := r.2 }))

/-- Journal number `n` is durable. -/
def State.durable (s : State) (n : Word) : Bool :=
  decide ((n.setWidth 62 : BitVec 62).toNat ≤ (s.jnOf (n.extractLsb' 62 2).toNat).dur)

/-- JWAIT at the head (R361). -/
def State.jwait (s : State) (e : QEntry) : Perf :=
  let k := (e.x.setWidth 62 : BitVec 62).toNat
  let d := (e.x.extractLsb' 62 2).toNat
  if (s.jnOf d).lastn < k then .fault (journalFault e.x d)
  else if s.durable e.x then .done none s
  else .hold

/-- EMIT of `n` bytes at the head (R362): gated on the durability of JLAST, then a release at .V. -/
def State.emit (s : State) (g : Nat) (e : QEntry) (a : Aq) (n : Nat) : Perf :=
  let va := e.addr a
  let w := s.aqWho g e a
  let j := (s.stream g).jlast
  if j != 0 && !s.durable j then .hold
  else match s.place (s.ctxOf (g / 4)) va .write with
    | .error f => .fault f
    | .ok q =>
      if !q.leaf.ms || q.isDevice then .fault (permFault va .write)
      else match (s.release w 3).marked w va n .write with
        | .error f => .fault f
        | .ok (p, u) =>
          .done none ((u.writeBytes p.pa n (e.y.toNat % 2 ^ (8 * n)) false).headsNew (wordsOf p.pa n) { s.headBy w 3 with fixed := true })

/-- JTRUNC at the head (R364). -/
def State.jtrunc (s : State) (g : Nat) (e : QEntry) : Perf :=
  let d := dieOf (g / 4)
  if e.y.extractLsb' 32 32 != 0 || !s.journals d then .fault (journalFault 0 d)
  else if !(s.jnOf d).ring.room (jQuarter s.jpair) 1 then .hold
  else .done none (s.journal d true (BitVec.ofNat 256 (e.x.toNat + e.y.toNat * 2 ^ 64)) 0 0).1

end Sys2Proof.Machine
end

