-- ==== Sys2Proof/Machine/Developer.lean ====
section
/-! DEFINITION. Machine/Developer.lean: the developer of each base die and DVRED (R96 to R102). -/
namespace Sys2Proof.Machine

/-- DVRED (R99): its parameter block is checked at the head of the queue, not at issue. -/
def execDvred (h : Hdr) (a : Aq) (s : State) : Host.Outcome State Fault Refusal := (s.aqForm h (.dvred h a) a [a.sa]).done s

/-! ## The parameter block (R96) -/

/-- A parameter block, byte 0 lowest. -/
abbrev ParamBlock := BitVec 1024

/-- The word at byte `i`. -/
def ParamBlock.word (b : ParamBlock) (i : Nat) : Word := b.extractLsb' (8 * i) 64
/-- COUNT. -/
def ParamBlock.count (b : ParamBlock) : Nat := (b.extractLsb' 736 8).toNat
/-- TYPE: 0 F32, 1 B16, 2 I32, 3 I64. -/
def ParamBlock.ty (b : ParamBlock) : Nat := (b.extractLsb' 744 8).toNat
/-- LEN. -/
def ParamBlock.len (b : ParamBlock) : Nat := (b.extractLsb' 704 32).toNat
/-- The sources that count. -/
def ParamBlock.srcs (b : ParamBlock) : List Word := (List.range b.count).map (fun k => b.word (8 * k))
/-- DST. -/
def ParamBlock.dst (b : ParamBlock) : Word := b.word 64
/-- FLAG. -/
def ParamBlock.flag (b : ParamBlock) : Word := b.word 72

/-- A block that breaks a limit of R96. -/
def ParamBlock.bad (b : ParamBlock) : Bool :=
  decide (b.count < 1 ∨ 8 < b.count ∨ 3 < b.ty ∨ b.len % 64 ≠ 0 ∨ b.len < 64 ∨ 16777216 < b.len ∨ b.dst.toNat % 64 ≠ 0)
    || b.extractLsb' 752 272 != 0 || b.srcs.any (fun v => decide (v.toNat % 64 ≠ 0))

/-- Buffers of `len` bytes at these addresses, or the first fault. -/
def State.buffersAt (s : State) (ctx len : Nat) : List Word → Except FaultInfo (List (List (Nat × Nat × Bool)))
  | [] => .ok []
  | v :: r =>
    match s.placeRange ctx .read 300 v.toNat len with
    | .error f => .error f
    | .ok x => match s.buffersAt ctx len r with | .error f => .error f | .ok y => .ok (x :: y)

/-- The PA granules of a buffer that an MS page maps. -/
def msGranules (l : List (Nat × Nat × Bool)) : List Nat := (l.filter (fun x => x.2.2)).map (fun x => x.1 / 2 ^ 16)
/-- An MS page maps a granule of a format region in force (R99). -/
def State.msFormat (s : State) (x : Nat × Nat × Bool) : Bool := x.2.2 && (s.formatAt x.1).isSome
/-- The stack that a piece lies in. -/
def stackOf (pa : Nat) : Nat := pa / 2 ^ 36

/-- The buffers of block `b` and its flag translated and checked (R99): the stack and the block to accept. -/
def State.devAccept (s : State) (g : Nat) (w : Who) (b : ParamBlock) : Except FaultInfo (Nat × DevBlock) :=
  let ctx := s.ctxOf (g / 4)
  match s.buffersAt ctx b.len b.srcs with
  | .error f => .error f
  | .ok xs =>
    match s.placeRange ctx .write 300 b.dst.toNat b.len with
    | .error f => .error f
    | .ok d =>
      let st := stackOf ((xs.headD []).headD (0, 0, false)).1
      let away (l : List (Nat × Nat × Bool)) : Bool := decide (8 ≤ st) || l.any (fun x => stackOf x.1 != st || s.msFormat x)
      match (b.srcs.zip xs).find? (fun x => away x.2) with
      | some x => .error (permFault x.1 .read)
      | none =>
        if away d || xs.any (fun x => overlaps (pieces x) (pieces d) && pieces x != pieces d) then .error (permFault b.dst .write)
        else match s.place ctx b.flag .write with
          | .error f => .error f
          | .ok p =>
            if p.isDevice then .error (permFault b.flag .write)
            else .ok (st, { gsid := g, region := w.region, clock := w.clock.raise 3 w.number, ctx := ctx, srcs := xs.map pieces,
                            srcVas := b.srcs, dst := pieces d, dstVa := b.dst, flag := p.pa, flagVa := b.flag,
                            fval := b.word 80, len := b.len, ty := b.ty, begun := false, id := s.serial,
                            owner := s.lifeOf g,
                            msSrc := xs.flatMap msGranules, msDst := msGranules d, msFlag := p.leaf.ms })

/-- DVRED at the head (R99): accepted, or held while the developer has no free block entry. Its read of the parameter block fills the caches as
a load of RD 0: R110 does not say (DESIGN CHOICE, entry 54). -/
def State.dvred (s : State) (g : Nat) (e : QEntry) (w : Who) : Perf :=
  let v := e.x
  if v.toNat % 128 ≠ 0 then .fault { code := .align, addr := v, info := 0 }
  else match (s.release w 3).readRec w v 64 with
    | .error f => .fault f
    | .ok (lo, u) =>
      match u.readRec w (v + 64) 64 with
      | .error f => .fault f
      | .ok (hi, u) =>
        let b : ParamBlock := BitVec.ofNat 1024 (lo + hi * 2 ^ 512)
        if b.bad then .fault { code := .illegal }
        else if b.flag.toNat % 8 ≠ 0 then .fault { code := .align, addr := b.flag, info := 1 }
        else match u.devAccept g w b with
          | .error f => .fault f
          | .ok (st, k) =>
            if 16 ≤ (u.devq.get [] st).length then .hold
            else
              let ctx := s.ctxOf (g / 4)
              let h := (b.srcs.foldl (fun (h : State) v => h.holdRange ctx v.toNat b.len .read) u).holdRange ctx b.dst.toNat b.len .write
              let h := h.holdRange ctx b.flag.toNat 8 .write
              .done none { h with devq := h.devq.put st (h.devq.get [] st ++ [k]), serial := h.serial + 1 }

/-! ## The reduction (R97, R98) -/

/-- The fixed tree over the sources that are present. -/
def devTree {α : Type} (add : α → α → α) (v : List α) : Option α :=
  let pair (x y : Option α) : Option α :=
    match x, y with
    | none, y => y
    | x, none => x
    | some a, some b => some (add a b)
  pair (pair (pair v[0]? v[1]?) (pair v[2]? v[3]?)) (pair (pair v[4]? v[5]?) (pair v[6]? v[7]?))

/-- Bytes of an element. -/
def devWidth (ty : Nat) : Nat := match ty with | 1 => 2 | 3 => 8 | _ => 4

/-- The F32 sum of the sources' elements along the tree (R97), NaN and infinities as R197 has them. -/
def devSum (v : List Nat) : FVal := reduced f32 v ((devTree (faddBits f32) v).getD 0)

/-- One element of the destination from those of the sources (R97). -/
def devElement (ty : Nat) (v : List Nat) : Nat :=
  match ty with
  | 0 => f32.round 0 false (devSum v)
  | 1 => b16.round 0 false (devSum (v.map (fun x => f32.round 0 false (b16.decode x))))
  | 2 => (devTree (fun x y => (x + y) % 2 ^ 32) v).getD 0
  | _ => (devTree (fun x y => (x + y) % 2 ^ 64) v).getD 0

/-- A line of the destination from the lines of the sources. -/
def devLine (ty : Nat) (v : List Nat) : Nat :=
  let w := devWidth ty
  (List.range (64 / w)).foldl (fun acc i =>
    acc + devElement ty (v.map (fun x => x / 2 ^ (8 * w * i) % 2 ^ (8 * w))) * 2 ^ (8 * w * i)) 0

/-- The physical address at byte `o` of a buffer. -/
def pieceAt : List (Nat × Nat) → Nat → Nat
  | [], _ => 0
  | (a, n) :: r, o => if o < n then a + o else pieceAt r (o - n)

/-- An access of the developer to the canonical word at `va` races with region `r` of stream `g`: it is charged to that stream (R276). -/
def State.chargeRace (s : State) (va g r : Nat) : State :=
  s.modStream g (fun t =>
    if t.charge.isSome then t
    else { t with charge := some { raceFault (BitVec.ofNat 64 va) (g, r) with src := 4 } })

/-- The developer as the issuer of an access for block `b`. -/
def devWho (b : DevBlock) : Who :=
  { gsid := b.gsid, region := b.region, queue := devQ, number := 0, clock := b.clock, cpid := 0, rd := 0, hint := 0 }

/-- The place of a developer access at a physical address, through a memory-side page with `ms` (R83, R87); what stands there has been
checked at acceptance. -/
def State.devPlace (s : State) (b : DevBlock) (va pa : Nat) (ms : Bool) : Place :=
  let n := s.canonical b.ctx va pa
  { pa := pa, die := homeOf pa, ctx := n.1, va := n.2,
    leaf := { ctx := b.ctx, va := 0, pa := 0, size := 0, ms := ms, x := false, w := true, rp := true } }

/-- One word at `va` accessed by the developer: a race is charged, and the access tracked. -/
def State.devWord (s : State) (b : DevBlock) (p : Place) (va : Nat) (write plain : Bool) : State :=
  let u := match s.raceWord (devWho b) p va 8 write plain with | some k => s.chargeRace p.va k.1 k.2 | none => s
  u.track (devWho b) p va 8 write plain 4

/-- A line at `va` accessed by the developer. A write ends the release sequences of its words (R281). -/
def State.devTouch (s : State) (b : DevBlock) (p : Place) (va : Nat) (write : Bool) : State :=
  (List.range 8).foldl (fun (u : State) i => u.devWord b { p with pa := p.pa + 8 * i, va := p.va + 8 * i } (va + 8 * i) write true)
    (if write then s.endsHeads p.pa 64 else s)

/-- Line `i` of a block reduced: sources written back and read, the destination's cached lines removed, and its bytes written, with
poison where a source line has it (R92, R98, R99). -/
def State.devReduce (s : State) (b : DevBlock) (i : Nat) : State :=
  let o := 64 * i
  let src := (b.srcs.zip b.srcVas).map (fun x => (pieceAt x.1 o, x.2.toNat + o))
  let u := src.foldl (fun (u : State) x =>
    let p := u.devPlace b x.2 x.1 (b.msSrc.contains (x.1 / 2 ^ 16))
    (if u.memorySide p then u.recallFor p else u.cleanLine (scopeLevels 3 0 p.die) p.ctx p.va false).devTouch b p x.2 false) s
  let d := pieceAt b.dst o
  let p := u.devPlace b (b.dstVa.toNat + o) d (b.msDst.contains (d / 2 ^ 16))
  let v := devLine b.ty (src.map (fun x => Memory.getNat u.mem x.1 64))
  let bad := src.any (fun x => (u.lineAt x.1).poison)
  (((u.recallFor p).devTouch b p (b.dstVa.toNat + o) true).pset d 64 v).setPoison d bad

/-- DEVELOPER_BLOCK_START (R98): the developer of stack `site.unit` begins its next accepted block and makes its reduction. -/
def execDeveloperBlockStart (s : State) : Host.Outcome State Fault Refusal :=
  let st := s.site.unit
  match s.devq.get [] st with
  | [] => .next s
  | b :: r =>
    if b.begun then .next s
    else
      let u := (List.range (b.len / 64)).foldl (fun (u : State) i => u.devReduce b i) s
      .next { u with devq := u.devq.put st ({ b with begun := true } :: r) }

/-- What the flag store releases: the block, and everything ordered before its DVRED (R102). -/
def State.flagHead (s : State) (b : DevBlock) : Head :=
  { gsid := b.gsid, scope := 3, fixed := true, seen := (s.carries b.gsid (b.region + 1) b.clock).put (devKey b.id) 1 }

/-- DEVELOPER_FLAG_STORE (R99): FVAL stored to the flag as a release at .V, and the block done. Its issuer keeps off its buffers until it
has acquired the flag (R101). -/
def execDeveloperFlagStore (s : State) : Host.Outcome State Fault Refusal :=
  let st := s.site.unit
  match s.devq.get [] st with
  | [] => .next s
  | b :: r =>
    if !b.begun then .next s
    else
      let p := s.devPlace b b.flagVa.toNat b.flag b.msFlag
      let u := (s.recallFor p 8).devWord b p b.flagVa.toNat true false
      let v := (u.writeBytes b.flag 8 b.fval.toNat false).headsNew (wordsOf b.flag 8) (s.flagHead b)
      .next { v with devq := v.devq.put st r, devDone := v.devDone ++ [b] }

/-- The blocks whose issuer has acquired their flag, or has gone with its launch, let go (R101). -/
def State.pruneBlocks (s : State) : State :=
  { s with devDone := s.devDone.filter (fun b => s.devLives b && ((s.stream b.gsid).clock 4).seen.get 0 (devKey b.id) == 0) }

end Sys2Proof.Machine
end

