-- ==== Sys2Proof/Machine/Perform.lean ====
section
/-! DEFINITION. Machine/Perform.lean: access-queue operations performed in queue order, releases in marker mode, and TKWAIT (R146, R270 to
R272, R282, R431). -/
namespace Sys2Proof.Machine

/-- What the operation of an entry comes to at the head of its queue, after its pops. -/
def State.aqAct (s : State) (g : Nat) (e : QEntry) : Perf :=
  match e.instr with
  | .gld _ a => s.gld g e a
  | .gst _ a => s.gst g e a
  | .aprom _ a => s.aprom g e a
  | .fence _ a => s.fence g e a
  | .pf _ a => s.prefetch g e a
  | .linv _ a => s.lineOp g e a true
  | .lwb _ a => s.lineOp g e a false
  | .dvred _ a => s.dvred g e (s.aqWho g e a)
  | .tspawn _ a => (s.release (s.aqWho g e a) 3).spawn g e (s.aqWho g e a) (a.off.toNat % 16)
  | .tstageReg _ a => (s.release (s.aqWho g e a) 3).stage g e (s.aqWho g e a) (e.y.toNat % 16)
  | .tstageImm _ a => (s.release (s.aqWho g e a) 3).stage g e (s.aqWho g e a) (a.off.toNat % 16)
  | .tjoin _ a => s.tjoin g e (s.aqWho g e a)
  | .joinReg _ a => s.joinGroup g (groupNo true e a)
  | .joinImm _ a => s.joinGroup g (groupNo false e a)
  | .leaveReg _ a => s.leaveGroup g (groupNo true e a)
  | .leaveImm _ a => s.leaveGroup g (groupNo false e a)
  | .bargReg _ a => s.arrive g e (groupNo true e a)
  | .bargImm _ a => s.arrive g e (groupNo false e a)
  | .gcountReg _ a => s.countMembers g (groupNo true e a)
  | .gcountImm _ a => s.countMembers g (groupNo false e a)
  | .imprv _ a => (s.release (s.aqWho g e a) 3).improve g e (s.aqWho g e a) (a.off.toNat % 16)
  | .iread _ a => s.iread g e (a.off.toNat % 16) (a.ord == 1)
  | .jrec _ _ => s.jrec g e
  | .jwait _ _ => s.jwait e
  | .emitN32 _ a => s.emit g e a 4
  | .emitN64 _ a => s.emit g e a 8
  | .jtrunc _ _ => s.jtrunc g e
  | i => match atomicOf i, aqBody i with
    | some o, some a => s.atomic g e a o.1 o.2.1 o.2.2
    | _, _ => .done none s

/-- Entry `e` of stream `g` performed: its tokens and its reply token are pushed, and an entry without a reply token is freed. `aqAt` is one
more than the cycle. -/
def State.aqFinish (s : State) (g : Nat) (e : QEntry) (reply : Option (BitVec 128)) : State :=
  let room := (s.core (g / 4)).room (g % 4)
  s.modStream g (fun t =>
    let c := (t.before 3 e).raise 3 e.number
    let t := { ((t.pushTokens room 3 e.instr c).getD t).retired 3 { e with clock := c } with aqAt := s.cycle + 1 }
    match e.instr with
    | .pf _ _ => t.dropEntry 3 e.number
    | _ => t.modEntry 3 e.number (fun e => { e with done := true, reply := reply, since := s.cycle, clock := c }))

/-- Entry `e` of stream `g` holds a fault: it stays where it is, with no effect (R272). -/
def State.aqHold (s : State) (g : Nat) (e : QEntry) (f : FaultInfo) : State :=
  let u := if f.src = 4 then s.modStream g (fun t => { t with charge := none }) else s
  u.holdFault g 3 e.number { f with src := if f.src = 4 then 4 else 1, unit := 3, word := e.va }

/-- An operation that does its work skipped too: others wait for a barrier's arrival and for a join's decrement (R11, R293, R327). -/
def keepsWork : Instr → Bool
  | .tjoin _ _ | .bargReg _ _ | .bargImm _ _ => true
  | _ => false

/-- An operation whose tokens are popped and whose pushes have room: skipped, or performed, or left waiting. One that has been abandoned
takes no fault (R377). -/
def State.aqMake (s : State) (g : Nat) (e : QEntry) : State :=
  if (e.skip || e.cancel) && !keepsWork e.instr then s.aqFinish g e none
  else
    match (if aqSyncs e.instr then (s.stream g).charge else none) with
    | some f => s.aqHold g e f
    | none =>
      match s.aqAct g e with
      | .done r u => u.aqFinish g e r
      | .hold => s
      | .later u => u
      | .fault f => if e.cancel then s.aqFinish g e none else s.aqHold g e f
      | .left u => u.modStream g (fun t => t.modEntry 3 e.number (fun e => { e with started := true }))

/-- The words of VA that an entry's own access touches, where it names an address. -/
def QEntry.words (e : QEntry) : List Nat :=
  match e.instr with
  | .gld _ a | .gst _ a => [(e.addr a).toNat / 8]
  | i => match atomicOf i, aqBody i with
    | some o, some a => if o.2.1 = 16 then [(e.addr a).toNat / 8, (e.addr a).toNat / 8 + 1] else [(e.addr a).toNat / 8]
    | _, _ => []

/-- The words of memory that they stand for, by physical address: two VAs may name one word (R84). One that does not translate counts by its
VA. -/
def State.aqWords (s : State) (g : Nat) (e : QEntry) : List Nat :=
  e.words.map (fun x => match s.translate (s.ctxOf (g / 4)) (BitVec.ofNat 64 (8 * x)) .read with
    | .ok (_, t) => (t.pa + (8 * x - t.va)) / 8
    | .error _ => 2 ^ 62 + x)

/-- An operation that may perform before a release marker `m` that is still held, `ws` being the words of an entry: a plain load or store of
another word, or a prefetch (R282). -/
def QEntry.passes (ws : QEntry → List Nat) (e m : QEntry) : Bool :=
  match e.instr with
  | .gld _ a | .gst _ a => a.ord == 0 && (ws e).all (fun x => !(ws m).contains x)
  | .pf _ _ => true
  | _ => false

/-- The operation that performs next, `ms` being the release markers before it: the first that has not performed, or one that may pass
those markers. -/
def nextOf (ws : QEntry → List Nat) : List QEntry → List QEntry → Option QEntry
  | _, [] => none
  | ms, e :: r =>
    if e.done then nextOf ws ms r
    else if e.started then (if aqLetsPass e.instr && e.fault.isNone then nextOf ws (e :: ms) r else none)
    else if ms.all (fun m => e.passes ws m) then some e
    else none

/-- The operation of stream `g`'s access queue that performs next. -/
def State.nextAq (s : State) (g : Nat) : Option QEntry := nextOf (s.aqWords g) [] (s.stream g).aq

/-- AQ_OPERATION_PERFORM (R271, R431): the next operation of stream `site.unit`'s access queue. Its pushes are made in the cycle in
which it performs, so it waits for room first (R142). Outside marker mode a queue performs one operation in a cycle. -/
def execAqOperationPerform (s : State) : Host.Outcome State Fault Refusal :=
  let g := s.site.unit
  let t := s.stream g
  match s.nextAq g with
  | none => .next s
  | some e =>
    if !(decide (e.entered < s.cycle) && e.fault.isNone && t.turn 3 e.faultAt) || (t.aqAt == s.cycle + 1 && !t.mark) then .next s
    else match (if e.popped then some t else t.popTokens 3 e.instr) with
      | none => .next s
      | some t1 =>
        let u := s.modStream g (fun _ => t1.modEntry 3 e.number (fun e => { e with popped := true }))
        let e := { e with popped := true }
        if (t1.pushTokens ((s.core (g / 4)).room (g % 4)) 3 e.instr {}).isNone then .next u
        else if aqMarks e.instr && t.mark && !e.skip && !e.cancel then
          .next (u.modStream g (fun t => t.modEntry 3 e.number (fun e => { e with started := true })))
        else .next (u.aqMake g e)

/-- RELEASE_MARKER_PERFORM (R282): the oldest release that stream `site.unit` has sent with a marker. -/
def execReleaseMarkerPerform (s : State) : Host.Outcome State Fault Refusal :=
  let g := s.site.unit
  let t := s.stream g
  match t.aq.find? (fun e => e.started && !e.done) with
  | none => .next s
  | some e =>
    if !isBarg e.instr && e.fault.isNone && t.turn 3 e.faultAt
        && (t.pushTokens ((s.core (g / 4)).room (g % 4)) 3 e.instr {}).isSome then .next (s.aqMake g e)
    else .next s

/-- The stream after TKWAIT aq has popped the oldest entry `e`: its value lands one cycle later, in the register its name resolved to
when it issued (R271). -/
def Stream.popReply (t : Stream) (now : Nat) (e : QEntry) : Stream :=
  let t := { t with aq := t.aq.filter (fun x => x.number != e.number), region := t.region + 1 }.learn 4 (e.clock.raise 3 e.number)
  match e.reply with
  | none => t
  | some v =>
    let t := t.latch now (.s e.dest) 1 (some ((v.setWidth 64 : Word).setWidth 512))
    match e.idx with
    | d :: _ => t.latch now (.s d) 1 (some ((v.extractLsb' 64 64).setWidth 512))
    | [] => t

/-- The registers that TKWAIT aq writes when it pops `e`. -/
def QEntry.writes (e : QEntry) : List (PReg × Nat) :=
  if e.reply.isSome then (.s e.dest, 1) :: e.idx.map (fun d => (PReg.s d, 1)) else []

/-- TKWAIT (R146): it ignores its predicate. -/
def execTkwait (h : Hdr) (q : BitVec 2) (s : State) : Host.Outcome State Fault Refusal :=
  let t := s.me
  let n := q.toNat
  (s.always h []
    (if n < 3 then
      (match t.replies.get [] n with
       | [] => .wait s false
       | c :: r => s.sync (.go (s.modMe (fun t =>
           { t.learn 4 c with replies := t.replies.put n r, region := t.region + 1 }))))
     else match t.aq with
       | [] => .wait s false
       | e :: _ =>
         match e.fault with
         | some f => .fault f
         | none =>
           if e.done && decide (e.since < s.cycle) then
             (match t.windowFault s.cycle s.word [] e.writes with
              | some f => .fault f
              | none => s.sync (.go (s.modMe (fun t => t.popReply s.cycle e))))
           else .wait s false)).done s

end Sys2Proof.Machine
end

