-- ==== Sys2Proof/Machine/Tasks.lean ====
section
/-! DEFINITION. Machine/Tasks.lean: the end of an item, the take, and the start of an item (R321 to R323, R328). -/
namespace Sys2Proof.Machine

/-- TEND (R328): the stream issues nothing further until its next item starts. A kill by a word of the same group absorbs it (R378). -/
def execTend (h : Hdr) (s : State) : Host.Outcome State Fault Refusal :=
  (s.plain h [] []
    (if s.me.task.killed then .go s else match s.me.aqFault with
     | some f => .fault f
     | none => s.sync (.go (s.modMe (fun t =>
         { t with status := .atTend, xfer := {}, seg := { t.seg with isOpen := false }, region := t.region + 1 }))))).done s

/-- The stream as the issuer of its own join updates and takes: everything it has queued is ordered before them. -/
def State.ownWho (s : State) (g : Nat) : Who :=
  let t := s.stream g
  { gsid := g, region := t.region, queue := 3, number := t.counts.aq, clock := t.counts.acquire (joinSeen (t.clock 3).seen (t.clock 4).seen),
    cpid := t.cpid.toNat, rd := 0, hint := 0 }

/-- The wait of TEND has ended: engine queues empty, access-queue operations performed, XT entries published, latent writes landed. An ICINV
of the item completes too: no later group of the stream issues before it has (R126). -/
def State.drained (s : State) (g : Nat) : Bool :=
  let t := s.stream g
  t.ldq.isEmpty && t.mxq.isEmpty && t.stq.isEmpty && t.aq.all (·.done) && t.latents.isEmpty && t.gate.icinv.isNone
    && (s.core (g / 4)).xt.all (fun e => e.gsid != g)

/-- The queue whose slots hold VA `va`. -/
def Launch.queueAt (l : Launch) (va : Word) : Option Nat :=
  (List.range 32).find? (fun n =>
    let q := l.queue n
    q.enabled && decide ((va - q.base).toNat < q.cap * slotSize n))

/-- The slot of the item that stream `g` runs marked free, in the queue that TSLOT points into (R316, R386). -/
def State.freeSlot (s : State) (g : Nat) : State :=
  let k := (s.stream g).task
  match (if k.active then (s.launchOf (g / 4)).queueAt k.slot else none) with
  | some n => s.modLaunchOf (g / 4) (fun l => l.modQueue n (fun q => q.release n k.slot))
  | none => s

/-- What the end of an item does to its join record. -/
def Stream.endEvent (t : Stream) : JoinEvent :=
  match t.abandon with
  | some c => .abandoned c.toNat
  | none => if t.task.killed then .killed else .ended

/-- ITEM_END (R328): after the drain, stream `site.unit` releases at .V, makes its join update, frees its slot and goes idle. A fault held
in its access queue is delivered first; a join update that is refused parks it at TEND. -/
def execItemEnd (s : State) : Host.Outcome State Fault Refusal :=
  let g := s.site.unit
  let t := s.stream g
  if t.status ≠ .atTend then .next s
  else match t.aqFault with
    | some f => .next (s.parkHeld g f)
    | none =>
      if !s.drained g then .next s
      else
        let u := (s.perform g 4).modStream g (fun t => { t with aq := [], tokens := .empty, replies := .empty })
        match (if t.task.active ∧ t.task.join ≠ 0 then u.joinUpdate (u.ownWho g) (g / 4) t.task.join t.endEvent else .ok u) with
        | .error f => .next (u.park g 0 { f with src := 5 })
        | .ok u => .next ((u.freeSlot g).modStream g (fun t =>
            { t with task := {}, abandon := none, status := .idle, idleAt := s.cycle }))

/-! ## The take (R322) -/

/-- Stream `i` of a core may take from queue `q`. -/
def Queue.serves (q : Queue) (i : Nat) : Bool := q.enabled && !q.isEmpty && q.smask.getLsbD i

/-- The effective priority of a queue. -/
def Queue.effective (q : Queue) : Nat := q.pri - q.age / 64

/-- The queue that serves stream `i`, of those from `n` down. -/
def Launch.pick (l : Launch) (i : Nat) : Option Nat :=
  ((List.range 32).filter (fun n => (l.queue n).serves i)).foldl (fun best n =>
    match best with
    | none => some n
    | some b =>
      let x := l.queue n
      let y := l.queue b
      if x.effective < y.effective ∨ (x.effective = y.effective ∧ y.age < x.age) then some n else some b) none

/-- Stream `g` waits at the take of launch `l`. -/
def State.waitsTake (s : State) (l g : Nat) : Bool :=
  let t := s.stream g
  let k := s.core (g / 4)
  decide (t.status = .idle) && t.taken.isNone && k.launch == some l && !k.stopped && ((s.launches.get {} l).pick (g % 4)).isSome

/-- The stream that the manager serves first: the one that has been idle longest, ties to the lower number. -/
def State.firstIdle (s : State) (l : Nat) : Option Nat :=
  ((s.cores.keys.flatMap (fun c => [4 * c, 4 * c + 1, 4 * c + 2, 4 * c + 3])).filter (s.waitsTake l)).foldl (fun best g =>
    match best with
    | none => some g
    | some b =>
      if (s.stream g).idleAt < (s.stream b).idleAt ∨ ((s.stream g).idleAt = (s.stream b).idleAt ∧ g < b) then some g
      else some b) none

/-- The launch after slot HEAD of queue `n` has been taken: HEAD raised, and the ages of R322. -/
def Launch.took (l : Launch) (n : Nat) : Launch :=
  { l with queues := l.queues.map (fun i q =>
      if i = n then { q with head := q.head + 1, age := 0 }
      else if q.isEmpty then { q with age := 0 } else { q with age := q.age + 1 }) }

/-- The slot at `va` of queue `n` freed at the take itself. -/
def State.discard (s : State) (c n : Nat) (va : Word) : State :=
  s.modLaunchOf c (fun l => l.modQueue n (fun q => q.release n va))

/-- The QUEUE fault of a take (R322), with which stream `g` parks. -/
def State.takeFault (s : State) (g : Nat) (va : Word) (n : Nat) : State := s.park g 0 { queueFault va n with src := 5 }

/-- The task record `r` in slot `va` of queue `n` taken by stream `g`. -/
def State.takeTask (s : State) (g n : Nat) (va : Word) (r : TRec) (seen : Tbl Nat) : State :=
  let c := g / 4
  let q := (s.launchOf c).queue n
  let w := s.ownWho g
  let u := s.modLaunchOf c (fun l => l.took n)
  if !r.ok then
    let v := if r.join = 0 ∨ r.join.toNat % 32 ≠ 0 then u
      else match u.joinUpdate w c r.join .takeInvalid with | .ok x => x | .error _ => u
    (v.discard c n va).takeFault g va 2
  else if s.prunes c r q.btype then
    if r.join = 0 then u.discard c n va
    else match u.joinUpdate w c r.join .takeDominated with
      | .ok x => x.discard c n va
      | .error _ => (u.discard c n va).takeFault g va 3
  else
    let k : Task := { active := true, slot := va, join := r.join, bound := r.bound, inc := r.inc, ben := r.ben, btype := q.btype,
                      depth := r.depth }
    u.modStream g (fun t => { t with taken := some ⟨r.code, r.frame, va, k, seen⟩ })

/-- The stage item `v` in slot `va` of stage queue `n` - 16 taken by stream `g` (R318). -/
def State.takeStage (s : State) (g n : Nat) (va : Word) (v : Nat) (seen : Tbl Nat) : State :=
  let c := g / 4
  let k : Taken := { code := codeAddr ((s.launchOf c).stages.get 0 (n - 16)), s1 := BitVec.ofNat 64 v,
                     s2 := BitVec.ofNat 64 (v / 2 ^ 64), task := { active := true, slot := va }, seen := seen }
  (s.modLaunchOf c (fun l => l.took n)).modStream g (fun t => { t with taken := some k })

/-- ITEM_TAKE (R322): the manager of the launch whose lead core is `site.unit` serves one idle stream from one slot. A slot that cannot be
read leaves the stream parked at the take with that fault. -/
def execItemTake (s : State) : Host.Outcome State Fault Refusal :=
  let l := s.site.unit
  match s.firstIdle l with
  | none => .next s
  | some g =>
    let k := s.launches.get {} l
    match k.pick (g % 4) with
    | none => .next s
    | some n =>
      let q := k.queue n
      let va := q.slot n q.head
      match s.marked (s.ownWho g) va (slotSize n) .read with
      | .error f => .next (s.park g 0 { f with src := 5 })
      | .ok (p, u) =>
        let v := Memory.getNat u.mem p.pa (slotSize n)
        let seen := headsSeen (u.known.headsOf (wordsOf p.pa (slotSize n))) g 3
        .next (if n < 16 then u.takeTask g n va (BitVec.ofNat 256 v) seen else u.takeStage g n va v seen)

/-- A stream at the first group of an item (R323): every register at its launch value, except EXPCHK, MARK and CPID, with S1 and S2 those
of the item. The start is an acquire at .V, which synchronises with the enqueue (R326). -/
def Stream.startItem (t : Stream) (k : Taken) : Stream :=
  { t.acquired 0 k.seen with
    status := .running, pc := k.code, s := (t.sinit.put 1 k.s1).put 2 k.s2, q := .empty, m := .empty, j := .empty, lc := 0,
    ec := 0, rotb := 0, xfer := {}, pbr := none, ret := none, gate := {}, task := k.task, taken := none,
    seg := { t.seg with isOpen := false }, region := t.region + 1 }

/-- ITEM_START (R323): stream `site.unit` starts the item it has taken. A race charged to the stream is delivered by the start instead, with
no effect (R273, R276). -/
def execItemStart (s : State) : Host.Outcome State Fault Refusal :=
  let g := s.site.unit
  let t := s.stream g
  match t.taken with
  | none => .next s
  | some k =>
    if t.status ≠ .idle then .next s
    else match t.charge with
      | some f => .next ((s.modStream g (fun t => { t with charge := none })).park g 0 f)
      | none => .next (s.modStream g (fun t => t.startItem k))

end Sys2Proof.Machine
end

