-- ==== Sys2Proof/Machine/SysRegs.lean ====
section
/-! DEFINITION. Machine/SysRegs.lean: SYSWR to the registers whose effect completes later: HOMEMAP, the format regions, WAYMASK, INCCFG
(R40, R41, R88, R89, R118, R120, R259, R335). The effect is made at issue, INCCFG's at the end of the cycle; the stream's next group
waits for the retirement in the next cycle. -/
namespace Sys2Proof.Machine

/-- HOMEMAP without its reserved bits. -/
def hmMask (v : Word) : Word := v &&& 0x00003FFFFFFFF001#64
/-- The table's PA in a HOMEMAP value. -/
def hmBase (v : Word) : Nat := (v.extractLsb' 12 34).toNat * 4096

/-- The bytes of the home-map table at `base`. -/
def State.homeTable (s : State) (base : Nat) : Tbl (BitVec 8) :=
  ⟨(s.mem.filter (fun c => decide (base ≤ c.1 ∧ c.1 < base + 4096))).map (fun c => (c.1 - base, c.2))⟩

/-- HOMEMAP of context `ctx` written: the table copied into the arrays of all four C-dies, or the arrays freed (R41). R41 refuses a
seventeenth array at launch only; that a SYSWR by a running context takes one whatever the others hold is the model's choice (DESIGN
CHOICE, entry 52). -/
def State.setHomemap (s : State) (ctx : Nat) (v : Word) : State :=
  { s with homemaps := s.homemaps.put ctx (hmMask v),
           hmArrays := if v.getLsbD 0 then s.hmArrays.put ctx (s.homeTable (hmBase v)) else s.hmArrays.drop ctx }

/-- A SYSWR whose effect `u` completes before it retires: PERM without privilege where it would change the register (R62). -/
def State.lateWrite (s : State) (h : Hdr) (sa : BitVec 5) (changes bad : Bool) (u : State) : Act :=
  s.plain h [s.me.sp sa] []
    (if changes && !(s.launchOf (s.cur / 4)).priv then .fault privFault
     else if bad then .fault privFault
     else .go (u.modMe (fun t => { t with gate := { t.gate with retire := s.cycle + 1 } })))

/-- SYSWR HOMEMAP (R41), for the stream's own context. -/
def execSyswrHomemap (h : Hdr) (sa : BitVec 5) (s : State) : Host.Outcome State Fault Refusal :=
  let v := s.me.sreg sa
  let ctx := s.ctxOf (s.cur / 4)
  (s.lateWrite h sa (hmMask v != s.homemaps.get 0 ctx) false (s.setHomemap ctx v)).done s

/-! ## Format regions -/

/-- FMT.SCALE without its reserved bits. -/
def scaleMask (v : Word) : Word := v &&& 0x00003FFFFFFFFFC0#64
/-- FMT.BASE without its reserved bits. -/
def fbaseMask (v : Word) : Word := v &&& 0xCFFFFFFFFFFFFFFF#64
/-- The data range of a FMT.BASE value: address and length. -/
def fmtData (b : Word) : Nat × Nat := ((b.extractLsb' 0 30).toNat * 65536, (b.extractLsb' 30 30).toNat * 65536)
/-- The scale range under a FMT.BASE and a FMT.SCALE value. -/
def fmtScales (b sc : Word) : Nat × Nat :=
  ((sc.extractLsb' 6 40).toNat * 64, (b.extractLsb' 30 30).toNat * (if b.getLsbD 62 then 8192 else 4096))
/-- Two ranges share a byte. -/
def meets (a b : Nat × Nat) : Bool := decide (a.1 < b.1 + b.2 ∧ b.1 < a.1 + a.2)
/-- A range lies in the populated part of stack slot `n`. -/
def inStack (n : Nat) (a : Nat × Nat) : Bool := decide (n < 8 ∧ n * 2 ^ 36 ≤ a.1 ∧ a.1 + a.2 ≤ n * 2 ^ 36 + 0xC00000000)

/-- The ranges of the regions in force other than `n`. -/
def State.fmtRanges (s : State) (n : Nat) : List (Nat × Nat) :=
  ((List.range 8).filter (fun m => m != n && (s.fmtBase.get 0 m).getLsbD 63)).flatMap (fun m =>
    [fmtData (s.fmtBase.get 0 m), fmtScales (s.fmtBase.get 0 m) (s.fmtScale.get 0 m)])

/-- A FMT.BASE value that R89 refuses. -/
def State.fmtBad (s : State) (n : Nat) (v : Word) : Bool :=
  v.getLsbD 63 &&
    (let d := fmtData v
     let c := fmtScales v (s.fmtScale.get 0 n)
     d.2 == 0 || !(inStack (d.1 / 2 ^ 36) d && inStack (d.1 / 2 ^ 36) c) || meets d c
       || (s.fmtRanges n).any (fun r => meets r d || meets r c))

/-- Every cached line of a range of memory written back and invalidated, throughout the device. -/
def State.purgeRange (s : State) (r : Nat × Nat) : State :=
  let hit (pa : Nat) : Bool := decide (r.1 ≤ pa ∧ pa < r.1 + r.2)
  ((s.l2.entries.filter (fun e => hit e.2.pa)).foldl
    (fun (u : State) e => u.purge (e.1 / 2048 / 192) e.2.ctx (e.2.va * 64)) s).dropIcache (fun _ l => hit l.pa)

/-- FMT.BASE.n written, where R89 lets it be: the cached lines of the old and the new data range go first, under the old setting, whatever
EN says (R88, R89). -/
def State.setFmtBase (s : State) (n : Nat) (v : Word) : State :=
  let u := (s.purgeRange (fmtData (s.fmtBase.get 0 n))).purgeRange (fmtData v)
  { u with fmtBase := u.fmtBase.put n (fbaseMask v) }

/-- SYSWR FMT.SCALE.n (R88, R89). -/
def execSyswrFmtScale (h : Hdr) (sa : BitVec 5) (n : BitVec 3) (s : State) : Host.Outcome State Fault Refusal :=
  let v := scaleMask (s.me.sreg sa)
  let n := n.toNat
  (s.lateWrite h sa (v != s.fmtScale.get 0 n) ((s.fmtBase.get 0 n).getLsbD 63)
    { s with fmtScale := s.fmtScale.put n v }).done s

/-- SYSWR FMT.BASE.n (R88, R89). -/
def execSyswrFmtBase (h : Hdr) (sa : BitVec 5) (n : BitVec 3) (s : State) : Host.Outcome State Fault Refusal :=
  let v := fbaseMask (s.me.sreg sa)
  let n := n.toNat
  (s.lateWrite h sa (v != s.fmtBase.get 0 n) (s.fmtBad n v) (s.setFmtBase n v)).done s

/-- SYSWR WAYMASK.n (R118, R120). -/
def execSyswrWaymask (h : Hdr) (sa : BitVec 5) (n : BitVec 3) (s : State) : Host.Outcome State Fault Refusal :=
  let v := s.me.sreg sa
  let n := n.toNat
  (s.lateWrite h sa (v != s.waymask.get 0xFFFFFFFFFFFFFFFF#64 n) false { s with waymask := s.waymask.put n v }).done s

/-- INCCFG without its reserved bits. -/
def incMask (v : Word) : Word := v &&& 0xE0000FFFFFFFFFFF#64

/-- SYSWR INCCFG.n (R335). -/
def execSyswrInccfg (h : Hdr) (sa : BitVec 5) (n : BitVec 4) (s : State) : Host.Outcome State Fault Refusal :=
  let v := incMask (s.me.sreg sa)
  let n := n.toNat
  (s.lateWrite h sa (v != (s.incs.get {} n).cfg) false { s with incNew := s.incNew ++ [(n, v)] }).done s

/-- The writes of INCCFG made in a cycle take effect at its end: value, payload and every shadow start anew, and updates in flight are
lost (R335, R337). -/
def State.settleIncs (s : State) : State :=
  s.incNew.foldl (fun (u : State) x =>
    let init := x.2.setWidth 32
    { u with incs := u.incs.put x.1 { cfg := x.2, value := init, payload := 0 },
             shadowMs := u.shadowMs.filter (fun m => m.2.1 != x.1),
             shadows := (List.range 240).foldl (fun t c => t.put (16 * c + x.1) (init, 0)) u.shadows,
             known := { u.known with heads := u.known.heads.drop (slotWord x.1) } })
    { s with incNew := [] }

/-- A word with an unassigned primary opcode raises ILLEGAL (R55). -/
def execUnassignedOpcode (_w : Word) (s : State) : Host.Outcome State Fault Refusal := (Act.fault { code := .illegal }).done s

end Sys2Proof.Machine
end

