-- ==== Sys2Proof/Machine/Upkeep.lean ====
section
/-! DEFINITION. Machine/Upkeep.lean: probes and the reserve slot (R332), and the power states and refresh of the tile store's banks (R173,
R174). -/
namespace Sys2Proof.Machine

/-! ## Blocked heads (R332) -/

/-- The full FIFOs that an entry of queue `q` would push into. -/
def Stream.fullFifos (t : Stream) (room : Nat → Nat) (q : Nat) (i : Instr) : List Nat :=
  let b := tokenBits i
  (if b.2.2.1 && decide (room (fifoLeft q) ≤ (t.fifo (fifoLeft q)).length) then [fifoLeft q] else [])
    ++ (if b.2.2.2 && decide (room (fifoRight q) ≤ (t.fifo (fifoRight q)).length) then [fifoRight q] else [])

/-- The head of queue `q` of stream `i` that has done its work and holds only for its pushes. -/
def Core.finished (k : Core) (i q now : Nat) : Option QEntry :=
  let t := k.stream i
  match q with
  | 3 => t.aq.find? (fun e => e.popped && !e.done && e.fault.isNone && !isBarg e.instr)
  | 1 => t.mxq.head?.bind (fun e =>
      if k.mexec.any (fun x => x.gsid % 4 == i && x.entry.number == e.number && decide (x.retire ≤ now)) then some e else none)
  | _ => (t.queue q).head?.bind (fun e => e.job.bind (fun j =>
      if e.started && e.fault.isNone && (e.skip || e.cancel || decide (j.lines ≤ e.prog)) then some e else none))

/-- The FIFOs at which the head of queue `q` of stream `i` is blocked. -/
def Core.blockedAt (k : Core) (i q now : Nat) : List Nat :=
  match k.finished i q now with
  | some e => (k.stream i).fullFifos (k.room i) q e.instr
  | none => []

/-- The heads of a core at the end of cycle `now`: a blocked one keeps the cycle it has been blocked from, plus one, in `since`. -/
def Core.stampBlocked (k : Core) (now : Nat) : Core :=
  let one (k : Core) (i q : Nat) : Core :=
    match k.finished i q now with
    | some e =>
      let v := if (k.blockedAt i q now).isEmpty then 0 else if e.since = 0 then now + 1 else e.since
      if v = e.since then k else k.modStream i (fun t => t.modEntry q e.number (fun x => { x with since := v }))
    | none => k
  [0, 1, 2, 3].foldl (fun k i => [0, 1, 2, 3].foldl (fun k q => one k i q) k) k

/-- The queue that takes tokens from FIFO `f`. -/
def consumerOf (f : Nat) : Nat := if f % 2 = 0 then rightOf (f / 2) else leftOf (f / 2)

/-- A head that has been blocked for 256 cycles in cycle `now`. -/
def Core.probesNow (k : Core) (i q now : Nat) : Bool :=
  match k.finished i q now with
  | some e => e.since != 0 && decide (now + 1 = e.since + 256) && !(k.blockedAt i q now).isEmpty
  | none => false

/-- PROBE_SEND (R332): queue `site.sub` of stream `site.unit` sends a probe along each full FIFO of its head. -/
def execProbeSend (s : State) : Host.Outcome State Fault Refusal :=
  let g := s.site.unit
  let q := s.site.sub
  let k := s.core (g / 4)
  if k.probesNow (g % 4) q s.cycle then
    .next (s.modCore (g / 4) (fun k =>
      { k with probes := k.probes ++ (k.blockedAt (g % 4) q s.cycle).map (fun f => (g % 4, q, f, consumerOf f)) }))
  else .next s

/-- What queue `p` of a stream has started and retired so far: it changes whenever the queue does either. -/
def Stream.progress (t : Stream) (p : Nat) : Nat :=
  let l := (t.queue p).filter (fun e => !e.done)
  64 * (t.counts.count p - l.length) + (l.filter (fun e => e.started || e.popped)).length

/-- The queues that a probe from queue `q` of stream `i` reaches in up to `n` moves along full FIFOs of blocked heads. -/
def Core.reaches (k : Core) (i now : Nat) : Nat → Nat → List Nat
  | 0, _ => []
  | n + 1, q => ((k.blockedAt i q now).map consumerOf).flatMap (fun p => p :: k.reaches i now n p)

/-- The queues of the cycle of holds that a probe from queue `q` along FIFO `f` has proved, without the origin: those on a way from `f` back to
`q`. -/
def Core.holds (k : Core) (i q f now : Nat) : List Nat :=
  let c := consumerOf f
  ((c :: k.reaches i now 4 c).filter (fun p => p != q && (k.reaches i now 4 p).contains q)).eraseDups

/-- A probe `(i, q, f, q)` that has come back to its origin. It proves nothing unless the head has been blocked for 256 cycles, counted anew from
a grant. Then the reserve slot is lent to FIFO `f`; or, where no other queue of the cycle has moved since a grant, the stream takes DEADLOCK; or
the proof waits while the slot is lent. -/
def State.proved (s : State) (c : Nat) (p : Nat × Nat × Nat × Nat) : State × List (Nat × Nat × Nat × Nat) :=
  let k := s.core c
  let i := p.1
  let q := p.2.1
  let f := p.2.2.1
  let t := k.stream i
  let still (g : Nat × Nat × List Nat) : Bool :=
    g.1 == i && g.2.1 == q && (k.holds i q f s.cycle).all (fun p => g.2.2.getD p 0 == t.progress p)
  match k.finished i q s.cycle with
  | none => (s, [])
  | some e =>
    if !(k.blockedAt i q s.cycle).contains f || e.since == 0 || decide (s.cycle + 1 < e.since + 256) then (s, [])
    else if k.granted.any still then
      (s.parkHeld (4 * c + i) { code := .deadlock, src := if q = 3 then 1 else 2, unit := q, word := e.va, info := BitVec.ofNat 64 q }, [])
    else if k.lent.isSome then (s, [p])
    else
      (s.modCore c (fun k => { (k.modStream i (fun t => t.modEntry q e.number (fun x => { x with since := s.cycle + 1 }))) with
        lent := some (i, f), lentUsed := false, granted := some (i, q, [0, 1, 2, 3].map t.progress) }), [])

/-- PROBE_FORWARD (R332): every probe on its way on core `site.unit` moves one queue: forwarded along the full FIFOs of a blocked head,
dropped elsewhere, or returned to its origin. -/
def execProbeForward (s : State) : Host.Outcome State Fault Refusal :=
  let c := s.site.unit
  let ps := (s.core c).probes
  let go (a : State × List (Nat × Nat × Nat × Nat)) (p : Nat × Nat × Nat × Nat) : State × List (Nat × Nat × Nat × Nat) :=
    if p.2.2.2 = p.2.1 then
      let r := a.1.proved c p
      (r.1, a.2 ++ r.2)
    else
      (a.1, a.2 ++ ((a.1.core c).blockedAt p.1 p.2.2.2 s.cycle).map (fun f => (p.1, p.2.1, p.2.2.1, consumerOf f)))
  let r := ps.foldl go (s, [])
  .next (r.1.modCore c (fun k => { k with probes := r.2.eraseDups }))

/-- The reserve slot returns once the FIFO it was lent to holds 8 tokens or fewer again. -/
def Core.reclaim (k : Core) : Core :=
  match k.lent with
  | none => k
  | some (i, f) =>
    if fifoSize < ((k.stream i).fifo f).length then { k with lentUsed := true }
    else if k.lentUsed then { k with lent := none, lentUsed := false } else k

/-! ## Banks (R173) -/

/-- A bank of core `site.unit`, number `site.sub`, changed. -/
def State.modBank (s : State) (f : Bank → Bank) : State :=
  s.modCore s.site.unit (fun k => { k with banks := k.banks.mod {} s.site.sub f })

/-- A bank that has been idle long enough to become drowsy. -/
def Core.dozes (k : Core) (b now : Nat) : Bool :=
  !k.trsaw && decide ((k.bank b).power = .awake) && decide ((k.bank b).last + 256 ≤ now)
/-- A bank that has been idle long enough to be gated. -/
def Core.gates (k : Core) (b now : Nat) : Bool :=
  !k.trsaw && decide ((k.bank b).power = .drowsy) && decide ((k.bank b).last + 16384 ≤ now)
/-- A bank whose wake ends with this cycle. -/
def Core.wakes (k : Core) (b now : Nat) : Bool := decide ((k.bank b).power = .waking) && decide ((k.bank b).wake ≤ now + 1)

/-- BANK_DROWSY. -/
def execBankDrowsy (s : State) : Host.Outcome State Fault Refusal :=
  .next (if (s.core s.site.unit).dozes s.site.sub s.cycle then s.modBank (fun b => { b with power := .drowsy }) else s)
/-- BANK_GATED. -/
def execBankGated (s : State) : Host.Outcome State Fault Refusal :=
  .next (if (s.core s.site.unit).gates s.site.sub s.cycle then s.modBank (fun b => { b with power := .gated }) else s)
/-- BANK_REFRESH: the bank's slot of the 2,048-cycle count begins with the next cycle; accesses wait for its four cycles. -/
def execBankRefresh (s : State) : Host.Outcome State Fault Refusal :=
  .next (if (s.cycle + 1) % 2048 = 128 * s.site.sub then s.modBank (fun b =>
    if b.power = .awake ∨ b.power = .waking then { b with wake := max b.wake (s.cycle + 5) } else b) else s)
/-- BANK_WAKE_DONE. -/
def execBankWakeDone (s : State) : Host.Outcome State Fault Refusal :=
  .next (if (s.core s.site.unit).wakes s.site.sub s.cycle then s.modBank (fun b => { b with power := .awake }) else s)

end Sys2Proof.Machine
end

