-- ==== Sys2Proof/Machine/Launch.lean ====
section
/-! DEFINITION. Machine/Launch.lean: from a packet in a boot mailbox to running streams, and the end of a launch (R305 to R313). -/
namespace Sys2Proof.Machine

/-! ## The packet (R306) -/

/-- The 128 bytes of a launch packet. -/
abbrev LPacket := BitVec 1024

/-- The packet in the mailbox of core `c`. -/
def Core.packet (k : Core) : LPacket := k.mailbox.setWidth 1024 ||| (k.mailbox2.setWidth 1024 <<< 512)
/-- The word at byte `i` of a packet. -/
def LPacket.word (p : LPacket) (i : Nat) : Word := p.extractLsb' (8 * i) 64
/-- IMAGE. -/
def LPacket.imageVa (p : LPacket) : Word := p.word 0
/-- ARGS. -/
def LPacket.args (p : LPacket) : Word := p.word 8
/-- RIMG. -/
def LPacket.rimg (p : LPacket) : Word := p.word 16
/-- PMASK. -/
def LPacket.pmask (p : LPacket) : BitVec 256 := p.extractLsb' 192 256
/-- LID. -/
def LPacket.lid (p : LPacket) : BitVec 32 := p.extractLsb' 448 32
/-- CTX. -/
def LPacket.ctx (p : LPacket) : Nat := (p.extractLsb' 480 12).toNat
/-- FLAGS.DETMODE. -/
def LPacket.detmode (p : LPacket) : Bool := p.getLsbD 496
/-- FLAGS.PRIV. -/
def LPacket.priv (p : LPacket) : Bool := p.getLsbD 497
/-- OVB. -/
def LPacket.ovb (p : LPacket) : Word := p.word 64
/-- OVK. -/
def LPacket.ovk (p : LPacket) : Nat := (p.extractLsb' 576 8).toNat
/-- FRING. -/
def LPacket.fring (p : LPacket) : Word := p.word 80
/-- DONE. -/
def LPacket.done (p : LPacket) : Word := p.word 88
/-- HMAP. -/
def LPacket.hmap (p : LPacket) : Word := p.word 96
/-- The cores of PMASK, ascending. -/
def coresOf (m : BitVec 256) : List Nat := (List.range 240).filter (fun c => m.getLsbD c)

/-- A VA that is not a multiple of `n`, or has bits 63:48 set. -/
def badVa (v : Word) (n : Nat) : Bool := v.extractLsb' 48 16 != 0 || decide (v.toNat % n ≠ 0)

/-- ERR 1: a reserved field, a VA field, OVK or HMAP. -/
def LPacket.malformed (p : LPacket) : Bool :=
  p.extractLsb' 432 16 != 0 || p.extractLsb' 492 4 != 0 || p.extractLsb' 498 6 != 0 || p.extractLsb' 508 3 != 0
    || p.extractLsb' 584 56 != 0 || p.extractLsb' 832 192 != 0
    || badVa p.imageVa 1 || badVa p.args 64 || badVa p.rimg 4096 || badVa p.ovb 8192 || badVa p.fring 64 || badVa p.done 8
    || decide (6 < p.ovk) || !p.hmap.getLsbD 0 || hmMask p.hmap != p.hmap

/-! ## Reading through the launch's own map -/

/-- The bytes of a range of context `ctx`, by offset, where every page of it translates with R, and the state after the read: its
translations held, and what stands in its way recalled (R81, R87, R93). -/
def State.rangeCells (s : State) (ctx va len : Nat) : Option (List Host.Cell × State) :=
  match s.placeRange ctx .read (len / 65536 + 2) va len with
  | .error _ => none
  | .ok ps =>
    let u := (s.holdRange ctx va len .read).recallPieces ps
    let r := ps.foldl (fun (a : List Host.Cell × Nat) p =>
      (a.1 ++ (u.cellsAt p.1 p.2.1).map (fun c => (c.1 + a.2, c.2)), a.2 + p.2.1)) ([], 0)
    some (r.1, u)

/-! ## The image header and its format regions (R309) -/

/-- ERR 2: the header's fixed fields, and zeros outside its entries. -/
def headerWrong (m : List Host.Cell) : Bool :=
  let f (o n : Nat) : Nat := Memory.getNat m o n
  f 0 4 != 0x31495A49 || f 4 4 != 1 || decide (8 < f 8 1) || f 9 7 != 0
    || f (16 + 24 * f 8 1) (192 - 24 * f 8 1) != 0 || f 208 48 != 0

/-- A format-region entry: region, K, COUNT, DATA, SCALE. -/
structure FmtEntry where
  bad   : Bool
  n     : Nat
  db4   : Bool
  count : Nat
  data  : Word
  scale : Word
  deriving DecidableEq, Repr

/-- Entry `i` of an image header. -/
def fmtEntry (m : List Host.Cell) (i : Nat) : FmtEntry :=
  let f (o n : Nat) : Nat := Memory.getNat m (16 + 24 * i + o) n
  let data := BitVec.ofNat 64 (f 8 8)
  let scale := BitVec.ofNat 64 (f 16 8)
  { bad := decide (7 < f 0 1 ∨ 1 < f 1 1 ∨ f 2 2 ≠ 0 ∨ f 4 4 = 0) || badVa data 65536 || badVa scale 64, n := f 0 1,
    db4 := f 1 1 == 1, count := f 4 4, data := data, scale := scale }

/-- Pieces of memory that follow one another. -/
def contiguous : List (Nat × Nat) → Bool
  | [] => true
  | [_] => true
  | a :: b :: r => decide (a.1 + a.2 = b.1) && contiguous (b :: r)

/-- The PA of a range that translates to consecutive addresses. -/
def State.flatRange (s : State) (ctx : Nat) (va : Word) (len : Nat) : Option Nat :=
  match s.placeRange ctx .read (len / 65536 + 2) va.toNat len with
  | .error _ => none
  | .ok [] => none
  | .ok (p :: r) => if contiguous (pieces (p :: r)) then some p.1 else none

/-- One entry written to its region, or none where R309 refuses it. `mine` lists the regions that this packet has set. -/
def State.setRegion (s : State) (ctx : Nat) (mine : List Nat) (e : FmtEntry) : Option State :=
  if e.bad || ((s.fmtBase.get 0 e.n).getLsbD 63 && !mine.contains e.n) then none
  else match s.flatRange ctx e.data (65536 * e.count), s.flatRange ctx e.scale (e.count * (if e.db4 then 8192 else 4096)) with
    | some d, some c =>
      let s := (s.holdRange ctx e.data.toNat (65536 * e.count) .read).holdRange ctx e.scale.toNat
        (e.count * (if e.db4 then 8192 else 4096)) .read
      let s := if mine.contains e.n then s.setFmtBase e.n 0 else s
      let u := { s with fmtScale := s.fmtScale.put e.n (scaleMask (BitVec.ofNat 64 c)) }
      let v : Word := BitVec.ofNat 64 (2 ^ 63 + (if e.db4 then 2 ^ 62 else 0) + e.count % 2 ^ 30 * 2 ^ 30 + d / 65536)
      if d % 65536 ≠ 0 || decide (2 ^ 30 ≤ e.count) || u.fmtBad e.n v then none else some (u.setFmtBase e.n v)
    | _, _ => none

/-- The entries taken in order: the state with every region set, or with those set before the failure withdrawn. -/
def State.setRegions (s : State) (ctx : Nat) : List FmtEntry → List Nat → Bool × State × List Nat
  | [], mine => (true, s, mine)
  | e :: r, mine =>
    match s.setRegion ctx mine e with
    | some u => u.setRegions ctx r (mine ++ [e.n])
    | none => (false, mine.foldl (fun (u : State) n => u.setFmtBase n 0) s, [])

/-! ## The queue table (R314, R315) -/

/-- Descriptor `n` (0 to 15 TQ, 16 to 31 SQ) of a queue table: the queue, or none where it breaks a limit. -/
def descriptor (m : List Host.Cell) (n : Nat) : Option Queue :=
  let f (o k : Nat) : Nat := Memory.getNat m (32 * n + o) k
  let task := decide (n < 16)
  if f 8 1 = 0 then (if f 0 32 = 0 then some {} else none)
  else if f 8 1 < 4 ∨ 24 < f 8 1 ∨ 7 < f 9 1 ∨ 15 < f 10 1 ∨ f 10 1 = 0 ∨ 1 < f 11 1 ∨ f 14 18 ≠ 0 ∨ f 0 8 % 4096 ≠ 0 ∨ 2 ^ 48 ≤ f 0 8
      ∨ (!task ∧ (f 11 1 ≠ 0 ∨ f 12 2 ≠ 0)) then none
  else some { base := BitVec.ofNat 64 (f 0 8), logcap := f 8 1, pri := f 9 1, smask := BitVec.ofNat 4 (f 10 1), btype := f 11 1 == 1,
              depthmax := BitVec.ofNat 16 (f 12 2) }

/-- The VA range of a queue's ring. -/
def Queue.range (q : Queue) (n : Nat) : Nat × Nat := (q.base.toNat, q.cap * slotSize n)

/-- The queues of a table, and the stage table; none where the table is invalid (ERR 6). -/
def queueTable (m : List Host.Cell) : Option (Tbl Queue × Tbl Word) :=
  match (List.range 32).mapM (descriptor m) with
  | none => none
  | some qs =>
    let on := (qs.zip (List.range 32)).filter (fun q => q.1.enabled)
    let stages := (List.range 16).map (fun i => Memory.getNat m (1024 + 8 * i) 8)
    if stages.any (fun v => decide (v % 8 ≠ 0)) then none
    else if on.any (fun a => on.any (fun b => decide (a.2 < b.2) && meets (a.1.range a.2) (b.1.range b.2))) then none
    else some (on.foldl (fun t q => t.put q.2 q.1) .empty,
               ((List.range 16).zip stages).foldl (fun t x => t.put x.1 (BitVec.ofNat 64 x.2)) .empty)

/-! ## The register image (R311, R383) -/

/-- Bytes of part A of an image. -/
def partASize : Nat := 0x180000

/-- ERR 7: a launch image of layout 1 with SAVED = BULK = 0, and, without privilege, no privileged field other than at reset. -/
def imageBad (m : List Host.Cell) (priv : Bool) : Bool :=
  let w (o : Nat) : Nat := Memory.getNat m o 8
  w 0 != 1 || w 8 != 0
    || (!priv && (bit (w 0x30) 1 || [0, 1, 2, 3].any (fun s =>
        decide (w (0x1000 + 0x2000 * s + 0x20) % 4 ≠ 0 ∨ w (0x1000 + 0x2000 * s + 0x28) % 8 ≠ 0))))

/-- The image of the `i`-th core of a launch, and the state after its read. -/
def State.launchImage (s : State) (ctx : Nat) (rimg : Word) (i : Nat) : Option (List Host.Cell × State) :=
  s.rangeCells ctx (rimg.toNat + i * partASize) partASize

/-- The state after the images of the first `n` cores of a launch have been read, where all of them are sound (ERR 7). -/
def State.imagesRead (s : State) (p : LPacket) : Nat → Option State
  | 0 => some s
  | n + 1 => (s.imagesRead p n).bind (fun u => (u.launchImage p.ctx p.rimg n).bind (fun m =>
      if imageBad m.1 p.priv then none else some m.2))

/-! ## CHECK (R308) -/

/-- The checks before HOMEMAP is written: ERR 1, 3, 4, 5. -/
def State.checkFirst (s : State) (c : Nat) (p : LPacket) : Option Nat :=
  let cs := coresOf p.pmask
  let table := hmBase p.hmap
  if p.malformed then some 1
  else if cs.head? ≠ some c then some 3
  else if cs.any (fun i => (s.core i).fenced || (s.core i).launch.isSome) then some 4
  else if ((s.hmArrays.find? p.ctx).isNone && decide (16 ≤ s.hmArrays.entries.length))
      || !(populated table && populated (table + 4095))
      || s.cores.entries.any (fun k => match k.2.launch with | some l => decide ((s.launches.get {} l).ctx = p.ctx) | none => false)
    then some 5
  else none

/-- The launch that a packet asks for. -/
def LPacket.launch (p : LPacket) (qs : Tbl Queue × Tbl Word) (regions : List Nat) : Launch :=
  { image := p.imageVa, args := p.args, rimg := p.rimg, pmask := p.pmask, lid := p.lid, ctx := p.ctx, detmode := p.detmode,
    priv := p.priv, hq := (p.extractLsb' 504 4).toNat, hqen := p.getLsbD 511, ovb := p.ovb, ovk := p.ovk, fring := p.fring,
    done := p.done, hmap := p.hmap, queues := qs.1, stages := qs.2, regions := regions }

/-- The checks after HOMEMAP has been written: ERR 2, 9, 6, 7, 8; the launch and the state with its format regions in force, or the code
and the state with none of them. -/
def State.checkLast (s : State) (p : LPacket) : Except (Nat × State) (Launch × State) :=
  let cs := coresOf p.pmask
  match s.rangeCells p.ctx p.imageVa.toNat 256 with
  | none => .error (2, s)
  | some (h, u) =>
    let n := Memory.getNat h 8 1
    let noDone := match u.place p.ctx p.done .write with | .ok q => q.isDevice | .error _ => true
    if headerWrong h then .error (2, u)
    else if p.done ≠ 0 && noDone then .error (9, u)
    else
      let u := if p.done = 0 then u else u.holdRange p.ctx p.done.toNat 8 .write
      match (if p.args = 0 then some ((.empty, .empty), u)
          else (u.rangeCells p.ctx p.args.toNat 1152).bind (fun m => (queueTable m.1).map (fun q => (q, m.2)))) with
      | none => .error (6, u)
      | some (qs, u) =>
        match (if n != 0 && !p.priv then none else u.imagesRead p cs.length) with
        | none => .error (7, u)
        | some u =>
          let r := u.setRegions p.ctx ((List.range n).map (fmtEntry h)) []
          if r.1 then .ok (p.launch qs r.2.2, r.2.1) else .error (8, r.2.1)

/-- MBCTL of core `c` after a refusal. -/
def State.refusePacket (s : State) (c code : Nat) : State :=
  s.modCore c (fun k => { k with mbErr := BitVec.ofNat 8 code, mbState := 5, mbGo := false })

/-- HOMEMAP put back as it was before the check. -/
def State.restoreMap (s old : State) (ctx : Nat) : State :=
  { s with homemaps := match old.homemaps.find? ctx with | some v => s.homemaps.put ctx v | none => s.homemaps.drop ctx,
           hmArrays := match old.hmArrays.find? ctx with | some t => s.hmArrays.put ctx t | none => s.hmArrays.drop ctx }

/-- The mailbox of a core takes GO: in IDLE, DONE and REFUSED (R310). -/
def Core.accepts (k : Core) : Bool := k.mbState == 0 || k.mbState == 4 || k.mbState == 5

/-- MAILBOX_GO (R308, R310): the host sets GO in the mailbox of core `site.unit`, or has set it and the mailbox is in CHECK; the packet is
checked and every core of PMASK joins, or it is refused. A device that is not READY accepts no packet (R418). -/
def execMailboxGo (s : State) : Host.Outcome State Fault Refusal :=
  let c := s.site.unit
  let k := s.core c
  let p := k.packet
  if s.host.phase ≠ 4 ∨ !(k.accepts || k.mbState == 1) then .next s
  else match s.checkFirst c p with
    | some e => .next (s.refusePacket c e)
    | none =>
      match (s.setHomemap p.ctx p.hmap).checkLast p with
      | .error (e, u) => .next ((u.restoreMap s p.ctx).refusePacket c e)
      | .ok (l, u) =>
        let v := { u with launches := u.launches.put c l }
        let join (k : Core) : Core := { k with launch := some c, mbState := 2, mbErr := 0, mbGo := false }
        .next ((coresOf p.pmask).foldl (fun (v : State) i => v.modCore i join) v)

/-! ## LOAD and RUN (R311, R312) -/

/-- The core before an image fills it: what belongs to no launch stays. -/
def Core.emptied (k : Core) : Core :=
  { banks := k.banks, icache := k.icache, irrpv := k.irrpv, l1d := k.l1d, launch := k.launch, fenced := k.fenced, mailbox := k.mailbox,
    mailbox2 := k.mailbox2, mbErr := k.mbErr, mbState := k.mbState, mbGo := k.mbGo, pctlArea := k.pctlArea, spares := k.spares,
    toFence := k.toFence, streams := (((Tbl.empty.put 0 {}).put 1 {}).put 2 {}).put 3 {} }

/-- A stream that the image marks as started waits for the start; its S values are its launch values (R160, R323). Its chain units are at
zero, whatever the image holds (R155), and JLAST is 0 at launch (R359). -/
def Stream.filled (t : Stream) (life : Nat) : Stream :=
  { t with status := if t.status = .running then .never else t.status, sinit := t.s, ldChain := {}, stChain := {},
           jlast := 0, life := life }

/-- What a launch sets beside its image: the mode of FLAGS, LOCK for every handle that the image configures (R137), scratchpad at zero
(R133), and the streams of life number `life`. -/
def Core.launched (k : Core) (det : Bool) (life : Nat) : Core :=
  let lock := (List.range 16).foldl (fun (v : BitVec 16) h => if (k.ring h).count != 0 then v ||| (1#16 <<< h) else v) k.ringLock
  { k with detmode := det, detStart := det, ringLock := lock, sp := .empty, streams := k.streams.map (fun _ t => t.filled life) }

/-- One line of the overlay area put into its pinned way under its canonical name (R84, R124); another device's memory fills none
(R128). -/
def State.pinLine (s : State) (c ctx : Nat) (va way : Nat) : State :=
  match s.place ctx (BitVec.ofNat 64 va) .fetch with
  | .error _ => s
  | .ok p =>
    let h := s.holdTrans p.die va p.leaf
    let x := h.lineAt p.pa
    let l : ILine := { ctx := p.ctx, va := p.va / 64, data := x.data, poison := x.poison, pin := true }
    if p.isRemote then h else (h.filterRoom p.pa).iPut c (p.va / 64 % 128 * 8 + way) p l

/-- The overlay area of a launch pinned in core `c`: 128 lines a way. -/
def State.pinOverlay (s : State) (c : Nat) (l : Launch) : State :=
  let u := s.modCore c (fun k => { k with ovk := l.ovk, ovb := l.ovb.toNat })
  (List.range (128 * l.ovk)).foldl (fun (u : State) i => u.pinLine c l.ctx (l.ovb.toNat + 64 * i) (i / 128)) u

/-- The `i`-th core of a launch filled from its image. -/
def State.fillCore (s : State) (l : Launch) (c i : Nat) : State :=
  let m := (s.launchImage l.ctx l.rimg i).getD ([], s)
  let u := m.2.modCore c (fun k => ((k.emptied).loadImage c m.1).launched l.detmode s.serial)
  u.pinOverlay c l

/-- The context engine's access to every bank of the tile stores of cores `cs`: whether all of them are awake, and the state (R173). -/
def State.wakeStores (s : State) (cs : List Nat) : Bool × State :=
  cs.foldl (fun (a : Bool × State) c =>
    let r := (a.2.core c).touchAll s.cycle (List.range 16)
    (a.1 && r.1, a.2.modCore c (fun _ => r.2))) (true, s)

/-- LAUNCH_LOAD (R311): every core of the launch whose lead is `site.unit` is filled, once the banks of its tile store are awake (R173). -/
def execLaunchLoad (s : State) : Host.Outcome State Fault Refusal :=
  let c := s.site.unit
  let l := s.launches.get {} c
  if (s.core c).launch ≠ some c ∨ (s.core c).mbState ≠ 2 ∨ l.loaded then .next s
  else
    let cs := coresOf l.pmask
    let r := s.wakeStores cs
    let u := (cs.zip (List.range cs.length)).foldl (fun (u : State) x => u.fillCore l x.1 x.2) r.2
    if !r.1 then .next r.2 else .next { u with launches := u.launches.put c { l with loaded := true }, serial := u.serial + 1 }

/-- A stream whose latent writes, as an image gives them, land in cycle k from the one after `now` (R166, R311). -/
def Stream.fromNow (t : Stream) (now : Nat) : Stream :=
  { t with latents := t.latents.map (fun l => { l with issued := l.issued + now, due := l.due + now }) }

/-- STREAMS_START (R310, R312): every started stream of the launch begins, in one cycle. -/
def execStreamsStart (s : State) : Host.Outcome State Fault Refusal :=
  let c := s.site.unit
  let l := s.launches.get {} c
  if (s.core c).launch ≠ some c ∨ (s.core c).mbState ≠ 2 ∨ !l.loaded then .next s
  else
    let go (t : Stream) : Stream := if t.started ∧ t.status = .never then { t with status := .running } else t
    let begin' (k : Core) : Core := { k with mbState := 3, streams := k.streams.map (fun _ t => go (t.fromNow s.cycle)) }
    let u := (coresOf l.pmask).foldl (fun (u : State) i => u.modCore i begin') s
    .next { u with launches := u.launches.put c { l with running := true, began := s.cycle + 1 } }

/-! ## The end (R313) -/

/-- A stream that does not hold its launch in RUN. -/
def Stream.over (t : Stream) : Bool :=
  decide (t.status = .never ∨ t.status = .halted ∨ (t.status = .idle ∧ t.taken = none))
    && t.ldq.isEmpty && t.mxq.isEmpty && t.stq.isEmpty && t.aq.all (·.done) && !t.ldChain.run && !t.stChain.run && t.gate.icinv.isNone

/-- The end condition of R313; a stopped context keeps its launch in RUN (R382). -/
def State.launchOver (s : State) (c : Nat) : Bool :=
  let l := s.launches.get {} c
  let cs := coresOf l.pmask
  l.running
    && cs.all (fun i => let k := s.core i; !k.stopped && k.xt.isEmpty && [0, 1, 2, 3].all (fun j => (k.stream j).over))
    && l.queues.entries.all (fun q => q.2.isEmpty)
    && s.devq.entries.all (fun q => q.2.all (fun b => !l.pmask.getLsbD (b.gsid / 4)))

/-- Everything that belongs to a launch gone from the device: its cores left, its tracking state, home map and format regions. -/
def State.leaveLaunch (s : State) (c : Nat) (mb : BitVec 4) : State :=
  let l := s.launches.get {} c
  let u := l.regions.foldl (fun (u : State) n => u.setFmtBase n 0) s
  let leave (k : Core) : Core := { k with launch := none, mbState := mb, fenced := k.fenced || k.toFence, toFence := false }
  let u := (coresOf l.pmask).foldl (fun (u : State) i => u.modCore i leave) u
  { u with launches := u.launches.put c { l with running := false, loaded := false, regions := [] },
           hmArrays := if u.cores.entries.any (fun k => match k.2.launch with
               | some n => (u.launches.get {} n).ctx == l.ctx
               | none => false) then u.hmArrays else u.hmArrays.drop l.ctx,
           tracks := u.tracks.filter (fun k => !l.pmask.getLsbD (k.gsid / 4)),
           releases := u.releases.filter (fun r => !l.pmask.getLsbD (r.gsid / 4)),
           devDone := u.devDone.filter (fun b => !l.pmask.getLsbD (b.gsid / 4)),
           images := ⟨u.images.entries.filter (fun e => !l.pmask.getLsbD e.1)⟩,
           known := u.known.forget (fun g => l.pmask.getLsbD (g / 4)) }

/-- LAUNCH_END (R313): the launch whose lead core is `site.unit` is done: its writes performed at .V, LID stored to DONE, the host told. -/
def execLaunchEnd (s : State) : Host.Outcome State Fault Refusal :=
  let c := s.site.unit
  let l := s.launches.get {} c
  if (s.core c).launch ≠ some c ∨ !s.launchOver c then .next s
  else
    let stored := if l.done = 0 then some s else s.ownWrite l.ctx l.done 8 l.lid.toNat .write
    let u := match stored with | some u => u | none => s.notify 10 c l.lid.toNat
    .next ((u.notify 1 c l.lid.toNat).leaveLaunch c 4)

end Sys2Proof.Machine
end

