-- ==== Sys2Proof/Machine/Preempt.lean ====
section
/-! DEFINITION. Machine/Preempt.lean: pre-emption, save and restore of a core context (R380 to R382). -/
namespace Sys2Proof.Machine

/-! ## Time that a stopped context does not see -/

/-- Cycle `x` of a core whose clock has stood still for `d` cycles; 0 stands for no cycle. -/
def laterBy (d x : Nat) : Nat := if x = 0 then 0 else x + d

/-- A queue entry whose cycles move by `d`. -/
def QEntry.later (d : Nat) (e : QEntry) : QEntry :=
  { e with entered := laterBy d e.entered, since := laterBy d e.since, faultAt := laterBy d e.faultAt }
/-- A chain unit whose cycles move by `d`. -/
def Chain.later (d : Nat) (c : Chain) : Chain := { c with faultAt := laterBy d c.faultAt, kicked := laterBy d c.kicked }

/-- A stream whose cycles move by `d`. -/
def Stream.later (d : Nat) (t : Stream) : Stream :=
  let g := { t.gate with cycle := laterBy d t.gate.cycle, ycyc := laterBy d t.gate.ycyc, retire := laterBy d t.gate.retire }
  { t with
    xfer := { t.xfer with ready := laterBy d t.xfer.ready }, pbr := t.pbr.map (fun p => (p.1, p.2 + d)),
    ret := t.ret.map (fun p => (p.1, p.2 + d)), gate := g,
    latents := t.latents.map (fun l => { l with issued := l.issued + d, due := l.due + d }),
    ldq := t.ldq.map (QEntry.later d), mxq := t.mxq.map (QEntry.later d), stq := t.stq.map (QEntry.later d),
    aq := t.aq.map (QEntry.later d), ldChain := t.ldChain.later d, stChain := t.stChain.later d,
    flights := t.flights.map (fun f => { f with issued := laterBy d f.issued }), idleAt := laterBy d t.idleAt, issuedAt := laterBy d t.issuedAt, aqAt := laterBy d t.aqAt }

/-- A core whose cycles move by `d`: a stopped context goes on where it stood. -/
def Core.later (d : Nat) (k : Core) : Core :=
  { k with
    streams := k.streams.map (fun _ t => t.later d), spRes := [],
    twrites := k.twrites.map (fun _ w => { w with due := w.due.map (· + d) }),
    claims := k.claims.map (fun c => { c with due := c.due + d }),
    tiles := k.tiles.map (fun _ x => { x with resAt := laterBy d x.resAt }),
    mexec := k.mexec.map (fun x => { x with entry := x.entry.later d, start := x.start + d, retire := x.retire + d }) }

/-! ## PCTL (R380) -/

/-- Bytes of a save area. -/
def areaSize : Nat := 0x2A0000

/-- AREA names a save area in populated HBM. -/
def areaOk (page : Nat) : Bool := (List.range (areaSize / 4096)).all (fun i => populated (4096 * (page + i)))

/-- A command of PCTL that its checks turn away. -/
def Core.pctlRefuse (k : Core) (code : Nat) : Core := { k with pctlErr := BitVec.ofNat 4 code }
/-- A command of PCTL accepted at cycle `now`: BUSY reads 1 until it is done. -/
def Core.pctlAccept (k : Core) (now : Nat) : Core := { k with pctlErr := 0, pctlBusy := true, saveAt := now }

/-- The context restarted in the present cycle: every pending fault is delivered before the first cycle, and nothing of the stop shows in
the cycles that it waits for. `last` is the last cycle that it saw; what SNAP reads in the first cycle is the context as it stood then. -/
def State.restart (s : State) (c last : Nat) : State :=
  let u := s.modCore c (fun k => { (k.later (s.cycle - (last + 1))) with stopped := false, pctlBusy := false, pctlErr := 0 })
  let u := { u with before := u.before.put c (u.core c) }
  ([0, 1, 2, 3].foldl (fun (u : State) i => u.deliver (4 * c + i)) u).coreFaultOut c true

/-- The image at a save area carries the layout, marks and owner that RESTORE asks for. -/
def State.restorable (s : State) (c : Nat) : Bool :=
  let a := (s.core c).pctlArea.toNat * 4096
  let w (o : Nat) : Nat := Memory.getNat s.mem (a + o) 8
  let l := s.launchOf c
  w 0 == 1 && w 8 % 4 == 3 && w 0x10 == l.lid.toNat && w 0x18 == l.ctx && w 0x40 == c

/-- What the command of PCTL does to core `c`, whose fields the write has set. -/
def State.pctlCommand (s : State) (c cmd : Nat) : State :=
  let k := s.core c
  if cmd = 0 then s
  else if !(k.launch.isSome && decide (k.mbState = 3)) then s.modCore c (·.pctlRefuse 3)
  else if cmd = 2 then (if k.stopped then s.restart c k.stopCyc.toNat else s.modCore c (·.pctlRefuse 3))
  else if cmd = 3 ∧ !k.stopped then s.modCore c (·.pctlRefuse 3)
  else if !areaOk k.pctlArea.toNat then s.modCore c (·.pctlRefuse 1)
  else if cmd = 3 ∧ !s.restorable c then s.modCore c (·.pctlRefuse 2)
  else s.modCore c (·.pctlAccept s.cycle)

/-- A host write of command `cmd` with AREA of `v` to PCTL of core `c`; one while BUSY is 1 is ignored. -/
def State.pctlWrite (s : State) (c : Nat) (cmd : BitVec 2) (v : Word) : State :=
  if (s.core c).pctlBusy then s
  else (s.modCore c (fun k => { k with pctlCmd := cmd, pctlArea := v.extractLsb' 12 34 })).pctlCommand c cmd.toNat

/-- PCTL_SAVE (R380): the host asks for the context of core `site.unit` in the area that `site.val` names. -/
def execPctlSave (s : State) : Host.Outcome State Fault Refusal := .next (s.pctlWrite s.site.unit 1 s.site.val)
/-- PCTL_RESUME (R380): a stopped context goes on from its live state. -/
def execPctlResume (s : State) : Host.Outcome State Fault Refusal := .next (s.pctlWrite s.site.unit 2 s.site.val)
/-- PCTL_RESTORE (R380): the image of the area that `site.val` names is checked, and its restore begins. -/
def execPctlRestore (s : State) : Host.Outcome State Fault Refusal := .next (s.pctlWrite s.site.unit 3 s.site.val)

/-! ## The stop and the image (R381, R382) -/

/-- A SAVE waits for the stop of a core, and it is due at the end of cycle `now`. -/
def Core.stopDue (k : Core) (now : Nat) : Bool :=
  k.pctlBusy && k.pctlCmd == 1 && !k.stopped && decide (k.saveAt + 100 ≤ now + 1)

/-- CONTEXT_STOP (R381): all four streams of core `site.unit` stop at the end of this cycle. -/
def execContextStop (s : State) : Host.Outcome State Fault Refusal :=
  .next (if (s.core s.site.unit).stopDue s.cycle then
    s.modCore s.site.unit (fun k => { k with stopped := true, stopCyc := BitVec.ofNat 64 s.cycle }) else s)

/-- What completes before the image is taken has completed: scratchpad accesses, the XT queue, ICINV, and access-queue operations that
have left their heads, a BARG apart (R284). -/
def Core.settled (k : Core) : Bool :=
  k.xt.isEmpty && [0, 1, 2, 3].all (fun i =>
    let t := k.stream i
    t.accs.isEmpty && t.gate.icinv.isNone && t.aq.all (fun e => !e.started || e.done || isBarg e.instr || e.fault.isSome))

/-- `n` bytes of memory from `pa` replaced by an image, lines that carry no side field and no tag. A line that stood poisoned stays so: the
image is none of the writes of R390 that clear it. -/
def State.putImage (s : State) (pa n : Nat) (img : List Host.Cell) : State :=
  let here (a : Nat) : Bool := decide (pa ≤ a ∧ a < pa + n)
  let m := (s.mem.filter (fun c => here c.1)).foldl (fun m c => Memory.set m c.1 0) s.mem
  { s with
    mem := img.foldl (fun m c => Memory.set m (pa + c.1) c.2) m,
    sides := ⟨s.sides.entries.filter (fun e => !here (64 * e.1))⟩ }

/-- Errors that the context engine finds in the slabs that a SAVE reads: each is counted, a plane column is poisoned, and the others stay marked
for the image (R242, R390, R393). -/
def State.saveFinds (s : State) (c : Nat) : State :=
  let one (u : State) (b : Nat) : State :=
    let keys := ((s.core c).slab b).bad
    let planes := (keys.filter (fun k => decide (16512 ≤ k))).map planeOf
    (keys.foldl (fun (u : State) k => u.countError 0 (slabSource c b k)) u).modCore c (fun k => k.modSlab b (fun l =>
      { (planes.foldl (fun (l : Slab) p => l.setPlane p.1 ((l.plane p.1).mod {} p.2 (fun y => { y with poison := true })) (l.pfmt p.1)) l) with
        bad := l.bad.filter (fun k => decide (k < 16512)) }))
  (List.range 8).foldl one s

/-- SAVE_COMPLETE (R382): once every bank of the tile store is awake (R173), the image of core `site.unit` stands at AREA and BUSY clears. -/
def execSaveComplete (s : State) : Host.Outcome State Fault Refusal :=
  let c := s.site.unit
  if (s.core c).pctlBusy && (s.core c).pctlCmd == 1 && (s.core c).stopped && (s.core c).settled then
    let r := (s.core c).touchAll s.cycle (List.range 16)
    let s := s.modCore c (fun _ => r.2)
    if !r.1 then .next s
    else
      let s := s.saveFinds c
      let k := s.core c
      let u := s.putImage (k.pctlArea.toNat * 4096) areaSize (s.image c k)
      .next { u.modCore c (fun k => { k with pctlBusy := false }) with
        images := u.images.put c (k :: (u.images.get [] c).filter (fun o => o.stopCyc != k.stopCyc)) }
  else .next s

/-- Entries of queue `q` that an image gives as `same` says that the context `o` had them are those of `o`, at the progress of the image. -/
def Stream.keepQueue (t o : Stream) (q : Nat) (same : List Bool) : Stream :=
  t.setQueue q ((t.queue q).zipIdx.map (fun p =>
    match (if same.getD p.2 false then (o.queue q)[p.2]? else none) with
    | some d => { d with number := p.1.number, prog := p.1.prog, clock := p.1.clock }
    | none => p.1))

/-- The queues of a stream whose every entry, token count and reply an image gives as the context `o` had them: those of `o`, what its tokens
carry with them. The progress of a matrix command is the image's (R230). -/
def Stream.keepQueues (t o : Stream) : Stream :=
  { t with
    ldq := o.ldq, stq := o.stq, aq := o.aq, counts := o.counts, clocks := o.clocks, tokens := o.tokens, replies := o.replies,
    mxq := o.mxq.zipIdx.map (fun e => { e.1 with prog := ((t.mxq[e.2]?).map (·.prog)).getD 0 }) }

/-- What an image has no bits for of stream `i` of core `c` (regions, what has been acquired, word addresses, row-quads tapped, the cycles that a
WAIT still holds; entry 25), from the context `o` that wrote the image. Where a record of the image is another than that of `o`, what belongs to
that record is as the image alone gives it. -/
def Core.keep (k o : Core) (c i : Nat) (img : List Host.Cell) : Core :=
  let x := o.stopCyc.toNat
  let all (f : Field) : Bool := (f.kept o img).all id
  let qs := queueFields x c i
  let d := o.stream i
  k.modStream i (fun t =>
    let t := { t with
      gate := d.gate, pbr := d.pbr, ret := d.ret, charge := d.charge, rowHeld := d.rowHeld, issuedAt := d.issuedAt, aqAt := d.aqAt,
      idleAt := d.idleAt, taken := d.taken, abandon := d.abandon, cctlRd := d.cctlRd, waitRing := d.waitRing,
      flights := t.flights.map (fun f => (d.flights.find? (fun g => g.pack x == f.pack x)).getD f) }
    let t := if (qs.take 6).all all then t.keepQueues d
      else [0, 1, 2, 3].foldl (fun (t : Stream) q =>
        match qs[q]? with | some f => t.keepQueue d q (f.kept o img) | none => t) t
    let t := if (((streamFields x i).drop 2).take 1).all all then { t with xfer := d.xfer } else t
    if ((streamFields x i).take 1 ++ qs.drop 8).all all then
      { t with pend := d.pend, coreRec := d.coreRec, parkedBy := d.parkedBy, parkedIn := d.parkedIn }
    else t)

/-- Chain units that an image gives as the context `o` had them are those of `o`. -/
def Core.keepChains (k o : Core) (img : List Host.Cell) : Core :=
  let same := (((ringFields o.stopCyc.toNat).drop 1).map (fun f => f.kept o img)).flatten
  (List.range 8).foldl (fun (k : Core) n =>
    if same.getD n false then k.modStream (n / 2) (fun t => t.modChain (n % 2 == 0) (fun _ => (o.stream (n / 2)).chain (n % 2 == 0)))
    else k) k

/-- What an image has no bits for, from the context `o` of the same core that wrote it: the probes and lent slots of R331 and R332, and whether
the host has still to be told of a core-context fault, among it. -/
def Core.keepAll (k o : Core) (c : Nat) (img : List Host.Cell) : Core :=
  let u := [0, 1, 2, 3].foldl (fun (u : Core) i => u.keep o c i img) (k.keepChains o img)
  { u with probes := o.probes, lent := o.lent, lentUsed := o.lentUsed, granted := o.granted, ctxNote := o.ctxNote }

/-- The context of core `c` as the image gives it (R380, R382); what is the device's own stays as it is: the launch values of the S registers,
and the count of the stream's regions. `saved` are the contexts that SAVE has written of this core in its launch. -/
def Core.restored (k : Core) (saved : List Core) (c : Nat) (img : List Host.Cell) : Core :=
  let x := Memory.getNat img 0x28 8
  let u := (k.loadFrom (imageFields c x) img).resumeCopies
  let u := { u with
    ctxNote := [0, 1, 2, 3].any (fun i => (u.stream i).coreRec.isSome),
    streams := u.streams.map (fun i t => { t with sinit := (k.stream i).sinit, life := (k.stream i).life, region := (k.stream i).region }) }
  let u := match saved.find? (fun o => o.stopCyc.toNat == x) with
    | some o => u.keepAll o c img
    | none => u
  { (u.resumeMatrix c x) with stopCyc := BitVec.ofNat 64 x, ctxFault := bit (Memory.getNat img 8 8) 2, orders := u.ordersAbove }

/-- The shadows of core `c` loaded from the incumbent unit (R341). -/
def State.reloadShadows (s : State) (c : Nat) : State :=
  { s with
    shadowMs := s.shadowMs.filter (fun m => m.1 != c),
    shadows := (List.range 16).foldl (fun (t : Tbl (BitVec 32 × BitVec 32)) n =>
      let x := s.incs.get {} n
      t.put (16 * c + n) (x.value, x.payload)) s.shadows }

/-- RESTORE_COMPLETE (R382): once every bank of the tile store is awake (R173), the image is back in core `site.unit`, BUSY clears and the first
restored cycle follows at once. While a bank wakes, the restore tries again in the next cycle. -/
def execRestoreComplete (s : State) : Host.Outcome State Fault Refusal :=
  let c := s.site.unit
  if (s.core c).pctlBusy && (s.core c).pctlCmd == 3 && (s.core c).stopped then
    let r := (s.core c).touchAll s.cycle (List.range 16)
    let s := s.modCore c (fun _ => r.2)
    if !r.1 then .next (s.modCore c (fun k => { k with saveAt := s.cycle + 1 }))
    else
      let img := s.cellsAt (4096 * (s.core c).pctlArea.toNat) areaSize
      let u := (s.modCore c (fun k => k.restored (s.images.get [] c) c img)).reloadShadows c
      .next (u.restart c (u.core c).stopCyc.toNat)
  else .next s

end Sys2Proof.Machine
end

