-- ==== Sys2Proof/Machine/Errors.lean ====
section
/-! DEFINITION. Machine/Errors.lean: retirement of lasting sources, HBM lane repair and partial resets (R392 to R397, R424). -/
namespace Sys2Proof.Machine

/-! ## Retirement (R394) -/

/-- The bank whose spare rows serve source `src` of class 0: a bank of scratchpad has 384 rows under two numbers, those from 256 on 16 higher
(entry 28). -/
def arrayBank (src : Nat) : Nat :=
  let b := src / 256 % 256
  if 32 ≤ b ∧ b < 48 then b - 16 else b

/-- A row of class 0, numbered 65,536 x core + 256 x bank + row (entry 28), replaced by a spare of its bank; with none left, the core is
fenced when its launch ends. -/
def State.retireArray (s : State) (src : Nat) : State :=
  s.modCore (src / 65536) (fun k =>
    let b := arrayBank src
    if k.spares.get 0 b < 4 then { k with spares := k.spares.put b (k.spares.get 0 b + 1) }
    else if k.launch.isSome then { k with toFence := true } else { k with fenced := true })

/-- The line of the cache row of class 1 that source `src` names written back and removed. -/
def State.dropCache (s : State) (src : Nat) : State :=
  if src < 2 ^ 24 then s.evict (.l2 (src / 16 / 128 / 192)) src
  else if src < 2 ^ 25 then
    let k := src - 2 ^ 24
    match s.rdc.find? k with
    | some _ => s.evict (.rdc (k / 16 / 128 / 64)) k
    | none => s
  else if src < 2 ^ 26 then
    let k := src - 2 ^ 25
    match (s.lines (.l1 (k / 1024))).find? (k % 1024) with
    | some _ => s.evict (.l1 (k / 1024)) (k % 1024)
    | none => s
  else
    let k := src - 2 ^ 26
    match (s.core (k / 1024)).icache.find? (k % 1024) with
    | some x => (s.modCore (k / 1024) (fun c => { c with icache := c.icache.drop (k % 1024) })).unfilter x.pa
    | none => s

/-- A cache row written back and disabled. -/
def State.retireCache (s : State) (src : Nat) : State :=
  ({ s with ras := { s.ras with disabled := src :: s.ras.disabled } } : State).dropCache src

/-- The channel of a source of class 2, numbered 65,536 x channel + row, or + 32,768 + pin (entry 28). -/
def channelOf (src : Nat) : Nat := src / 65536
/-- A source of class 2 is a data pin. -/
def isPin (src : Nat) : Bool := decide (32768 ≤ src % 65536)

/-- A row or pin of class 2 waits for a channel pause; with both redundant lanes in use a pin stays in service (R395). -/
def State.retireHbm (s : State) (src : Nat) : State :=
  if isPin src && decide (2 ≤ s.ras.lanes.get 0 (channelOf src)) then s
  else { s with ras := { s.ras with repairs := s.ras.repairs ++ [(channelOf src, src)] } }

/-- Link `l` changed. -/
def State.modLink (s : State) (l : Nat) (f : Link → Link) : State := { s with fab := { s.fab with links := s.fab.links.mod {} l f } }

/-- Flits that wait are sent while the replay buffer of 256 has room and nothing stops the link (R398, R399). -/
def Link.pump (x : Link) : Link :=
  if x.held || x.down then x
  else
    let n := min (256 - x.replay.length) x.queue.length
    let sent := ((x.queue.take n).zip (List.range n)).map (fun f => (⟨x.txSeq + BitVec.ofNat 16 f.2, f.1.1, f.1.2⟩ : Flit))
    { x with queue := x.queue.drop n, txSeq := x.txSeq + BitVec.ofNat 16 n, replay := x.replay ++ sent, wire := x.wire ++ sent }

/-- `n` credits come back: the oldest `n` flits have been received, and leave the replay buffer. -/
def Link.credit (n : Nat) (x : Link) : Link := if n = 0 then x else ({ x with replay := x.replay.drop n } : Link).pump

/-- The far end asks for the flits from number `seq` on: they are sent again from the replay buffer (R398). -/
def Link.resend (seq : BitVec 16) (x : Link) : Link :=
  if x.held || x.down then x else { x with wire := x.wire ++ x.replay.dropWhile (fun f => f.seq != seq) }

/-- The end of a reset: the flits in flight are sent again, and what was held goes on (R397). -/
def Link.resume (x : Link) : Link :=
  if x.held then
    let y : Link := { x with held := false }
    if y.down then y else ({ y with wire := y.wire ++ y.replay } : Link).pump
  else x

/-- The bytes of a list of numbers, the first lowest. -/
def packBytes (l : List Nat) : Nat := l.foldr (fun b a => b % 256 + 256 * a) 0

/-- The flits of a packet (R409): two of header and one for each payload line, which carries its poison bit. -/
def Packet.flits (p : Packet) : List (Row × Bool) :=
  let n := if p.payload.isEmpty then p.len else 64 * p.payload.length
  let h := packBytes p.route + packBytes p.ret * 2 ^ 64 + p.route.length * 2 ^ 128 + (if p.sealed then 1 else 0) * 2 ^ 136 + p.key * 2 ^ 144
    + n * 2 ^ 160 + p.ap * 2 ^ 192 + p.tag * 2 ^ 256 + p.rlo * 2 ^ 272 + p.src * 2 ^ 288 + p.seq % 65536 * 2 ^ 304
  [(BitVec.ofNat 512 h, false), (BitVec.ofNat 512 (p.ops.foldr (fun o a => o.toNat + 2 ^ 64 * a) 0), false)] ++ p.payload

/-- Packets leave by link `l`: their flits wait in its queue for their turn. -/
def State.leave (s : State) (l : Nat) (ps : List Packet) : State :=
  s.modLink l (fun x =>
    let fs := ps.flatMap Packet.flits
    ({ x with queue := x.queue ++ fs, total := x.total + fs.length } : Link).pump)

/-- Packets left on link `l`, as they are kept until the far end has taken their last flit. -/
def State.sentOn (s : State) (l : Nat) (asker : Option Nat) (ps : List Packet) : List Sent :=
  (ps.foldl (fun (a : List Sent × Nat) p =>
    let n := a.2 + (Packet.flits p).length
    (a.1 ++ [{ port := l, packet := p, asker := asker, last := n }], n)) ([], (s.fab.links.get {} l).total)).1

/-- Flits of the link that the far end has taken. -/
def Link.gone (x : Link) : Nat := x.total - x.queue.length - x.replay.length

/-- Packets whose last flit the far end of link `l` has taken wait for that link no longer. -/
def State.linkTook (s : State) (l : Nat) : State :=
  { s with fab := { s.fab with out := s.fab.out.filter (fun p => p.port != l || decide ((s.fab.links.get {} l).gone < p.last)) } }

/-- A link reset begins (R397): traffic is held, the flit is sent again from the replay buffer, and an installed key takes effect. -/
def State.resetLink (s : State) (l : Nat) : State :=
  let u := s.modLink l (fun x => { x with held := true, tries := 0 })
  match u.host.linkNew.find? l with
  | some k => { u with host := { u.host with link := u.host.link.put l k, linkNew := u.host.linkNew.drop l } }
  | none => u

/-- A lane of link `src / 16` retired by a link reset (R394, R399). -/
def State.retireLane (s : State) (src : Nat) : State :=
  (s.modLink (src / 16) (fun x => { x with lanes := x.lanes - 1 })).resetLink (src / 16)

/-- An uncorrectable error found in the cache row of class 1 that source `src` names: a clean line is invalidated, to be filled again; a dirty one
is poisoned, and carries its poison to where it is written back (R390, R392). -/
def State.cacheError (s : State) (src : Nat) : State :=
  let line : Option CLine :=
    if src < 2 ^ 24 then s.l2.find? src
    else if src < 2 ^ 25 then s.rdc.find? (src - 2 ^ 24)
    else if src < 2 ^ 26 then (s.lines (.l1 ((src - 2 ^ 25) / 1024))).find? ((src - 2 ^ 25) % 1024)
    else none
  match line with
  | some l => if l.state = .m ∨ l.state = .dirty then s.setPoison l.pa true else s.dropCache src
  | none => s.dropCache src

/-- An uncorrectable error found in a row of core `c`'s tile store or scratchpad: the tile row, or the line, is poisoned (R390, R392; sources as
`arraySource` numbers them). -/
def State.arrayError (s : State) (src : Nat) : State :=
  let bank := src / 256 % 256
  let row := src % 256
  s.modCore (src / 65536) (fun k =>
    if bank < 16 then k.modTile (bank + 16 * (row / 32 % 4)) (fun x =>
      { x with row := x.row.mod {} (row % 32) (fun l => { l with poison := true }) })
    else if bank < 48 then
      let n := 4096 * ((bank - 16) / 16) + 16 * row + bank % 16
      if n < 6144 then { k with sp := k.sp.mod {} n (fun l => { l with poison := true }) } else k
    else k)

/-- An error found at source `src` of class `cls`: it is counted (R392, R393), and one that cannot be corrected does what its class says. The matrix
engine's and HBM's rows have events of their own. -/
def State.errorAt (s : State) (cls src : Nat) (bad : Bool) : State :=
  let u := s.countError cls src
  if !bad then u
  else match cls with
    | 0 => u.arrayError src
    | 1 => u.cacheError src
    | _ => u

/-- SOURCE_LASTING (R392 to R394): with bit 63 of `site.val` set, an error is found at source `site.sub` of class `site.unit`, which bit 62 calls
uncorrectable; otherwise the source is lasting once THRESH events have fallen within WINDOW: it is retired, and the host told. A THRESH of 0
lets none be, and a retired source is not retired again. -/
def execSourceLasting (s : State) : Host.Outcome State Fault Refusal :=
  let cls := s.site.unit
  let src := s.site.sub
  let mine (e : ErrCount) : Bool := e.cls == cls && e.src == src
  let old := (s.ras.errs.find? mine).getD { cls := cls, src := src, times := [], last := false }
  if 4 ≤ cls then .next s
  else if s.site.val.getLsbD 63 then .next (s.errorAt cls src (s.site.val.getLsbD 62))
  else if !s.reached old then .next s
  else
    let u := { s with ras := { s.ras with errs := { old with last := true } :: s.ras.errs.filter (fun e => !mine e) } }
    let v := match cls with
      | 0 => u.retireArray src
      | 1 => u.retireCache src
      | 2 => u.retireHbm src
      | _ => u.retireLane src
    .next (v.notify 6 cls src)

/-! ## HBM (R392, R395) -/

/-- LANE_REPAIR_PAUSE (R395): channel `site.unit`, which has a repair to make, pauses: its accesses are held. -/
def execLaneRepairPause (s : State) : Host.Outcome State Fault Refusal :=
  let n := s.site.unit
  if s.ras.repairs.any (fun r => r.1 == n) && !s.ras.paused.contains n then
    .next { s with ras := { s.ras with paused := n :: s.ras.paused } }
  else .next s

/-- LANE_REPAIR_DONE (R395): the map of channel `site.unit` is written, and its held accesses go on. -/
def execLaneRepairDone (s : State) : Host.Outcome State Fault Refusal :=
  let n := s.site.unit
  if s.ras.paused.contains n then
    let mine := s.ras.repairs.filter (fun r => r.1 == n)
    let pins := (mine.filter (fun r => isPin r.2)).length
    .next { s with ras := { s.ras with
      paused := s.ras.paused.filter (· != n), repairs := s.ras.repairs.filter (fun r => r.1 != n),
      lanes := s.ras.lanes.put n (min 2 (s.ras.lanes.get 0 n + pins)),
      rows := (mine.filter (fun r => !isPin r.2)).map (·.2) ++ s.ras.rows } }
  else .next s

/-- The channel that holds `pa` (R39). -/
def channelAt (pa : Nat) : Nat := 32 * (pa / 2 ^ 36) + pa / 2 ^ 13 % 32

/-- HBM_SCRUB (R392): the scrub of the line at `site.val` finds a corrected error (`site.sub` 1), one that it cannot correct (2), or
none. The event counts at the line's row, 256 lines to a row of its channel (entry 28); an uncorrectable line is poisoned, where no
cache holds its latest bytes. -/
def execHbmScrub (s : State) : Host.Outcome State Fault Refusal :=
  let pa := s.site.val.toNat / 64 * 64
  if !populated pa ∨ s.site.sub = 0 then .next s
  else
    let u := s.countError 2 (65536 * channelAt pa + pa / 2 ^ 18 % 32768)
    if s.site.sub = 2 ∧ !s.l2.entries.any (fun e => e.2.pa == pa) then .next (u.setPoison pa true) else .next u

/-! ## Device failure (R392, R424) -/

/-- DIE_HEARTBEAT_LOSS (R392): die `site.unit` has lost its heartbeat; the failure is reported, and what follows is the host's. -/
def execDieHeartbeatLoss (s : State) : Host.Outcome State Fault Refusal := .next (s.notify 9 s.site.unit 0)
/-- JUNCTION_OVERTEMP (R424): die `site.unit` has reached 110 °C: its heartbeat stops, and the failure is reported. -/
def execJunctionOvertemp (s : State) : Host.Outcome State Fault Refusal := .next (s.notify 9 s.site.unit 0)

/-! ## Partial resets (R396, R397) -/

/-- A core whose launch a partition reset takes away: nothing of the launch is left in it. -/
def Core.dropLaunch (k : Core) : Core := { k.emptied with icache := k.icache, streams := .empty }

/-- Partition scope: the launch whose lead core is `c` stops and leaves the device; its mailboxes read IDLE and DONE is not written. -/
def State.resetPartition (s : State) (c : Nat) : State :=
  if (s.core c).launch = some c then
    let cs := coresOf (s.launches.get {} c).pmask
    cs.foldl (fun (u : State) i => u.modCore i Core.dropLaunch) (s.leaveLaunch c 0)
  else s

/-- A queue of an engine that is reset: a started command stops, and the others become skipped work. -/
def resetQueue (l : List QEntry) : List QEntry :=
  (l.filter (fun e => !e.started)).map (fun e => { e with cancel := true, fault := none, faultAt := 0 })
/-- A chain unit of an engine that is reset: the entry being served becomes skipped work. -/
def Chain.reset (c : Chain) : Chain := if c.fp.isSome then { c with skip := true, fault := none, faultAt := 0 } else c

/-- The matrix engine of a core at its reset: the commands in execution give up their claims and the tile versions that they would have
published, every tile closes with its held claims released, and planes and accumulators have their launch values. -/
def Core.resetMatrix (k : Core) : Core :=
  let k := k.mexec.foldl (fun (u : Core) x => u.consumeMx x) k
  let k := k.mexec.foldl (fun (u : Core) x =>
    match mxOf x.entry.instr with
    | some (_, .mfix _ _ true r _) =>
      { u.modTile r (fun y => { y with wpend := false }) with twrites := u.twrites.drop r }
    | _ => u) k
  let k := (List.range 8).foldl (fun (u : Core) b => (u.endTile b).modSlab b (fun l =>
    { fix := l.fix, cfg := l.cfg, fixSh := l.fixSh, cfgSh := l.cfgSh })) k
  { k with mexec := [], streams := k.streams.map (fun _ t => { t with mxq := resetQueue t.mxq }) }

/-- Engine scope: engine `eng` (0 LD, 1 ST, 2 matrix) of core `c` is reset, and the core context takes POISON. -/
def State.resetEngine (s : State) (c eng : Nat) : State :=
  let f : FaultInfo := { code := .poison, src := 7, info := 5 }
  match eng with
  | 0 => (s.modCore c (fun k => { k with streams := k.streams.map (fun _ t =>
      { t with ldq := resetQueue t.ldq, ldChain := t.ldChain.reset }) })).parkCore c f
  | 1 => (s.modCore c (fun k => { k with streams := k.streams.map (fun _ t =>
      { t with stq := resetQueue t.stq, stChain := t.stChain.reset }) })).parkCore c f
  | 2 => (s.modCore c Core.resetMatrix).parkCore c f
  | _ => s

/-- Channel scope: the channel pauses, with its controller reinitialised and its contents kept. -/
def State.resetChannel (s : State) (n : Nat) : State := { s with ras := { s.ras with paused := n :: s.ras.paused } }

/-- A host write of `v` to RSTCTL (R396): a write while GO reads 1 is ignored, and so is a scope of 4 to 7. -/
def State.rstWrite (s : State) (v : Word) : State :=
  let scope := (v.extractLsb' 60 3).toNat
  let n := (v.extractLsb' 0 16).toNat
  if s.ras.rstctl.getLsbD 63 || decide (4 ≤ scope) then s
  else
    let u := { s with ras := { s.ras with rstctl := v &&& 0xFF0000000000FFFF#64 } }
    if !v.getLsbD 63 then u
    else match scope with
      | 0 => u.resetPartition n
      | 1 => u.resetEngine n (v.extractLsb' 56 4).toNat
      | 2 => u.resetLink n
      | _ => u.resetChannel n

/-- RSTCTL with GO = 1, a scope, and ENG and TARGET of `v`. -/
def rstValue (scope : Nat) (v : Word) : Word :=
  (v &&& 0x0F0000000000FFFF#64) ||| BitVec.ofNat 64 (2 ^ 63 + scope * 2 ^ 60)

/-- RESET_PARTITION (R397): the host writes RSTCTL with partition scope and the TARGET of `site.val`. -/
def execResetPartition (s : State) : Host.Outcome State Fault Refusal := .next (s.rstWrite (rstValue 0 s.site.val))
/-- RESET_ENGINE (R397): engine scope, with ENG and TARGET of `site.val`. -/
def execResetEngine (s : State) : Host.Outcome State Fault Refusal := .next (s.rstWrite (rstValue 1 s.site.val))
/-- RESET_LINK (R397): link scope. -/
def execResetLink (s : State) : Host.Outcome State Fault Refusal := .next (s.rstWrite (rstValue 2 s.site.val))
/-- RESET_CHANNEL (R397): channel scope. -/
def execResetChannel (s : State) : Host.Outcome State Fault Refusal := .next (s.rstWrite (rstValue 3 s.site.val))

/-- RESET_COMPLETE (R397): the reset in progress is done: links take their traffic again, the channel goes on, and GO reads 0. -/
def execResetComplete (s : State) : Host.Outcome State Fault Refusal :=
  let v := s.ras.rstctl
  let u := { s with fab := { s.fab with links := s.fab.links.map (fun _ l => l.resume) } }
  if v.getLsbD 63 then
    let ras := { u.ras with
      rstctl := v &&& 0x7FFFFFFFFFFFFFFF#64
      paused := if (v.extractLsb' 60 3).toNat = 3 then u.ras.paused.filter (· != (v.extractLsb' 0 16).toNat) else u.ras.paused }
    .next { u with ras := ras }
  else .next u

end Sys2Proof.Machine
end

