-- ==== Sys2Proof/Machine/Fabric.lean ====
section
/-! DEFINITION. Machine/Fabric.lean: links and flits, the load-store domain, the aperture, work-request rings, packets and the switches
(R398 to R413). -/
namespace Sys2Proof.Machine

/-! ## Links (R398, R399) -/

/-- Link `l`. -/
def State.linkOf (s : State) (l : Nat) : Link := s.fab.links.get {} l

/-- The little-endian number of a list of bytes. -/
def bytesNat : List Byte → Nat
  | [] => 0
  | b :: r => b.toNat + 256 * bytesNat r

/-- FLIT_RECEIVE (R398): a flit of 64 bytes arrives on link `site.unit` with its sideband, bytes 64 and 65 the sequence number, 66 and 67 the
credit return, with the poison bit on top, 68 to 71 a CRC-32C over the bytes before it (entry 29). A flit with a bad CRC, or out of sequence,
is asked for again; after 8 failed retries of one flit the link resets. A bad CRC counts at lane `site.sub` of the link (R393). Without bytes,
bit 63 of `site.val` is the far end's own request: the flits from the number in bits 15:0 on are sent again. -/
def execFlitReceive (s : State) : Host.Outcome State Fault Refusal :=
  let l := s.site.unit
  match s.site.input with
  | .bytes bs =>
    let body := bytesNat (bs.take 68)
    let seq := BitVec.ofNat 16 (bytesNat ((bs.drop 64).take 2))
    let good := decide (bs.length = 72) && decide (bytesNat (bs.drop 68) = (crcOf [(68, body)]).toNat)
    let k := s.linkOf l
    if good && seq == k.seq then
      let back := bytesNat ((bs.drop 66).take 2) % 32768
      .next ((s.modLink l (fun x =>
        ({ x with rx := x.rx ++ [BitVec.ofNat 512 body], seq := x.seq + 1, tries := 0 } : Link).credit back)).linkTook l)
    else
      let u := s.modLink l (fun x => { x with asked := x.asked + 1, tries := if good then x.tries else x.tries + 1 })
      if good then .next u
      else
        let v := u.countError 3 (16 * l + s.site.sub)
        .next (if 8 < k.tries + 1 then v.resetLink l else v)
  | .none => .next (if s.site.val.getLsbD 63 then s.modLink l (fun x => x.resend (s.site.val.setWidth 16)) else s)
  | _ => .next s

/-! ## Entries in flight (R405 to R408) -/

/-- The first failure among an entry's packets. -/
def Work.fail (w : Work) (code : BitVec 8) : Work := { w with status := if w.status = 1 then code else w.status }

/-- The entries in flight of every ring changed. -/
def State.mapWorks (s : State) (f : Work → Work) : State :=
  { s with fab := { s.fab with works := s.fab.works.map (fun _ l => l.map f) } }

/-- The entry that a response to packet `seq` is for: numbers have 16 bits (R409), so of several entries that await the same one it is the one
taken first (entry 39). -/
def State.awaiting (s : State) (seq : Nat) (like : Work → Bool) : Option Work :=
  ((s.fab.works.entries.flatMap (·.2)).filter (fun w => w.await.contains seq && like w)).foldl (fun best w =>
    match best with
    | none => some w
    | some b => if w.number < b.number then some w else some b) none

/-- A response to packet `seq` of entry `w` with its status; anything but the first failure changes no status. -/
def Work.answered (w : Work) (seq : Nat) (status : BitVec 8) : Work :=
  { (if status = 1 then w else w.fail status) with await := w.await.erase seq }

/-- A response to packet `seq` with its status; one that no entry awaits is none of theirs. -/
def State.respond (s : State) (seq : Nat) (like : Work → Bool) (status : BitVec 8) : State :=
  match s.awaiting seq like with
  | some w => s.mapWorks (fun x => if x.number = w.number then x.answered seq status else x)
  | none => s

/-- A response to a packet sent back along its return list. -/
def State.answer (s : State) (p : Packet) (status : BitVec 8) : State :=
  { s with fab := { s.fab with resp := s.fab.resp ++ [⟨p.ret, p.src, p.seq, status⟩] } }

/-- Own packet `seq` lost where its link is down: none of its responses will come. -/
def State.lose (s : State) (seq : Nat) : State :=
  match s.awaiting seq (fun _ => true) with
  | some w => s.mapWorks (fun x => if x.number = w.number then { x.fail 7 with await := x.await.filter (· != seq) } else x)
  | none => s

/-- A packet queued for a link that is down ends with LINK_DOWN (R399): an own one at its entry, a reply to another device's PULL with a
response to that device. -/
def State.strand (s : State) (p : Sent) : State :=
  match p.asker with
  | none => s.lose p.packet.seq
  | some d => s.answer { p.packet with ret := p.packet.route, src := d } 7

/-- LINK_DOWN (R399): link `site.unit` has fewer than 4 lanes: the host is told, and every packet queued for it ends with LINK_DOWN. -/
def execLinkDown (s : State) : Host.Outcome State Fault Refusal :=
  let l := s.site.unit
  if (s.linkOf l).lanes < 4 ∧ !(s.linkOf l).down then
    let u := (s.modLink l (fun x => { x with down := true, queue := [] })).notify 8 l 0
    let v := (u.fab.out.filter (fun p => p.port == l)).foldl State.strand u
    .next { v with fab := { v.fab with out := v.fab.out.filter (fun p => p.port != l) } }
  else .next s

/-! ## Work requests (R405 to R407) -/

/-- `n` bytes of an entry from byte `i`. -/
def ef (e : Row) (i n : Nat) : Nat := e.toNat / 2 ^ (8 * i) % 2 ^ (8 * n)

/-- An address in the aperture (R403). -/
def inAperture (a : Nat) : Bool := decide (2 ^ 44 ≤ a ∧ a < 2 ^ 45)

/-- A field that breaks R406. -/
def entryBad (e : Row) : Bool :=
  let hops := ef e 2 1
  let route (i : Nat) : Bool :=
    let x := ef e (24 + i) 1
    if i < hops then decide (x ≤ 55 ∨ x = 0xFF) else x == 0
  decide (2 < ef e 0 1) || decide (1 < ef e 1 1) || decide (hops < 1 ∨ 8 < hops) || (ef e 1 1 == 0 && ef e 3 1 != 0)
    || decide (ef e 4 4 % 64 ≠ 0 ∨ ef e 4 4 < 64 ∨ 16777216 < ef e 4 4) || ef e 8 8 % 64 != 0
    || ef e 16 8 % 64 != 0 || !inAperture (ef e 16 8) || !(List.range 8).all route || decide (16383 < ef e 34 2)
    || ef e 36 4 != 0 || ef e 40 8 % 64 != 0 || ef e 48 14 != 0 || ef e 63 1 % 128 != 0

/-- Byte 0 of an op. -/
def opKind (o : Word) : Nat := o.toNat % 256
/-- K of a RED op. -/
def opK (o : Word) : Nat := o.toNat / 2 ^ 16 % 256
/-- The port mask of an MCAST op. -/
def opMask (o : Word) : Nat := o.toNat / 256
/-- TYPE of a RED op: 0 F32, 1 B16, 2 I32. -/
def opType (o : Word) : Nat := o.toNat / 256 % 16
/-- The function of a RED op: 0 add, 1 max, 2 min. -/
def opFn (o : Word) : Nat := o.toNat / 2 ^ 12 % 4
/-- FINAL. -/
def opFinal (o : Word) : Bool := o.getLsbD 24

/-- An op that breaks R410. -/
def opBad (o : Word) : Bool :=
  match opKind o with
  | 0 => o != 0
  | 1 => decide (2 < opType o ∨ 2 < opFn o) || (opFn o != 0 && opType o == 1) || o.toNat / 2 ^ 14 % 4 != 0
      || decide (opK o < 2 ∨ 56 < opK o) || o.toNat / 2 ^ 25 != 0
  | 2 => false
  | _ => true

/-- Responses due to a packet with these ops: one from its first RED hop, or one from each destination (R408). -/
def responses : List Word → Nat
  | [] => 1
  | o :: r =>
    match opKind o with
    | 1 => 1
    | 2 => ((List.range 56).filter (fun p => bit (opMask o) p)).length * responses r
    | _ => responses r

/-- The lines of `n` bytes from `va` of context `ctx`, each at its place. -/
def State.linePlaces (s : State) (ctx va n : Nat) (k : AccKind) : Option (List Place) :=
  (List.range (n / 64)).mapM (fun i => match s.place ctx (BitVec.ofNat 64 (va + 64 * i)) k with
    | .ok p => if p.isDevice then none else some p
    | .error _ => none)

/-- A line read past the caches: recalled, its data and its poison bit. -/
def State.engineRead (s : State) (p : Place) : Row × Bool := let x := s.lineAt p.pa; (x.data, x.poison)
/-- A line written past the caches, with its poison bit. It ends the release sequences of its words (R281). -/
def State.engineWrite (s : State) (p : Place) (x : Row × Bool) : State :=
  ((s.recallFor p).writeLine p { data := x.1, poison := x.2 }).endsHeads p.pa 64

/-- The accesses of an engine recorded while its entry is in flight (R413). -/
def spansOf (work : Nat) (passing write : Bool) (ps : List Place) : List EngineSpan :=
  ps.map (fun p => { work := work, host := false, passing := passing, write := write, pa := p.pa, len := 64 })

/-- The payload of a packet as it travels, or as it is opened, under a key: that of a SEALED one meets the key stream of AES-256-GCM, which
turns it into one and back (R413). -/
def cryptPacket (p : Packet) (key : BitVec 256) (ls : List (Row × Bool)) : List (Row × Bool) :=
  if p.sealed then ls.zipIdx.map (fun x => (x.1.1 ^^^ Config.keystream key (p.src * 65536 + p.seq) x.2, x.1.2)) else ls

/-- Packet `i` of an entry: 4,096 bytes of it, or the rest. -/
def packetOf (e : Row) (ops : List Word) (src seq i : Nat) (payload : List (Row × Bool)) : Packet :=
  let hops := ef e 2 1
  { route := (List.range hops).map (fun j => ef e (24 + j) 1), ret := [], sealed := ef e 1 1 == 1, key := ef e 3 1,
    len := min 4096 (ef e 4 4 - 4096 * i), ap := ef e 16 8 + 4096 * i, tag := ef e 32 2, rlo := ef e 34 2, src := src,
    seq := (seq + i) % 65536, pull := ef e 0 1 == 2, wide := false, ops := ops.take hops, payload := payload }

/-- The number of packets of an entry. -/
def packets (e : Row) : Nat := (ef e 4 4 + 4095) / 4096

/-- An entry that ends without sending anything. -/
def Work.ended (w : Work) (status : BitVec 8) : Work := { w with status := status, await := [] }

/-- A taken entry processed (R407): its work, and the state after its packets have left by one of the four links of the engine's die,
which one the manual does not say: a free value. -/
def State.process (s : State) (die : Nat) (w : Work) : State × Work :=
  let e := w.entry
  let n := ef e 4 4
  let opsAt := s.linePlaces w.ctx (ef e 40 8) 64 .read
  let s := match opsAt with | some (p :: _) => (s.holdRange w.ctx (ef e 40 8) 64 .read).readFor p | _ => s
  let ops : List Word := match opsAt with
    | some (p :: _) => (List.range 8).map (fun i => s.pword (p.pa + 8 * i))
    | _ => []
  let mine := ops.take (ef e 2 1)
  if entryBad e || mine.any opBad then (s, w.ended 3)
  else if ef e 1 1 = 1 ∧ mine.any (fun o => opKind o == 1) then (s, w.ended 2)
  else if ef e 0 1 = 2 ∧ mine.any (fun o => opKind o != 0) then (s, w.ended 3)
  else match opsAt, s.linePlaces w.ctx (ef e 8 8) n (if ef e 0 1 = 2 then .write else .read) with
    | some os, some ps =>
      if ef e 0 1 = 0 then (s, w.ended 1)
      else
        let link := 4 * die + (Config.freeValue s.free).toNat % 4
        let h := s.draw.holdRange w.ctx (ef e 8 8) n (if ef e 0 1 = 2 then .write else .read)
        let u := ps.foldl (fun (u : State) p => u.readFor p) h
        let lines (i : Nat) : List (Row × Bool) :=
          if ef e 0 1 = 2 then [] else ((ps.drop (64 * i)).take 64).map u.engineRead
        let out := (List.range (packets e)).map (fun i =>
          let p := packetOf e ops s.devnum s.fab.seq i []
          { p with payload := cryptPacket p w.key (lines i) })
        let each := if ef e 0 1 = 2 then 1 else responses mine
        let await := out.flatMap (fun p => List.replicate each p.seq)
        let fab := { u.fab with
          seq := u.fab.seq + out.length, out := if (s.linkOf link).down then u.fab.out else u.fab.out ++ u.sentOn link none out,
          spans := u.fab.spans ++ spansOf w.number false false os ++ spansOf w.number false (ef e 0 1 == 2) ps }
        let v : State := { u with fab := fab }
        if (s.linkOf link).down then (v, w.ended 7) else (v.leave link out, { w with await := await })
    | _, _ => (s, w.ended 4)

/-- A host write of `v` to CRING.n (R405): EN written with 1 sets the slot's ring indices to 0. -/
def State.cringWrite (s : State) (n : Nat) (v : Word) : State :=
  let index := if v.getLsbD 63 then (List.range 64).foldl (fun (t : Tbl Nat) r => t.put (64 * n + r) 0) s.fab.index else s.fab.index
  { s with fab := { s.fab with cring := s.fab.cring.put n (v &&& 0x8FFFFFFFFFFFFF00#64), index := index } }

/-- CRING_ENABLE (R405): the host writes CRING.n with EN = 1 and the fields of `site.val`, n being `site.unit`. -/
def execCringEnable (s : State) : Host.Outcome State Fault Refusal :=
  .next (s.cringWrite s.site.unit (s.site.val ||| 0x8000000000000000#64))

/-- RING_VISIT (R405): the engine of C-die r mod 4 visits ring r of slot n, 64 n + r being `site.unit`: an owned entry is taken while
fewer than four of the ring are in flight. -/
def execRingVisit (s : State) : Host.Outcome State Fault Refusal :=
  let k := s.site.unit
  let c := s.fab.cring.get 0 (k / 64)
  let logn := (c.extractLsb' 8 4).toNat
  let ctx := (c.extractLsb' 48 12).toNat
  let idx := s.fab.index.get 0 k
  let va := (c.extractLsb' 12 36).toNat * 4096 + k % 64 * 64 * 2 ^ logn + 64 * idx
  if !c.getLsbD 63 || decide (logn < 4 ∨ 12 < logn) || decide (4 ≤ (s.fab.works.get [] k).length) then .next s
  else match s.linePlaces ctx va 64 .read with
    | some (p :: _) =>
      let u := (s.holdRange ctx va 64 .read).readFor p
      let e := u.prow p.pa
      if !e.getLsbD 511 then .next u
      else
        let w : Work := { number := u.fab.taken, va := BitVec.ofNat 64 va, entry := e, ctx := ctx,
                          key := u.host.keys.get 0 (ef e 3 1), status := 1, await := [] }
        let r := u.process (k % 4) w
        let own : EngineSpan := { work := w.number, host := false, passing := false, write := false, pa := p.pa, len := 56 }
        let word : EngineSpan := { own with write := true, marked := true, pa := p.pa + 56, len := 8 }
        let fab := { r.1.fab with
          taken := u.fab.taken + 1, index := r.1.fab.index.put k ((idx + 1) % 2 ^ logn),
          works := r.1.fab.works.put k (r.1.fab.works.get [] k ++ [r.2]), spans := own :: word :: r.1.fab.spans }
        .next { r.1 with fab := fab }
    | _ => .next s

/-- WORK_REQUEST_FINISH (R407): the oldest entry of ring `site.unit` has no response outstanding: STATUS is written and OWN cleared. -/
def execWorkRequestFinish (s : State) : Host.Outcome State Fault Refusal :=
  let k := s.site.unit
  match s.fab.works.get [] k with
  | [] => .next s
  | w :: r =>
    if !w.await.isEmpty then .next s
    else
      let u := (s.ownWrite w.ctx (w.va + 56) 8 (w.status.toNat * 2 ^ 48) .write).getD s
      let fab := { u.fab with works := u.fab.works.put k r, spans := u.fab.spans.filter (fun x => x.host || x.passing || x.work != w.number) }
      .next { u with fab := fab }

/-- PACKET_STATUS_RETURN (R408): the response to packet `site.sub`, with STATUS `site.val`; an acceptance or a delivery is 1. -/
def execPacketStatusReturn (s : State) : Host.Outcome State Fault Refusal :=
  .next (s.respond s.site.sub (fun _ => true) (s.site.val.setWidth 8))

/-- The entry is a PULL that asks for the lines of packet `p`. -/
def Work.asks (p : Packet) (w : Work) : Bool :=
  ef w.entry 0 1 == 2 && decide (ef w.entry 16 8 ≤ p.ap ∧ p.ap < ef w.entry 16 8 + ef w.entry 4 4)

/-- PULL_REPLY_RECEIVE (R407): an arriving reply is written at the local VA of its entry, filling no cache. One that has hops left is dropped
with BAD_ROUTE (R409). -/
def execPullReplyReceive (s : State) : Host.Outcome State Fault Refusal :=
  match s.site.input with
  | .packet p =>
    if !p.route.isEmpty then .next ((s.answer p 9).respond p.seq (Work.asks p) 9)
    else match s.awaiting p.seq (Work.asks p) with
    | none => .next s
    | some w =>
      let ls := cryptPacket p w.key p.payload
      let va := ef w.entry 8 8 + (p.ap - ef w.entry 16 8)
      match s.linePlaces w.ctx va (64 * ls.length) .write with
      | some ps => .next (((ps.zip ls).foldl (fun (u : State) x => u.engineWrite x.1 x.2) (s.holdRange w.ctx va (64 * ls.length) .write)).respond
          p.seq (Work.asks p) 1)
      | none => .next (s.respond p.seq (Work.asks p) 4)
  | _ => .next s

/-! ## The aperture (R403, R404) -/

/-- The window and offset of an aperture address. -/
def windowOf (ap : Nat) : Nat × Nat := ((ap - 2 ^ 44) / 2 ^ 32 % 4096, ap % 2 ^ 32)

/-- The window `w` takes `n` bytes at `off` (R404). -/
def State.windowTakes (s : State) (w off n : Nat) : Bool :=
  let v := s.fab.apwin.get 0 w
  let size := (v.extractLsb' 0 6).toNat
  v.getLsbD 63 && decide (64 ≤ off ∧ off + n ≤ 2 ^ size ∧ off % 64 = 0 ∧ 16 ≤ size ∧ size ≤ 32)
/-- The VA of a window, and its context. -/
def State.windowBase (s : State) (w : Nat) : Nat × Nat :=
  let v := s.fab.apwin.get 0 w
  ((v.extractLsb' 16 32).toNat * 65536, (v.extractLsb' 48 12).toNat)

/-- A packet dropped by its window: the host is told, and the source. -/
def State.dropPacket (s : State) (p : Packet) : State := (s.notify 7 (windowOf p.ap).1 p.src).answer p 5

/-- APERTURE_DELIVERY (R404): a packet with no hops left arrives: its data is written, then the counter rises by as many bytes. -/
def execApertureDelivery (s : State) : Host.Outcome State Fault Refusal :=
  match s.site.input with
  | .packet p =>
    let w := windowOf p.ap
    let b := s.windowBase w.1
    let n := 64 * p.payload.length
    let base := BitVec.ofNat 64 b.1
    if !p.route.isEmpty then .next (s.answer p 9)
    else if !s.windowTakes w.1 w.2 n then .next (s.dropPacket p)
    else match s.linePlaces b.2 (b.1 + w.2) n .write, s.place b.2 base .atomic with
      | some ps, .ok c =>
        if c.isDevice then .next (s.dropPacket p)
        else
          let ls := cryptPacket p (s.host.keys.get 0 p.key) p.payload
          let h := (s.holdRange b.2 (b.1 + w.2) n .write).holdRange b.2 b.1 8 .atomic
          let u := ((ps.zip ls).foldl (fun (u : State) x => u.engineWrite x.1 x.2) h).recallFor c 8
          let v := u.pset c.pa 8 ((u.pword c.pa).toNat + n)
          let counter : EngineSpan := { work := 0, host := false, passing := true, write := true, marked := true, pa := c.pa, len := 8 }
          let fab := { v.fab with spans := counter :: v.fab.spans ++ spansOf 0 true true ps }
          .next (({ v with fab := fab } : State).answer p 1)
      | _, _ => .next (s.dropPacket p)
  | _ => .next s

/-- PULL_REPLY (R409): a PULL request with no hops left arrives on link `site.unit`: the lines of the window go back along the return
list, or the source is told that the window takes no such request, or that the link is down (R399). -/
def execPullReply (s : State) : Host.Outcome State Fault Refusal :=
  match s.site.input with
  | .packet p =>
    let w := windowOf p.ap
    let b := s.windowBase w.1
    if !p.route.isEmpty then .next (s.answer p 9)
    else if !s.windowTakes w.1 w.2 p.len then .next (s.dropPacket p)
    else match s.linePlaces b.2 (b.1 + w.2) p.len .read with
      | some ps =>
        let u := ps.foldl (fun (u : State) q => u.readFor q) (s.holdRange b.2 (b.1 + w.2) p.len .read)
        let r : Packet := { p with route := p.ret, ret := [], src := s.devnum, ops := [], payload := [] }
        let r : Packet := { r with payload := cryptPacket r (s.host.keys.get 0 p.key) (ps.map u.engineRead) }
        .next (if (s.linkOf s.site.unit).down then u.strand { port := s.site.unit, packet := r, asker := some p.src }
               else ({ u with fab := { u.fab with out := u.fab.out ++ u.sentOn s.site.unit (some p.src) [r] } } : State).leave s.site.unit [r])
      | none => .next (s.dropPacket p)
  | _ => .next s

/-! ## Switches (R409 to R412) -/

/-- Switch `n` changed. -/
def State.modSwitch (s : State) (n : Nat) (f : Switch → Switch) : State :=
  { s with fab := { s.fab with switches := s.fab.switches.mod {} n f } }
/-- A response that a switch sends along a packet's return list. -/
def Switch.reply (x : Switch) (p : Packet) (status : BitVec 8) : Switch :=
  { x with resp := x.resp ++ [⟨p.ret, p.src, p.seq, status⟩] }

/-- A payload of B16 elements widened to F32, each line to two (R411). -/
def widen (ls : List (Row × Bool)) : List (Row × Bool) :=
  ls.flatMap (fun l => [0, 1].map (fun h =>
    (rowOf 32 16 (fun i => f32.round 0 false (b16.decode (elemOf 16 l.1 (16 * h + i)))), l.2)))

/-- A payload of F32 elements rounded to B16, each pair of lines to one. -/
def narrow : List (Row × Bool) → List (Row × Bool)
  | a :: b :: r =>
    (rowOf 16 32 (fun i => b16.round 0 false (f32.decode (elemOf 32 (if i < 16 then a.1 else b.1) (i % 16)))), a.2 || b.2) :: narrow r
  | l => l

/-- The fold of one element over the packets, from the left (R411, R197). -/
def foldElem (ty fn : Nat) (xs : List Nat) : Nat :=
  match xs with
  | [] => 0
  | x :: r =>
    if ty = 2 then intBits 32 (r.foldl (fun a y => intOf 32 true (intBits 32 (redI fn a (intOf 32 true y)))) (intOf 32 true x))
    else f32.round 0 false (reduced f32 xs (r.foldl (redF f32 0 fn) x))

/-- The payloads of `K` packets combined, line by line; a line is poisoned where one of them is. -/
def foldLines (ty fn : Nat) (ps : List (List (Row × Bool))) : List (Row × Bool) :=
  (List.range ((ps.map List.length).foldl max 0)).map (fun j =>
    let ls := ps.map (fun p => p.getD j (0, false))
    (rowOf 32 16 (fun i => foldElem ty fn (ls.map (fun l => elemOf 32 l.1 i))), ls.any (·.2)))

/-- A packet put into a list in ascending RLO. -/
def insertRank (p : Packet) : List Packet → List Packet
  | [] => [p]
  | q :: r => if p.rlo < q.rlo then p :: q :: r else q :: insertRank p r

/-- The packet that a RED op emits (R411). -/
def reduce (op : Word) (got : List Packet) : Option Packet :=
  match got.foldl (fun l p => insertRank p l) [] with
  | [] => none
  | p :: r =>
    let b := opType op == 1
    let body (q : Packet) : List (Row × Bool) := if b && !q.wide then widen q.payload else q.payload
    let ls := foldLines (opType op) (opFn op) ((p :: r).map body)
    some { p with payload := if b && opFinal op then narrow ls else ls, wide := b && !opFinal op }

/-- A packet with its route, op list and return list as they are after this hop (R409). -/
def hopped (p : Packet) (port : Nat) : Packet :=
  { p with route := p.route.drop 1, ops := p.ops.drop 1, ret := port :: p.ret }

/-- A packet collected by its key, or discarded (R411, R412): the switch, and the packet that it emits. -/
def Switch.gather (x : Switch) (now : Nat) (op : Word) (p : Packet) : Switch × Option Packet :=
  let same (k : RedKey) : Bool := k.ap == p.ap && k.tag == p.tag && k.len == p.len
  match x.keys.find? same with
  | none => ({ x with keys := x.keys ++ [{ op := op, ap := p.ap, tag := p.tag, len := p.len, since := now, got := [p] }] }, none)
  | some k =>
    if k.op != op || k.got.any (fun q => q.rlo == p.rlo) then (x.reply p 8, none)
    else
      let got := k.got ++ [p]
      let rest := x.keys.filter (fun q => !same q)
      if got.length < opK op then ({ x with keys := rest ++ [{ k with got := got }] }, none)
      else (got.foldl (fun (u : Switch) q => u.reply q 1) { x with keys := rest }, reduce op got)

/-- A packet taken by a switch on `port`: its hops here, one and those that re-enter (R409, R410). -/
def Switch.hop (now : Nat) : Nat → Nat → Packet → Switch → Switch
  | 0, _, _, x => x
  | n + 1, port, p, x =>
    let q := hopped p port
    let send (y : Switch) (q : Packet) (out : Nat) : Switch :=
      if out = 0xFF then Switch.hop now n 0xFF q y else { y with out := y.out ++ [{ port := out, packet := q }] }
    match p.route with
    | [] => x.reply q 9
    | r :: _ =>
      let op := p.ops.headD 0
      match opKind op with
      | 1 =>
        let g := x.gather now op q
        match g.2 with
        | some e => send g.1 e r
        | none => g.1
      | 2 => ((List.range 56).filter (bit (opMask op))).foldl (fun (y : Switch) b => { y with out := y.out ++ [{ port := b, packet := q }] }) x
      | _ => send x q r

/-- SWITCH_HOP (R409 to R411): switch `site.unit` takes a packet on port `site.sub`. -/
def execSwitchHop (s : State) : Host.Outcome State Fault Refusal :=
  match s.site.input with
  | .packet p => .next (s.modSwitch s.site.unit (Switch.hop s.cycle (p.route.length + 1) s.site.sub p))
  | _ => .next s

/-- Cycles for which a key gathers (R412). -/
def redTimeout : Nat := 60000000

/-- RED_TIMEOUT (R412): the keys of switch `site.unit` that are short of packets after 100 ms are discarded, and their contributors told. -/
def execRedTimeout (s : State) : Host.Outcome State Fault Refusal :=
  let old (k : RedKey) : Bool := decide (k.since + redTimeout ≤ s.cycle)
  .next (s.modSwitch s.site.unit (fun x =>
    ((x.keys.filter old).flatMap (·.got)).foldl (fun (u : Switch) p => u.reply p 6) { x with keys := x.keys.filter (fun k => !old k) }))

/-! ## The load-store domain (R400 to R402) -/

/-- The atomic operations in the order of R285. -/
def atOps : List AtOp := [.add, .faddF32, .faddB16, .min, .max, .and, .or, .xor, .xchg, .cas]

/-- The race that a remote access meets at the home of its word, with a stream of this device (R402). -/
def State.remoteRace (s : State) (r : RemoteReq) : Option Word :=
  let write := r.write.isSome || r.atomic.isSome
  match s.meetsEngine r.pa r.width write r.plain with
  | some x => some (if x.host then 0x3FE else 0x3FF)
  | none =>
    (s.tracks.find? (fun k =>
      decide (k.word * 8 < r.pa + r.width ∧ r.pa < k.word * 8 + 8) && (decide (8 < r.width) || (k.bytes &&& byteMask r.pa r.width) != 0)
        && (k.write || write) && (k.plain || r.plain) && s.regionOpen k.gsid k.region 4)).map
      (fun k => BitVec.ofNat 64 (k.gsid + 1024 * k.region))

/-- The value of a remote access's reply, and the state after it has performed at the atomic unit of its word. A write that is no atomic ends
the release sequences of its words, and so does an atomic at a scope below .F, which no issuer here lies within (R281). -/
def State.remotePerform (s : State) (r : RemoteReq) : State × BitVec 512 :=
  let n := r.width
  let m := Memory.getNat s.mem r.pa n
  match r.atomic, r.write with
  | some (o, signed), some b =>
    match atomicNew (atOps.getD o .cas) n signed m (b.toNat % 2 ^ (8 * n)) (r.cmp.toNat % 2 ^ (8 * n)) with
    | some v => (let u := s.pset r.pa n v; if r.scope < 4 then u.endsHeads r.pa n else u, BitVec.ofNat 512 m)
    | none => (s, BitVec.ofNat 512 m)
  | none, some b =>
    let u := (s.writeBytes r.pa n b.toNat r.poison).endsHeads r.pa n
    let v := u.setPoison r.pa r.poison
    (if n = 64 then ({ v with sides := v.sides.put (r.pa / 64) (r.side, r.tag) } : State).flushSide r.pa else u, 0)
  | _, _ => (s, BitVec.ofNat 512 m)

/-- An APROM of another device at scope number `scp` (R289): its issuer lies within no scope of a stream here but .F. -/
def State.remotePromote (s : State) (pa scp : Nat) : State :=
  if scp < 4 then s
  else (s.promoteAt (pa / 8) scp (fun _ => true)).promotes 0 scp (pa / 8)

/-- REMOTE_ACCESS_REQUEST (R401): an access of another device of the domain performs here, as one to a memory-side page does. An atomic
or an APROM of a line that is delivered poisoned, by its own bytes or by its scale bytes, has no effect (R93, R391). -/
def execRemoteAccessRequest (s : State) : Host.Outcome State Fault Refusal :=
  match s.site.input with
  | .remote r =>
    let reply (u : State) (x : RReply) : Host.Outcome State Fault Refusal :=
      .next { u with fab := { u.fab with replies := u.fab.replies ++ [x] } }
    if !populated r.pa ∨ 64 < r.pa % 64 + r.width then .next s
    else match s.remoteRace r with
      | some i => reply s { src := r.src, value := 0, poison := false, race := some i }
      | none =>
        let u := s.recallScaled r.pa r.width
        let u := if (u.filters.find? (r.pa / 2 ^ 16)).isSome then u.recallGranule r.pa else u
        let x := u.lineAt r.pa
        if x.poison && (r.atomic.isSome || r.aprom.isSome) then reply u { src := r.src, value := 0, poison := true, race := none }
        else match r.aprom with
        | some scp => reply (u.remotePromote r.pa scp) { src := r.src, value := 0, poison := false, race := none }
        | none =>
          let v := u.remotePerform r
          let line := r.write.isNone && r.atomic.isNone && r.width == 64
          reply v.1 { src := r.src, value := v.2, poison := r.write.isNone && x.poison, race := none,
                      side := if line then x.side else 0, tag := if line then x.tag else 0 }
  | _ => .next s

end Sys2Proof.Machine
end

