-- ==== Sys2Proof/Machine/HostPort.lean ====
section
/-! DEFINITION. Machine/HostPort.lean: what the host does to the device: reset and boot, memory and register accesses, notifications,
attestation and key sessions (R305, R377, R415 to R423). -/
namespace Sys2Proof.Machine

/-! ## Reset and boot (R418) -/

/-- DEVICE_RESET (R418): the boot ROM starts, with the image address of `site.val`. What stands outside the device's reset stays: the
host's memory, the fused epoch counter, the switches, and what the outside is about to do; so do the bytes of HBM (entry 30). -/
def execDeviceReset (s : State) : Host.Outcome State Fault Refusal :=
  .next { State.reset with
    mem := s.mem, poison := s.poison, inbox := s.inbox, free := s.free
    host := { bootPa := s.site.val, epoch := s.host.epoch, mem := s.host.mem, reads := s.host.reads }
    fab := { switches := s.fab.switches } }

/-- The boot ends in failure. -/
def State.bootFail (s : State) (err : BitVec 4) : State := { s with host := { s.host with phase := 5, err := err } }
/-- The next boot phase. -/
def State.bootNext (s : State) : State := { s with host := { s.host with phase := s.host.phase + 1 } }

/-- BOOT_PHASE_COMPLETE (R418): the phase ends as its input says: ROM, VERIFY with its signature and epoch checks, TRAIN, and MAP, which
sets FWVER and NUMV and leaves the mailboxes IDLE. -/
def execBootPhaseComplete (s : State) : Host.Outcome State Fault Refusal :=
  let n := s.host.phase.toNat
  match s.site.input with
  | .boot r =>
    if 4 ≤ n then .next s
    else match r with
    | .badSignature => .next (if n = 1 then s.bootFail 1 else s)
    | .rollback => .next (if n = 1 then s.bootFail 2 else s)
    | .training => .next (if n = 2 then s.bootFail 3 else s)
    | .heartbeat => .next (if 2 ≤ n then s.bootFail 4 else s)
    | .done fwver numv epoch =>
      if n = 1 then
        .next (if epoch.toNat < s.host.epoch.toNat then s.bootFail 2
          else ({ s with host := { s.host with epoch := epoch } } : State).bootNext)
      else if n = 3 then
        let u := s.bootNext
        .next { u with host := { u.host with fwver := fwver, numv := numv },
                       cores := u.cores.map (fun _ k => { k with mbState := 0, mbErr := 0, mbGo := false }) }
      else .next s.bootNext
  | _ => .next s

/-! ## Attestation (R422) -/

/-- The `n` bytes of a buffer, lowest address first. -/
def bytesOf : Nat → Nat → List Byte
  | 0, _ => []
  | n + 1, v => BitVec.ofNat 8 v :: bytesOf n (v / 256)

/-- The part number ODK-B960-A0 as its bytes. -/
def partNumber : Nat :=
  bytesNat [0x4F, 0x44, 0x4B, 0x2D, 0x42, 0x39, 0x36, 0x30, 0x2D, 0x41, 0x30]

/-- Bytes 0 to 127 of a report. -/
def HostPort.reportBody (h : HostPort) : Nat :=
  h.nonce.toNat + (Config.firmwareSha h.fwver).toNat * 2 ^ (8 * 48) + h.fwver.toNat * 2 ^ (8 * 96) + h.numv.toNat * 2 ^ (8 * 98)
    + h.epoch.toNat * 2 ^ (8 * 100) + partNumber * 2 ^ (8 * 102) + Config.serial.toNat * 2 ^ (8 * 118)

/-- ATTN_GO (R422): the host sets GO, and the device builds its report over the nonce. -/
def execAttnGo (s : State) : Host.Outcome State Fault Refusal := .next { s with host := { s.host with go := true } }

/-- ATTN_REPORT_COMPLETE (R422): the report stands, signed, and GO reads 0. -/
def execAttnReportComplete (s : State) : Host.Outcome State Fault Refusal :=
  if s.host.go then
    let body := s.host.reportBody
    let sig := (Config.identitySign s.free (Config.sha384 (bytesOf 128 body))).toNat
    .next { s.draw with host := { s.host with go := false, report := BitVec.ofNat 2048 (body + sig * 2 ^ 1024) } }
  else .next s

/-! ## Key sessions (R423) -/

/-- The key session changed. -/
def State.modKs (s : State) (f : KeySession → KeySession) : State := { s with host := { s.host with ks := f s.host.ks } }

/-- A command begun with KSCTL's fields of `v`; one while GO reads 1 is not taken, and STATUS says so (entry 31). -/
def State.ksBegin (s : State) (cmd : BitVec 4) (v : Word) (f : State → State × BitVec 8) : State :=
  if s.host.ks.go then s.modKs (fun k => { k with status := 4 })
  else
    let u := s.modKs (fun k => { k with cmd := cmd, kind := v.extractLsb' 4 4, slot := v.extractLsb' 32 8, go := true })
    let r := f u
    r.1.modKs (fun k => { k with next := r.2 })

/-- OPEN. -/
def State.ksOpen (s : State) : State × BitVec 8 :=
  let n := s.free
  let d := Config.sessionPub n
  let digest := Config.sha384 (bytesOf 48 s.host.ks.nonce.toNat ++ bytesOf 96 d.toNat ++ bytesOf 8 Config.serial.toNat)
  (s.draw.modKs (fun k => { k with priv := some n, kek := none, dpub := d, dsig := Config.identitySign n digest }), 0)

/-- AGREE. -/
def State.ksAgree (s : State) : State × BitVec 8 :=
  match s.host.ks.priv with
  | none => (s, 1)
  | some n =>
    match Config.ecdh n s.host.ks.ppub with
    | none => (s, 2)
    | some z => (s.modKs (fun k => { k with kek := some (Config.hkdf z k.nonce) }), 0)

/-- Link `n` has its key: at its next reset where it runs, and at once where it is down (R421). -/
def State.linkKey (s : State) (n : Nat) (key : BitVec 256) : State :=
  { s with host := (if (s.linkOf n).down then { s.host with link := s.host.link.put n key, linkNew := s.host.linkNew.drop n }
                    else { s.host with linkNew := s.host.linkNew.put n key }) }

/-- INSTALL: a slot's key, or a link's (R421). -/
def State.ksInstall (s : State) : State × BitVec 8 :=
  let k := s.host.ks
  match k.priv, k.kek with
  | some _, some kek =>
    if decide (1 < k.kind.toNat) || (k.kind == 1 && decide (15 < k.slot.toNat)) then (s, 3)
    else match Config.gcmOpen kek (k.wrap.extractLsb' 0 96) (k.wrap.extractLsb' 352 128) (k.wrap.extractLsb' 96 256)
        (k.slot ++ (k.kind.setWidth 8 : BitVec 8)) with
      | none => (s, 2)
      | some key =>
        (if k.kind = 0 then { s with host := { s.host with keys := s.host.keys.put k.slot.toNat key } }
         else s.linkKey k.slot.toNat key, 0)
  | _, _ => (s, 1)

/-- CLOSE. -/
def State.ksClose (s : State) : State × BitVec 8 :=
  match s.host.ks.priv with
  | none => (s, 1)
  | some _ => (s.modKs (fun k => { k with priv := none, kek := none }), 0)

/-- A command number that R423 calls invalid: nothing is done, and the manual gives no STATUS: a free value (entry 3). -/
def State.ksInvalid (s : State) : State × BitVec 8 :=
  match s.host.ks.priv with
  | none => (s, 1)
  | some _ => (s.draw, (Config.freeValue s.free).setWidth 8)

/-- KS_OPEN (R423): the host writes KSCTL with GO = 1, CMD OPEN and the fields of `site.val`. -/
def execKsOpen (s : State) : Host.Outcome State Fault Refusal := .next (s.ksBegin 1 s.site.val State.ksOpen)
/-- KS_AGREE (R423). -/
def execKsAgree (s : State) : Host.Outcome State Fault Refusal := .next (s.ksBegin 2 s.site.val State.ksAgree)
/-- KS_INSTALL (R423). -/
def execKsInstall (s : State) : Host.Outcome State Fault Refusal := .next (s.ksBegin 3 s.site.val State.ksInstall)
/-- KS_CLOSE (R423). -/
def execKsClose (s : State) : Host.Outcome State Fault Refusal := .next (s.ksBegin 4 s.site.val State.ksClose)

/-- KEY_SESSION_COMMAND_DONE (R423): STATUS is set and GO reads 0. -/
def execKeySessionCommandDone (s : State) : Host.Outcome State Fault Refusal :=
  if s.host.ks.go then .next (s.modKs (fun k => { k with go := false, status := k.next })) else .next s

/-- A host write of `v` to KSCTL. -/
def State.ksWrite (s : State) (v : Word) : State :=
  let cmd : BitVec 4 := v.extractLsb' 0 4
  let f : State → State × BitVec 8 := match cmd.toNat with
    | 1 => State.ksOpen | 2 => State.ksAgree | 3 => State.ksInstall | 4 => State.ksClose | _ => State.ksInvalid
  if s.host.ks.go then s.modKs (fun k => { k with status := 4 })
  else if v.getLsbD 63 then s.ksBegin cmd v f
  else s.modKs (fun k => { k with cmd := cmd, kind := v.extractLsb' 4 4, slot := v.extractLsb' 32 8 })

/-! ## Register writes (R417) -/

/-- Word `i` of a buffer replaced. -/
def putWord {n : Nat} (b : BitVec n) (i : Nat) (v : Word) : BitVec n :=
  let m : BitVec n := (BitVec.allOnes 64).setWidth n <<< (64 * i)
  (b &&& ~~~m) ||| (v.setWidth n <<< (64 * i))

/-- A host write to HNQ: where it leaves room, pending notifications are written (R419). -/
def State.hnqWrite (s : State) (v : Word) : State :=
  ({ s with host := { s.host with hnq := v &&& 0x80003FFFFFFFF000#64 } } : State).flushNotes
/-- A host write to HNQ.R. -/
def State.hnqRead (s : State) (v : Word) : State := ({ s with host := { s.host with hnqR := v.setWidth 32 } } : State).flushNotes

/-- HNQ_READ_INDEX_WRITE (R419): the host has consumed entries up to `site.val`. -/
def execHnqReadIndexWrite (s : State) : Host.Outcome State Fault Refusal := .next (s.hnqRead s.site.val)

/-- The state that an event's meaning leaves for the event at a site; the site itself is put back. -/
def State.after (s : State) (site : Site) (f : State → Host.Outcome State Fault Refusal) : State :=
  match f { s with site := site } with
  | .next t => { t with site := s.site }
  | _ => s

/-- A packet word of a mailbox: ignored in CHECK, LOAD and RUN (R305). -/
def State.mailboxWrite (s : State) (c i : Nat) (v : Word) : State :=
  if decide (1 ≤ (s.core c).mbState.toNat ∧ (s.core c).mbState.toNat ≤ 3) then s
  else s.modCore c (fun k =>
    if i < 8 then { k with mailbox := putWord k.mailbox i v } else { k with mailbox2 := putWord k.mailbox2 (i - 8) v })

/-- A host write of `v` to a register (R417): the fields that its map marks for the host. -/
def State.regWrite (s : State) (r : DevReg) (v : Word) : State :=
  match r with
  | .bootst | .hnqW | .lastn _ | .dur _ | .sheet _ _ => s
  | .hnq => s.hnqWrite v
  | .hnqR => s.hnqRead v
  | .negwin => s.writeNegwin v
  | .attn i =>
    if i < 6 then (if s.host.go then s else { s with host := { s.host with nonce := putWord s.host.nonce i v } })
    else if i = 6 ∧ v.getLsbD 0 then { s with host := { s.host with go := true } } else s
  | .mailbox c i => s.mailboxWrite c i v
  | .mbctl c => if v.getLsbD 0 && s.host.phase == 4 && (s.core c).accepts then s.modCore c (fun k => { k with mbState := 1, mbGo := true }) else s
  | .jlocal d => s.modJn d (fun j => { j with jlocal := v &&& 0x80003FFFFFFF0000#64 })
  | .jroute d => s.modJn d (fun j => { j with jroute := v })
  | .pctl c => s.pctlWrite c (v.extractLsb' 62 2) v
  | .resume g => s.resumeWrite g v
  | .ectl k => { s with ras := { s.ras with ectl := s.ras.ectl.put k (v &&& 0x0000000F0000FFFF#64) } }
  | .rstctl => s.rstWrite v
  | .fabId => { s with fab := { s.fab with id := v &&& 0x803F000000003FFF#64 } }
  | .cring n => s.cringWrite n v
  | .lsr k => { s with fab := { s.fab with lsr := s.fab.lsr.put k (v &&& 0x800FFFFFFFFFFFFF#64) } }
  | .apwin w => { s with fab := { s.fab with apwin := s.fab.apwin.put w (v &&& 0x8FFFFFFFFFFF003F#64) } }
  | .ctxroot n => { s with ctxroots := s.ctxroots.put n (v &&& 0x80003FFFFFFFF000#64) }
  | .tuInv _ => s.writeTuInv v
  | .ks i =>
    if i = 0 then s.ksWrite v
    else if i < 14 then s.modKs (fun k => { k with nonce := putWord k.nonce (i - 8) v })
    else if 48 ≤ i ∧ i < 60 then s.modKs (fun k => { k with ppub := putWord k.ppub (i - 48) v })
    else if 64 ≤ i then s.modKs (fun k => { k with wrap := putWord k.wrap (i - 64) v })
    else s

/-- HOST_REGISTER_WRITE (R417): the host writes `site.val` to the register at `site.unit`; an address that names none takes nothing. -/
def execHostRegisterWrite (s : State) : Host.Outcome State Fault Refusal :=
  match devReg s.site.unit with
  | some r => .next (s.regWrite r s.site.val)
  | none => .next s

/-! ## Memory (R415, R416) -/

/-- A host access of `n` bytes at `pa`, in flight until the end of the cycle (R416). It is plain (R267). -/
def State.hostSpan (s : State) (write : Bool) (pa n : Nat) : State :=
  let x : EngineSpan := { work := 0, host := true, passing := true, write := write, pa := pa, len := n }
  { s with fab := { s.fab with spans := x :: s.fab.spans } }

/-- An access of the host to `n` bytes of a line of a scale range: what it finds there are the exponents of the latest writeback (R93). -/
def State.recallScales (s : State) (pa n : Nat) : State :=
  let u := s.recallScaled pa n
  if (s.scaleAt pa).isSome && (u.filters.find? (pa / 2 ^ 16)).isSome then u.recallGranule pa else u

/-- Every cached copy of the line at `pa` written back and removed: what stands in the way of a write of `n` bytes at the point of
coherence. -/
def State.recallLine (s : State) (pa n : Nat) : State :=
  let u := s.recallScales pa n
  (u.l2.entries.filter (fun e => e.2.pa / 64 == pa / 64)).foldl
    (fun (u : State) e => u.purge (e.1 / 2048 / 192) e.2.ctx (e.2.va * 64)) u

/-- The host's read is answered with `v`. -/
def State.hostAnswer (s : State) (v : Word) : State := { s with host := { s.host with reads := s.host.reads ++ [v] } }

/-- HOST_MEMORY_READ (R415): the host reads `site.sub` bytes, at most 8, at `site.unit`: a stack, a register, or zero elsewhere. A read of a
contact sheet that has to wait (R175) comes again in the next cycle. -/
def execHostMemoryRead (s : State) : Host.Outcome State Fault Refusal :=
  let pa := s.site.unit
  let n := min s.site.sub 8
  if populated pa then
    (let r := s.recallScales pa n
     .next ((r.hostSpan false pa n).hostAnswer (BitVec.ofNat 64 (Memory.getNat r.mem pa n))))
  else match devReg (pa / 8 * 8) with
    | none => .next (s.hostAnswer 0)
    | some r =>
      let t := s.regTouch r
      if t.1 then .next (t.2.hostAnswer (BitVec.ofNat 64 ((t.2.readReg r).toNat / 2 ^ (8 * (pa % 8)) % 2 ^ (8 * n))))
      else .next { t.2 with inbox := t.2.inbox ++ [(s.cycle + 1, s.site, .hostMemoryRead)] }

/-- HOST_MEMORY_WRITE (R415, R416): the host writes the bytes of its input, or the low `site.sub` bytes of `site.val`, from `site.unit`,
line by line where they span several. A poisoned line stays poisoned: R390 names no host write among those that clear it. It ends the
release sequences of its words (R281). A register takes an aligned word; any other address nothing. -/
def execHostMemoryWrite (s : State) : Host.Outcome State Fault Refusal :=
  let pa := s.site.unit
  let bs : List Byte := match s.site.input with
    | .bytes bs => bs
    | _ => bytesOf (min s.site.sub 8) s.site.val.toNat
  let put (u : State) (i : Nat) : State :=
    let a := pa + i
    let first := a % 64 == 0 || i == 0
    let part := min (64 - a % 64) (bs.length - i)
    let u := if first then ((u.recallLine a part).hostSpan true a part).endsHeads a part else u
    let u := if first && part == 64 then u.flushSide (a / 64 * 64) else u
    u.pset a 1 ((bs.getD i 0).toNat)
  if populated pa && populated (pa + bs.length - 1) then .next ((List.range bs.length).foldl put s)
  else match devReg pa with
    | some r => .next (if bs.length = 8 then s.regWrite r (BitVec.ofNat 64 (bytesNat bs)) else s)
    | none => .next s

end Sys2Proof.Machine
end

