-- ==== Sys2Proof/Machine/Cycle.lean ====
section
/-! DEFINITION. Machine/Cycle.lean: the end of a core cycle, and the moves that the model makes in the next one. The order of
moves within a cycle is that of R136 and R170; which enabled event happens in which cycle is timing, which no result may
depend on (R34), so statements are about every agenda (entry 2). -/
namespace Sys2Proof.Machine

/-! ## What runs in every cycle -/

/-- The vector rows and the matrix engines of the cores that are not stopped advance by one cycle (R23, R230). -/
def State.advance (s : State) : State :=
  s.rows.cores.entries.foldl (fun (u : State) c => if c.2.stopped then u else u.stepMatrix c.1) s.rows

/-! ## The end of a cycle -/

/-- The streams of the cores that State lists, by global stream ID. -/
def State.allStreams (s : State) : List Nat :=
  s.cores.entries.flatMap (fun c => [4 * c.1, 4 * c.1 + 1, 4 * c.1 + 2, 4 * c.1 + 3])

/-- The list of streams that a YIELD of the ending cycle waits for: the others of its core that issued in it and go on. -/
def Core.yieldList (k : Core) (now i : Nat) : List Nat :=
  [0, 1, 2, 3].filter (fun j =>
    j != i && decide ((k.stream j).issuedAt = now) && decide ((k.stream j).status = .running))

/-- YIELDs of the ending cycle see which streams issued (R262). -/
def Core.settleYields (k : Core) (now : Nat) : Core :=
  let y (t : Stream) (i : Nat) : Stream :=
    if t.gate.ynew then { t with gate := { t.gate with ynew := false, yield := k.yieldList now i } } else t
  { k with streams := k.streams.map (fun i t => y t i) }

/-- The end of the cycle for core `k`: claims due are consumed, YIELDs are settled, blocked heads and the reserve slot are followed, and
handles stand for the next cycle's waits (R136, R168, R230, R262, R332). A context that stops in this cycle ends it like any other, and then
stands still (R381). -/
def Core.endCycle (k : Core) (now : Nat) : Core :=
  if k.stopped ∧ k.stopCyc.toNat ≠ now then k
  else
    let k := ((((k.consumeDue now).consumeMxDue now).settleYields now).stampBlocked now).reclaim
    { k with ringsPrev := k.rings, detStart := k.detmode, spRes := k.spRes.filter (fun b => decide (now < b.cycle)) }

/-- The end of the present cycle (R2, R261). -/
def State.tick (s : State) : State :=
  let u := s.allStreams.foldl State.accessDue s
  let cs := u.cores.map (fun _ k => k.endCycle u.cycle)
  let fab := { u.fab with spans := u.fab.spans.filter (fun x => !x.passing) }
  let v := { u with cores := cs, before := cs, jn := u.jn.map (fun _ j => j.count), fab := fab }
  let w := v.settleIncs.pruneBlocks.settleGroups.pruneTracks
  { w with cycle := u.cycle + 1 }

/-! ## What may happen -/

/-- An event at a unit. -/
def at1 (unit : Nat) (i : Instr) : Move := .event { unit := unit, sub := 0, val := 0, input := .none } i
/-- An event at a unit and an index within it. -/
def at2 (unit sub : Nat) (i : Instr) : Move := .event { unit := unit, sub := sub, val := 0, input := .none } i
/-- A move where a condition holds. -/
def may (b : Bool) (m : Move) : List Move := if b then [m] else []

/-- Core `k` runs: it belongs to a launch and is not stopped. -/
def Core.live (k : Core) : Bool := k.launch.isSome && !k.stopped

/-- Landings and retirements at the start of a cycle, and the groups that issue (R136). What has issued lands whether or not its launch
has ended. -/
def State.planIssue (s : State) (c : Nat) (k : Core) : List Move :=
  let gate (t : Stream) : Bool := t.gate.retire != 0 && decide (t.gate.retire ≤ s.cycle)
  let four (f : Nat → Stream → List Move) : List Move := [0, 1, 2, 3].flatMap (fun i => f (4 * c + i) (k.stream i))
  four (fun g t => may (!k.stopped && !t.latents.isEmpty) (at1 g .latentWriteLanding))
    ++ four (fun g t => may (gate t && (k.live || t.gate.icinv.isSome)) (at1 g (if t.gate.icinv.isSome then .icinvComplete else .syswrRetire)))
    ++ four (fun g t => may (k.live && (decide (t.status = .running ∨ t.status = .held) || (t.status == .atTend && t.task.killed))) (.issue g))

/-- A started command's lines of a cycle: four moves. -/
def lines4 (m : Move) : List Move := [m, m, m, m]

/-- The copy engines of one stream. -/
def planCopies (g : Nat) (t : Stream) : List Move :=
  let q (n : Nat) (l : List QEntry) : List Move :=
    if l.isEmpty then [] else at2 g n .tokenMarkerStart :: at2 g n .copyCommandStart :: lines4 (at2 g n .copyCommandRetire)
  q 0 t.ldq ++ q 2 t.stq ++ may (!t.mxq.isEmpty) (at2 g 1 .tokenMarkerStart)

/-- Chain unit `n` (0 LD, 1 ST) of one stream. The LD units of a core update handles before its ST units do (R136). -/
def planChain (n g : Nat) (t : Stream) : List Move :=
  let u := if n = 0 then t.ldChain else t.stChain
  if u.run then at2 g n .chainWaitSatisfied :: lines4 (at2 g n .chainEntryRetire) else []

/-- The fetches of the chain units of one stream: entries of one cycle take their places in the issue order by stream, LD before ST (R159). -/
def planFetch (g : Nat) (t : Stream) : List Move :=
  may t.ldChain.run (at2 g 0 .chainEntryFetch) ++ may t.stChain.run (at2 g 1 .chainEntryFetch)

/-- The engines, queues and items of a core that runs. -/
def State.planEngines (s : State) (c : Nat) (k : Core) : List Move :=
  let four (f : Nat → Stream → List Move) : List Move := [0, 1, 2, 3].flatMap (fun i => f (4 * c + i) (k.stream i))
  if k.live then
    at1 c .xtEntryStart :: may ([0, 1, 2, 3].any (fun i => !(k.stream i).mxq.isEmpty)) (at1 c .matrixCommandStart)
      ++ four planCopies ++ four planFetch ++ four (planChain 0) ++ four (planChain 1)
      ++ four (fun g t => may (!t.aq.isEmpty) (at1 g .aqOperationPerform))
      ++ four (fun g t => may (t.aq.any (fun e => e.started && !e.done)) (at1 g .releaseMarkerPerform))
      ++ four (fun g t => may (t.status == .atTend) (at1 g .itemEnd))
      ++ four (fun g t => may (t.taken.isSome) (at1 g .itemStart))
      ++ may (!k.probes.isEmpty) (at1 c .probeForward)
      ++ four (fun g _ => [0, 1, 2, 3].flatMap (fun q => may (k.probesNow (g % 4) q s.cycle) (at2 g q .probeSend)))
  else
    may (!k.xt.isEmpty) (at1 c .xtEntryStart)
      ++ four (fun g t => may (t.aq.any (fun e => e.started && !e.done)) (at1 g .releaseMarkerPerform))

/-- The units of the matrix engine on which a command may retire in a cycle: those at work, and those of the heads that may start and
complete in it (R230, R236). -/
def Core.mxUnits (k : Core) : List Nat :=
  let heads := [0, 1, 2, 3].filterMap (fun i => (k.stream i).mxq.find? (fun e => !e.started))
  ((k.mexec.map (fun x => mxUnit x.slab x.load)) ++ heads.filterMap (fun e => (mxOf e.instr).map (fun p =>
    mxUnit p.1 (match p.2 with | .sld _ => true | _ => false)))).eraseDups

/-- What a core does after its rows have moved: landings, retirements and its banks. -/
def State.planLate (s : State) (c : Nat) (k : Core) : List Move :=
  (if k.stopped then [] else k.twrites.keys.map (fun t => at2 c t .tileLanding))
    ++ may (!k.xt.isEmpty) (at1 c .xtEntryPublish)
    ++ (if k.live then k.mxUnits.map (fun u => at2 c u .matrixCommandRetire) else [])
    ++ may ((s.cycle + 1) % 128 == 0) (at2 c ((s.cycle + 1) / 128 % 16) .bankRefresh)
    ++ (List.range 16).flatMap (fun b => may (k.wakes b s.cycle) (at2 c b .bankWakeDone) ++ may (k.gates b s.cycle) (at2 c b .bankGated)
        ++ may (k.dozes b s.cycle) (at2 c b .bankDrowsy))

/-- The stop of a core, its image, and its fault records (R375, R376, R381, R382). -/
def State.planFaults (s : State) (c : Nat) (k : Core) : List Move :=
  let four (f : Nat → Stream → List Move) : List Move := [0, 1, 2, 3].flatMap (fun i => f (4 * c + i) (k.stream i))
  may (k.pctlBusy && !k.stopped) (at1 c .contextStop) ++ may (k.pctlBusy && k.stopped) (at1 c .saveComplete)
    ++ (if !k.live then []
        else four (fun g t => may (t.pend.isSome && !t.waitRing) (at1 g .faultDelivery))
          ++ may (k.ctxNote || [0, 1, 2, 3].any (fun i => (k.stream i).coreRec.isSome)) (at1 c .coreContextFault)
          ++ four (fun g t => may (t.waitRing && s.cycle % 4096 == 0) (at1 g .faultRingRetry)))

/-- Launches: loading, starting, their items, groups and end. -/
def State.planLaunches (s : State) : List Move :=
  let mine : List (Nat × Launch) := s.launches.entries.filter (fun l => (s.core l.1).launch == some l.1)
  mine.flatMap (fun l =>
    may (!l.2.running && !l.2.loaded) (at1 l.1 .launchLoad) ++ may (!l.2.running) (at1 l.1 .streamsStart)
      ++ (if l.2.running then
            l.2.groups.keys.map (fun n => at2 l.1 n .barrierComplete)
              ++ (coresOf l.2.pmask).flatMap (fun c => [0, 1, 2, 3].flatMap (fun i =>
                  may ((s.stream (4 * c + i)).status == .idle) (at1 l.1 .itemTake)))
              ++ [at1 l.1 .launchEnd]
          else []))

/-- The rings that the collective engines visit in this cycle: each of them every 256 cycles (R405). -/
def State.planRings (s : State) : List Move :=
  let n := s.cycle % 256 / 16
  (if (s.fab.cring.get 0 n).getLsbD 63 then
    [0, 1, 2, 3].map (fun d => at1 (64 * n + 4 * (s.cycle % 16) + d) .ringVisit) else [])
    ++ s.fab.works.entries.flatMap (fun w => may (match w.2 with | x :: _ => x.await.isEmpty | [] => false) (at1 w.1 .workRequestFinish))

/-- What belongs to no core: developers, journal, incumbents, resets and repairs, links and switches, and the host's registers. -/
def State.planDevice (s : State) : List Move :=
  s.devq.entries.flatMap (fun q => if q.2.isEmpty then [] else [at1 q.1 .developerBlockStart, at1 q.1 .developerFlagStore])
    ++ s.jn.entries.flatMap (fun j => may (!j.2.silent && decide (1048576 ≤ j.2.since)) (at1 j.1 .journalSilent)
        ++ may j.2.reseat (at1 j.1 .reseatTailSent))
    ++ s.planRings
    ++ (s.ras.errs.filter s.reached).map (fun e => at2 e.cls e.src .sourceLasting)
    ++ (s.ras.repairs.map (·.1)).eraseDups.map (fun n => at1 n (if s.ras.paused.contains n then .laneRepairDone else .laneRepairPause))
    ++ s.fab.links.entries.flatMap (fun l => may (!l.2.down && decide (l.2.lanes < 4)) (at1 l.1 .linkDown))
    ++ may (s.ras.rstctl.getLsbD 63 || s.fab.links.entries.any (fun l => l.2.held)) (at1 0 .resetComplete)
    ++ s.fab.switches.entries.flatMap (fun x => may (x.2.keys.any (fun k => decide (k.since + redTimeout ≤ s.cycle))) (at1 x.1 .redTimeout))
    ++ (s.cores.entries.filter (fun c => c.2.mbState == 1)).map (fun c => at1 c.1 .mailboxGo)
    ++ may (s.tuInv.getLsbD 63) (at1 0 .tuInvDone) ++ may s.host.go (at1 0 .attnReportComplete)
    ++ may s.host.ks.go (at1 0 .keySessionCommandDone)

/-- The moves of the cycle that begins. Shadow copies take their updates last: every kill point of the cycle sees them as they stood at the end of
the cycle before (R337). -/
def State.plan (s : State) : List Move :=
  if s.host.phase = 5 then [.tick]
  else
    let cs := s.cores.entries
    cs.flatMap (fun c => s.planIssue c.1 c.2) ++ cs.flatMap (fun c => s.planEngines c.1 c.2) ++ [.rows]
      ++ cs.flatMap (fun c => s.planLate c.1 c.2) ++ s.planDevice ++ s.planLaunches
      ++ cs.flatMap (fun c => s.planFaults c.1 c.2) ++ s.shadowMs.map (fun m => at1 m.1 .shadowUpdate) ++ [.tick]

/-- What the outside does at the start of this cycle, and the restores that end before it (R382). A failed device takes only a device
reset (R418). -/
def State.arrivals (s : State) : List Move :=
  let due := s.inbox.filter (fun x => decide (x.1 ≤ s.cycle))
  let taken := if s.host.phase = 5 then due.filter (fun x => x.2.2 == .deviceReset) else due
  taken.map (fun x => .event x.2.1 x.2.2)
    ++ s.cores.entries.flatMap (fun c => may (c.2.pctlBusy && c.2.pctlCmd == 3 && c.2.stopped && decide (c.2.saveAt ≤ s.cycle)) (at1 c.1 .restoreComplete))

/-- A device that has failed, and that no device reset is about to reach. -/
def State.dead (s : State) : Bool := decide (s.host.phase = 5) && !s.inbox.any (fun x => x.2.2 == .deviceReset)

/-- An empty agenda filled: with what arrives, and otherwise with the moves of the cycle. -/
def State.refill (s : State) : State :=
  if s.arrivals.isEmpty then { s with agenda := s.plan }
  else { s with agenda := s.arrivals, inbox := s.inbox.filter (fun x => !decide (x.1 ≤ s.cycle)) }

end Sys2Proof.Machine
end

