-- ==== Sys2Proof/Machine/Dispatch.lean ====
section
/-! DEFINITION. Machine/Dispatch.lean: the meaning of every instruction and event, one arm each. -/
namespace Sys2Proof.Machine

/-- The outcome of instruction or event `i` in state `s`. -/
def exec (i : Instr) (s : State) : Host.Outcome State Fault Refusal :=
  match i with
  | .nop h => Sys2Proof.Machine.execNop h s
  | .add h sd sa sb => Sys2Proof.Machine.execAdd h sd sa sb s
  | .sub h sd sa sb => Sys2Proof.Machine.execSub h sd sa sb s
  | .addi h sd sa imm => Sys2Proof.Machine.execAddi h sd sa imm s
  | .mul h sd sa sb => Sys2Proof.Machine.execMul h sd sa sb s
  | .mulh h sd sa sb => Sys2Proof.Machine.execMulh h sd sa sb s
  | .mulhn h sd sa sb => Sys2Proof.Machine.execMulhn h sd sa sb s
  | .divs h sd sa sb => Sys2Proof.Machine.execDivs h sd sa sb s
  | .divn h sd sa sb => Sys2Proof.Machine.execDivn h sd sa sb s
  | .and h sd sa sb => Sys2Proof.Machine.execAnd h sd sa sb s
  | .or h sd sa sb => Sys2Proof.Machine.execOr h sd sa sb s
  | .xor h sd sa sb => Sys2Proof.Machine.execXor h sd sa sb s
  | .andn h sd sa sb => Sys2Proof.Machine.execAndn h sd sa sb s
  | .shl h sd sa sb => Sys2Proof.Machine.execShl h sd sa sb s
  | .shrl h sd sa sb => Sys2Proof.Machine.execShrl h sd sa sb s
  | .shra h sd sa sb => Sys2Proof.Machine.execShra h sd sa sb s
  | .mins h sd sa sb => Sys2Proof.Machine.execMins h sd sa sb s
  | .maxs h sd sa sb => Sys2Proof.Machine.execMaxs h sd sa sb s
  | .minn h sd sa sb => Sys2Proof.Machine.execMinn h sd sa sb s
  | .maxn h sd sa sb => Sys2Proof.Machine.execMaxn h sd sa sb s
  | .sel h sd sa sb qsel => Sys2Proof.Machine.execSel h sd sa sb qsel s
  | .clz h sd sa => Sys2Proof.Machine.execClz h sd sa s
  | .popc h sd sa => Sys2Proof.Machine.execPopc h sd sa s
  | .bfxI h sd sa width lsb => Sys2Proof.Machine.execBfxI h sd sa width lsb s
  | .bfxN h sd sa width lsb => Sys2Proof.Machine.execBfxN h sd sa width lsb s
  | .bfi h sd sa width lsb => Sys2Proof.Machine.execBfi h sd sa width lsb s
  | .movi h sd imm => Sys2Proof.Machine.execMovi h sd imm s
  | .movh h sd imm => Sys2Proof.Machine.execMovh h sd imm s
  | .lea h sd sa sb sc disp => Sys2Proof.Machine.execLea h sd sa sb sc disp s
  | .cmpReg h qd sa sb cond => Sys2Proof.Machine.execCmpReg h qd sa sb cond s
  | .cmpImm h qd sa imm cond => Sys2Proof.Machine.execCmpImm h qd sa imm cond s
  | .qop h qd qa qb qop => Sys2Proof.Machine.execQop h qd qa qb qop s
  | .lds h sd sa wk off => Sys2Proof.Machine.execLds h sd sa wk off s
  | .sts h sa sb wk off => Sys2Proof.Machine.execSts h sa sb wk off s
  | .pbr h j off => Sys2Proof.Machine.execPbr h j off s
  | .brq h j qc => Sys2Proof.Machine.execBrq h j qc s
  | .br h j => Sys2Proof.Machine.execBr h j s
  | .call h j => Sys2Proof.Machine.execCall h j s
  | .ret h j => Sys2Proof.Machine.execRet h j s
  | .loop h j => Sys2Proof.Machine.execLoop h j s
  | .rotz h => Sys2Proof.Machine.execRotz h s
  | .anym h qd mk => Sys2Proof.Machine.execAnym h qd mk s
  | .allm h qd mk => Sys2Proof.Machine.execAllm h qd mk s
  | .osend h qc hd => Sys2Proof.Machine.execOsend h qc hd s
  | .bro h j hd => Sys2Proof.Machine.execBro h j hd s
  | .qcut h hi lo => Sys2Proof.Machine.execQcut h hi lo s
  | .wait h n => Sys2Proof.Machine.execWait h n s
  | .yield h => Sys2Proof.Machine.execYield h s
  | .halt h => Sys2Proof.Machine.execHalt h s
  | .trap h n => Sys2Proof.Machine.execTrap h n s
  | .sysrd h sd reg => Sys2Proof.Machine.execSysrd h sd reg s
  | .syswr h sa reg => Sys2Proof.Machine.execSyswr h sa reg s
  | .syswrHomemap h sa => Sys2Proof.Machine.execSyswrHomemap h sa s
  | .syswrFmtScale h sa n => Sys2Proof.Machine.execSyswrFmtScale h sa n s
  | .syswrFmtBase h sa n => Sys2Proof.Machine.execSyswrFmtBase h sa n s
  | .syswrWaymask h sa n => Sys2Proof.Machine.execSyswrWaymask h sa n s
  | .syswrInccfg h sa n => Sys2Proof.Machine.execSyswrInccfg h sa n s
  | .syswrJpair h sa => Sys2Proof.Machine.execSyswrJpair h sa s
  | .conf h sa reg => Sys2Proof.Machine.execConf h sa reg s
  | .snap h sd reg => Sys2Proof.Machine.execSnap h sd reg s
  | .rdcyc h sd => Sys2Proof.Machine.execRdcyc h sd s
  | .icinv h sa scope => Sys2Proof.Machine.execIcinv h sa scope s
  | .vaddF h v => Sys2Proof.Machine.execVaddF h v s
  | .vaddI h v => Sys2Proof.Machine.execVaddI h v s
  | .vsubF h v => Sys2Proof.Machine.execVsubF h v s
  | .vsubI h v => Sys2Proof.Machine.execVsubI h v s
  | .vmulF h v => Sys2Proof.Machine.execVmulF h v s
  | .vmulI h v => Sys2Proof.Machine.execVmulI h v s
  | .vfma h v => Sys2Proof.Machine.execVfma h v s
  | .vminF h v => Sys2Proof.Machine.execVminF h v s
  | .vminI h v => Sys2Proof.Machine.execVminI h v s
  | .vmaxF h v => Sys2Proof.Machine.execVmaxF h v s
  | .vmaxI h v => Sys2Proof.Machine.execVmaxI h v s
  | .vabs h v => Sys2Proof.Machine.execVabs h v s
  | .vneg h v => Sys2Proof.Machine.execVneg h v s
  | .vcmpF h v => Sys2Proof.Machine.execVcmpF h v s
  | .vcmpI h v => Sys2Proof.Machine.execVcmpI h v s
  | .vsel h v => Sys2Proof.Machine.execVsel h v s
  | .vand h v => Sys2Proof.Machine.execVand h v s
  | .vor h v => Sys2Proof.Machine.execVor h v s
  | .vxor h v => Sys2Proof.Machine.execVxor h v s
  | .vshl h v => Sys2Proof.Machine.execVshl h v s
  | .vshrN h v => Sys2Proof.Machine.execVshrN h v s
  | .vshrI h v => Sys2Proof.Machine.execVshrI h v s
  | .vcvtF h v => Sys2Proof.Machine.execVcvtF h v s
  | .vcvtI h v => Sys2Proof.Machine.execVcvtI h v s
  | .vqntDb8 h v => Sys2Proof.Machine.execVqntDb8 h v s
  | .vqntDb4 h v => Sys2Proof.Machine.execVqntDb4 h v s
  | .vredF h v => Sys2Proof.Machine.execVredF h v s
  | .vredI h v => Sys2Proof.Machine.execVredI h v s
  | .vscanF h v => Sys2Proof.Machine.execVscanF h v s
  | .vscanI h v => Sys2Proof.Machine.execVscanI h v s
  | .vpermT h v => Sys2Proof.Machine.execVpermT h v s
  | .vpermImm h v => Sys2Proof.Machine.execVpermImm h v s
  | .vxrow h v => Sys2Proof.Machine.execVxrow h v s
  | .vbcastS h v => Sys2Proof.Machine.execVbcastS h v s
  | .vbcastRow h v => Sys2Proof.Machine.execVbcastRow h v s
  | .vtopk h v => Sys2Proof.Machine.execVtopk h v s
  | .vrng h v => Sys2Proof.Machine.execVrng h v s
  | .vmovt h v => Sys2Proof.Machine.execVmovt h v s
  | .vlds h td tdv rdn sa offHi men msk offLo => Sys2Proof.Machine.execVlds h td tdv rdn sa offHi men msk offLo s
  | .vsts h ta tav tap sa offHi men msk offLo => Sys2Proof.Machine.execVsts h ta tav tap sa offHi men msk offLo s
  | .vexp h v => Sys2Proof.Machine.execVexp h v s
  | .vlog h v => Sys2Proof.Machine.execVlog h v s
  | .vsin h v => Sys2Proof.Machine.execVsin h v s
  | .vcos h v => Sys2Proof.Machine.execVcos h v s
  | .vtanh h v => Sys2Proof.Machine.execVtanh h v s
  | .vrsq h v => Sys2Proof.Machine.execVrsq h v s
  | .vrcp h v => Sys2Proof.Machine.execVrcp h v s
  | .vsig h v => Sys2Proof.Machine.execVsig h v s
  | .mmaDb8 h ec sx slab prof ts t tv peek => Sys2Proof.Machine.execMmaDb8 h ec sx slab prof ts t tv peek s
  | .mmaDb4 h ec sx slab prof ts t tv peek => Sys2Proof.Machine.execMmaDb4 h ec sx slab prof ts t tv peek s
  | .mmaI8 h ec sx slab prof ts t tv peek => Sys2Proof.Machine.execMmaI8 h ec sx slab prof ts t tv peek s
  | .mma2 h ec sx slab prof ts t tv peek => Sys2Proof.Machine.execMma2 h ec sx slab prof ts t tv peek s
  | .sldDb8 h ec sy slab => Sys2Proof.Machine.execSldDb8 h ec sy slab s
  | .sldDb4 h ec sy slab => Sys2Proof.Machine.execSldDb4 h ec sy slab s
  | .sldI8 h ec sy slab => Sys2Proof.Machine.execSldI8 h ec sy slab s
  | .sldB16 h ec sy slab => Sys2Proof.Machine.execSldB16 h ec sy slab s
  | .sswap h ec slab => Sys2Proof.Machine.execSswap h ec slab s
  | .mrot h ec slab => Sys2Proof.Machine.execMrot h ec slab s
  | .mfixF32 h ec sx slab rdn dst t tv => Sys2Proof.Machine.execMfixF32 h ec sx slab rdn dst t tv s
  | .mfixB16 h ec sx slab rdn dst t tv => Sys2Proof.Machine.execMfixB16 h ec sx slab rdn dst t tv s
  | .mfixI8 h ec sx slab rdn dst t tv => Sys2Proof.Machine.execMfixI8 h ec sx slab rdn dst t tv s
  | .mfixDb8 h ec sx slab rdn dst t tv => Sys2Proof.Machine.execMfixDb8 h ec sx slab rdn dst t tv s
  | .mfixDb4 h ec sx slab rdn dst t tv => Sys2Proof.Machine.execMfixDb4 h ec sx slab rdn dst t tv s
  | .mzero h ec slab => Sys2Proof.Machine.execMzero h ec slab s
  | .cpyLd h ec sx sy sz rd hint => Sys2Proof.Machine.execCpyLd h ec sx sy sz rd hint s
  | .cpySt h ec sx sy sz rd hint => Sys2Proof.Machine.execCpySt h ec sx sy sz rd hint s
  | .gath h ec sx sy sz rd hint rowl => Sys2Proof.Machine.execGath h ec sx sy sz rd hint rowl s
  | .scat h ec sx sy sz rd hint rowl => Sys2Proof.Machine.execScat h ec sx sy sz rd hint rowl s
  | .fillLd h ec sx sy sz rd hint => Sys2Proof.Machine.execFillLd h ec sx sy sz rd hint s
  | .fillSt h ec sx sy sz rd hint => Sys2Proof.Machine.execFillSt h ec sx sy sz rd hint s
  | .clinkLd h sy => Sys2Proof.Machine.execClinkLd h sy s
  | .clinkSt h sy => Sys2Proof.Machine.execClinkSt h sy s
  | .ckick h eng => Sys2Proof.Machine.execCkick h eng s
  | .hconf h sx sy sz kind hd => Sys2Proof.Machine.execHconf h sx sy sz kind hd s
  | .radvp h n hd => Sys2Proof.Machine.execRadvp h n hd s
  | .radvc h n hd => Sys2Proof.Machine.execRadvc h n hd s
  | .rwaitf h n hd => Sys2Proof.Machine.execRwaitf h n hd s
  | .rwaite h n hd => Sys2Proof.Machine.execRwaite h n hd s
  | .tksend h q => Sys2Proof.Machine.execTksend h q s
  | .tkwait h q => Sys2Proof.Machine.execTkwait h q s
  | .gld h a => Sys2Proof.Machine.execGld h a s
  | .gst h a => Sys2Proof.Machine.execGst h a s
  | .aaddN32 h a => Sys2Proof.Machine.execAaddN32 h a s
  | .aaddN64 h a => Sys2Proof.Machine.execAaddN64 h a s
  | .afaddF32 h a => Sys2Proof.Machine.execAfaddF32 h a s
  | .afaddB16 h a => Sys2Proof.Machine.execAfaddB16 h a s
  | .aminI32 h a => Sys2Proof.Machine.execAminI32 h a s
  | .aminI64 h a => Sys2Proof.Machine.execAminI64 h a s
  | .aminN32 h a => Sys2Proof.Machine.execAminN32 h a s
  | .aminN64 h a => Sys2Proof.Machine.execAminN64 h a s
  | .amaxI32 h a => Sys2Proof.Machine.execAmaxI32 h a s
  | .amaxI64 h a => Sys2Proof.Machine.execAmaxI64 h a s
  | .amaxN32 h a => Sys2Proof.Machine.execAmaxN32 h a s
  | .amaxN64 h a => Sys2Proof.Machine.execAmaxN64 h a s
  | .aandN32 h a => Sys2Proof.Machine.execAandN32 h a s
  | .aandN64 h a => Sys2Proof.Machine.execAandN64 h a s
  | .aorN32 h a => Sys2Proof.Machine.execAorN32 h a s
  | .aorN64 h a => Sys2Proof.Machine.execAorN64 h a s
  | .axorN32 h a => Sys2Proof.Machine.execAxorN32 h a s
  | .axorN64 h a => Sys2Proof.Machine.execAxorN64 h a s
  | .axchgN32 h a => Sys2Proof.Machine.execAxchgN32 h a s
  | .axchgN64 h a => Sys2Proof.Machine.execAxchgN64 h a s
  | .axchgN128 h a => Sys2Proof.Machine.execAxchgN128 h a s
  | .acasN32 h a => Sys2Proof.Machine.execAcasN32 h a s
  | .acasN64 h a => Sys2Proof.Machine.execAcasN64 h a s
  | .acasN128 h a => Sys2Proof.Machine.execAcasN128 h a s
  | .aprom h a => Sys2Proof.Machine.execAprom h a s
  | .fence h a => Sys2Proof.Machine.execFence h a s
  | .pf h a => Sys2Proof.Machine.execPf h a s
  | .linv h a => Sys2Proof.Machine.execLinv h a s
  | .lwb h a => Sys2Proof.Machine.execLwb h a s
  | .dvred h a => Sys2Proof.Machine.execDvred h a s
  | .tspawn h a => Sys2Proof.Machine.execTspawn h a s
  | .tstageReg h a => Sys2Proof.Machine.execTstageReg h a s
  | .tstageImm h a => Sys2Proof.Machine.execTstageImm h a s
  | .tend h => Sys2Proof.Machine.execTend h s
  | .tjoin h a => Sys2Proof.Machine.execTjoin h a s
  | .joinReg h a => Sys2Proof.Machine.execJoinReg h a s
  | .joinImm h a => Sys2Proof.Machine.execJoinImm h a s
  | .leaveReg h a => Sys2Proof.Machine.execLeaveReg h a s
  | .leaveImm h a => Sys2Proof.Machine.execLeaveImm h a s
  | .bargReg h a => Sys2Proof.Machine.execBargReg h a s
  | .bargImm h a => Sys2Proof.Machine.execBargImm h a s
  | .gcountReg h a => Sys2Proof.Machine.execGcountReg h a s
  | .gcountImm h a => Sys2Proof.Machine.execGcountImm h a s
  | .imprv h a => Sys2Proof.Machine.execImprv h a s
  | .iread h a => Sys2Proof.Machine.execIread h a s
  | .kchk h a => Sys2Proof.Machine.execKchk h a s
  | .jrec h a => Sys2Proof.Machine.execJrec h a s
  | .jwait h a => Sys2Proof.Machine.execJwait h a s
  | .emitN32 h a => Sys2Proof.Machine.execEmitN32 h a s
  | .emitN64 h a => Sys2Proof.Machine.execEmitN64 h a s
  | .jtrunc h a => Sys2Proof.Machine.execJtrunc h a s
  | .jreseat h a => Sys2Proof.Machine.execJreseat h a s
  | .seg h count sig => Sys2Proof.Machine.execSeg h count sig s
  | .segend h => Sys2Proof.Machine.execSegend h s
  | .unassignedOpcode w => Sys2Proof.Machine.execUnassignedOpcode w s
  | .syswrRetire => Sys2Proof.Machine.execSyswrRetire s
  | .icinvComplete => Sys2Proof.Machine.execIcinvComplete s
  | .xtEntryStart => Sys2Proof.Machine.execXtEntryStart s
  | .xtEntryPublish => Sys2Proof.Machine.execXtEntryPublish s
  | .tileLanding => Sys2Proof.Machine.execTileLanding s
  | .latentWriteLanding => Sys2Proof.Machine.execLatentWriteLanding s
  | .matrixCommandStart => Sys2Proof.Machine.execMatrixCommandStart s
  | .matrixCommandRetire => Sys2Proof.Machine.execMatrixCommandRetire s
  | .engineUncorrectableError => Sys2Proof.Machine.execEngineUncorrectableError s
  | .copyCommandStart => Sys2Proof.Machine.execCopyCommandStart s
  | .copyCommandRetire => Sys2Proof.Machine.execCopyCommandRetire s
  | .chainEntryFetch => Sys2Proof.Machine.execChainEntryFetch s
  | .chainWaitSatisfied => Sys2Proof.Machine.execChainWaitSatisfied s
  | .chainEntryRetire => Sys2Proof.Machine.execChainEntryRetire s
  | .tokenMarkerStart => Sys2Proof.Machine.execTokenMarkerStart s
  | .aqOperationPerform => Sys2Proof.Machine.execAqOperationPerform s
  | .releaseMarkerPerform => Sys2Proof.Machine.execReleaseMarkerPerform s
  | .developerBlockStart => Sys2Proof.Machine.execDeveloperBlockStart s
  | .developerFlagStore => Sys2Proof.Machine.execDeveloperFlagStore s
  | .itemEnd => Sys2Proof.Machine.execItemEnd s
  | .barrierComplete => Sys2Proof.Machine.execBarrierComplete s
  | .itemTake => Sys2Proof.Machine.execItemTake s
  | .itemStart => Sys2Proof.Machine.execItemStart s
  | .shadowUpdate => Sys2Proof.Machine.execShadowUpdate s
  | .reseatTailSent => Sys2Proof.Machine.execReseatTailSent s
  | .journalEntryReceive => Sys2Proof.Machine.execJournalEntryReceive s
  | .journalAckReceive => Sys2Proof.Machine.execJournalAckReceive s
  | .journalSilent => Sys2Proof.Machine.execJournalSilent s
  | .probeSend => Sys2Proof.Machine.execProbeSend s
  | .probeForward => Sys2Proof.Machine.execProbeForward s
  | .bankDrowsy => Sys2Proof.Machine.execBankDrowsy s
  | .bankGated => Sys2Proof.Machine.execBankGated s
  | .bankRefresh => Sys2Proof.Machine.execBankRefresh s
  | .bankWakeDone => Sys2Proof.Machine.execBankWakeDone s
  | .faultDelivery => Sys2Proof.Machine.execFaultDelivery s
  | .faultRingRetry => Sys2Proof.Machine.execFaultRingRetry s
  | .coreContextFault => Sys2Proof.Machine.execCoreContextFault s
  | .resumeStream => Sys2Proof.Machine.execResumeStream s
  | .abandonStream => Sys2Proof.Machine.execAbandonStream s
  | .haltStream => Sys2Proof.Machine.execHaltStream s
  | .pctlSave => Sys2Proof.Machine.execPctlSave s
  | .contextStop => Sys2Proof.Machine.execContextStop s
  | .saveComplete => Sys2Proof.Machine.execSaveComplete s
  | .pctlResume => Sys2Proof.Machine.execPctlResume s
  | .pctlRestore => Sys2Proof.Machine.execPctlRestore s
  | .resetPartition => Sys2Proof.Machine.execResetPartition s
  | .resetEngine => Sys2Proof.Machine.execResetEngine s
  | .resetLink => Sys2Proof.Machine.execResetLink s
  | .resetChannel => Sys2Proof.Machine.execResetChannel s
  | .resetComplete => Sys2Proof.Machine.execResetComplete s
  | .sourceLasting => Sys2Proof.Machine.execSourceLasting s
  | .laneRepairPause => Sys2Proof.Machine.execLaneRepairPause s
  | .laneRepairDone => Sys2Proof.Machine.execLaneRepairDone s
  | .dieHeartbeatLoss => Sys2Proof.Machine.execDieHeartbeatLoss s
  | .junctionOvertemp => Sys2Proof.Machine.execJunctionOvertemp s
  | .mailboxGo => Sys2Proof.Machine.execMailboxGo s
  | .launchLoad => Sys2Proof.Machine.execLaunchLoad s
  | .streamsStart => Sys2Proof.Machine.execStreamsStart s
  | .launchEnd => Sys2Proof.Machine.execLaunchEnd s
  | .deviceReset => Sys2Proof.Machine.execDeviceReset s
  | .bootPhaseComplete => Sys2Proof.Machine.execBootPhaseComplete s
  | .hostMemoryRead => Sys2Proof.Machine.execHostMemoryRead s
  | .hostMemoryWrite => Sys2Proof.Machine.execHostMemoryWrite s
  | .hostRegisterWrite => Sys2Proof.Machine.execHostRegisterWrite s
  | .ctxrootWrite => Sys2Proof.Machine.execCtxrootWrite s
  | .tuInvGo => Sys2Proof.Machine.execTuInvGo s
  | .tuInvDone => Sys2Proof.Machine.execTuInvDone s
  | .negwinWrite => Sys2Proof.Machine.execNegwinWrite s
  | .jrouteWrite => Sys2Proof.Machine.execJrouteWrite s
  | .hnqReadIndexWrite => Sys2Proof.Machine.execHnqReadIndexWrite s
  | .attnGo => Sys2Proof.Machine.execAttnGo s
  | .ksOpen => Sys2Proof.Machine.execKsOpen s
  | .ksAgree => Sys2Proof.Machine.execKsAgree s
  | .ksInstall => Sys2Proof.Machine.execKsInstall s
  | .ksClose => Sys2Proof.Machine.execKsClose s
  | .cringEnable => Sys2Proof.Machine.execCringEnable s
  | .ringVisit => Sys2Proof.Machine.execRingVisit s
  | .workRequestFinish => Sys2Proof.Machine.execWorkRequestFinish s
  | .switchHop => Sys2Proof.Machine.execSwitchHop s
  | .redTimeout => Sys2Proof.Machine.execRedTimeout s
  | .apertureDelivery => Sys2Proof.Machine.execApertureDelivery s
  | .pullReply => Sys2Proof.Machine.execPullReply s
  | .pullReplyReceive => Sys2Proof.Machine.execPullReplyReceive s
  | .remoteAccessRequest => Sys2Proof.Machine.execRemoteAccessRequest s
  | .flitReceive => Sys2Proof.Machine.execFlitReceive s
  | .linkDown => Sys2Proof.Machine.execLinkDown s
  | .restoreComplete => Sys2Proof.Machine.execRestoreComplete s
  | .hbmScrub => Sys2Proof.Machine.execHbmScrub s
  | .packetStatusReturn => Sys2Proof.Machine.execPacketStatusReturn s
  | .attnReportComplete => Sys2Proof.Machine.execAttnReportComplete s
  | .keySessionCommandDone => Sys2Proof.Machine.execKeySessionCommandDone s

end Sys2Proof.Machine
end

