-- ==== Sys2Proof/Machine/Group.lean ====
section
/-! DEFINITION. Machine/Group.lean: a stream attempts its next issue group (R49 to R51, R170, R249, R378, R388). Every word is
first evaluated by itself on the state before the group; a fault, and otherwise a wait, decides the group. A group that
issues advances the program counter and then takes the effect of each word, the class-C word last. -/
namespace Sys2Proof.Machine

/-- The gate of WAIT, YIELD, fetch stalls and retirements is open in cycle `now` (R250, R259, R262). A yielding stream sees a group of this very
cycle only of a stream that the cycle attempts before it, those of lower numbers: R262 does not say (DESIGN CHOICE, entry 54). -/
def State.gateOpen (s : State) (g : Nat) : Bool :=
  let t := s.stream g
  decide (t.gate.cycle ≤ s.cycle) && t.gate.retire == 0 && !t.gate.ynew
    && (decide (t.gate.ycyc + 4 ≤ s.cycle)
        || t.gate.yield.all (fun i => decide (t.gate.ycyc < (s.stream (g / 4 * 4 + i)).issuedAt)))

/-- The stream after its group of `n` words at the program counter has issued: the next address, the delay groups counted,
a transfer made, J0 and the return slot of a CALL written (R249, R250, R252). The cycle f of the return slot is that in which the second delay
group issues: R250 names the issue cycle of the CALL and R252 this one (DESIGN CHOICE, entry 54). -/
def Stream.advance (t : Stream) (now n : Nat) : Stream :=
  let seq := t.pc + BitVec.ofNat 64 (8 * n)
  let t := { t with status := .running, rowHeld := false, issuedAt := now }
  if t.xfer.left = 0 then { t with pc := seq }
  else if t.xfer.left = 1 then
    let c := if t.xfer.call then { t with j := t.j.put 0 (codeAddr seq), ret := some (codeAddr seq, now) } else t
    match t.xfer.target with
    | some a => { c with pc := a, xfer := {}, gate := { c.gate with cycle := max c.gate.cycle t.xfer.ready } }
    | none => { c with pc := seq, xfer := {} }
  else { t with pc := seq, xfer := { t.xfer with left := t.xfer.left - 1 } }

/-- A word of a group that has decoded. -/
abbrev Member := Word × Instr

/-- The members in the order in which they take effect: the class-C word last. -/
def effectOrder (ws : List GWord) : List Member :=
  let get (w : GWord) : Option Member := match w.read with | .ok i => some (w.addr, i) | .error _ => none
  let isC (w : GWord) : Bool := classOf (w.bits.extractLsb' 56 8).toNat == .c
  (ws.filter (fun w => !isC w)).filterMap get ++ (ws.filter isC).filterMap get

/-- The members in address order. -/
def addressOrder (ws : List GWord) : List Member :=
  ws.filterMap (fun w => match w.read with | .ok i => some (w.addr, i) | .error _ => none)

/-- One member evaluated. -/
def State.member (s : State) (m : Member) : Host.Outcome State Fault Refusal := exec m.2 { s with word := m.1 }

/-- The members evaluated one after the other, to the first that does not issue. -/
def State.members (s : State) : List Member → Host.Outcome State Fault Refusal
  | [] => .next s
  | m :: r =>
    match s.member m with
    | .next t => if t.verdict = .issued then t.members r else .next t
    | .fault f => .fault f
    | .refused f => .refused f

/-- What the members of a group have come to so far: the first that faults, the first that faults in VERSION, and the first that waits. -/
structure Tally where
  bad  : Option State := none
  ver  : Option State := none
  held : Option State := none

/-- The stream of `t` has parked in a VERSION fault. -/
def State.inVersion (t : State) : Bool := match t.me.parkedBy with | some r => r.code == .version | none => false

/-- What a tally decides. A group that waits does not issue in this cycle, and of its faults only VERSION is raised before its issue cycle
(R165, R170); in its issue cycle the lowest-addressed word that faults decides (R372). -/
def Tally.outcome (a : Tally) : Option State :=
  match a.held with
  | some h => some (a.ver.getD h)
  | none => a.bad

/-- What the members come to, each by itself on the state before the group: none where all may issue. The row moves in a wait only if every
waiting member lets it (R200). -/
def State.verdicts (s : State) : List Member → Tally → Option (Host.Outcome State Fault Refusal)
  | [], a => a.outcome.map .next
  | m :: r, a =>
    match s.member m with
    | .next t =>
      match t.verdict with
      | .faulted => s.verdicts r { a with bad := a.bad <|> some t, ver := a.ver <|> (if t.inVersion then some t else none) }
      | .held =>
        let h := match a.held with
          | none => t
          | some u => if (t.stream s.cur).rowHeld then u.modStream s.cur (fun x => { x with rowHeld := true }) else u
        s.verdicts r { a with held := some h }
      | _ => s.verdicts r a
    | o => some o

/-- A group whose members pass by themselves and of which one meets a fault behind another's commitment (R168): the fault is taken with no
effect of the group. -/
def State.takeBack (u v : State) : State :=
  match v.me.pend with
  | some r =>
    let park (t : Stream) : Stream :=
      { t with status := .parked, parkedIn := .running, pend := some { r with pc := t.pc }, parkedBy := some { r with pc := t.pc } }
    { (u.modLaunchOf (u.cur / 4) (fun l => { l with records := l.records + 1 })).modMe park with verdict := .faulted }
  | none => u.holdMe false

/-- The registers of the other streams that take CCTL in this very cycle get the value that a SYSWR of CCTL leaves (R163). -/
def State.shareCctl (s : State) : State :=
  let v : Row := s.myCore.cctl.setWidth 512
  let fix (t : Stream) : Stream :=
    match t.cctlRd with
    | some (r, c) =>
      if c = s.cycle then { t with latents := t.latents.map (fun l => if l.reg = r ∧ l.issued = c then { l with val := some v } else l) } else t
    | none => t
  s.modMyCore (fun k => { k with streams := k.streams.map (fun i t => if i = s.cur % 4 then t else fix t) })

/-- The effect of an issued member on readers of CCTL in its cycle. `t` is its stream before the group. -/
def State.cctlMember (s : State) (t : Stream) (m : Member) : State :=
  match m.2 with
  | .sysrd h sd reg => if reg = 2 ∧ t.executes h then s.modMe (fun x => { x with cctlRd := some (t.sp sd, s.cycle) }) else s
  | .syswr h _ reg => if reg = 2 ∧ t.executes h then s.shareCctl else s
  | _ => s

/-- What the step adds when a group of the members `ms` has issued: `began` is the state in which the first of them took effect, `t` its stream
before the group. The readers of CCTL see a SYSWR of it (R163), a QCUT spares what starts in its cycle (R258), and no WAIT opens the gate before
a transfer's bound (R250). -/
def State.afterGroup (v began : State) (t : Stream) (ms : List Member) : State :=
  (ms.foldl (fun (v : State) m => v.cctlMember t m) v).modMe (fun x => x.stamped v.cycle began.me)

/-- Core `c` runs: its launch is in RUN and its context is not stopped. -/
def State.runs (s : State) (c : Nat) : Bool := (s.core c).launch.isSome && (s.launchOf c).running && !(s.core c).stopped

/-- Stream `g` attempts its next group, the banks of other streams' groups aside. A kill determined at the boundary takes effect whatever the
group would wait for (R343, R378); a stream that stands at TEND issues nothing, and its queued commands are cancelled. -/
def State.tryIssue (s : State) (g : Nat) : Host.Outcome State Fault Refusal :=
  let t := s.stream g
  if s.runs (g / 4) ∧ t.status = .atTend ∧ t.task.killed = true then .next (s.modStream g (fun t => t.cutTags 0 63 s.cycle))
  else if !s.runs (g / 4) || decide (t.status ≠ .running ∧ t.status ≠ .held) then .next s
  else
    let s := { s with cur := g, verdict := .none }
    if t.task.killed then .next (s.beginEnd g)
    else if !s.gateOpen g then .next (s.holdMe false)
    else
      match s.gather g 4 t.pc [] with
      | .bad f u => .next (({ u with word := f.word }).faultMe f)
      | .words ws u =>
        match illegalIn (1 < ws.length) (0 < t.xfer.left) ws [] [] with
        | some a => .next (({ u with word := a }).faultMe { code := .illegal, word := a })
        | none =>
          match u.verdicts (addressOrder ws) {} with
          | some o => o
          | none =>
            let flags := ws.map (fun w => t.executes (hdr w.bits))
            let began := u.modMe (fun x => x.advance u.cycle ws.length)
            match began.members (effectOrder ws) with
            | .next v =>
              if v.verdict = .faulted then .next (u.takeBack v)
              else if v.verdict ≠ .issued then .next (u.holdMe false)
              else
                .next ((v.afterGroup began t (addressOrder ws)).countGroup t.seg (ws.map (·.bits)) flags (ws.any (fun w =>
                  match w.read with | .ok i => transferClass i | .error _ => false)))
            | o => o

/-! ## Streams that contend for a scratchpad bank (R131) -/

/-- The bank cycles that stream `g` has reserved in the present cycle. -/
def State.reservedBy (s : State) (g : Nat) : List (Nat × Nat) :=
  ((s.core (g / 4)).spRes.filter (fun r => r.gsid == g && r.made == s.cycle)).map (fun r => (r.bank, r.cycle))

/-- The streams of core `c` that come before stream `i` in this cycle's bank priority, highest first: the priority starts with stream 0 in the first
cycle of the launch and rotates by one stream every cycle. -/
def State.bankFirst (s : State) (c i : Nat) : List Nat :=
  let turn := (s.cycle - (s.launchOf c).began) % 4
  ([0, 1, 2, 3].map (fun j => (turn + j) % 4)).takeWhile (· != i)

/-- The bank cycles that the streams of `js` of core `c`, highest first, win in this cycle with the groups that they attempt after this one. -/
def State.bankWins (s : State) (c : Nat) (js : List Nat) : List (Nat × Nat) :=
  js.foldl (fun taken j =>
    match s.tryIssue (4 * c + j) with
    | .next u =>
      let m := u.reservedBy (4 * c + j)
      if m.any taken.contains then taken else taken ++ m
    | _ => taken) []

/-- The bank cycles that the words of stream `g`'s next group would reserve, each by itself, whatever its landing windows say. -/
def State.groupBanks (s : State) (g : Nat) : List (Nat × Nat) :=
  let s := ({ s with cur := g, verdict := .none } : State).modMe (fun t => { t with expchk := false })
  match s.gather g 4 s.me.pc [] with
  | .bad .. => []
  | .words ws u => (addressOrder ws).flatMap (fun m =>
      match u.member m with
      | .next t => if t.verdict = .issued then t.reservedBy g else []
      | _ => [])

/-- Stream `g` has met a fault that is raised only in the issue cycle of its group (R165, R170). -/
def State.lateFault (v : State) (g : Nat) : Bool :=
  v.verdict == .faulted && (match (v.stream g).parkedBy with | some r => r.code != .version && r.code != .illegal | none => false)

/-- The group of stream `g`, whose attempt from `s` leaves `v`, needs a bank cycle that a stream before it in priority takes in this cycle. -/
def State.losesBank (s v : State) (g : Nat) : Bool :=
  let mine := if v.verdict = .issued then v.reservedBy g else if v.lateFault g then s.groupBanks g else []
  !mine.isEmpty && mine.any (s.bankWins (g / 4) ((s.bankFirst (g / 4) (g % 4)).filter (fun j => decide (g % 4 < j)))).contains

/-- Stream `g` attempts its next group. One that loses a bank in this cycle waits (R131), and takes no fault of an issue cycle. -/
def State.attempt (s : State) (g : Nat) : Host.Outcome State Fault Refusal :=
  match s.tryIssue g with
  | .next v =>
    if s.losesBank v g = true then .next (({ s with cur := g, verdict := .none } : State).holdMe false) else .next v
  | o => o

end Sys2Proof.Machine
end

