-- ==== Sys2Proof/Machine/Place.lean ====
section
/-! DEFINITION. Machine/Place.lean: an instruction word placed where stream 0 of logical core 0 fetches next, in a launch
that runs: what a launch (R305 to R312) would have brought about from outside, for one group (entry 6). -/
namespace Sys2Proof.Machine

/-- A word that ends its group and has no effect, of a slot class other than `w`'s: NOP, or for a class-C word a KCHK of a
stream that runs no item (R262, R345). -/
def filler (w : Word) : Word :=
  if classOf (w.extractLsb' 56 8).toNat = .c then 0xCF80000000000000#64 else 0x0080000000000000#64

/-- A row that holds `w` at byte `o` and, where `w` does not end its group, the filler after it. -/
def wordRow (w : Word) (o : Nat) : Row :=
  (w.setWidth 512 <<< (8 * o)) ||| (if w.getLsbD 55 then 0 else (filler w).setWidth 512 <<< (8 * (o + 8)))

/-- Context `ctx` has a valid root and a home map that gives the window of `pc` a die, as a fetch from there needs (R40, R76). -/
def State.reachable (s : State) (ctx : Nat) (pc : Word) : State :=
  let n := pc.toNat / 2 ^ 36 % 4096
  { s with ctxroots := s.ctxroots.mod 0 ctx (· ||| 0x8000000000000000#64), homemaps := s.homemaps.mod 0 ctx (· ||| 1#64),
           hmArrays := s.hmArrays.mod .empty ctx (fun t => t.mod 0 n (· ||| 0x80#8)) }

/-- Stream 0 of core 0 runs in a launch of context 0, which reaches its code, and the I-cache line that its next fetch hits holds `w`; the next move
is its issue. The word stands at the stream's own program counter, which is brought to a line's start. -/
def State.placeWord (s : State) (w : Word) : State :=
  let pc := (s.stream 0).pc &&& 0x0000FFFFFFFFFFC0#64
  let ctx := s.ctxOf 0
  let l : ILine := { ctx := ctx, va := pc.toNat / 64, data := wordRow w 0, poison := false, pin := false }
  let u := { s with launches := s.launches.mod {} ((s.core 0).launch.getD 0) (fun l => { l with running := true }) }
  let u := u.modCore 0 (fun k => { k with
    launch := some (k.launch.getD 0), mbState := 3, stopped := false, icache := ⟨k.icache.entries.filter (fun e => e.2.va != l.va)⟩ })
  let u := u.modCore 0 (fun k => { k with icache := k.icache.put (iSet pc.toNat) l })
  let u := u.modStream 0 (fun t => { t with status := .running, started := true, pc := pc, xfer := {}, gate := {}, task := { t.task with killed := false } })
  { u.reachable ctx pc with agenda := [.issue 0] }

end Sys2Proof.Machine
end

