-- ==== Sys2Proof/Machine/Step.lean ====
section
/-! DEFINITION. Machine/Step.lean: one step of the machine: one move of the agenda, which the step fills with the moves of
the next cycle when it is empty. -/
namespace Sys2Proof.Machine

/-- One move made. -/
def State.move (s : State) : Move → Host.Outcome State Fault Refusal
  | .issue g => s.attempt g
  | .event site i => exec i { s with site := site }
  | .rows => .next s.advance
  | .tick => .next s.tick

/-- One step. A device that has failed does nothing until it is reset (R418). -/
def step (s : State) : Host.Outcome State Fault Refusal :=
  match s.agenda with
  | [] => if s.dead then .fault .deviceFailed else .next s.refill
  | m :: r => { s with agenda := r }.move m

/-- The state with the instruction whose bits are `w` placed where the next step fetches: see `State.placeWord`. -/
def State.withFetchWord (s : State) (nbits w : Nat) : State := s.placeWord (BitVec.ofNat 64 (w % 2 ^ nbits))

end Sys2Proof.Machine
end

