-- ==== Sys2Proof/Safety.lean ====
section
/-! DEFINITION. Safety.lean: the terms in which the statements speak: what it is for an instruction to issue, what a stream must meet
for it, what an instruction may change, and the invariant of State. -/
namespace Sys2Proof.Machine

/-! ## The invariant -/

/-- Device memory and the host memory that the device writes keep their canonical form. -/
def State.memOk (s : State) : Prop := Memory.wf s.mem = true ∧ Memory.wf s.host.mem = true

/-! ## Issuing -/

/-- `i` issues in state `s` with effect `t`. -/
def Issues (i : Instr) (s t : State) : Prop := exec i s = .next { t with verdict := .issued }

/-- `i` takes fault `f` at issue, with no other effect. -/
def Faults (i : Instr) (s : State) (f : FaultInfo) : Prop := exec i s = .next (s.faultMe f)

/-- No landing window closes a read of `rs` or a write of `ws` (register and latency): a latent write of an earlier group to a register
that is read has landed by this cycle, and one to a register that is written lands no later than the new write (R165). -/
def State.windowsOpen (s : State) (rs : List PReg) (ws : List (PReg × Nat)) : Prop :=
  ∀ l ∈ s.me.latents, l.issued < s.cycle →
    (l.reg ∈ rs → l.due ≤ s.cycle) ∧ (∀ w ∈ ws, w.1 = l.reg → l.due ≤ s.cycle + w.2)

/-- The issuing stream executes a word with header `h`, and with EXPCHK set no landing window stands in the way of its predicate, its
sources `rs` and its destinations `ws`. -/
def State.ready (s : State) (h : Hdr) (rs : List PReg) (ws : List (PReg × Nat)) : Prop :=
  s.me.executes h = true ∧ (s.me.expchk = true → s.windowsOpen (s.me.qp h.qs :: rs) ws)

/-- The predicate of a word with header `h` holds it off, and with EXPCHK set its own window is open. -/
def State.off (s : State) (h : Hdr) : Prop :=
  s.me.executes h = false ∧ (s.me.expchk = true → s.windowsOpen [s.me.qp h.qs] [])

/-- A word that ignores its predicate may issue as far as landing windows go. -/
def State.heedless (s : State) (h : Hdr) (rs : List PReg) : Prop :=
  s.me.expchk = true → s.windowsOpen (s.me.qp h.qs :: rs) []

/-- `i`, executing with sources `rs`, issues and writes `v` to Sd after latency `lat`. -/
def WritesS (i : Instr) (h : Hdr) (rs : List (BitVec 5)) (sd : BitVec 5) (lat : Nat) (v : State → Word) : Prop :=
  ∀ s : State, s.ready h (rs.map s.me.sp) [(s.me.sp sd, lat)] → Issues i s (s.latch (s.me.sp sd) lat ((v s).setWidth 512))

/-- `i`, executing with sources `rs`, issues and writes `v` to Qd after latency 1. -/
def WritesQ (i : Instr) (h : Hdr) (rs : State → List PReg) (qd : BitVec 3) (v : State → Bool) : Prop :=
  ∀ s : State, s.ready h (rs s) [(s.me.qp qd, 1)] → Issues i s (s.latch (s.me.qp qd) 1 (if v s then 1 else 0))

/-- `i`, executing with sources `rs`, issues and does `f`. -/
def Does (i : Instr) (h : Hdr) (rs : State → List PReg) (pre : State → Prop) (f : State → State) : Prop :=
  ∀ s : State, s.ready h (rs s) [] → pre s → Issues i s (f s)

/-- The values of the conditions of R58, in the order of COND. -/
def conditions (a b : Word) : List Bool :=
  [decide (a = b), decide (a ≠ b), decide (a.toInt < b.toInt), decide (b.toInt ≤ a.toInt), decide (a.toInt ≤ b.toInt),
   decide (b.toInt < a.toInt), decide (a.toNat < b.toNat), decide (b.toNat ≤ a.toNat), decide (a.toNat ≤ b.toNat),
   decide (b.toNat < a.toNat)]

/-- Bytes of an access under a WK value (R72). -/
def widthOf (wk : BitVec 4) : Nat := [1, 2, 4, 8, 1, 2, 4].getD wk.toNat 8

/-! ## Queues -/

/-- `i` enters queue `q` of its stream as its newest entry `e`, with the values of three S registers and whether it is skipped work. Nothing else
changes: of the stream, only the count of entries and, where the form ends one, the region; of its core, only the count of the issue order; no other
stream, no other core, no memory, and nothing of the device. -/
def Enters (i : Instr) (s : State) (q : Nat) (x y z : Word) (skip : Bool) : Prop :=
  ∃ t e, exec i s = .next t ∧ t.verdict = .issued ∧ t.me.queue q = s.me.queue q ++ [e]
    ∧ e.instr = i ∧ e.va = s.word ∧ e.x = x ∧ e.y = y ∧ e.z = z ∧ e.skip = skip ∧ e.started = false ∧ e.done = false
    ∧ e.cancel = false ∧ e.fault = none ∧ e.number = s.me.counts.count q + 1 ∧ e.entered = s.cycle
    ∧ (∀ p < 4, p ≠ q → t.me.queue p = s.me.queue p)
    ∧ t.me = { s.me with ldq := t.me.ldq, mxq := t.me.mxq, stq := t.me.stq, aq := t.me.aq, counts := t.me.counts, region := t.me.region }
    ∧ (∀ g, g ≠ s.cur → t.stream g = s.stream g) ∧ (∀ c, c ≠ s.cur / 4 → t.core c = s.core c)
    ∧ { t.myCore with streams := .empty, orders := 0 } = { s.myCore with streams := .empty, orders := 0 }
    ∧ { t with cores := .empty, verdict := .none } = { s with cores := .empty, verdict := .none }

/-! ## What an instruction may change -/

/-- From `s` to `t` only the latent writes of the issuing stream, and the verdict, differ. -/
def OnlyLatents (s t : State) : Prop :=
  ∃ ls, t = { s.modMe (fun x => { x with latents := ls }) with verdict := t.verdict }

/-- From `s` to `t` nothing differs but the issuing stream, and the verdict. -/
def OnlyMe (s t : State) : Prop :=
  (∀ g, g ≠ s.cur → t.stream g = s.stream g) ∧ (∀ c, c ≠ s.cur / 4 → t.core c = s.core c)
    ∧ { t.myCore with streams := .empty } = { s.myCore with streams := .empty }
    ∧ { t with cores := .empty, verdict := .none } = { s with cores := .empty, verdict := .none }

/-- `i` issues in state `s`, leaves the issuing stream as `x`, and changes nothing else. -/
def Leaves (i : Instr) (s : State) (x : Stream) : Prop :=
  ∃ t, exec i s = .next t ∧ t.verdict = .issued ∧ t.me = x ∧ OnlyMe s t

/-- Core `k'` holds the low `n` bytes of `v`, little-endian, from scratchpad byte `a`, and every other scratchpad byte as `k` does. -/
def PutsSp (k k' : Core) (a n v : Nat) : Prop :=
  (∀ i < n, k'.spGet (a + i) 1 = v / 256 ^ i % 256) ∧ ∀ b, b < a ∨ a + n ≤ b → k'.spGet b 1 = k.spGet b 1

/-- Memory `m'` holds the low `n` bytes of `v`, little-endian, from byte `a`, and every other byte as `m` does. -/
def PutsMem (m m' : List Host.Cell) (a n v : Nat) : Prop :=
  Memory.getNat m' a n = v % 2 ^ (8 * n) ∧ ∀ b, b < a ∨ a + n ≤ b → Memory.get m' b = Memory.get m b

/-- Every byte of memory reads as before, and so do every line's poison bit, side field and tag. -/
def SameMemory (s t : State) : Prop :=
  (∀ a, Memory.get t.mem a = Memory.get s.mem a) ∧ (∀ a, t.poisoned a = s.poisoned a) ∧ t.sides = s.sides

/-- The header of a word that, predicated off, has no effect whatever (R47, R202, R247, R257 to R262, R284). -/
def plainForm : Instr → Option Hdr
  | .nop h | .rotz h | .yield h | .halt h | .tend h | .segend h => some h
  | .add h _ _ _ | .sub h _ _ _ | .mul h _ _ _ | .mulh h _ _ _ | .mulhn h _ _ _ | .divs h _ _ _ | .divn h _ _ _ | .and h _ _ _
  | .or h _ _ _ | .xor h _ _ _ | .andn h _ _ _ | .shl h _ _ _ | .shrl h _ _ _ | .shra h _ _ _ | .mins h _ _ _ | .maxs h _ _ _
  | .minn h _ _ _ | .maxn h _ _ _ => some h
  | .addi h _ _ _ | .movi h _ _ | .movh h _ _ | .lea h _ _ _ _ _ | .sel h _ _ _ _ | .clz h _ _ | .popc h _ _ | .bfxI h _ _ _ _
  | .bfxN h _ _ _ _ | .bfi h _ _ _ _ | .cmpReg h _ _ _ _ | .cmpImm h _ _ _ _ | .qop h _ _ _ _ | .anym h _ _ | .allm h _ _ => some h
  | .lds h _ _ _ _ | .sts h _ _ _ _ | .pbr h _ _ | .qcut h _ _ | .wait h _ | .trap h _ | .seg h _ _ | .icinv h _ _ => some h
  | .sysrd h _ _ | .syswr h _ _ | .syswrHomemap h _ | .syswrFmtScale h _ _ | .syswrFmtBase h _ _ | .syswrWaymask h _ _
  | .syswrInccfg h _ _ | .syswrJpair h _ | .conf h _ _ | .snap h _ _ | .rdcyc h _ => some h
  | .hconf h _ _ _ _ _ | .rwaitf h _ _ | .rwaite h _ _ | .clinkLd h _ | .clinkSt h _ | .ckick h _ | .pf h _ | .kchk h _
  | .jreseat h _ => some h
  | _ => none

/-! ## Tile operands -/

/-- Every operand of a vector form is there: the version checks of its destination and sources pass, no source row is poisoned, the banks of
the sources are awake, and no race is charged to the stream (R168 to R174, R202, R276). -/
def State.operandsReady (s : State) (dst : Option TDst) (srcs : List TSrc) : Prop :=
  (s.myCore.checkAll s.cycle dst srcs).1 = .pass ∧ s.myCore.poisonRow srcs = none ∧ s.me.charge = none
    ∧ ∀ o ∈ srcs, (s.myCore.bank (o.t % 16)).power = .awake ∧ (s.myCore.bank (o.t % 16)).wake ≤ s.cycle

/-- From `s` to `t` the issuing stream's registers, every other stream, scratchpad, memory and the payload and version count of every tile
register stay. -/
def KeepsRegisters (s t : State) : Prop :=
  t.me.s = s.me.s ∧ t.me.q = s.me.q ∧ t.me.m = s.me.m ∧ t.me.j = s.me.j ∧ t.me.pc = s.me.pc ∧ t.myCore.sp = s.myCore.sp ∧ t.mem = s.mem
    ∧ (∀ g, g ≠ s.cur → t.stream g = s.stream g)
    ∧ ∀ r, (t.myCore.tile r).row = (s.myCore.tile r).row ∧ (t.myCore.tile r).wcnt = (s.myCore.tile r).wcnt
        ∧ (t.myCore.tile r).rdrem = (s.myCore.tile r).rdrem

/-- The claims that the sources of a form consume at the end of cycle `due`. -/
def State.claimsOf (s : State) (srcs : List TSrc) (due : Nat) : List Claim :=
  (srcs.filter s.myCore.hasClaim).map (fun o => ⟨o.t, s.cur, due⟩)

/-- The vector forms that count core cycles when they are not rail-bound and write a tile register, each with the cycles from issue to
publication (R198, R199). -/
def tileForms (h : Hdr) (v : Tv) : List (Instr × Nat) :=
  [(.vcvtF h v, 9), (.vcvtI h v, 9), (.vbcastS h v, 9), (.vrng h v, 9), (.vaddF h v, 10), (.vaddI h v, 10), (.vsubF h v, 10), (.vsubI h v, 10),
   (.vabs h v, 10), (.vneg h v, 10), (.vmulF h v, 11), (.vmulI h v, 11), (.vfma h v, 12), (.vminF h v, 13), (.vminI h v, 13), (.vmaxF h v, 13),
   (.vmaxI h v, 13), (.vsel h v, 13), (.vand h v, 13), (.vor h v, 13), (.vxor h v, 13), (.vshl h v, 13), (.vshrN h v, 13), (.vshrI h v, 13),
   (.vpermT h v, 14), (.vpermImm h v, 14), (.vbcastRow h v, 14), (.vxrow h v, 14), (.vredF h v, 15), (.vredI h v, 15), (.vscanF h v, 15),
   (.vscanI h v, 15), (.vtopk h v, 23), (.vqntDb8 h v, 16), (.vqntDb4 h v, 16), (.vmovt h v, 16)]

/-- The forms of the transcendental unit. -/
def unitForms (h : Hdr) (v : Tv) : List Instr :=
  [.vexp h v, .vlog h v, .vsin h v, .vcos h v, .vtanh h v, .vrsq h v, .vrcp h v, .vsig h v]

/-! ## One word fetched -/

/-- Stream `g` is about to issue the one-word group at its program counter: its core runs, nothing holds it, and its I-cache holds the
word, which decodes to `i`. -/
def State.fetches (s : State) (g : Nat) (i : Instr) : Prop :=
  s.runs (g / 4) = true ∧ ((s.stream g).status = .running ∨ (s.stream g).status = .held)
    ∧ s.gateOpen g = true ∧ (s.stream g).task.killed = false
    ∧ (∃ d, s.homeFor (s.ctxOf (g / 4)) (s.stream g).pc .fetch = .ok d)
    ∧ ∃ l, (s.core (g / 4)).iline (s.ctxOf (g / 4)) (s.stream g).pc.toNat = some l ∧ l.poison = false
        ∧ (l.word (s.stream g).pc).getLsbD 55 = true ∧ decode (l.word (s.stream g).pc) = .ok i

/-- What the word of stream `g` is evaluated in: the I-cache has been hit, and the stream is the one that issues. -/
def State.atWord (s : State) (g : Nat) : State :=
  let t := s.stream g
  let u := ({ s with cur := g, verdict := .none } : State).modCore (g / 4) (fun k => k.iHit (s.ctxOf (g / 4)) t.pc.toNat)
  { u with word := t.pc }

end Sys2Proof.Machine
end

