-- ==== Sys2Proof/Certificates/Slice0/Obligations.lean ====
section
/-! DEFINITION. Obligations.lean: the statements of this model, for the provers. Each formalises rules of the specification; a clause that
rests on a choice of the model names its log entry. -/
open Sys2Proof Sys2Proof.Machine

/-! ## Encoding and the step -/

/-- For every instruction that a word encodes (an event has no word) and whose fields are well formed, the decoder reads the encoded word
as exactly that instruction, with every operand at every value the formats of R45 to R74 admit. -/
def Obligations.DecodeEncodeAgree : Prop :=
  ∀ i : Instr, i.isEvent = false → i.wf = true → decode (encode i) = .ok i

/-- No bit of a word is dropped: a word that the decoder accepts is given back by the encoder, and the instruction read from it is no event
and is well formed; so two words never decode to one instruction. -/
def Obligations.EncodeDecodedWord : Prop :=
  ∀ (w : Word) (i : Instr), decode w = .ok i → encode i = w ∧ i.isEvent = false ∧ i.wf = true

/-- R55: exactly the primary opcodes 0x38 to 0x3F, 0x70 to 0x7F and 0xD8 to 0xFF decode as unassigned, and a word with one of them, evaluated
in any state, takes ILLEGAL: the stream parks with that record and nothing else happens. -/
def Obligations.UnassignedOpcodesAreIllegal : Prop :=
  (∀ w : Word, decode w = .ok (.unassignedOpcode w) ↔
    (let op := (w.extractLsb' 56 8).toNat
     (0x38 ≤ op ∧ op ≤ 0x3F) ∨ (0x70 ≤ op ∧ op ≤ 0x7F) ∨ 0xD8 ≤ op))
  ∧ (∀ (w : Word) (s : State), Faults (.unassignedOpcode w) s { code := .illegal })

/-- The words printed in the manual for BRQ J1, Q1; CALL J3; (Q4) ADDI S4, S4, 4; LOOP J1; ANYM Q2, M3; OSEND H3, Q2; BRO J2, H3;
STS.N64 [S4+8], S9; QCUT 3, 5; SYSRD S5, CCTL; WAIT 100; and ROTZ decode to those instructions. -/
def Obligations.WorkedEncodingsDecode : Prop :=
  decode 0x2381_2000_0000_0000#64 = .ok (.brq ⟨1, 0, 0⟩ 1 1)
  ∧ decode 0x2583_0000_0000_0000#64 = .ok (.call ⟨1, 0, 0⟩ 3)
  ∧ decode 0x0341_0800_0000_0004#64 = .ok (.addi ⟨0, 4, 0⟩ 4 4 4)
  ∧ decode 0x2781_0000_0000_0000#64 = .ok (.loop ⟨1, 0, 0⟩ 1)
  ∧ decode 0x2980_8600_0000_0000#64 = .ok (.anym ⟨1, 0, 0⟩ 2 3)
  ∧ decode 0x2B80_4600_0000_0000#64 = .ok (.osend ⟨1, 0, 0⟩ 2 3)
  ∧ decode 0x2C82_0600_0000_0000#64 = .ok (.bro ⟨1, 0, 0⟩ 2 3)
  ∧ decode 0x2180_0893_0000_0008#64 = .ok (.sts ⟨1, 0, 0⟩ 4 9 3 8)
  ∧ decode 0x2D80_0000_0000_0143#64 = .ok (.qcut ⟨1, 0, 0⟩ 5 3)
  ∧ decode 0x3281_4000_0000_0002#64 = .ok (.sysrd ⟨1, 0, 0⟩ 5 2)
  ∧ decode 0x2E80_0000_0000_0064#64 = .ok (.wait ⟨1, 0, 0⟩ 100)
  ∧ decode 0x2880_0000_0000_0000#64 = .ok (.rotz ⟨1, 0, 0⟩)

/-- When the next move is the issue of a stream whose one-word group hits the I-cache and decodes to `i`, the step is `exec i` at the state in
which the word is evaluated: a group that faults or waits is left as `exec i` leaves it; one that issues first moves the program counter past
the word and counts its delay group (`Stream.advance`), and then has the effect that `exec i` gives, with what the step adds around it (`State.afterGroup`: the readers of CCTL
in the cycle of its SYSWR, the cycle of a QCUT, and the bound of a transfer under a WAIT); one that loses a scratchpad bank to a stream of higher priority waits (R131), and takes no fault of its issue cycle either. A move that names an event is `exec` of
that event at its site. With no move left, the step lists the moves of the next cycle, unless the device has failed. The order of moves is the
model's own (log entry 2). -/
def Obligations.StepRunsDecodedInstruction : Prop :=
  (∀ (s t : State) (g : Nat) (i : Instr) (r : List Move), s.agenda = .issue g :: r → ({ s with agenda := r } : State).fetches g i →
    let a : State := { s with agenda := r }
    exec i (a.atWord g) = .next t → t.verdict = .faulted ∨ t.verdict = .held →
    (a.losesBank t g = false → step s = .next t)
    ∧ (a.losesBank t g = true → step s = .next (({ a with cur := g, verdict := .none } : State).holdMe false)))
  ∧ (∀ (s t v : State) (g : Nat) (i : Instr) (r : List Move), s.agenda = .issue g :: r → ({ s with agenda := r } : State).fetches g i →
    (s.stream g).seg.isOpen = false →
    let a : State := { s with agenda := r }
    let began := (a.atWord g).modMe (fun x => x.advance s.cycle 1)
    exec i (a.atWord g) = .next t → t.verdict = .issued → exec i began = .next v → v.verdict = .issued →
    let w := v.afterGroup began (s.stream g) [((s.stream g).pc, i)]
    (a.losesBank w g = false → step s = .next w)
    ∧ (a.losesBank w g = true → step s = .next (({ a with cur := g, verdict := .none } : State).holdMe false)))
  ∧ (∀ (s : State) (site : Site) (i : Instr) (r : List Move), s.agenda = .event site i :: r →
    step s = exec i { s with agenda := r, site := site })
  ∧ (∀ s : State, s.agenda = [] → s.dead = false → step s = .next s.refill)
  ∧ (∀ s : State, s.agenda = [] → s.dead = true → step s = .fault .deviceFailed)

/-- The words of a fetched group are legal together exactly when every word decodes, no two are of one slot class, no two name one destination
register, and a group of several words holds no SEG, SEGEND or unassigned opcode and, in a delay group, no transfer-class form. A group whose words
are not legal together parks its stream with an ILLEGAL record; no word of it has an effect. Four words in sequence without an end are ILLEGAL too. The
record names the first word that is not legal beside those before it, and where four words without an end are legal so far, the address behind them:
which word is the offending one is the model's choice (log entry 53, DESIGN CHOICE). A group that cannot be fetched takes the fault of its fetch. -/
def Obligations.LegalGroups : Prop :=
  (∀ (delay : Bool) (ws : List GWord), illegalIn (decide (1 < ws.length)) delay ws [] [] = none ↔
    (∀ w ∈ ws, ∃ i, w.read = .ok i ∧ (1 < ws.length → (∀ x, i ≠ .unassignedOpcode x) ∧ alone i = false ∧
        (delay = true → transferClass i = false)))
    ∧ ws.Pairwise (fun a b => classOf (a.bits.extractLsb' 56 8).toNat ≠ classOf (b.bits.extractLsb' 56 8).toNat
        ∧ ∀ i j, a.read = .ok i → b.read = .ok j → ∀ d ∈ dests i, d ∉ dests j))
  ∧ (∀ (s u : State) (g : Nat) (a : Word) (ws : List GWord), s.runs (g / 4) = true → (s.stream g).status = .running → s.gateOpen g = true →
    (s.stream g).task.killed = false → ({ s with cur := g, verdict := .none } : State).gather g 4 (s.stream g).pc [] = .words ws u →
    illegalIn (decide (1 < ws.length)) (decide (0 < (s.stream g).xfer.left)) ws [] [] = some a →
    s.attempt g = .next (({ u with word := a } : State).faultMe { code := .illegal, word := a }))
  ∧ (∀ (s u : State) (g : Nat) (f : FaultInfo), s.runs (g / 4) = true → (s.stream g).status = .running → s.gateOpen g = true →
    (s.stream g).task.killed = false → ({ s with cur := g, verdict := .none } : State).gather g 4 (s.stream g).pc [] = .bad f u →
    s.losesBank (({ u with word := f.word } : State).faultMe f) g = false →
    s.attempt g = .next (({ u with word := f.word } : State).faultMe f))
  ∧ (∀ (s u1 u2 u3 u4 : State) (g : Nat) (a b c d : Word), s.runs (g / 4) = true → (s.stream g).status = .running → s.gateOpen g = true →
    (s.stream g).task.killed = false →
    let pc := (s.stream g).pc
    ({ s with cur := g, verdict := .none } : State).fetchWord g pc = .ok (a, u1) → u1.fetchWord g (pc + 8) = .ok (b, u2) →
    u2.fetchWord g (pc + 8 + 8) = .ok (c, u3) → u3.fetchWord g (pc + 8 + 8 + 8) = .ok (d, u4) →
    (∀ w ∈ [a, b, c, d], w.getLsbD 55 = false) →
    let ws : List GWord := [⟨pc, a, decode a⟩, ⟨pc + 8, b, decode b⟩, ⟨pc + 8 + 8, c, decode c⟩, ⟨pc + 8 + 8 + 8, d, decode d⟩]
    let named := (illegalIn true (decide (0 < (u4.stream g).xfer.left)) ws [] []).getD (pc + 8 + 8 + 8 + 8)
    s.attempt g = .next (({ u4 with word := named } : State).faultMe { code := .illegal, word := named }))

/-- A group of `n` words that issues in cycle `now` moves the program counter to the next address; with two delay groups left it leaves one; with
one left, the transfer takes place where there is one: the program counter becomes its target, whose group issues no earlier than the bound of
R250, and a CALL writes J0 and prepares the return slot with the address after the group. No S, Q or M register changes. R250: the bound of a target is six cycles after the cycle that prepared it, in the target half or the return slot, or after the transfer's own
cycle where neither holds it; the manual's example, prepared in cycle 200, gives 206. -/
def Obligations.DelayGroupsAndTargetBounds : Prop :=
  (∀ (t : Stream) (now n : Nat),
    let u := t.advance now n
    let seq := t.pc + BitVec.ofNat 64 (8 * n)
    u.status = .running ∧ u.issuedAt = now ∧ u.s = t.s ∧ u.q = t.q ∧ u.m = t.m ∧ u.latents = t.latents
    ∧ (t.xfer.left = 0 → u.pc = seq ∧ u.xfer = t.xfer ∧ u.j = t.j ∧ u.ret = t.ret ∧ u.gate = t.gate)
    ∧ (t.xfer.left = 2 → u.pc = seq ∧ u.xfer = { t.xfer with left := 1 } ∧ u.j = t.j ∧ u.ret = t.ret ∧ u.gate = t.gate)
    ∧ (t.xfer.left = 1 → u.xfer = {} ∧ u.pc = t.xfer.target.getD seq
        ∧ (t.xfer.target.isSome → u.gate.cycle = max t.gate.cycle t.xfer.ready)
        ∧ (t.xfer.call = true → u.jreg 0 = codeAddr seq ∧ u.ret = some (codeAddr seq, now) ∧ ∀ k : BitVec 3, k ≠ 0 → u.jreg k = t.jreg k)
        ∧ (t.xfer.call = false → u.j = t.j ∧ u.ret = t.ret)))
  ∧ (∀ (t : Stream) (b f : Nat) (a : Word),
    (t.pbr = some (a, f) → (∀ c, t.ret ≠ some (a, c)) → t.readyAt b a = f + 6)
    ∧ (t.ret = some (a, f) → (∀ c, t.pbr ≠ some (a, c)) → t.readyAt b a = f + 6)
    ∧ ((∀ c, t.pbr ≠ some (a, c)) → (∀ c, t.ret ≠ some (a, c)) → t.readyAt b a = b + 6)
    ∧ (t.pbr = some (a, 200) → (∀ c, t.ret ≠ some (a, c)) → t.readyAt 201 a = 206))

/-! ## Scalar forms -/

/-- R244: ADD, SUB, ADDI, MUL, MULH, MULHN, AND, OR, XOR, ANDN, SHL, SHRL, SHRA, MINS, MAXS, MINN, MAXN, SEL, CLZ, POPC, MOVI, MOVH and LEA,
executing, issue in every state that is ready for them and leave one latent write of the stated value to Sd, with the stated latency. Nothing
else changes, and a write to S0 leaves no latent write. -/
def Obligations.ScalarResults : Prop :=
  ∀ (h : Hdr) (sd sa sb : BitVec 5),
    WritesS (.add h sd sa sb) h [sa, sb] sd 1 (fun s => s.S sa + s.S sb)
    ∧ WritesS (.sub h sd sa sb) h [sa, sb] sd 1 (fun s => s.S sa - s.S sb)
    ∧ (∀ imm, WritesS (.addi h sd sa imm) h [sa] sd 1 (fun s => s.S sa + imm.signExtend 64))
    ∧ WritesS (.mul h sd sa sb) h [sa, sb] sd 3 (fun s => ((s.S sa).setWidth 128 * (s.S sb).setWidth 128).extractLsb' 0 64)
    ∧ WritesS (.mulh h sd sa sb) h [sa, sb] sd 3 (fun s => ((s.S sa).signExtend 128 * (s.S sb).signExtend 128).extractLsb' 64 64)
    ∧ WritesS (.mulhn h sd sa sb) h [sa, sb] sd 3 (fun s => ((s.S sa).setWidth 128 * (s.S sb).setWidth 128).extractLsb' 64 64)
    ∧ WritesS (.and h sd sa sb) h [sa, sb] sd 1 (fun s => s.S sa &&& s.S sb)
    ∧ WritesS (.or h sd sa sb) h [sa, sb] sd 1 (fun s => s.S sa ||| s.S sb)
    ∧ WritesS (.xor h sd sa sb) h [sa, sb] sd 1 (fun s => s.S sa ^^^ s.S sb)
    ∧ WritesS (.andn h sd sa sb) h [sa, sb] sd 1 (fun s => s.S sa &&& ~~~(s.S sb))
    ∧ WritesS (.shl h sd sa sb) h [sa, sb] sd 1 (fun s => s.S sa <<< (s.S sb).extractLsb' 0 6)
    ∧ WritesS (.shrl h sd sa sb) h [sa, sb] sd 1 (fun s => s.S sa >>> (s.S sb).extractLsb' 0 6)
    ∧ WritesS (.shra h sd sa sb) h [sa, sb] sd 1 (fun s => (s.S sa).sshiftRight' ((s.S sb).extractLsb' 0 6))
    ∧ WritesS (.mins h sd sa sb) h [sa, sb] sd 1 (fun s => if (s.S sa).toInt < (s.S sb).toInt then s.S sa else s.S sb)
    ∧ WritesS (.maxs h sd sa sb) h [sa, sb] sd 1 (fun s => if (s.S sa).toInt < (s.S sb).toInt then s.S sb else s.S sa)
    ∧ WritesS (.minn h sd sa sb) h [sa, sb] sd 1 (fun s => if (s.S sa).toNat < (s.S sb).toNat then s.S sa else s.S sb)
    ∧ WritesS (.maxn h sd sa sb) h [sa, sb] sd 1 (fun s => if (s.S sa).toNat < (s.S sb).toNat then s.S sb else s.S sa)
    ∧ WritesS (.clz h sd sa) h [sa] sd 1 (fun s => if s.S sa = 0 then 64 else BitVec.ofNat 64 (63 - Nat.log2 (s.S sa).toNat))
    ∧ WritesS (.popc h sd sa) h [sa] sd 1 (fun s => BitVec.ofNat 64 ((List.range 64).countP (fun b => (s.S sa).getLsbD b)))
    ∧ (∀ imm, WritesS (.movi h sd imm) h [] sd 1 (fun _ => imm.signExtend 64))
    ∧ (∀ imm, WritesS (.movh h sd imm) h [sd] sd 1 (fun s => (imm.setWidth 64 <<< 36) ||| (s.S sd &&& 0xFFFFFFFFF#64)))
    ∧ (∀ sc disp, WritesS (.lea h sd sa sb sc disp) h [sa, sb] sd 1
        (fun s => s.S sa + BitVec.twoPow 64 sc.toNat * s.S sb + disp.signExtend 64))
    ∧ (∀ (qs : BitVec 3) (s : State), s.ready h [s.me.sp sa, s.me.sp sb, s.me.qp qs] [(s.me.sp sd, 1)] →
        Issues (.sel h sd sa sb qs) s (s.latch (s.me.sp sd) 1 ((if s.me.qreg qs then s.S sa else s.S sb).setWidth 512)))

/-- R244, for every field that R245 admits: BFX.I and BFX.N write the field of Sa sign-extended and zero-extended; BFI writes Sd with the field
replaced by the low bits of Sa and every other bit kept. The latency is 1 and nothing else changes. R244 and R245: with Sb not zero, DIVS writes the signed quotient rounded towards zero (-2^63 by -1 gives -2^63) and DIVN the unsigned one,
with latency 34; with Sb zero either takes ARITH with INFO 1 at issue and has no effect. -/
def Obligations.BitFieldAndDivisionResults : Prop :=
  (∀ (h : Hdr) (sd sa : BitVec 5) (width : BitVec 7) (lsb : BitVec 6), 0 < width.toNat → lsb.toNat + width.toNat ≤ 64 →
    WritesS (.bfxI h sd sa width lsb) h [sa] sd 1 (fun s => ((s.S sa).extractLsb' lsb.toNat width.toNat).signExtend 64)
    ∧ WritesS (.bfxN h sd sa width lsb) h [sa] sd 1 (fun s => ((s.S sa).extractLsb' lsb.toNat width.toNat).setWidth 64)
    ∧ (∀ s : State, s.ready h [s.me.sp sd, s.me.sp sa] [(s.me.sp sd, 1)] →
        ∃ v : Word, Issues (.bfi h sd sa width lsb) s (s.latch (s.me.sp sd) 1 (v.setWidth 512))
          ∧ ∀ b < 64, v.getLsbD b = if lsb.toNat ≤ b ∧ b < lsb.toNat + width.toNat then (s.S sa).getLsbD (b - lsb.toNat)
              else (s.S sd).getLsbD b))
  ∧ (∀ (h : Hdr) (sd sa sb : BitVec 5) (s : State), s.ready h [s.me.sp sa, s.me.sp sb] [(s.me.sp sd, 34)] →
    (s.S sb ≠ 0 →
      Issues (.divs h sd sa sb) s (s.latch (s.me.sp sd) 34 (((s.S sa).sdiv (s.S sb)).setWidth 512))
      ∧ Issues (.divn h sd sa sb) s (s.latch (s.me.sp sd) 34 ((BitVec.ofNat 64 ((s.S sa).toNat / (s.S sb).toNat)).setWidth 512)))
    ∧ (s.S sb = 0 → Faults (.divs h sd sa sb) s { code := .arith, info := 1 } ∧ Faults (.divn h sd sa sb) s { code := .arith, info := 1 }))

/-- R58 and R246: CMP in its register and immediate forms sets Qd to its condition, in the order of COND, and QOP to Qa AND Qb, Qa OR Qb,
Qa XOR Qb or Qa AND NOT Qb; the latency is 1 and nothing else changes. R254: ANYM sets Qd when any of the 512 bits of Mk is set, ALLM when all are, with latency 1; predicated off, neither writes; and with EXPCHK
set a latent write of Mk that has not landed makes either take LATENCY. -/
def Obligations.PredicateResults : Prop :=
  (∀ (h : Hdr) (qd : BitVec 3),
    (∀ (sa sb : BitVec 5) (cond : BitVec 4), cond.toNat < 10 →
      WritesQ (.cmpReg h qd sa sb cond) h (fun s => [s.me.sp sa, s.me.sp sb]) qd
        (fun s => (conditions (s.S sa) (s.S sb)).getD cond.toNat false))
    ∧ (∀ (sa : BitVec 5) (imm : BitVec 32) (cond : BitVec 4), cond.toNat < 10 →
      WritesQ (.cmpImm h qd sa imm cond) h (fun s => [s.me.sp sa]) qd
        (fun s => (conditions (s.S sa) (imm.signExtend 64)).getD cond.toNat false))
    ∧ (∀ (qa qb : BitVec 3) (op : BitVec 2),
      WritesQ (.qop h qd qa qb op) h (fun s => [s.me.qp qa, s.me.qp qb]) qd
        (fun s => [s.me.qreg qa && s.me.qreg qb, s.me.qreg qa || s.me.qreg qb, s.me.qreg qa ^^ s.me.qreg qb,
                   s.me.qreg qa && !s.me.qreg qb].getD op.toNat false)))
  ∧ (∀ (h : Hdr) (qd mk : BitVec 3),
    WritesQ (.anym h qd mk) h (fun _ => [.m mk.toNat]) qd (fun s => (List.range 512).any (fun b => (s.me.mreg mk).getLsbD b))
    ∧ WritesQ (.allm h qd mk) h (fun _ => [.m mk.toNat]) qd (fun s => (List.range 512).all (fun b => (s.me.mreg mk).getLsbD b))
    ∧ (∀ s : State, s.off h → Issues (.anym h qd mk) s s ∧ Issues (.allm h qd mk) s s)
    ∧ (∀ (s : State) (l : Latent), s.me.executes h = true → s.me.expchk = true → s.windowsOpen [s.me.qp h.qs] [] → l ∈ s.me.latents →
        l.reg = .m mk.toNat → l.issued < s.cycle → s.cycle < l.due →
        ∃ f, f.code = .latency ∧ f.addr = l.reg.addr ∧ Faults (.anym h qd mk) s f ∧ Faults (.allm h qd mk) s f))

/-- Every form of the scalar, scratchpad, steering, system and control kinds whose skipped work is nothing (`plainForm` lists them) issues when its
predicate is false, with no effect at all: no register, latent write, memory byte, queue, ring or status changes. -/
def Obligations.PredicatedOffDoesNothing : Prop :=
  ∀ (i : Instr) (h : Hdr) (s : State), plainForm i = some h → s.off h → Issues i s s

/-- R165, EXPCHK = 1: when an earlier group's latent write to a source register has not landed, an executing scalar form that reads it takes
LATENCY; ADDR names the register and INFO the cycles until the landing of one such write. With EXPCHK clear the same form issues and reads the
register as it stands (`ScalarResults`). -/
def Obligations.WindowReadsFault : Prop :=
  ∀ (h : Hdr) (sd sa sb : BitVec 5) (s : State) (l : Latent), s.me.executes h = true → s.me.expchk = true →
    s.windowsOpen [s.me.qp h.qs] [] → l ∈ s.me.latents → l.issued < s.cycle → s.cycle < l.due →
    l.reg = s.me.sp sa ∨ l.reg = s.me.sp sb →
    ∃ f : FaultInfo, f.code = .latency ∧ (f.addr = (s.me.sp sa).addr ∨ f.addr = (s.me.sp sb).addr)
      ∧ (∃ k ∈ s.me.latents, f.addr = k.reg.addr ∧ s.cycle < k.due ∧ f.info = BitVec.ofNat 64 (k.due - s.cycle))
      ∧ ∀ i ∈ [Instr.add h sd sa sb, .sub h sd sa sb, .mul h sd sa sb, .mulh h sd sa sb, .mulhn h sd sa sb, .divs h sd sa sb,
               .divn h sd sa sb, .and h sd sa sb, .or h sd sa sb, .xor h sd sa sb, .andn h sd sa sb, .shl h sd sa sb, .shrl h sd sa sb,
               .shra h sd sa sb, .mins h sd sa sb, .maxs h sd sa sb, .minn h sd sa sb, .maxn h sd sa sb],
          Faults i s f

/-- R164: the landing event of a stream completes, but for a core in LOAD, whose latent writes wait for the start (R311). A latent write that is due and has its value is gone from the list and its register holds the
value, unless a write to the same register that is due later, or as late and issued later, lands in the same event; one that is not due stays.
This holds of the S, Q, M and J registers alike. A write to S0 or Q0 is discarded when it is issued, and a register to which nothing lands keeps its value. R160 and R162: S1 to S15 and Q1 to Q3 name themselves; S16 to S31 and Q4 to Q7 name the physical register offset by ROTB, so after ROTB has gone
down by one the value that Sn or Qn named stands under the next name; distinct names stay distinct; S0 reads zero and Q0 reads true. -/
def Obligations.LatentWritesAndRotatingNames : Prop :=
  ((∀ (s : State) (g : Nat), s.site.unit = g →
    let last (r : PReg) (v : Row) : Prop := ∃ (a b : List Latent) (i d : Nat), (s.stream g).latents = a ++ [⟨r, some v, i, d⟩] ++ b ∧ d ≤ s.cycle
      ∧ (∀ l ∈ a, l.reg = r → l.val.isSome → l.due ≤ s.cycle → l.due ≤ d) ∧ (∀ l ∈ b, l.reg = r → l.val.isSome → l.due ≤ s.cycle → l.due < d)
    let quiet (r : PReg) : Prop := ∀ l ∈ (s.stream g).latents, l.reg = r → s.cycle < l.due ∨ l.val = none
    ((s.core (g / 4)).mbState = 2 → exec .latentWriteLanding s = .next s)
    ∧ ((s.core (g / 4)).mbState ≠ 2 → ∃ t, exec .latentWriteLanding s = .next t
      ∧ (t.stream g).latents = (s.stream g).latents.filter (fun l => !(decide (l.due ≤ s.cycle) && l.val.isSome))
      ∧ (t.stream g).pc = (s.stream g).pc ∧ (t.stream g).status = (s.stream g).status ∧ t.mem = s.mem
      ∧ (∀ g', g' ≠ g → t.stream g' = s.stream g')
      ∧ (∀ n, (quiet (.s n) → (t.stream g).s.get 0 n = (s.stream g).s.get 0 n) ∧ (quiet (.q n) → (t.stream g).q.get false n = (s.stream g).q.get false n)
          ∧ (quiet (.m n) → (t.stream g).m.get 0 n = (s.stream g).m.get 0 n) ∧ (quiet (.j n) → (t.stream g).j.get 0 n = (s.stream g).j.get 0 n))
      ∧ (∀ n v, (n ≠ 0 → last (.s n) v → (t.stream g).s.get 0 n = v.setWidth 64) ∧ (n ≠ 0 → last (.q n) v → (t.stream g).q.get false n = v.getLsbD 0)
          ∧ (last (.m n) v → (t.stream g).m.get 0 n = v) ∧ (last (.j n) v → (t.stream g).j.get 0 n = codeAddr (v.setWidth 64)))))
  ∧ (∀ (s : State) (lat : Nat) (v : Row), s.latch (.s 0) lat v = s.modMe id ∧ s.latch (.q 0) lat v = s.modMe id)
  ∧ (∀ (s : State) (r : PReg) (lat : Nat) (v : Row), r.discards = false →
      (s.latch r lat v).me = { s.me with latents := s.me.latents ++ [⟨r, some v, s.cycle, s.cycle + lat⟩] }))
  ∧ ((∀ (b : BitVec 4) (n : Nat), n < 16 → physS b n = n)
  ∧ (∀ (b : BitVec 4) (n : Nat), n < 4 → physQ b n = n)
  ∧ (∀ (b : BitVec 4) (n : Nat), 16 ≤ n → n < 31 → physS (b - 1) (n + 1) = physS b n)
  ∧ (∀ (b : BitVec 4) (n : Nat), 4 ≤ n → n < 7 → physQ (b - 1) (n + 1) = physQ b n)
  ∧ (∀ (b : BitVec 4) (m n : Nat), m < 32 → n < 32 → physS b m = physS b n → m = n)
  ∧ (∀ (b : BitVec 4) (m n : Nat), m < 8 → n < 8 → physQ b m = physQ b n → m = n)
  ∧ (∀ t : Stream, t.sreg 0 = 0 ∧ t.qreg 0 = true))

/-! ## Scratchpad from the scalar side -/

/-- R248, with a = Sa + sext(off) and w the width: an LDS or STS whose address is aligned and inside scratchpad, and whose bank no earlier group
has reserved for the next cycle, issues: its access is listed for cycle c + 1, and LDS leaves a latent write of Sd due in c + 4. A misaligned
address takes ALIGN, one outside scratchpad PERM, with no effect; a reserved bank holds the group. When a listed store of `n` bytes at an aligned address is made, a read of those bytes gives the low `n` bytes stored, every byte outside them
reads as before, and no line's side field, format tag or poison bit changes; when a listed LDS of a clean line is made, its latent write takes the
bytes, extended by their kind. -/
def Obligations.ScratchpadAccesses : Prop :=
  (∀ (h : Hdr) (sd sa sb : BitVec 5) (wk : BitVec 4) (off : BitVec 32) (s : State),
    let a := s.S sa + off.signExtend 64
    let w := widthOf wk
    let inside := a.toNat % w = 0 ∧ 0 ≤ a.toInt ∧ a.toInt + w ≤ 0x60000
    let free := ∀ r ∈ s.myCore.spRes, r.bank = a.toNat / 64 % 16 → r.cycle = s.cycle + 1 → r.gsid = s.cur ∧ r.made = s.cycle
    (s.ready h [s.me.sp sa] [(s.me.sp sd, 4)] → inside → free → ∃ t, exec (.lds h sd sa wk off) s = .next t ∧ t.verdict = .issued
      ∧ t.me.accs = s.me.accs ++ [⟨.load (s.me.sp sd) wk, a.toNat, s.word, s.cycle, s.cycle + 1, 0⟩]
      ∧ t.me.latents = s.me.latents ++ (if sd = 0 then [] else [⟨s.me.sp sd, none, s.cycle, s.cycle + 4⟩])
      ∧ ⟨a.toNat / 64 % 16, s.cycle + 1, s.cur, s.cycle⟩ ∈ t.myCore.spRes
      ∧ t.me.s = s.me.s ∧ t.me.q = s.me.q ∧ t.me.m = s.me.m ∧ t.myCore.sp = s.myCore.sp ∧ t.myCore.tiles = s.myCore.tiles ∧ t.mem = s.mem)
    ∧ (s.ready h [s.me.sp sa, s.me.sp sb] [] → inside → free → ∃ t, exec (.sts h sa sb wk off) s = .next t ∧ t.verdict = .issued
      ∧ t.me.accs = s.me.accs ++ [⟨.store w (s.S sb), a.toNat, s.word, s.cycle, s.cycle + 1, 0⟩]
      ∧ t.me.latents = s.me.latents ∧ t.me.s = s.me.s ∧ t.me.q = s.me.q ∧ t.me.m = s.me.m ∧ t.myCore.sp = s.myCore.sp
      ∧ t.myCore.tiles = s.myCore.tiles ∧ t.mem = s.mem)
    ∧ (s.ready h [s.me.sp sa] [(s.me.sp sd, 4)] → a.toNat % w ≠ 0 → Faults (.lds h sd sa wk off) s { code := .align, addr := a, info := 4 })
    ∧ (s.ready h [s.me.sp sa, s.me.sp sb] [] → a.toNat % w ≠ 0 → Faults (.sts h sa sb wk off) s { code := .align, addr := a, info := 5 })
    ∧ (s.ready h [s.me.sp sa] [(s.me.sp sd, 4)] → a.toNat % w = 0 → a.toInt < 0 ∨ 0x60000 < a.toInt + w →
        Faults (.lds h sd sa wk off) s { code := .perm, addr := a, info := 4 })
    ∧ (s.ready h [s.me.sp sa, s.me.sp sb] [] → a.toNat % w = 0 → a.toInt < 0 ∨ 0x60000 < a.toInt + w →
        Faults (.sts h sa sb wk off) s { code := .perm, addr := a, info := 5 })
    ∧ (s.ready h [s.me.sp sa] [(s.me.sp sd, 4)] → inside → ¬ free → exec (.lds h sd sa wk off) s = .next (s.holdMe false))
    ∧ (s.ready h [s.me.sp sa, s.me.sp sb] [] → inside → ¬ free → exec (.sts h sa sb wk off) s = .next (s.holdMe false)))
  ∧ ((∀ (s : State) (g n a : Nat) (d word : Word) (c due : Nat), n ∈ [1, 2, 4, 8] → a % n = 0 →
    let t := (s.access g ⟨.store n d, a, word, c, due, 0⟩).1
    (s.access g ⟨.store n d, a, word, c, due, 0⟩).2 = none
    ∧ (t.core (g / 4)).spGet a n = d.toNat % 2 ^ (8 * n)
    ∧ (∀ b, b < a ∨ a + n ≤ b → (t.core (g / 4)).spGet b 1 = (s.core (g / 4)).spGet b 1)
    ∧ (∀ i, ((t.core (g / 4)).line i).side = ((s.core (g / 4)).line i).side ∧ ((t.core (g / 4)).line i).tag = ((s.core (g / 4)).line i).tag
        ∧ ((t.core (g / 4)).line i).poison = ((s.core (g / 4)).line i).poison)
    ∧ (∀ g', t.stream g' = s.stream g') ∧ t.mem = s.mem)
  ∧ (∀ (s : State) (g a i due : Nat) (r : PReg) (wk : BitVec 4) (word : Word) (x y : List Latent),
    ((s.core (g / 4)).line (a / 64)).poison = false → (s.stream g).latents = x ++ ⟨r, none, i, i + 4⟩ :: y →
    (∀ l ∈ x, l.reg = r → l.issued = i → l.val ≠ none) →
    ((s.access g ⟨.load r wk, a, word, i, due, 0⟩).1.stream g).latents
      = x ++ ⟨r, some ((wkExtend wk ((s.core (g / 4)).spGet a (widthOf wk))).setWidth 512), i, i + 4⟩ :: y)
  ∧ (∀ v : Nat, v < 256 → (wkExtend 0 v).toNat = v ∧ (wkExtend 4 v).toInt = (BitVec.ofNat 8 v).toInt)
  ∧ (∀ v : Nat, v < 2 ^ 16 → (wkExtend 1 v).toNat = v ∧ (wkExtend 5 v).toInt = (BitVec.ofNat 16 v).toInt)
  ∧ (∀ v : Nat, v < 2 ^ 32 → (wkExtend 2 v).toNat = v ∧ (wkExtend 6 v).toInt = (BitVec.ofNat 32 v).toInt)
  ∧ (∀ v : Nat, v < 2 ^ 64 → (wkExtend 3 v).toNat = v))

/-! ## Transfers -/

/-- R251: a PBR that executes always issues; Jk takes the address of its word plus 8 OFF after one cycle, whatever that address is, and the target
half is prepared at that address in this cycle; no transfer becomes pending and the program counter stays. Predicated off, nothing changes. -/
def Obligations.PrepareBranch : Prop :=
  ∀ (h : Hdr) (j : BitVec 3) (off : BitVec 41) (s : State),
    let a := s.word + off.signExtend 64 * 8
    (s.ready h [] [] →
      Leaves (.pbr h j off) s { s.me with latents := s.me.latents ++ [⟨.j j.toNat, some (a.setWidth 512), s.cycle, s.cycle + 1⟩],
                                          pbr := some (codeAddr a, s.cycle) })
    ∧ (s.off h → Issues (.pbr h j off) s s)

/-- R252: where no transfer is pending, BR, CALL and RET, and BRQ with Qc true, to a Jk below 2^48 leave a transfer to Jk after two delay groups,
with the bound that R250 sets for its target, and CALL marks it to write J0; BRQ with Qc false, and any of the four predicated off, leave two delay
groups without a transfer; a taken one to a Jk with bits 63:48 not zero takes PERM. In a delay group of another each takes ILLEGAL (R249). -/
def Obligations.Transfers : Prop :=
  ∀ (h : Hdr) (j qc : BitVec 3) (s : State),
    let a := s.me.jreg j
    let far := a.toNat < 2 ^ 48
    let taken (call : Bool) : Stream := { s.me with xfer := { left := 2, target := some a, ready := s.me.readyAt s.cycle a, call := call } }
    let through : Stream := { s.me with xfer := { left := 2, target := none, ready := 0, call := false } }
    (s.me.xfer.left = 0 → s.ready h [] [] → far → Leaves (.br h j) s (taken false) ∧ Leaves (.ret h j) s (taken false)
      ∧ Leaves (.call h j) s (taken true))
    ∧ (s.me.xfer.left = 0 → s.ready h [s.me.qp qc] [] →
        (s.me.qreg qc = true → far → Leaves (.brq h j qc) s (taken false)) ∧ (s.me.qreg qc = false → Leaves (.brq h j qc) s through))
    ∧ (s.me.xfer.left = 0 → s.off h → Leaves (.brq h j qc) s through ∧ Leaves (.br h j) s through ∧ Leaves (.call h j) s through
        ∧ Leaves (.ret h j) s through)
    ∧ (s.me.xfer.left = 0 → s.ready h [] [] → ¬ far →
        ∀ i ∈ [Instr.br h j, .call h j, .ret h j], Faults i s { code := .perm, addr := a, info := 10 })
    ∧ (s.me.xfer.left = 0 → s.ready h [s.me.qp qc] [] → s.me.qreg qc = true → ¬ far →
        Faults (.brq h j qc) s { code := .perm, addr := a, info := 10 })
    ∧ (0 < s.me.xfer.left → ∀ hd, ∀ i ∈ [Instr.brq h j qc, .br h j, .call h j, .ret h j, .loop h j, .bro h j hd], Faults i s { code := .illegal })

/-- R256, where no transfer is pending and Jk lies below 2^48: with LC not zero LOOP counts LC down, rotates with stage 1 and transfers; else with EC
above 1 it counts EC down, rotates with stage 0 and transfers; else with EC = 1 it sets EC to 0, rotates with stage 0 and does not transfer; else it
changes only the delay groups. Rotating takes ROTB down by one modulo 16 and writes the stage to the predicate that Q4 then names. Predicated off it
changes nothing but the delay groups. -/
def Obligations.LoopCountsAndRotates : Prop :=
  ∀ (h : Hdr) (j : BitVec 3) (s : State), s.me.xfer.left = 0 →
    let a := s.me.jreg j
    let go : Xfer := { left := 2, target := some a, ready := s.me.readyAt s.cycle a, call := false }
    let stay : Xfer := { left := 2, target := none, ready := 0, call := false }
    let q (stage : Bool) : Tbl Bool := s.me.q.put (physQ (s.me.rotb - 1) 4) stage
    (s.ready h [] [] → a.toNat < 2 ^ 48 →
      (s.me.lc ≠ 0 → Leaves (.loop h j) s { s.me with lc := s.me.lc - 1, rotb := s.me.rotb - 1, q := q true, xfer := go })
      ∧ (s.me.lc = 0 → 1 < s.me.ec.toNat →
          Leaves (.loop h j) s { s.me with ec := s.me.ec - 1, rotb := s.me.rotb - 1, q := q false, xfer := go })
      ∧ (s.me.lc = 0 → s.me.ec = 1 → Leaves (.loop h j) s { s.me with ec := 0, rotb := s.me.rotb - 1, q := q false, xfer := stay })
      ∧ (s.me.lc = 0 → s.me.ec = 0 → Leaves (.loop h j) s { s.me with xfer := stay }))
    ∧ (s.ready h [] [] → ¬ a.toNat < 2 ^ 48 → s.me.lc ≠ 0 ∨ 1 < s.me.ec.toNat →
        Faults (.loop h j) s { code := .perm, addr := a, info := 10 })
    ∧ (s.off h → Leaves (.loop h j) s { s.me with xfer := stay })

/-! ## Rings on the stream side -/

/-- R255: on an outcome handle with a free slot, now and at the end of the previous cycle, OSEND stores Qc, or 0 when predicated off, at the producer
index and advances it; on one with a filled slot BRO consumes the bit at the consumer index, and transfers when it executes and the bit is 1. With no
such slot the group is held; on a handle of another kind both take RING. -/
def Obligations.OutcomeRings : Prop :=
  ∀ (h : Hdr) (j qc : BitVec 3) (hd : BitVec 4) (s : State),
    let r := s.myCore.ring hd.toNat
    let p := s.myCore.ringBefore hd.toNat
    let room := p.filled.toNat < p.count.toNat ∧ r.filled.toNat < r.count.toNat
    let some' := 1 ≤ p.filled.toNat ∧ 1 ≤ r.filled.toNat
    let bit := r.obits.getLsbD r.ci.toNat
    let a := s.me.jreg j
    let pushed (b : Bool) (t : State) : Prop :=
      let n := t.myCore.ring hd.toNat
      n.pi.toNat = (r.pi.toNat + 1) % r.count.toNat ∧ n.filled.toNat = r.filled.toNat + 1 ∧ n.ci = r.ci ∧ n.count = r.count ∧ n.kind = r.kind
        ∧ (r.pi.toNat < 64 → n.obits.getLsbD r.pi.toNat = b) ∧ (∀ k, k ≠ r.pi.toNat → n.obits.getLsbD k = r.obits.getLsbD k)
        ∧ (∀ k, k ≠ hd.toNat → t.myCore.ring k = s.myCore.ring k) ∧ t.me = s.me ∧ t.mem = s.mem
    let taken (t : State) : Prop :=
      let n := t.myCore.ring hd.toNat
      n.ci = BitVec.ofNat 16 ((r.ci.toNat + 1) % r.count.toNat) ∧ n.filled.toNat = r.filled.toNat - 1 ∧ n.pi = r.pi ∧ n.obits = r.obits ∧ n.kind = r.kind
        ∧ (∀ k, k ≠ hd.toNat → t.myCore.ring k = s.myCore.ring k) ∧ t.mem = s.mem
    (s.ready h [s.me.qp qc] [] → r.kind = .outcome → room →
      ∃ t, exec (.osend h qc hd) s = .next t ∧ t.verdict = .issued ∧ pushed (s.me.qreg qc) t)
    ∧ (s.off h → r.kind = .outcome → room → ∃ t, exec (.osend h qc hd) s = .next t ∧ t.verdict = .issued ∧ pushed false t)
    ∧ (s.ready h [s.me.qp qc] [] → r.kind = .outcome → ¬ room → exec (.osend h qc hd) s = .next (s.holdMe false))
    ∧ (s.me.xfer.left = 0 → s.ready h [] [] → r.kind = .outcome → some' → (bit = true → a.toNat < 2 ^ 48) →
        ∃ t, exec (.bro h j hd) s = .next t ∧ t.verdict = .issued ∧ taken t
          ∧ t.me = { s.me with xfer := { left := 2, target := if bit then some a else none,
                                         ready := if bit then s.me.readyAt s.cycle a else 0, call := false } })
    ∧ (s.me.xfer.left = 0 → s.off h → r.kind = .outcome → some' →
        ∃ t, exec (.bro h j hd) s = .next t ∧ t.verdict = .issued ∧ taken t
          ∧ t.me = { s.me with xfer := { left := 2, target := none, ready := 0, call := false } })
    ∧ (s.me.xfer.left = 0 → s.ready h [] [] → r.kind = .outcome → ¬ some' → exec (.bro h j hd) s = .next (s.holdMe false))
    ∧ (s.ready h [s.me.qp qc] [] → r.kind ≠ .outcome → Faults (.osend h qc hd) s (ringFault hd.toNat 0 false))
    ∧ (s.me.xfer.left = 0 → s.ready h [] [] → r.kind ≠ .outcome → Faults (.bro h j hd) s (ringFault hd.toNat 0 false))

/-- R138 and R139: HCONF of a data ring within scratchpad, a token ring or an outcome ring sets the handle with empty indices unless its lock bit is
set; each limit broken takes RING: of a data ring, BASE or SIZE no multiple of 64, SIZE below 64 or above 393,216, COUNT 0 or above 65,535, or an end
beyond scratchpad; of a token or outcome ring, BASE or SIZE not 0, or COUNT 0 or above 65,535 or 64 (a KIND beyond 2 is no instruction: the decoder
takes none, `EncodeDecodedWord`); RADVP adds n filled slots and moves PI, RADVC removes n and moves CI, once the stream's scratchpad accesses of earlier cycles are made, whatever the
predicate; RWAITF and RWAITE issue when the handle held n filled or free slots at the end of the previous cycle and otherwise hold the group; the
advances and waits end the region, a wait acquires what the advances that filled or freed its slots released (R140), and they take RING when the handle is not configured for data or tokens or n breaks the limits. A race charged to the
stream is not pending in the cases that complete. -/
def Obligations.RingHandles : Prop :=
  ∀ (h : Hdr) (sx sy sz : BitVec 5) (n : BitVec 16) (hd : BitVec 4) (s : State),
    let r := s.myCore.ring hd.toNat
    let p := s.myCore.ringBefore hd.toNat
    let b := s.S sx
    let z := s.S sy
    let c := s.S sz
    let counted := r.kind ≠ .outcome ∧ r.count ≠ 0
    let made (all : Bool) := ∀ a ∈ s.me.accs, a.issued < s.cycle → all = false ∧ a.op.writes = false
    let others (t : State) : Prop := (∀ k, k ≠ hd.toNat → t.myCore.ring k = s.myCore.ring k) ∧ t.mem = s.mem ∧ t.myCore.sp = s.myCore.sp
    (s.ready h [s.me.sp sx, s.me.sp sy, s.me.sp sz] [] → s.myCore.ringLock.getLsbD hd.toNat = false →
      (b.toNat % 64 = 0 → z.toNat % 64 = 0 → 64 ≤ z.toNat → z.toNat ≤ 393216 → 1 ≤ c.toNat → c.toNat ≤ 65535 →
          b.toNat + z.toNat * c.toNat ≤ 0x60000 →
        ∃ t, exec (.hconf h sx sy sz 0 hd) s = .next t ∧ t.verdict = .issued ∧ t.me = s.me ∧ others t
          ∧ t.myCore.ring hd.toNat = { kind := .data, base := b.setWidth 19, size := z.setWidth 19, count := c.setWidth 16 })
      ∧ (b = 0 → z = 0 → 1 ≤ c.toNat → c.toNat ≤ 65535 →
        ∃ t, exec (.hconf h sx sy sz 1 hd) s = .next t ∧ t.verdict = .issued ∧ t.me = s.me ∧ others t
          ∧ t.myCore.ring hd.toNat = { kind := .token, count := c.setWidth 16 })
      ∧ (b = 0 → z = 0 → 1 ≤ c.toNat → c.toNat ≤ 64 →
        ∃ t, exec (.hconf h sx sy sz 2 hd) s = .next t ∧ t.verdict = .issued ∧ t.me = s.me ∧ others t
          ∧ t.myCore.ring hd.toNat = { kind := .outcome, count := c.setWidth 16 })
      ∧ (b.toNat % 64 ≠ 0 ∨ z.toNat % 64 ≠ 0 ∨ z.toNat < 64 ∨ 393216 < z.toNat ∨ c.toNat < 1 ∨ 65535 < c.toNat ∨ 0x60000 < b.toNat + z.toNat * c.toNat →
          Faults (.hconf h sx sy sz 0 hd) s (ringFault hd.toNat 0 false))
      ∧ (b ≠ 0 ∨ z ≠ 0 ∨ c.toNat < 1 ∨ 65535 < c.toNat → Faults (.hconf h sx sy sz 1 hd) s (ringFault hd.toNat 0 false))
      ∧ (b ≠ 0 ∨ z ≠ 0 ∨ c.toNat < 1 ∨ 64 < c.toNat → Faults (.hconf h sx sy sz 2 hd) s (ringFault hd.toNat 0 false)))
    ∧ (s.ready h [s.me.sp sx, s.me.sp sy, s.me.sp sz] [] → s.myCore.ringLock.getLsbD hd.toNat = true → ∀ k,
        Faults (.hconf h sx sy sz k hd) s (ringFault hd.toNat 0 true))
    ∧ (s.heedless h [] → counted → made false → r.filled.toNat + n.toNat ≤ r.count.toNat → s.me.charge = none →
        ∃ t, exec (.radvp h n hd) s = .next t ∧ t.verdict = .issued ∧ others t ∧ t.me = { s.me with region := s.me.region + 1 }
          ∧ t.myCore.ring hd.toNat = { r with pi := BitVec.ofNat 16 ((r.pi.toNat + n.toNat) % r.count.toNat),
                                              filled := BitVec.ofNat 17 (r.filled.toNat + n.toNat) })
    ∧ (s.heedless h [] → counted → made true → n.toNat ≤ r.filled.toNat → s.me.charge = none →
        ∃ t, exec (.radvc h n hd) s = .next t ∧ t.verdict = .issued ∧ others t ∧ t.me = { s.me with region := s.me.region + 1 }
          ∧ t.myCore.ring hd.toNat = { r with ci := BitVec.ofNat 16 ((r.ci.toNat + n.toNat) % r.count.toNat),
                                              filled := BitVec.ofNat 17 (r.filled.toNat - n.toNat) })
    ∧ (s.heedless h [] → ¬ counted → (made false → Faults (.radvp h n hd) s (ringFault hd.toNat n.toNat false))
        ∧ (made true → Faults (.radvc h n hd) s (ringFault hd.toNat n.toNat false)))
    ∧ (s.heedless h [] → (¬ made false → exec (.radvp h n hd) s = .next (s.holdMe false))
        ∧ (¬ made true → exec (.radvc h n hd) s = .next (s.holdMe false)))
    ∧ (s.heedless h [] → counted → made false → r.count.toNat < r.filled.toNat + n.toNat →
        Faults (.radvp h n hd) s (ringFault hd.toNat n.toNat false))
    ∧ (s.heedless h [] → counted → made true → r.filled.toNat < n.toNat → Faults (.radvc h n hd) s (ringFault hd.toNat n.toNat false))
    ∧ (s.ready h [] [] → counted → n.toNat ≤ r.count.toNat → s.me.charge = none →
        let got (filled : Bool) (now : Nat) : Stream :=
          { (s.acquire s.cur s.cycle (s.ringSeen (s.cur / 4) hd.toNat filled now n.toNat)).me with region := s.me.region + 1 }
        (n.toNat ≤ p.filled.toNat → Leaves (.rwaitf h n hd) s (got true r.filled.toNat))
        ∧ (p.filled.toNat < n.toNat → exec (.rwaitf h n hd) s = .next (s.holdMe false))
        ∧ (n.toNat ≤ p.count.toNat - p.filled.toNat → Leaves (.rwaite h n hd) s (got false (r.count.toNat - r.filled.toNat)))
        ∧ (p.count.toNat - p.filled.toNat < n.toNat → exec (.rwaite h n hd) s = .next (s.holdMe false)))
    ∧ (s.ready h [] [] → ¬ counted ∨ r.count.toNat < n.toNat → Faults (.rwaitf h n hd) s (ringFault hd.toNat n.toNat false)
        ∧ Faults (.rwaite h n hd) s (ringFault hd.toNat n.toNat false))

/-! ## System forms -/

/-- NOP has no effect; ROTZ sets ROTB to zero; WAIT n holds the next group until cycle c + 1 + n; YIELD marks its stream for the end of the cycle; QCUT
cancels the unstarted engine commands of earlier groups whose tags lie in its range; ICINV waits for its invalidation; HALT stops the stream, discards a
pending transfer, performs its writes at .V and ends its region; RDCYC writes the cycle count with latency 1. The figure of ICINV's wait is the
manual's unloaded one. R262: a TRAP that executes issues; its stream is parked with a pending record of code TRAP and KIND 1 that names the word, carries n and holds the
program counter at which the stream resumes; its launch's record count goes up by one; nothing else of the stream changes. -/
def Obligations.SystemForms : Prop :=
  (∀ (h : Hdr) (s : State),
    (s.ready h [] [] →
      Issues (.nop h) s s
      ∧ Issues (.rotz h) s (s.modMe (fun t => { t with rotb := 0 }))
      ∧ (∀ n : BitVec 16, Issues (.wait h n) s (s.modMe (fun t => { t with gate := { t.gate with cycle := s.cycle + 1 + n.toNat } })))
      ∧ Issues (.yield h) s (s.modMe (fun t => { t with gate := { t.gate with ynew := true, ycyc := s.cycle } }))
      ∧ (∀ hi lo : BitVec 6, Leaves (.qcut h hi lo) s { s.me with
            ldq := s.me.ldq.map (QEntry.cut lo.toNat hi.toNat s.cycle), mxq := s.me.mxq.map (QEntry.cut lo.toNat hi.toNat s.cycle),
            stq := s.me.stq.map (QEntry.cut lo.toNat hi.toNat s.cycle) })
      ∧ (∀ (sa : BitVec 5) (sc : BitVec 3), 1 < sc.toNat → Issues (.icinv h sa sc) s
          (s.modMe (fun t => { t with gate := { t.gate with retire := s.cycle + ([4, 136, 16, 220, 620].getD sc.toNat 620),
                                                            icinv := some (sc.toNat, s.S sa) } }))))
    ∧ (∀ (sa : BitVec 5) (sc : BitVec 3), s.ready h [s.me.sp sa] [] → sc.toNat ≤ 1 →
        ((s.S sa).toNat < 2 ^ 48 → Issues (.icinv h sa sc) s
          (s.modMe (fun t => { t with gate := { t.gate with retire := s.cycle + ([4, 136].getD sc.toNat 4), icinv := some (sc.toNat, s.S sa) } })))
        ∧ (2 ^ 48 ≤ (s.S sa).toNat → Faults (.icinv h sa sc) s { code := .perm, addr := s.S sa, info := 8 }))
    ∧ (∀ (e : QEntry) (lo hi now : Nat),
        (∀ tag, tagOf e.instr = some tag → lo ≤ tag → tag ≤ hi → e.entered < now → e.started = false →
          e.cut lo hi now = { e with cancel := true, fault := none })
        ∧ ((tagOf e.instr = none ∨ (∃ tag, tagOf e.instr = some tag ∧ (tag < lo ∨ hi < tag)) ∨ now ≤ e.entered ∨ e.started = true) →
          e.cut lo hi now = e))
    ∧ (s.ready h [] [] → s.me.task.killed = false → s.me.charge = none → (∀ e ∈ s.me.aq, e.fault = none) →
        ∃ t, exec (.halt h) s = .next t ∧ t.verdict = .issued
          ∧ t.me = { s.me with status := .halted, xfer := {}, region := s.me.region + 1 }
          ∧ (∀ k ∈ t.tracks, k.gsid = s.cur → k.write = true → 4 ≤ k.level) ∧ t.mem = s.mem ∧ t.myCore.tiles = s.myCore.tiles)
    ∧ (∀ sd : BitVec 5, s.ready h [] [(s.me.sp sd, 1)] →
        Issues (.rdcyc h sd) s (s.latch (s.me.sp sd) 1 ((BitVec.ofNat 64 s.cycle).setWidth 512)))
    ∧ (∀ u : State, u = s.tick → u.cycle = s.cycle + 1))
  ∧ (∀ (h : Hdr) (n : BitVec 16) (s : State), s.ready h [] [] →
    ∃ t r, exec (.trap h n) s = .next t ∧ t.verdict = .issued ∧ t.me.status = .parked ∧ t.me.pend = some r
      ∧ r.code = .trap ∧ r.kind = 1 ∧ r.gsid = s.cur ∧ r.word = s.word ∧ r.addr = n.setWidth 64
      ∧ (s.me.status ≠ .idle → r.pc = s.me.pc) ∧ r.num = (s.launchOf (s.cur / 4)).records + 1
      ∧ t.me.pc = s.me.pc ∧ t.me.s = s.me.s ∧ t.me.q = s.me.q ∧ t.me.latents = s.me.latents ∧ t.mem = s.mem)

/-- R259: SYSRD of each control register of R62 leaves a latent write of its value, with latency 2, and of an OCC register with latency 24; nothing
else changes. LC, EC, ROTB, CPID, JPAIR, HOMEMAP, the format registers, WAYMASK, INCCFG and ring lock read as State holds them. R62 and R259: SYSWR to LC, EC, ROTB and the ring lock sets them for any launch; to STRCTL, CCTL and CPID it sets their fields for a privileged launch,
or where nothing would change, and otherwise takes PERM with no effect. The value is seen by the next group, and nothing else changes. -/
def Obligations.ControlRegisters : Prop :=
  (∀ (h : Hdr) (sd : BitVec 5),
    WritesS (.sysrd h sd 0x100) h [] sd 2 (fun s => s.me.lc.setWidth 64)
    ∧ WritesS (.sysrd h sd 0x101) h [] sd 2 (fun s => s.me.ec.setWidth 64)
    ∧ WritesS (.sysrd h sd 0x102) h [] sd 2 (fun s => s.me.rotb.setWidth 64)
    ∧ WritesS (.sysrd h sd 0x010) h [] sd 2 (fun s => s.me.cpid.setWidth 64)
    ∧ WritesS (.sysrd h sd 0x040) h [] sd 2 (fun s => s.jpair)
    ∧ WritesS (.sysrd h sd 0x020) h [] sd 2 (fun s => s.homemaps.get 0 (s.ctxOf (s.cur / 4)))
    ∧ WritesS (.sysrd h sd 0x060) h [] sd 2 (fun s => s.myCore.ringLock.setWidth 64)
    ∧ (∀ n : BitVec 3, WritesS (.sysrd h sd (0x018 + n.setWidth 16)) h [] sd 2 (fun s => s.waymask.get 0xFFFFFFFFFFFFFFFF#64 n.toNat)
        ∧ WritesS (.sysrd h sd (0x030 + n.setWidth 16)) h [] sd 2 (fun s => s.fmtBase.get 0 n.toNat)
        ∧ WritesS (.sysrd h sd (0x038 + n.setWidth 16)) h [] sd 2 (fun s => s.fmtScale.get 0 n.toNat))
    ∧ (∀ n : BitVec 4, WritesS (.sysrd h sd (0x050 + n.setWidth 16)) h [] sd 2 (fun s => (s.incs.get {} n.toNat).cfg))
    ∧ (∀ reg : BitVec 16, 0x1000 ≤ reg.toNat → WritesS (.sysrd h sd reg) h [] sd 24
        (fun s => BitVec.ofNat 64 (s.occ (dieOf (s.cur / 4)) ((reg.toNat - 0x1000) / 8) ((reg.toNat - 0x1000) % 8))))
    ∧ (∀ s : State, s.ready h [] [(s.me.sp sd, 2)] → ∃ v w : Word,
        Issues (.sysrd h sd 1) s (s.latch (s.me.sp sd) 2 (v.setWidth 512)) ∧ v.getLsbD 0 = s.me.expchk ∧ v.getLsbD 1 = s.me.mark
        ∧ Issues (.sysrd h sd 2) s (s.latch (s.me.sp sd) 2 (w.setWidth 512)) ∧ w.getLsbD 0 = s.myCore.detmode ∧ w.getLsbD 1 = s.myCore.trsaw))
  ∧ (∀ (h : Hdr) (sa : BitVec 5) (s : State), s.ready h [s.me.sp sa] [] →
    let v := s.S sa
    let priv := (s.launchOf (s.cur / 4)).priv
    Issues (.syswr h sa 0x100) s (s.modMe (fun t => { t with lc := v.setWidth 32 }))
    ∧ Issues (.syswr h sa 0x101) s (s.modMe (fun t => { t with ec := v.setWidth 8 }))
    ∧ Issues (.syswr h sa 0x102) s (s.modMe (fun t => { t with rotb := v.setWidth 4 }))
    ∧ Issues (.syswr h sa 0x060) s (s.modMyCore (fun k => { k with ringLock := v.setWidth 16 }))
    ∧ ((priv = true ∨ v.getLsbD 0 = s.me.expchk ∧ v.getLsbD 1 = s.me.mark) →
        Issues (.syswr h sa 0x001) s (s.modMe (fun t => { t with expchk := v.getLsbD 0, mark := v.getLsbD 1 })))
    ∧ ((priv = true ∨ v.getLsbD 0 = s.myCore.detmode ∧ v.getLsbD 1 = s.myCore.trsaw) →
        Issues (.syswr h sa 0x002) s (s.modMyCore (fun k => { k with detmode := v.getLsbD 0, trsaw := v.getLsbD 1 })))
    ∧ ((priv = true ∨ v.extractLsb' 0 3 = s.me.cpid) → Issues (.syswr h sa 0x010) s (s.modMe (fun t => { t with cpid := v.extractLsb' 0 3 })))
    ∧ (priv = false →
        (v.getLsbD 0 ≠ s.me.expchk ∨ v.getLsbD 1 ≠ s.me.mark → Faults (.syswr h sa 0x001) s { code := .perm })
        ∧ (v.getLsbD 0 ≠ s.myCore.detmode ∨ v.getLsbD 1 ≠ s.myCore.trsaw → Faults (.syswr h sa 0x002) s { code := .perm })
        ∧ (v.extractLsb' 0 3 ≠ s.me.cpid → Faults (.syswr h sa 0x010) s { code := .perm })))

/-! ## Engine commands and the access queue: entering -/

/-- R75 and R144: MMA, MMA2, SLD, SSWAP, MROT, MFIX and MZERO, with fewer than 16 entries in the stream's MX queue, enter it as its newest entry with the
values of the S registers they read, executing or not (then as skipped work); no register, tile, scratchpad byte or memory byte changes. With 16 entries
the group is held. R75, R144 and R150: CPY.LD, GATH and FILL.LD enter the LD queue, CPY.ST, SCAT and FILL.ST the ST queue, with the values of SX, SY and SZ, executing or
not (then as skipped work), while it holds fewer than 16 entries; with 16 the group is held. Nothing but the queue and what counts its entries changes
(`Enters`). -/
def Obligations.EngineCommandsEnterQueues : Prop :=
  (∀ (h : Hdr) (ec : Ec) (sx sy : BitVec 5) (b : BitVec 3) (prof : BitVec 4) (ts : BitVec 1) (t : BitVec 6) (tv rdn : BitVec 4) (pk : BitVec 1) (s : State),
    let withX := [Instr.mmaDb8 h ec sx b prof ts t tv pk, .mmaDb4 h ec sx b prof ts t tv pk, .mmaI8 h ec sx b prof ts t tv pk,
      .mma2 h ec sx b prof ts t tv pk, .mfixF32 h ec sx b rdn 0 t tv, .mfixB16 h ec sx b rdn 0 t tv, .mfixI8 h ec sx b rdn 0 t tv,
      .mfixDb8 h ec sx b rdn 0 t tv, .mfixDb4 h ec sx b rdn 0 t tv]
    let withY := [Instr.sldDb8 h ec sy b, .sldDb4 h ec sy b, .sldI8 h ec sy b, .sldB16 h ec sy b]
    let bare := [Instr.sswap h ec b, .mrot h ec b, .mzero h ec b, .mfixF32 h ec sx b rdn 1 t tv, .mfixB16 h ec sx b rdn 1 t tv,
      .mfixI8 h ec sx b rdn 1 t tv, .mfixDb8 h ec sx b rdn 1 t tv, .mfixDb4 h ec sx b rdn 1 t tv]
    (s.me.mxq.length < 16 →
      (∀ i ∈ withX, (s.ready h [s.me.sp sx] [] → Enters i s 1 (s.S sx) 0 0 false) ∧ (s.off h → Enters i s 1 (s.S sx) 0 0 true))
      ∧ (∀ i ∈ withY, (s.ready h [s.me.sp sy] [] → Enters i s 1 0 (s.S sy) 0 false) ∧ (s.off h → Enters i s 1 0 (s.S sy) 0 true))
      ∧ (∀ i ∈ bare, (s.ready h [] [] → ∃ x, Enters i s 1 x 0 0 false) ∧ (s.off h → ∃ x, Enters i s 1 x 0 0 true)))
    ∧ (16 ≤ s.me.mxq.length → s.off h → ∀ i ∈ withX ++ withY ++ bare, exec i s = .next (s.holdMe false)))
  ∧ (∀ (h : Hdr) (ec : Ec) (sx sy sz : BitVec 5) (rd : BitVec 3) (hint : BitVec 2) (rowl : BitVec 6) (s : State),
    ∀ p ∈ [(Instr.cpyLd h ec sx sy sz rd hint, 0), (.gath h ec sx sy sz rd hint rowl, 0), (.fillLd h ec sx sy sz rd hint, 0),
           (.cpySt h ec sx sy sz rd hint, 2), (.scat h ec sx sy sz rd hint rowl, 2), (.fillSt h ec sx sy sz rd hint, 2)],
      ((s.me.queue p.2).length < 16 →
        (s.ready h [s.me.sp sx, s.me.sp sy, s.me.sp sz] [] → Enters p.1 s p.2 (s.S sx) (s.S sy) (s.S sz) false)
        ∧ (s.off h → Enters p.1 s p.2 (s.S sx) (s.S sy) (s.S sz) true))
      ∧ (16 ≤ (s.me.queue p.2).length → s.ready h [s.me.sp sx, s.me.sp sy, s.me.sp sz] [] → exec p.1 s = .next (s.holdMe false)))

/-- R156: CLINK.LD and CLINK.ST, executing with an address that is 64-byte aligned and below 2^48, 0 among them, issue and set the head of their unit, which keeps the stream's region as that of
the link (R274); PEND is set where the unit runs; nothing else of the stream, the core or memory changes. Another address takes ALIGN. CKICK issues in every case: it starts a unit that is idle and linked at its head, in the
stream's region, and leaves any other unit, and the other engine's, as it is. Predicated off, each issues with no effect. -/
def Obligations.ChainUnitsLinkAndKick : Prop :=
  ∀ (h : Hdr) (sy : BitVec 5) (s : State),
    (s.ready h [s.me.sp sy] [] → (s.S sy).toNat % 64 = 0 → (s.S sy).toNat < 2 ^ 48 →
      (∃ t, exec (.clinkLd h sy) s = .next t ∧ t.verdict = .issued ∧ OnlyMe s t ∧ t.me.ldChain.head = s.S sy
        ∧ t.me.ldChain.pend = (s.me.ldChain.pend || s.me.ldChain.run)
        ∧ t.me = { s.me with ldChain := { s.me.ldChain with
            head := s.S sy, pend := s.me.ldChain.pend || s.me.ldChain.run, linked := s.me.region, lclock := s.me.clock 4 } })
      ∧ (∃ t, exec (.clinkSt h sy) s = .next t ∧ t.verdict = .issued ∧ OnlyMe s t ∧ t.me.stChain.head = s.S sy
        ∧ t.me.stChain.pend = (s.me.stChain.pend || s.me.stChain.run)
        ∧ t.me = { s.me with stChain := { s.me.stChain with
            head := s.S sy, pend := s.me.stChain.pend || s.me.stChain.run, linked := s.me.region, lclock := s.me.clock 4 } }))
    ∧ (s.ready h [s.me.sp sy] [] → (s.S sy).toNat % 64 ≠ 0 ∨ 2 ^ 48 ≤ (s.S sy).toNat →
        Faults (.clinkLd h sy) s { code := .align, addr := s.S sy } ∧ Faults (.clinkSt h sy) s { code := .align, addr := s.S sy })
    ∧ (s.ready h [] [] →
        (∃ t, exec (.ckick h 0) s = .next t ∧ t.verdict = .issued ∧ OnlyMe s t ∧ t.me.stChain = s.me.stChain
          ∧ (s.me.ldChain.run = false → s.me.ldChain.head ≠ 0 → t.me = { s.me with ldChain := { s.me.ldChain with
              cur := s.me.ldChain.head, run := true, entry := none, fp := none, waited := false, prog := 0, region := s.me.region, kicked := s.cycle,
              cpid := s.me.cpid.toNat, clock := s.me.clock 4 } })
          ∧ (s.me.ldChain.run = true ∨ s.me.ldChain.head = 0 → t.me = s.me))
        ∧ (∃ t, exec (.ckick h 1) s = .next t ∧ t.verdict = .issued ∧ OnlyMe s t ∧ t.me.ldChain = s.me.ldChain
          ∧ (s.me.stChain.run = false → s.me.stChain.head ≠ 0 → t.me = { s.me with stChain := { s.me.stChain with
              cur := s.me.stChain.head, run := true, entry := none, fp := none, waited := false, prog := 0, region := s.me.region, kicked := s.cycle,
              cpid := s.me.cpid.toNat, clock := s.me.clock 4 } })
          ∧ (s.me.stChain.run = true ∨ s.me.stChain.head = 0 → t.me = s.me)))
    ∧ (s.off h → ∀ i ∈ [Instr.clinkLd h sy, .clinkSt h sy, .ckick h 0, .ckick h 1], Issues i s s)

/-- R145 and R146: TKSEND enters a marker in a queue with room and is held by a full one. TKWAIT on LD, MX or ST pops the oldest reply token and waits
without one; on AQ it pops the oldest operation once that has performed in an earlier cycle, and its reply value lands in the register that the operation
named after one cycle, or it delivers the fault that the operation holds. A pop ends the region. -/
def Obligations.MarkersAndReplyTokens : Prop :=
  ∀ (h : Hdr) (q : BitVec 2) (s : State), s.heedless h [] →
    ((s.me.queue q.toNat).length < 16 → ∃ t e, exec (.tksend h q) s = .next t ∧ t.verdict = .issued ∧ OnlyMe s t
      ∧ t.me.queue q.toNat = s.me.queue q.toNat ++ [e] ∧ e.instr = .tksend h q ∧ e.skip = false
      ∧ (∀ p < 4, p ≠ q.toNat → t.me.queue p = s.me.queue p) ∧ t.me.s = s.me.s ∧ t.me.q = s.me.q ∧ t.me.latents = s.me.latents)
    ∧ (16 ≤ (s.me.queue q.toNat).length → q ≠ 3 → exec (.tksend h q) s = .next (s.holdMe false))
    ∧ (q ≠ 3 → s.me.charge = none → ∀ c r, s.me.replies.get [] q.toNat = c :: r → ∃ t, exec (.tkwait h q) s = .next t ∧ t.verdict = .issued
        ∧ OnlyMe s t ∧ t.me.replies.get [] q.toNat = r ∧ t.me.region = s.me.region + 1 ∧ t.me.clock 4 = (s.me.clock 4).join c
        ∧ t.me.s = s.me.s ∧ t.me.q = s.me.q ∧ t.me.latents = s.me.latents)
    ∧ (q ≠ 3 → s.me.replies.get [] q.toNat = [] → exec (.tkwait h q) s = .next (s.holdMe false))
    ∧ (∀ e r, q = 3 → s.me.aq = e :: r → e.fault = none → e.done = true → e.since < s.cycle → s.me.charge = none → e.idx = [] →
        (s.me.expchk = true → ∀ l ∈ s.me.latents, l.issued < s.cycle → l.reg = .s e.dest → l.due ≤ s.cycle + 1) →
        ∃ t, exec (.tkwait h q) s = .next t ∧ t.verdict = .issued ∧ OnlyMe s t ∧ t.me.aq = s.me.aq.filter (fun x => x.number != e.number)
          ∧ t.me.region = s.me.region + 1 ∧ t.me.s = s.me.s
          ∧ (e.reply = none → t.me.latents = s.me.latents)
          ∧ (∀ v : BitVec 128, e.reply = some v → e.dest ≠ 0 →
              t.me.latents = s.me.latents ++ [⟨.s e.dest, some ((v.setWidth 64).setWidth 512), s.cycle, s.cycle + 1⟩]))
    ∧ (∀ e r f, q = 3 → s.me.aq = e :: r → e.fault = some f → Faults (.tkwait h q) s f)
    ∧ (q = 3 → s.me.aq = [] → exec (.tkwait h q) s = .next (s.holdMe false))

/-- R283 to R286: a GLD, GST, atomic, APROM, LINV, LWB, PF, FENCE or DVRED that executes, at an address below 2^48 that is aligned to its width (where it
checks one), enters the access queue with the values of its registers; an address of 2^48 or more takes PERM and a misaligned one ALIGN, with ADDR the
address and no effect. Predicated off, all but PF enter as skipped work, unchecked. R270 and R272: with 16 entries in the access queue and no held fault, a form of the queue is held; where an entry holds a fault, the waiting group
delivers it. -/
def Obligations.AccessFormsEnterQueue : Prop :=
  (∀ (h : Hdr) (a : Aq) (s : State),
    let va := s.S a.sa + a.off.signExtend 64
    let sources (r : List (BitVec 5)) : List PReg := r.map s.me.sp
    let enters (i : Instr) (skip : Bool) : Prop := Enters i s 3 (s.S a.sa) (s.S a.sb) (s.S a.sd) skip
    let two := [Instr.aaddN32 h a, .afaddF32 h a, .afaddB16 h a, .aminI32 h a, .aminN32 h a, .amaxI32 h a, .amaxN32 h a, .aandN32 h a, .aorN32 h a,
      .axorN32 h a, .axchgN32 h a]
    let two8 := [Instr.aaddN64 h a, .aminI64 h a, .aminN64 h a, .amaxI64 h a, .amaxN64 h a, .aandN64 h a, .aorN64 h a, .axorN64 h a, .axchgN64 h a]
    let forms : List (Instr × List (BitVec 5) × Nat) :=
      [(.gld h a, [a.sa], widthOf a.wk), (.gst h a, [a.sa, a.sb], widthOf a.wk), (.aprom h a, [a.sa], 8)]
        ++ two.map (fun i => (i, [a.sa, a.sb], 4)) ++ two8.map (fun i => (i, [a.sa, a.sb], 8))
        ++ [(.axchgN128 h a, [a.sa, a.sb, a.sb + 1], 16), (.acasN32 h a, [a.sa, a.sb, a.sd], 4), (.acasN64 h a, [a.sa, a.sb, a.sd], 8),
            (.acasN128 h a, [a.sa, a.sb, a.sb + 1, a.sd, a.sd + 1], 16)]
    (∀ p ∈ forms,
      (s.ready h (sources p.2.1) [] → va.toNat < 2 ^ 48 → va.toNat % p.2.2 = 0 → s.me.aq.length < 16 → enters p.1 false)
      ∧ (s.ready h (sources p.2.1) [] → 2 ^ 48 ≤ va.toNat → ∃ f, Faults p.1 s f ∧ f.code = .perm ∧ f.addr = va)
      ∧ (s.ready h (sources p.2.1) [] → va.toNat < 2 ^ 48 → va.toNat % p.2.2 ≠ 0 → ∃ f, Faults p.1 s f ∧ f.code = .align ∧ f.addr = va)
      ∧ (s.off h → s.me.aq.length < 16 → enters p.1 true))
    ∧ (∀ i ∈ [Instr.linv h a, .lwb h a],
      (s.ready h (sources [a.sa]) [] → (s.S a.sa).toNat < 2 ^ 48 → s.me.aq.length < 16 → enters i false)
      ∧ (s.ready h (sources [a.sa]) [] → 2 ^ 48 ≤ (s.S a.sa).toNat → ∃ f, Faults i s f ∧ f.code = .perm ∧ f.addr = s.S a.sa)
      ∧ (s.off h → s.me.aq.length < 16 → enters i true))
    ∧ (s.ready h (sources [a.sa]) [] → s.me.aq.length < 16 → enters (.pf h a) false ∧ enters (.dvred h a) false)
    ∧ (s.ready h [] [] → s.me.aq.length < 16 → enters (.fence h a) false)
    ∧ (s.off h → s.me.aq.length < 16 → enters (.dvred h a) true ∧ enters (.fence h a) true))
  ∧ (∀ (h : Hdr) (a : Aq) (s : State), s.off h → 16 ≤ s.me.aq.length →
    ∀ i ∈ [Instr.gld h a, .gst h a, .aaddN64 h a, .acasN128 h a, .fence h a, .dvred h a, .tspawn h a, .imprv h a, .jrec h a],
      ((∀ e ∈ s.me.aq, e.fault = none) → exec i s = .next (s.holdMe false))
      ∧ (∀ f, s.me.aq.findSome? (fun e => e.fault) = some f → Faults i s f))

/-- TSPAWN, TSTAGE, JOIN, LEAVE, GCOUNT, IMPRV, IREAD, JREC, JWAIT, EMIT and JTRUNC that execute, and TJOIN and BARG whatever their predicate, enter the access
queue with the values of their registers where the address they name is aligned and in range; predicated off, the first enter as skipped work. -/
def Obligations.TaskFormsEnterQueue : Prop :=
  ∀ (h : Hdr) (a : Aq) (s : State), s.me.aq.length < 16 →
    let x := s.S a.sa
    let va := x + a.off.signExtend 64
    let sources (r : List (BitVec 5)) : List PReg := r.map s.me.sp
    let enters (i : Instr) (skip : Bool) : Prop := Enters i s 3 (s.S a.sa) (s.S a.sb) (s.S a.sd) skip
    (s.ready h (sources [a.sa]) [] → x.toNat < 2 ^ 48 → x.toNat % 32 = 0 → enters (.tspawn h a) false)
    ∧ (s.ready h (sources [a.sa]) [] → x.toNat < 2 ^ 48 → x.toNat % 16 = 0 → enters (.tstageImm h a) false)
    ∧ (s.ready h (sources [a.sa, a.sb]) [] → x.toNat < 2 ^ 48 → x.toNat % 16 = 0 → (s.S a.sb).toNat < 16 → enters (.tstageReg h a) false)
    ∧ (s.heedless h (sources [a.sa]) → x.toNat < 2 ^ 48 → x.toNat % 32 = 0 → enters (.tjoin h a) false)
    ∧ (s.ready h (sources [a.sb]) [] → enters (.joinReg h a) false ∧ enters (.leaveReg h a) false ∧ enters (.gcountReg h a) false)
    ∧ (s.ready h [] [] → enters (.joinImm h a) false ∧ enters (.leaveImm h a) false ∧ enters (.gcountImm h a) false ∧ enters (.iread h a) false)
    ∧ (s.heedless h (sources [a.sb]) → enters (.bargReg h a) false)
    ∧ (s.heedless h [] → enters (.bargImm h a) false)
    ∧ (s.ready h (sources [a.sa, a.sb]) [] → enters (.imprv h a) false ∧ enters (.jtrunc h a) false)
    ∧ (s.ready h (sources [a.sa, a.sb]) [] → x.toNat % 32 = 0 → (s.S a.sb).toNat % 8 = 0 → x.toNat + 31 ≤ 0x5FFFF → enters (.jrec h a) false)
    ∧ (s.ready h (sources [a.sa, a.sb]) [] → x.toNat % 32 ≠ 0 → Faults (.jrec h a) s { code := .align, addr := x, info := 4 })
    ∧ (s.ready h (sources [a.sa]) [] → enters (.jwait h a) false)
    ∧ (s.ready h (sources [a.sa, a.sb]) [] → va.toNat < 2 ^ 48 → va.toNat % 4 = 0 → enters (.emitN32 h a) false)
    ∧ (s.ready h (sources [a.sa, a.sb]) [] → va.toNat < 2 ^ 48 → va.toNat % 8 = 0 → enters (.emitN64 h a) false)
    ∧ (s.off h → ∀ i ∈ [Instr.tspawn h a, .tstageReg h a, .tstageImm h a, .joinReg h a, .joinImm h a, .leaveReg h a, .leaveImm h a, .gcountReg h a,
        .gcountImm h a, .imprv h a, .iread h a, .jrec h a, .jwait h a, .emitN32 h a, .emitN64 h a, .jtrunc h a], enters i true)

/-- R259: for a privileged launch, SYSWR to HOMEMAP, FMT.SCALE.n, FMT.BASE.n, WAYMASK.n and INCCFG.n issues, sets the register without its reserved bits
and closes the stream's gate until the retirement; HOMEMAP also copies the home-map table, or frees the arrays. Without
privilege a write that would change the register takes PERM, as does one that R89 refuses: FMT.SCALE.n while EN is 1, and EN set with COUNT 0, with ranges not
both in the populated part of one stack slot, or with ranges that overlap each other's or another region's in force. That an INCCFG takes effect at the end of the
cycle of its issue, and that the next group waits for the cycle after, is read into R335 and R259 (log entry 36, DEDUCED). -/
def Obligations.LateControlWrites : Prop :=
  ∀ (h : Hdr) (sa : BitVec 5) (n : BitVec 3) (k : BitVec 4) (s : State), s.ready h [s.me.sp sa] [] →
    let v := s.S sa
    let priv := (s.launchOf (s.cur / 4)).priv
    let ctx := s.ctxOf (s.cur / 4)
    let holds (t : State) : Prop := t.verdict = .issued ∧ t.me.gate.retire = s.cycle + 1 ∧ t.me.s = s.me.s ∧ t.me.latents = s.me.latents
      ∧ (∀ g, g ≠ s.cur → t.stream g = s.stream g)
    let waits (t : State) : Prop := holds t ∧ t.mem = s.mem
    let within (r : Nat × Nat) (pa : Nat) : Prop := r.1 ≤ pa ∧ pa < r.1 + r.2
    let data := fmtData (v &&& 0xCFFFFFFFFFFFFFFF#64)
    let scales := fmtScales (v &&& 0xCFFFFFFFFFFFFFFF#64) (s.fmtScale.get 0 n.toNat)
    let apart (a b : Nat × Nat) : Prop := a.1 + a.2 ≤ b.1 ∨ b.1 + b.2 ≤ a.1
    let sound : Prop := data.2 ≠ 0 ∧ (∃ st < 8, ∀ r ∈ [data, scales], st * 2 ^ 36 ≤ r.1 ∧ r.1 + r.2 ≤ st * 2 ^ 36 + 0xC00000000) ∧ apart data scales
      ∧ ∀ m < 8, m ≠ n.toNat → (s.fmtBase.get 0 m).getLsbD 63 = true → ∀ r ∈ [data, scales],
          apart (fmtData (s.fmtBase.get 0 m)) r ∧ apart (fmtScales (s.fmtBase.get 0 m) (s.fmtScale.get 0 m)) r
    (priv = true →
      (∃ t, exec (.syswrHomemap h sa) s = .next t ∧ waits t ∧ t.homemaps.get 0 ctx = v &&& 0x00003FFFFFFFF001#64
        ∧ (∀ c, c ≠ ctx → t.homemaps.get 0 c = s.homemaps.get 0 c ∧ t.hmArrays.find? c = s.hmArrays.find? c)
        ∧ (v.getLsbD 0 = false → t.hmArrays.find? ctx = none) ∧ (v.getLsbD 0 = true → (t.hmArrays.find? ctx).isSome = true))
      ∧ (∃ t, exec (.syswrWaymask h sa n) s = .next t ∧ waits t ∧ t.waymask.get 0 n.toNat = v
        ∧ ∀ m, m ≠ n.toNat → t.waymask.get 0xFFFFFFFFFFFFFFFF#64 m = s.waymask.get 0xFFFFFFFFFFFFFFFF#64 m)
      ∧ (∃ t, exec (.syswrInccfg h sa k) s = .next t ∧ waits t ∧ t.incNew = s.incNew ++ [(k.toNat, v &&& 0xE0000FFFFFFFFFFF#64)])
      ∧ ((s.fmtBase.get 0 n.toNat).getLsbD 63 = false → ∃ t, exec (.syswrFmtScale h sa n) s = .next t ∧ waits t
        ∧ t.fmtScale.get 0 n.toNat = v &&& 0x00003FFFFFFFFFC0#64 ∧ ∀ m, m ≠ n.toNat → t.fmtScale.get 0 m = s.fmtScale.get 0 m)
      ∧ (v.getLsbD 63 = false ∨ sound → ∃ t, exec (.syswrFmtBase h sa n) s = .next t ∧ holds t
        ∧ ((∀ e ∈ s.l2.entries, ¬ within (fmtData (s.fmtBase.get 0 n.toNat)) e.2.pa ∧ ¬ within (fmtData (v &&& 0xCFFFFFFFFFFFFFFF#64)) e.2.pa) → t.mem = s.mem)
        ∧ t.fmtBase.get 0 n.toNat = v &&& 0xCFFFFFFFFFFFFFFF#64 ∧ ∀ m, m ≠ n.toNat → t.fmtBase.get 0 m = s.fmtBase.get 0 m)
      ∧ (v.getLsbD 63 = true → ¬ sound → Faults (.syswrFmtBase h sa n) s { code := .perm })
      ∧ ((s.fmtBase.get 0 n.toNat).getLsbD 63 = true → Faults (.syswrFmtScale h sa n) s { code := .perm }))
    ∧ (priv = false →
      (v ≠ s.waymask.get 0xFFFFFFFFFFFFFFFF#64 n.toNat → Faults (.syswrWaymask h sa n) s { code := .perm })
      ∧ (v &&& 0x00003FFFFFFFF001#64 ≠ s.homemaps.get 0 ctx → Faults (.syswrHomemap h sa) s { code := .perm })
      ∧ (v &&& 0xE0000FFFFFFFFFFF#64 ≠ (s.incs.get {} k.toNat).cfg → Faults (.syswrInccfg h sa k) s { code := .perm })
      ∧ (v &&& 0x00003FFFFFFFFFC0#64 ≠ s.fmtScale.get 0 n.toNat → Faults (.syswrFmtScale h sa n) s { code := .perm })
      ∧ (v &&& 0xCFFFFFFFFFFFFFFF#64 ≠ s.fmtBase.get 0 n.toNat → Faults (.syswrFmtBase h sa n) s { code := .perm }))

/-- R227: CONF sets FIX or CFG of its slab's shadow set, and a command that starts a tile takes the shadow set as it stands at its issue. R260: SNAP writes the
sheet register as it stood at the end of the cycle before, with latency 4. R354: a privileged SYSWR that clears JPAIR.EN once every die's journal is durable
sets JPAIR, and one that pairs a valid partner sets it and puts the routes in force; one that sets EN while it is set, with LOGSZ outside 20 to 36, with NEGBASE
misaligned, with PDEV naming the device itself, or while a JROUTE breaks a limit takes JOURNAL with no effect. -/
def Obligations.ConfigurationAndSheet : Prop :=
  ∀ (h : Hdr) (sa sd : BitVec 5) (reg : BitVec 16) (s : State),
    (s.ready h [s.me.sp sa] [] → ∃ t, exec (.conf h sa reg) s = .next t ∧ t.verdict = .issued ∧ t.me = s.me ∧ t.mem = s.mem
      ∧ (reg.toNat % 16 < 8 → t.myCore.slab (reg.toNat % 8) = { s.myCore.slab (reg.toNat % 8) with fixSh := s.S sa &&& 0x1FF#64 })
      ∧ (8 ≤ reg.toNat % 16 → t.myCore.slab (reg.toNat % 8) = { s.myCore.slab (reg.toNat % 8) with cfgSh := s.S sa &&& 1#64 })
      ∧ (∀ b, b ≠ reg.toNat % 8 → t.myCore.slab b = s.myCore.slab b))
    ∧ (∀ (ec : Ec) (sx : BitVec 5) (b : BitVec 3) (prof : BitVec 4) (ta : BitVec 6) (tv : BitVec 4) (pk : BitVec 1), s.ready h [s.me.sp sx] [] →
        s.me.mxq.length < 16 → ∃ t e, exec (.mmaDb8 h ec sx b prof 1 ta tv pk) s = .next t ∧ t.me.mxq = s.me.mxq ++ [e]
          ∧ e.conf = (s.myCore.slab b.toNat).fixSh ∧ e.conf2 = (s.myCore.slab b.toNat).cfgSh)
    ∧ WritesS (.snap h sd reg) h [] sd 4 (fun s => s.sheetWord (s.cur / 4) (s.before.get {} (s.cur / 4)) (8 * reg.toNat))
    ∧ (s.ready h [s.me.sp sa] [] → (s.launchOf (s.cur / 4)).priv = true → (s.S sa).getLsbD 63 = false →
        (∀ d ∈ [0, 1, 2, 3], (s.jnOf d).lastn ≤ (s.jnOf d).dur) →
        ∃ t, exec (.syswrJpair h sa) s = .next t ∧ t.verdict = .issued ∧ t.jpair = jMask (s.S sa) ∧ jEn t.jpair = false ∧ t.mem = s.mem
          ∧ t.me = s.me)
    ∧ (s.ready h [s.me.sp sa] [] → (s.launchOf (s.cur / 4)).priv = true → (s.S sa).getLsbD 63 = true →
        let v := jMask (s.S sa)
        let valid : Prop := jEn s.jpair = false ∧ 20 ≤ jLogsz v ∧ jLogsz v ≤ 36 ∧ jNegbase v % 2 ^ jLogsz v = 0 ∧ jPdev v ≠ s.devnum
          ∧ ∀ d ∈ [0, 1, 2, 3], jrouteOk (s.jnOf d).jroute = true
        (valid → ∃ t, exec (.syswrJpair h sa) s = .next t ∧ t.verdict = .issued ∧ t.jpair = v ∧ jEn t.jpair = true ∧ t.mem = s.mem ∧ t.me = s.me
          ∧ ∀ d ∈ [0, 1, 2, 3], (t.jnOf d).route = (s.jnOf d).jroute ∧ (t.jnOf d).lastn = (s.jnOf d).lastn ∧ (t.jnOf d).ring = (s.jnOf d).ring)
        ∧ (¬ valid → Faults (.syswrJpair h sa) s (journalFault 0 0)))

/-- TEND ends the item: the stream waits at TEND, its region ends and an open segment closes. KCHK of a stream that runs an item sets its bound and marks it
killed where the shadow dominates the bound. JRESEAT of a privileged launch, to a valid partner with no reseat in progress, sets JPAIR and starts the
reseat of every die. SEG opens a segment; SEGEND closes it where count and signature agree; a SEG within an open segment, a SEGEND outside one, and a wrong count
or signature park every stream of the core that has started and not halted, each with a core-context record of code SEGMENT, whose bit 63 of INFO says a misplaced
SEG or SEGEND (R376, R388). -/
def Obligations.TaskAndSegmentForms : Prop :=
  ∀ (h : Hdr) (a : Aq) (count : BitVec 19) (sig : BitVec 32) (s : State),
    let segment (i : Instr) (misplaced : Bool) : Prop := ∃ t, exec i s = .next t ∧ t.verdict = .faulted ∧ t.myCore.ctxFault = true ∧ t.mem = s.mem
      ∧ ∀ j < 4, (s.stream (4 * (s.cur / 4) + j)).faultable = true → (t.stream (4 * (s.cur / 4) + j)).status = .parked
          ∧ ∃ r, (t.stream (4 * (s.cur / 4) + j)).coreRec = some r ∧ r.code = .segment ∧ r.kind = 2 ∧ r.info.getLsbD 63 = misplaced
    (s.ready h [] [] → s.me.task.killed = false → s.me.charge = none → (∀ e ∈ s.me.aq, e.fault = none) →
      Leaves (.tend h) s { s.me with status := .atTend, xfer := {}, seg := { s.me.seg with isOpen := false }, region := s.me.region + 1 })
    ∧ (s.ready h [s.me.sp a.sa] [] → s.me.task.active = true → Leaves (.kchk h a) s { s.me with task := { s.me.task with
        bound := (s.S a.sa).setWidth 32, inc := a.off.setWidth 4, ben := true,
        killed := s.me.task.killed || s.dominated (s.cur / 4) (a.off.toNat % 16) ((s.S a.sa).setWidth 32) none } })
    ∧ (s.ready h [s.me.sp a.sa] [] → s.me.task.active = false → Issues (.kchk h a) s s)
    ∧ (s.ready h [s.me.sp a.sa] [] → (s.launchOf (s.cur / 4)).priv = false → Faults (.jreseat h a) s { code := .perm })
    ∧ (s.ready h [s.me.sp a.sa] [] → (s.launchOf (s.cur / 4)).priv = true → jEn s.jpair = true → jEn (s.S a.sa) = true →
        jLogsz (s.S a.sa) = jLogsz s.jpair → jNegbase (s.S a.sa) % 2 ^ jLogsz (s.S a.sa) = 0 → jPdev (s.S a.sa) ≠ s.devnum →
        (∀ d ∈ [0, 1, 2, 3], jrouteOk (s.jnOf d).jroute = true ∧ (s.jnOf d).reseat = false) →
        ∃ t, exec (.jreseat h a) s = .next t ∧ t.verdict = .issued ∧ t.jpair = jMask (s.S a.sa) ∧ t.me = s.me ∧ t.mem = s.mem
          ∧ ∀ d ∈ [0, 1, 2, 3], (t.jnOf d).reseat = true ∧ (t.jnOf d).tail = (s.jnOf d).ring.live ∧ (t.jnOf d).ring = (s.jnOf d).ring)
    ∧ (s.ready h [] [] → (s.me.task.active = false ∨ s.me.task.ben = false) →
        (s.me.seg.isOpen = false → Leaves (.seg h count sig) s { s.me with seg := ⟨true, 0, 0xFFFFFFFF#32, count, sig⟩ })
        ∧ (s.me.seg.isOpen = true → segment (.seg h count sig) true))
    ∧ (s.ready h [] [] → s.me.seg.isOpen = false → segment (.segend h) true)
    ∧ (s.ready h [] [] → s.me.seg.isOpen = true →
        (s.me.seg.n = s.me.seg.count.toNat → (s.me.seg.crc ^^^ 0xFFFFFFFF#32) = s.me.seg.sig →
          Leaves (.segend h) s { s.me with seg := { s.me.seg with isOpen := false } })
        ∧ (s.me.seg.n ≠ s.me.seg.count.toNat ∨ (s.me.seg.crc ^^^ 0xFFFFFFFF#32) ≠ s.me.seg.sig → segment (.segend h) false))
/-! ## Memory -/

/-- R4: in a memory in canonical form, the low `n` bytes of `v` written from `a` read back as `v` modulo 256^n, byte `a + i` holding bits 8i + 7 to 8i; every
byte outside them reads as before; and the memory stays in canonical form, so that equal memories are equal data. What an unlisted byte reads as is the
model's choice (log entry 5). The canonical form is one form: two memories that hold it and in which every byte reads the same are the same data. The form is the model's own (log
entry 5). -/
def Obligations.MemoryReadsBackCanonically : Prop :=
  (∀ (m : List Host.Cell) (a n v : Nat), Memory.wf m = true →
    Memory.wf (Memory.setNat m a n v) = true
    ∧ Memory.getNat (Memory.setNat m a n v) a n = v % 256 ^ n
    ∧ (∀ i < n, Memory.get (Memory.setNat m a n v) (a + i) = BitVec.ofNat 8 (v / 256 ^ i))
    ∧ (∀ b, b < a ∨ a + n ≤ b → Memory.get (Memory.setNat m a n v) b = Memory.get m b))
  ∧ (∀ m n : List Host.Cell, Memory.wf m = true → Memory.wf n = true → (∀ a, Memory.get m a = Memory.get n a) → m = n)

/-- From every state whose device memory and host memory are in canonical form, whatever move is next and whatever arrives from outside, a step that answers a
next state answers one in which they are. The form is the model's own (log entry 5). -/
def Obligations.StepKeepsMemoryForm : Prop :=
  ∀ s t : State, s.memOk → step s = .next t → t.memOk

/-- R418 and R261: after reset the cycle count is 0, the device is in boot phase 0 with no error, no launch exists, no stream has started and no interrupt of the
host is pending. The registers for which the manual gives no reset value read zero by the model's choice (log entries 4 and 5); ECTL reads THRESH 3 and WINDOW
36,621, as R393 states. Memory lists nothing and is in canonical form. -/
def Obligations.ResetState : Prop :=
  State.reset.memOk ∧ State.reset.cycle = 0 ∧ State.reset.readReg .bootst = 0 ∧ State.reset.launches.keys = []
  ∧ (∀ g, (State.reset.stream g).status = .never ∧ (State.reset.stream g).pend = none)
  ∧ (∀ g n, (State.reset.stream g).sreg n = 0 ∧ (State.reset.stream g).mreg 0 = 0)
  ∧ (∀ g, (State.reset.stream g).lc = 0 ∧ (State.reset.stream g).ec = 0 ∧ (State.reset.stream g).rotb = 0)
  ∧ (∀ k, State.reset.ectl k = 0x0000000300008F0D#64)
  ∧ (∀ a, Memory.get State.reset.mem a = 0) ∧ State.reset.host.pending = 0

/-- A word of any group issues without changing memory: memory is changed only where a queued operation, an engine or an event performs. So for every instruction
that a word encodes, and every state, no byte, poison bit, side field or tag of memory changes when the word is evaluated, unless the word is a SYSWR to FMT.BASE,
which writes back the lines of the old and the new region (R89). -/
def Obligations.IssueLeavesMemoryAlone : Prop :=
  ∀ (i : Instr) (s t : State), i.isEvent = false → (∀ h sa n, i ≠ .syswrFmtBase h sa n) → exec i s = .next t → SameMemory s t

/-- R283: a plain GLD at the head whose line or page can be read (`State.look`, R81), that names memory, races with nothing, finds room for the tracking state that it
spills and meets no poisoned line, performs: its reply
token carries the bytes at its place, extended by their kind, as they stand when the caches have answered; with no format region in force no byte of memory
changes and the value is that of the bytes before. -/
def Obligations.LoadsPerform : Prop :=
  ∀ (s u : State) (g : Nat) (e : QEntry) (h : Hdr) (a : Aq) (p : Place),
    e.instr = .gld h a → e.skip = false → e.cancel = false → a.ord = 0 →
    let va := e.x + a.off.signExtend 64
    let n := widthOf a.wk
    let w := s.aqWho g e a
    s.look (g / 4) va .read = .ok (p, u) → p.isDevice = false → s.raceRange w p va n false true = none →
    s.noShadow w (u.touchRead (g / 4) w p n) = false →
    (∀ k < 8, (s.fmtBase.get 0 k).getLsbD 63 = false) → s.poisoned p.pa = false →
    (∀ e' ∈ (s.stream g).aq, e'.number = e.number → e' = e) → e ∈ (s.stream g).aq →
    ∃ e', e' ∈ ((s.aqMake g e).stream g).aq ∧ e'.number = e.number ∧ e'.done = true ∧ e'.fault = e.fault
      ∧ e'.reply = some ((wkExtend a.wk (Memory.getNat s.mem p.pa n)).setWidth 128)
      ∧ (∀ b, Memory.get (s.aqMake g e).mem b = Memory.get s.mem b)

/-- R283: a plain GST at the head whose line or page can be written (`State.look`, R81), that names memory, races with nothing and finds room for the tracking state
that it spills, performs: the bytes from its place hold the
low bytes of Sb; with no format region in force every other byte of memory reads as before; its entry is done. -/
def Obligations.StoresPerform : Prop :=
  ∀ (s u : State) (g : Nat) (e : QEntry) (h : Hdr) (a : Aq) (p : Place), s.memOk →
    e.instr = .gst h a → e.skip = false → e.cancel = false → a.ord = 0 →
    let va := e.x + a.off.signExtend 64
    let n := widthOf a.wk
    let w := s.aqWho g e a
    s.look (g / 4) va .write = .ok (p, u) → p.isDevice = false → s.raceRange w p va n true true = none →
    s.noShadow w (u.touchWrite (g / 4) w p n).1 = false →
    (∀ k < 8, (s.fmtBase.get 0 k).getLsbD 63 = false) →
    (∀ e' ∈ (s.stream g).aq, e'.number = e.number → e' = e) → e ∈ (s.stream g).aq →
    let t := s.aqMake g e
    Memory.getNat t.mem p.pa n = e.y.toNat % 2 ^ (8 * n)
    ∧ (∀ b, b < p.pa ∨ p.pa + n ≤ b → Memory.get t.mem b = Memory.get s.mem b)
    ∧ ∃ e', e' ∈ (t.stream g).aq ∧ e'.number = e.number ∧ e'.done = true ∧ e'.reply = none

/-- R285: with old value M and operand B of w bits, AADD writes M + B modulo 2^w, AMIN and AMAX the lesser and the greater of the two, signed or unsigned, AAND,
AOR and AXOR the bitwise results, AXCHG B, and ACAS B where M equals the compare value and nothing otherwise; the reply carries M, sign-extended for the signed
forms and zero-extended for the others. AFADD writes the sum rounded once to nearest even, of F32 elements or of two B16 elements side by side: a NaN operand, or infinities of both signs,
give the canonical NaN, an infinity stays, and an exact sum of zero from opposite signs is +0 (R180 to R183). R285 and R286: an atomic without ordering at the head, whose page can be read and written, that names memory of this device, races with nothing, finds room for the tracking state that it spills and meets no
poisoned line, performs: with M the old value at its place, the bytes there become the operation's new value, or stay where it writes nothing; with no format
region in force no other byte changes; its entry is done with the reply of M. -/
def Obligations.AtomicsPerform : Prop :=
  ((∀ n ∈ [4, 8, 16], ∀ (sg : Bool) (m b c : Nat), m < 2 ^ (8 * n) → b < 2 ^ (8 * n) →
    atomicNew .add n sg m b c = some ((m + b) % 2 ^ (8 * n))
    ∧ atomicNew .min n false m b c = some (min m b) ∧ atomicNew .max n false m b c = some (max m b)
    ∧ (∃ v, atomicNew .min n true m b c = some v
        ∧ (BitVec.ofNat (8 * n) v).toInt = min (BitVec.ofNat (8 * n) m).toInt (BitVec.ofNat (8 * n) b).toInt)
    ∧ (∃ v, atomicNew .max n true m b c = some v
        ∧ (BitVec.ofNat (8 * n) v).toInt = max (BitVec.ofNat (8 * n) m).toInt (BitVec.ofNat (8 * n) b).toInt)
    ∧ (∃ v, atomicNew .and n sg m b c = some v ∧ ∀ k, v.testBit k = (m.testBit k && b.testBit k))
    ∧ (∃ v, atomicNew .or n sg m b c = some v ∧ ∀ k, v.testBit k = (m.testBit k || b.testBit k))
    ∧ (∃ v, atomicNew .xor n sg m b c = some v ∧ ∀ k, v.testBit k = (m.testBit k ^^ b.testBit k))
    ∧ atomicNew .xchg n sg m b c = some b
    ∧ atomicNew .cas n sg m b m = some b ∧ (m ≠ c → atomicNew .cas n sg m b c = none))
  ∧ (∀ (sg : Bool) (m b c : Nat), m < 2 ^ 32 → b < 2 ^ 32 →
    (f32.decode m = .nan ∨ f32.decode b = .nan → atomicNew .faddF32 4 sg m b c = some 0x7FC00000)
    ∧ (∀ x, f32.decode m = .inf x → f32.decode b = .inf (!x) → atomicNew .faddF32 4 sg m b c = some 0x7FC00000)
    ∧ (∀ x, f32.decode m = .inf x → f32.decode b ≠ .nan → f32.decode b ≠ .inf (!x) →
        atomicNew .faddF32 4 sg m b c = some (if x then 0xFF800000 else 0x7F800000))
    ∧ (∀ i j k l, f32.decode m = .num i j → f32.decode b = .num k l →
        let e := min j l
        let z := i * 2 ^ (j - e).toNat + k * 2 ^ (l - e).toNat
        atomicNew .faddF32 4 sg m b c = some (if z = 0 then 0 else f32.roundNum 0 z e))
    ∧ ∃ v, atomicNew .faddB16 4 sg m b c = some v
        ∧ v % 2 ^ 16 = b16.round 0 false ((b16.decode (m % 2 ^ 16)).add 0 (b16.decode (b % 2 ^ 16)))
        ∧ v / 2 ^ 16 = b16.round 0 false ((b16.decode (m / 2 ^ 16)).add 0 (b16.decode (b / 2 ^ 16))))
  ∧ (∀ n ∈ [4, 8], ∀ m : Nat, m < 2 ^ (8 * n) →
    (atomicReply n false m).toNat = m ∧ ((atomicReply n true m).setWidth 64).toInt = (BitVec.ofNat (8 * n) m).toInt)
  ∧ (∀ m : Nat, m < 2 ^ 128 → (atomicReply 16 false m).toNat = m))
  ∧ (∀ (s : State) (g : Nat) (e : QEntry) (a : Aq) (op : AtOp) (n : Nat) (sg : Bool) (p : Place), s.memOk →
    atomicOf e.instr = some (op, n, sg) → aqBody e.instr = some a → a.ord = 0 →
    let va := e.x + a.off.signExtend 64
    let b := (e.y.toNat + e.y2.toNat * 2 ^ 64) % 2 ^ (8 * n)
    let c := (e.z.toNat + e.z2.toNat * 2 ^ 64) % 2 ^ (8 * n)
    let m := Memory.getNat s.mem p.pa n
    s.place (s.ctxOf (g / 4)) va .atomic = .ok p → p.isDevice = false → s.raceRange (s.aqWho g e a) p va n true false = none →
    s.noShadow (s.aqWho g e a) ((s.holdTrans p.die va.toNat p.leaf).recallFor p n) = false →
    (∀ k < 8, (s.fmtBase.get 0 k).getLsbD 63 = false) → s.poisoned p.pa = false →
    ∃ u, s.atomic g e a op n sg = .done (some (atomicReply n sg m)) u
      ∧ Memory.getNat u.mem p.pa n = (match atomicNew op n sg m b c with | some v => v % 2 ^ (8 * n) | none => m)
      ∧ (∀ x, x < p.pa ∨ p.pa + n ≤ x → Memory.get u.mem x = Memory.get s.mem x))

/-- R270 to R272 and R431: for the next operation of a stream's access queue that entered in an earlier cycle, holds no fault and pops and pushes no token, the
perform event completes where the queue has performed nothing else in this cycle: a skipped one, but for TJOIN and BARG (R293, R327), is done with no reply and no effect on
memory; a FENCE that only acquires performs; a GLD, GST or atomic whose own check fails, plain or marked, holds its fault, which names it, and changes no memory. R282: with MARK
set, a release of any form (GST, FENCE, atomic, TSPAWN, TSTAGE, IMPRV) is sent with a marker: its entry is started and memory is not yet written. Its own event then performs
it: a FENCE.REL leaves memory alone, a GST.REL writes its bytes and a releasing atomic the operation's new value, no other byte changes where no format region is in
force, the entry is done, and every earlier write of the stream's access queue is performed at the release's scope (R279). -/
def Obligations.QueueHeadPerforms : Prop :=
  (∀ (s : State) (g : Nat) (e : QEntry), s.site.unit = g → s.nextAq g = some e → e.entered < s.cycle → e.fault = none → e.faultAt = 0 →
    ((s.stream g).aqAt ≠ s.cycle + 1 ∨ (s.stream g).mark = true) →
    tokenBits e.instr = (false, false, false, false) → (∀ e' ∈ (s.stream g).aq, e'.number = e.number → e' = e) → (∀ h a, e.instr ≠ .pf h a) →
    let at1 (t : State) (p : QEntry → Prop) : Prop := ∃ e', e' ∈ (t.stream g).aq ∧ e'.number = e.number ∧ p e'
    let fails (f : FaultInfo) : Prop := ∃ t, exec .aqOperationPerform s = .next t ∧ t.mem = s.mem
      ∧ at1 t (fun e' => e'.done = false ∧ ∃ f', e'.fault = some f' ∧ f'.code = f.code ∧ f'.addr = f.addr ∧ f'.src = 1 ∧ f'.word = e.va)
    let ctx := s.ctxOf (g / 4)
    (e.skip = true → keepsWork e.instr = false → ∃ t, exec .aqOperationPerform s = .next t ∧ t.mem = s.mem
      ∧ at1 t (fun e' => e'.done = true ∧ e'.reply = none ∧ e'.since = s.cycle))
    ∧ (∀ h a, e.instr = .fence h a → e.skip = false → e.cancel = false → a.ord = 1 → (s.stream g).charge = none → ∃ t, exec .aqOperationPerform s = .next t
      ∧ t.mem = s.mem ∧ at1 t (fun e' => e'.done = true))
    ∧ (∀ a f, aqBody e.instr = some a → e.skip = false → e.cancel = false → f.src ≠ 4 →
      let va := e.x + a.off.signExtend 64
      (∀ h, a.ord = 0 → (e.instr = .gld h a ∧ s.look (g / 4) va .read = .error f ∨ e.instr = .gst h a ∧ s.look (g / 4) va .write = .error f) → fails f)
      ∧ (∀ h, (s.stream g).charge = none → (s.stream g).mark = false →
          (e.instr = .gld h a ∧ a.ord = 1 ∧ s.place ctx va .read = .error f ∨ e.instr = .gst h a ∧ a.ord = 2 ∧ s.place ctx va .write = .error f) → fails f)
      ∧ ((s.stream g).charge = none → (s.stream g).mark = false → (atomicOf e.instr).isSome = true → s.place ctx va .atomic = .error f → fails f))
    ∧ (aqMarks e.instr = true → e.skip = false → e.cancel = false → (s.stream g).mark = true → ∃ t, exec .aqOperationPerform s = .next t
      ∧ t.mem = s.mem ∧ at1 t (fun e' => e'.started = true ∧ e'.done = e.done)))
  ∧ (∀ (s : State) (g : Nat) (e : QEntry) (a : Aq), s.memOk → s.site.unit = g → aqBody e.instr = some a → a.ord = 2 →
    tokenBits e.instr = (false, false, false, false) → (∀ e' ∈ (s.stream g).aq, e'.number = e.number → e' = e) →
    e.skip = false → e.cancel = false → e.fault = none → e.faultAt = 0 → (s.stream g).charge = none →
    (s.stream g).aq.find? (fun e => e.started && !e.done) = some e →
    let w := s.aqWho g e a
    let r := s.release w a.scp.toNat
    let va := e.x + a.off.signExtend 64
    let performs (t : State) : Prop := exec .releaseMarkerPerform s = .next t
      ∧ (∃ e', e' ∈ (t.stream g).aq ∧ e'.number = e.number ∧ e'.done = true)
      ∧ ∀ k ∈ t.tracks, k.gsid = g → k.write = true → k.queue = 3 → k.number ≤ e.number → scopeLevel a.scp.toNat ≤ k.level
    let outside (t : State) (p n : Nat) : Prop := ∀ b, b < p ∨ p + n ≤ b → Memory.get t.mem b = Memory.get s.mem b
    (∀ h, e.instr = .fence h a → ∃ t, performs t ∧ t.mem = s.mem)
    ∧ (∀ (p : Place) (n : Nat) (k : AccKind), s.place (s.ctxOf (g / 4)) va k = .ok p → p.isDevice = false → r.raceRange w p va n true false = none →
      r.noShadow w ((r.holdTrans p.die va.toNat p.leaf).recallFor p n) = false → (∀ j < 8, (s.fmtBase.get 0 j).getLsbD 63 = false) →
      (∀ h, e.instr = .gst h a → k = .write → n = widthOf a.wk →
        ∃ t, performs t ∧ Memory.getNat t.mem p.pa n = e.y.toNat % 2 ^ (8 * n) ∧ outside t p.pa n)
      ∧ (∀ op sg, atomicOf e.instr = some (op, n, sg) → k = .atomic → s.poisoned p.pa = false →
        let m := Memory.getNat s.mem p.pa n
        let b := (e.y.toNat + e.y2.toNat * 2 ^ 64) % 2 ^ (8 * n)
        let c := (e.z.toNat + e.z2.toNat * 2 ^ 64) % 2 ^ (8 * n)
        ∃ t, performs t ∧ outside t p.pa n
          ∧ Memory.getNat t.mem p.pa n = (match atomicNew op n sg m b c with | some v => v % 2 ^ (8 * n) | none => m))))

/-- R275 and R276: a GST at the head, clear of collective engines and developer blocks, that overlaps, in a word, an access that an open region of a stream of another
core made, takes MEMRACE: no byte of memory
changes, and the fault names the aligned word and the owner of the access it met, by stream and region. -/
def Obligations.RacesAreFaults : Prop :=
  ∀ (s u : State) (g : Nat) (e : QEntry) (h : Hdr) (a : Aq) (p : Place) (k : Track),
    e.instr = .gst h a → a.ord = 0 → p.isDevice = false → p.isRemote = false →
    let va := e.x + a.off.signExtend 64
    let n := widthOf a.wk
    s.look (g / 4) va .write = .ok (p, u) → s.meetsEngine p.pa n true true = none → s.guarded (s.aqWho g e a) p.pa n true = none →
    k ∈ s.tracks → k.word = p.pa / 8 → (k.bytes &&& byteMask p.pa n) ≠ 0 → k.gsid ≠ g → k.gsid / 4 ≠ g / 4 →
    s.regionOpen k.gsid k.region (reach k.gsid (g / 4)) = true →
    ∃ (f : FaultInfo) (k' : Track), s.gst g e a = .fault f ∧ f.code = .memrace ∧ f.addr = va &&& 0xFFFFFFFFFFFFFFF8#64
      ∧ k' ∈ s.tracks ∧ k'.word = p.pa / 8 ∧ f.info = BitVec.ofNat 64 (k'.gsid + 1024 * k'.region)
/-! ## Landings, engines and queues at work -/

/-- R259 and R125: the retirement of a SYSWR opens the gate of its stream; that of an ICINV also removes the lines of the issuer's
context in its target, a line, a 64 KiB granule or all of them, from the I-caches that its scope reaches, the issuing core's, its die's or every one, and keeps every other line,
those of the same context among them. R217: the unit that is idle starts its oldest entry; once its cycles have passed, the bank is
awake and no read of the register is in progress (R170), on a core that runs, the entry's destination version is published and the entry leaves. R169: a reserved write that is due lands, with its bank awake and no read in progress: the written bytes of each row take the result and the others stay, WCNT goes up by one modulo 65536,
RDREM takes the declared readers (0 and OPEN for ^*), HELD and CLB are cleared, WPEND falls, and the reservation is gone. A predicated-off write keeps the payload. No other
tile register changes. -/
def Obligations.RetirementsAndTileLandings : Prop :=
  (∀ (s : State) (g : Nat), s.site.unit = g →
    ((s.stream g).gate.icinv = none → ∃ t, exec .syswrRetire s = .next t ∧ (t.stream g).gate.retire = 0
      ∧ (t.stream g).gate.cycle = (s.stream g).gate.cycle ∧ (t.stream g).pc = (s.stream g).pc ∧ t.mem = s.mem)
    ∧ (∀ (sc : Nat) (a : Word), (s.stream g).gate.icinv = some (sc, a) → sc ≤ 4 → ∃ t, exec .icinvComplete s = .next t
      ∧ (t.stream g).gate.retire = 0 ∧ (t.stream g).gate.icinv = none ∧ t.mem = s.mem
      ∧ ∀ c < 240, ∀ e,
          let target : Prop := e.2.ctx = s.ctxOf (g / 4) ∧ (2 ≤ sc ∨ sc = 1 ∧ e.2.va / 1024 = a.toNat / 65536 ∨ sc = 0 ∧ e.2.va = a.toNat / 64)
          let reached : Prop := sc = 4 ∨ sc = 3 ∧ c / 60 = g / 4 / 60 ∨ sc ≤ 2 ∧ c = g / 4
          (e ∈ (t.core c).icache.entries ↔ e ∈ (s.core c).icache.entries ∧ ¬ (reached ∧ target)))
    ∧ (∀ (e : XEntry) (r : List XEntry), (s.core g).xt = e :: r → e.start = none → ∃ t, exec .xtEntryStart s = .next t
      ∧ (t.core g).xt = { e with start := some s.cycle } :: r ∧ (t.core g).tiles = (s.core g).tiles)
    ∧ (∀ (e : XEntry) (r : List XEntry) (a : Nat) (h : Hdr) (v : Tv), (s.core g).xt = e :: r → e.start = some a → e.instr = .vexp h v → e.exec = true →
      (∀ w, (s.core g).twrites.find? v.td.toNat = some w → w.rdn = v.rdn ∧ w.exec = true) →
      a + e.cycles ≤ s.cycle → ((s.core g).bank (v.td.toNat % 16)).power = .awake → ((s.core g).bank (v.td.toNat % 16)).wake ≤ s.cycle →
      (s.core g).readOn v.td.toNat = false → (s.core g).stopped = false →
      ∃ t, exec .xtEntryPublish s = .next t ∧ (t.core g).xt = r ∧ (t.core g).twrites.find? v.td.toNat = none
        ∧ ((t.core g).tile v.td.toNat).wcnt = ((s.core g).tile v.td.toNat).wcnt + 1 ∧ ((t.core g).tile v.td.toNat).wpend = false
        ∧ (v.rdn ≠ 15 → ((t.core g).tile v.td.toNat).rdrem = v.rdn ∧ ((t.core g).tile v.td.toNat).isOpen = false)
        ∧ (v.rdn = 15 → ((t.core g).tile v.td.toNat).isOpen = true)
        ∧ (v.men = 0 → ∀ i < 32, (((t.core g).tile v.td.toNat).line i).data
            = (vrow e.instr v { a := e.src, b := .empty, t := .empty, tap := false, mask := e.mask, sval := 0 } i).data)))
  ∧ (∀ (s : State) (c t d : Nat) (w : TWrite), s.site.unit = c → s.site.sub = t → (s.core c).twrites.find? t = some w → w.due = some d → d ≤ s.cycle →
    ((s.core c).bank (t % 16)).power = .awake → ((s.core c).bank (t % 16)).wake ≤ s.cycle → (s.core c).readOn t = false →
    ∃ u, exec .tileLanding s = .next u
      ∧ ((u.core c).tile t).wcnt = ((s.core c).tile t).wcnt + 1 ∧ ((u.core c).tile t).wpend = false
      ∧ ((u.core c).tile t).held = 0 ∧ ((u.core c).tile t).clb = 0 ∧ ((u.core c).tile t).commit = ((s.core c).tile t).commit
      ∧ (w.rdn = 15 → ((u.core c).tile t).rdrem = 0 ∧ ((u.core c).tile t).isOpen = true)
      ∧ (w.rdn ≠ 15 → ((u.core c).tile t).rdrem = w.rdn ∧ ((u.core c).tile t).isOpen = false)
      ∧ (w.exec = false → ((u.core c).tile t).row = ((s.core c).tile t).row)
      ∧ (w.exec = true → ∀ i, i ∉ w.rows.keys → ((u.core c).tile t).line i = ((s.core c).tile t).line i)
      ∧ (w.exec = true → w.rows.keys.Nodup → ∀ i ∈ w.rows.keys, ∀ b < 512,
          (((u.core c).tile t).line i).data.getLsbD b = if (w.mask.get (BitVec.allOnes 64) i).getLsbD (b / 8) then (w.rows.get {} i).data.getLsbD b
            else (((s.core c).tile t).line i).data.getLsbD b)
      ∧ (u.core c).twrites.find? t = none
      ∧ (∀ x, x ≠ t → (u.core c).tile x = (s.core c).tile x ∧ (u.core c).twrites.find? x = (s.core c).twrites.find? x)
      ∧ (u.core c).streams = (s.core c).streams ∧ (u.core c).sp = (s.core c).sp ∧ u.mem = s.mem)

/-- R168 and R169, against a state with no reservation made in the present cycle: a source waits while its register is reserved or the version lies ahead (a difference of 8 or
more modulo 16), takes VERSION when the version is past or no claim is left, and otherwise passes; a destination waits while the register is reserved, lies ahead, or has claims
or holds outstanding, takes VERSION when its version exists already, and otherwise passes. -/
def Obligations.VersionChecks : Prop :=
  ∀ (k : Core) (now : Nat) (o : TSrc) (p : TDst), (k.tile o.t).resAt < now →
    let x := k.tile o.t
    let d := x.wcnt.setWidth 4 - o.ver
    let y := k.tile p.t
    let e := y.wcnt.setWidth 4 - (p.ver - 1)
    let vers (c : Check) : Prop := ∃ f, c = .fault f ∧ f.code = .version
    (k.checkSrc now o = .wait ↔ x.wpend = true ∨ 8 ≤ d.toNat)
    ∧ (vers (k.checkSrc now o) ↔ x.wpend = false ∧ d.toNat < 8 ∧ (d ≠ 0 ∨ o.peek = false ∧ x.isOpen = false ∧ x.rdrem.toNat ≤ x.commit.toNat))
    ∧ (k.checkSrc now o = .pass ↔ x.wpend = false ∧ d = 0 ∧ (o.peek = true ∨ x.isOpen = true ∨ x.commit.toNat < x.rdrem.toNat))
    ∧ (k.checkDst p 0 = .wait ↔ y.wpend = true ∨ 8 ≤ e.toNat ∨ (e = 0 ∧ y.isOpen = false ∧ (y.rdrem ≠ 0 ∨ y.held ≠ 0)))
    ∧ (vers (k.checkDst p 0) ↔ y.wpend = false ∧ e.toNat < 8 ∧ e ≠ 0)
    ∧ (k.checkDst p 0 = .pass ↔ y.wpend = false ∧ e = 0 ∧ (y.isOpen = true ∨ (y.rdrem = 0 ∧ y.held = 0)))

/-- R228: the start event starts the first ready head in round-robin order after the stream that started last. R236: an SSWAP at a head whose slab is idle, executing with its
footprint slot declared and held back by no earlier command (R159), starts and toggles ACT, and skipped leaves it; nothing else of the slab changes. R241: an MZERO opens an anchored tile with a cleared accumulator. R230: a
command of any form past its last cycle, its steps done, with no destination still to publish and no tokens to push, leaves its unit and its queue; an SLD then sets the formats of the
planes that it wrote, and .B16 toggles ACT (R234); an MFIX whose CURS has reached N ends the tile (R239); nothing else changes the slab. R242: an uncorrectable error in the accumulator, the row buffer or the constant store that
a command in execution consumes, and that no replay can mend, parks the core with a core-context fault. R243: where the tile is anchored under REPLAY and has not replayed, it
replays once: the accumulator is +0 again, the command runs again from step 0 after the window's entries before it, and no stream changes.
The values: R190: the class sums of two K-blocks are the signed sums of products of magnitudes of each pair of selectors, at the sum of their exponents. R191: the accumulator takes them rounded once,
over the window of its profile. R222, R230 and R232: step i below 8 of an MMA reads row-quad i of A into the row buffer, split in two for MMA2 (R192), and the last pass of a row gives that row of the accumulator its new
values over the columns of the active plane, and of both planes for MMA2. R221 and R234: a step of an SLD forms its columns of the shadow plane, and for .B16 of both. R194 and R195: an MROT makes a row of the accumulator its
Hadamard transform, the exponent of the row being `rowExp`. R238 and R239: an MFIX writes each value scaled, +0 beyond N, rectified if so configured, and brought to its format, to scratchpad row by row or to its T register. -/
def Obligations.MatrixEngineEvents : Prop :=
  (∀ (s : State) (c n j : Nat), s.site.unit = c → n = (match (s.core c).mxLast with | some i => i + 1 | none => 0) → j < 4 →
    (∀ k < j, s.tryMx c ((n + k) % 4) = (false, s)) → (s.tryMx c ((n + j) % 4)).1 = true →
    exec .matrixCommandStart s = .next (s.tryMx c ((n + j) % 4)).2)
  ∧ (∀ (s : State) (c i : Nat) (e : QEntry) (h : Hdr) (ec : Ec) (b : BitVec 3), i < 4 →
    (s.stream (4 * c + i)).mxq.find? (fun e => !e.started) = some e → e.fault = none → e.entered < s.cycle → e.faultAt = 0 →
    ec.pbl = 0 → ec.pbr = 0 → (s.core c).busy b.toNat (fun _ => true) = false → (∀ e' ∈ (s.stream (4 * c + i)).mxq, e'.number = e.number → e' = e) →
    let fp := (s.stream (4 * c + i)).slotOf ec.fp.toNat
    let free := (s.core c).tracked e.order fp = false
    (e.instr = .sswap h ec b → e.skip = false → e.cancel = false → fp.declared = true → free →
      ∃ t, s.tryMx c i = (true, t) ∧ (t.core c).slab b.toNat = { (s.core c).slab b.toNat with act := !((s.core c).slab b.toNat).act }
        ∧ (t.core c).mxLast = some i ∧ t.mem = s.mem ∧ ∃ x ∈ (t.core c).mexec, x.slab = b.toNat ∧ x.entry.number = e.number ∧ x.retire = s.cycle)
    ∧ (e.instr = .sswap h ec b → e.skip = true → ∃ t, s.tryMx c i = (true, t) ∧ (t.core c).slab b.toNat = (s.core c).slab b.toNat)
    ∧ (e.instr = .sswap h ec b → e.skip = false → e.cancel = false → fp.declared = false → free →
        s.tryMx c i = (false, s.commandFault (4 * c + i) 1 e b.toNat (footFault 0 ec.fp.toNat true false)))
    ∧ (e.instr = .mzero h ec b → e.skip = false → e.cancel = false → fp.declared = true → free →
      ((s.core c).slab b.toNat).tile = .closed →
      ∃ t, s.tryMx c i = (true, t) ∧ ((t.core c).slab b.toNat).tile = .anchored ∧ ((t.core c).slab b.toNat).curn = 512
        ∧ (∀ v, ((t.core c).slab b.toNat).acc.get 0 v = 0) ∧ ((t.core c).slab b.toNat).fix = e.conf ∧ ((t.core c).slab b.toNat).cfg = e.conf2))
  ∧ (∀ (s : State) (c : Nat) (x : MExec) (b : Nat) (kind : MKind), s.site.unit = c →
    (s.core c).mexec.find? (fun x => 2 * x.slab + (if x.load then 1 else 0) == s.site.sub) = some x → mxOf x.entry.instr = some (b, kind) →
    x.failed = false → x.retire ≤ s.cycle → x.complete = true → (s.core c).unpublished x = false → (tokenBits x.entry.instr).2.2 = (false, false) →
    let old := (s.core c).slab b
    let ends : Prop := (∃ f rdn d r v, kind = .mfix f rdn d r v) ∧ old.curn ≤ old.curs
    ∃ t, exec .matrixCommandRetire s = .next t ∧ (∀ y ∈ (t.core c).mexec, ¬(y.slab = x.slab ∧ y.load = x.load))
      ∧ ((t.core c).stream (x.gsid % 4)).mxq = ((s.core c).stream (x.gsid % 4)).mxq.filter (fun e => e.number != x.entry.number) ∧ t.mem = s.mem
      ∧ (∀ b', b' ≠ b → (t.core c).slab b' = (s.core c).slab b')
      ∧ (∀ f, kind = .sld f → x.skipped = false →
          let new := (t.core c).slab b
          new.p0 = old.p0 ∧ new.p1 = old.p1 ∧ new.acc = old.acc ∧ new.tile = old.tile
          ∧ (f ≠ .b16 → new.act = old.act ∧ new.pfmt old.shadow = needFmt f ∧ new.pfmt old.active = old.pfmt old.active)
          ∧ (f = .b16 → new.act = !old.act ∧ new.pfmt old.shadow = .b16hi ∧ new.pfmt old.active = .b16lo))
      ∧ (ends → ((t.core c).slab b).tile = .closed ∧ ((t.core c).slab b).window = [])
      ∧ (¬ ends → (∀ f, kind = .sld f → x.skipped = true) → (t.core c).slab b = old)
      ∧ (¬ ends → x.got = true → (t.core c).tiles = (s.core c).tiles))
  ∧ (∀ (s : State) (c : Nat) (x : MExec), s.site.unit = c → s.site.val.getLsbD 63 = false → s.site.val.getLsbD 62 = false →
    (s.core c).mexec.find? (fun x => x.slab == s.site.sub && !x.load && !x.failed) = some x → x.skipped = false →
    (match mxOf x.entry.instr with | some (_, .mma ..) | some (_, .mrot) | some (_, .mfix ..) => True | _ => False) →
    (((s.core c).slab x.slab).tile ≠ .anchored → ∃ t, exec .engineUncorrectableError s = .next t ∧ (t.core c).ctxFault = true
        ∧ (∀ i < 4, (s.stream (4 * c + i)).faultable = true → (t.stream (4 * c + i)).status = .parked
            ∧ ∃ r, (t.stream (4 * c + i)).coreRec = some r ∧ r.code = .poison ∧ r.kind = 2) ∧ t.mem = s.mem)
    ∧ (((s.core c).slab x.slab).tile = .anchored → ((s.core c).slab x.slab).cfg.getLsbD 0 = true → ((s.core c).slab x.slab).replayed = false →
        ∃ t, exec .engineUncorrectableError s = .next t ∧ (t.core c).ctxFault = (s.core c).ctxFault ∧ ((t.core c).slab x.slab).replayed = true
          ∧ (∀ v, ((t.core c).slab x.slab).acc.get 0 v = 0) ∧ ((t.core c).slab x.slab).window = ((s.core c).slab x.slab).window
          ∧ (∃ y ∈ (t.core c).mexec, y.slab = x.slab ∧ y.load = false ∧ y.steps = 0 ∧ y.todo = x.replayList ((s.core c).slab x.slab))
          ∧ (t.core c).streams = (s.core c).streams ∧ t.mem = s.mem))
  ∧ (∀ (four u v : Bool) (a b : KBlock),
    let x := (classSums four a b).getD ((if u then 2 else 0) + (if v then 1 else 0)) (0, 0)
    (classSums four a b).length = 4
    ∧ x.1 = ((a.els.zip b.els).map (fun p => if p.1.sel = u ∧ p.2.sel = v then
        (if p.1.neg = p.2.neg then (1 : Int) else -1) * ((p.1.mag : Int) * (p.2.mag : Int)) else 0)).sum
    ∧ x.2 = ((if u then a.ex.2 else a.ex.1 : Nat) : Int) + ((if v then b.ex.2 else b.ex.1 : Nat) : Int) - 2 * (127 + (if four then 2 else 6)))
  ∧ (∀ (prof acc : Nat) (nan : Bool) (ps : List ClassSum),
    let got := accumulate (profWidth prof) nan acc ps
    (nan = true ∨ f32.decode acc = .nan → got = 0x7FC00000)
    ∧ (nan = false → f32.decode acc ≠ .nan → (∀ p ∈ ps, p.1 = 0) → got = acc)
    ∧ (∀ top : Int, nan = false → f32.decode acc ≠ .nan → (∃ p ∈ ps, p.1 ≠ 0 ∧ p.2 = top) → (∀ p ∈ ps, p.1 ≠ 0 → p.2 ≤ top) →
      let lsb := top - (if prof = 1 then 24 else 40)
      let sum := (ps.map (fun p => if lsb ≤ p.2 then p.1 * 2 ^ (p.2 - lsb).toNat else p.1.tdiv (2 ^ (lsb - p.2).toNat))).sum
      got = f32.round 0 false (FVal.add 0 (f32.decode acc) (if sum = 0 then .zero false else .num sum lsb))))
  ∧ (∀ (xs : List FVal), (splitB16 xs).1 = ⟨(quantise false 0 xs).2, (quantise false 0 xs).1⟩
    ∧ (splitB16 xs).2 = (let d := (xs.zip (splitB16 xs).1.els).map (fun p => FVal.add 0 p.1 (p.2.value false (splitB16 xs).1.ex).negate)
        ⟨(quantise false 0 d).2, (quantise false 0 d).1⟩))
  ∧ (∀ (a b : MVec),
    let pair (four : Bool) (i j : Nat) : List ClassSum := classSums four (a.blocks.getD i ⟨[], (0, 0)⟩) (b.blocks.getD j ⟨[], (0, 0)⟩)
    let dot (x y : List Int) : Int := ((x.zip y).map (fun p => p.1 * p.2)).sum
    vecSums .db8 a b = pair false 0 0 ++ pair false 1 1 ∧ vecSums .db4 a b = pair true 0 0 ++ pair true 1 1
    ∧ vecSums .i8 a b = [(dot (a.ints.take 32) (b.ints.take 32), 0), (dot (a.ints.drop 32) (b.ints.drop 32), 0)]
    ∧ vecSums .b16 a b = pair false 0 0 ++ pair false 1 1 ++ pair false 0 2 ++ pair false 1 3 ++ pair false 2 0 ++ pair false 3 1)
  ∧ (∀ (s : Slab) (w : WinEntry) (i b : Nat) (f : MForm) (prof t : Nat) (ts peek : Bool) (tv : BitVec 4) (a : Nat → Nat → Line),
    mxOf w.instr = some (b, .mma f prof ts t tv peek) →
    let u := s.runStep w i a
    let last (m : Nat) : Nat := match f with | .db8 => 6 * m + 5 | .db4 => 2 * m + 1 | .i8 => 8 * m + 7 | .b16 => 384 + 6 * m + 5
    let buffered (r : Nat) : Line × Line := bufferRows f (a t r) (a (t + 1) r)
    (i < 8 → (∀ r, r / 4 = i → u.rowbuf.get {} r = (buffered r).1) ∧ (f = .b16 → ∀ r, r / 4 = i → u.rowbuf.get {} (32 + r) = (buffered r).2)
      ∧ (∀ r, r / 4 ≠ i → (f = .b16 → r / 4 ≠ i + 8) → u.rowbuf.get {} r = s.rowbuf.get {} r))
    ∧ (8 ≤ i → u.rowbuf = s.rowbuf)
    ∧ (f ≠ .b16 → ∀ r, (buffered r).1 = a t r)
    ∧ (∀ m, i = last m → ∀ j < w.n.toNat,
      let x := aVec f (u.rowbuf.get {} m) (u.rowbuf.get {} (32 + m))
      let y := bVec f ((s.plane (w.planes.getD 0 0)).get {} j) ((s.plane (w.planes.getD 1 0)).get {} j)
      u.acc.get 0 (512 * m + j) = BitVec.ofNat 32 (accumulate (profWidth prof) (x.blocks.any KBlock.hasNan || y.blocks.any KBlock.hasNan)
        (s.acc.get 0 (512 * m + j)).toNat (vecSums f x y)))
    ∧ (∀ k, (∀ m, i = last m → k < 512 * m ∨ 512 * m + w.n.toNat ≤ k) → u.acc.get 0 k = s.acc.get 0 k)
    ∧ u.p0 = s.p0 ∧ u.p1 = s.p1)
  ∧ (∀ (s : Slab) (f : MForm) (ls : Nat → Line) (i n : Nat),
    let u := s.loadStep f ls i
    let w := match f with | .db4 => 32 | .b16 => 8 | _ => 16
    let sh := (u.plane s.shadow).get {} n
    (w * i ≤ n → n < w * i + w →
      (f = .db8 → sh = ⟨(ls n).data, (ls n).side.setWidth 32, (ls n).poison⟩)
      ∧ (f = .i8 → sh = ⟨(ls n).data, 0, (ls n).poison⟩)
      ∧ (f = .db4 → sh.ex = ((ls (n / 2)).side >>> (32 * (n % 2))).setWidth 32 ∧ sh.poison = (ls (n / 2)).poison
          ∧ ∀ k < 64, elemOf 8 sh.els k = elemOf 4 (ls (n / 2)).data (64 * (n % 2) + k))
      ∧ (f = .b16 → sh = (sldSplit ls n).1 ∧ (u.plane s.active).get {} n = (sldSplit ls n).2))
    ∧ (n < w * i ∨ w * i + w ≤ n → ∀ p < 2, (u.plane p).get {} n = (s.plane p).get {} n)
    ∧ (f ≠ .b16 → u.plane s.active = s.plane s.active) ∧ u.acc = s.acc ∧ u.act = s.act)
  ∧ (∀ i < 64, ∀ j < 64, hadamard i j = (-1) ^ ((List.range 6).countP (fun b => i.testBit b && j.testBit b)))
  ∧ (∀ (s : Slab) (w : WinEntry) (i b : Nat) (a : Nat → Nat → Line), mxOf w.instr = some (b, .mrot) →
    let u := s.runStep w i a
    let m := i / 16
    let n := w.n.toNat
    let x (j : Nat) : FVal := f32.decode (s.acc.get 0 (512 * m + j)).toNat
    (i % 16 ≠ 15 → u = s)
    ∧ (i % 16 = 15 → n % 64 = 0 →
      (∀ k, k < 512 * m ∨ 512 * m + n ≤ k → u.acc.get 0 k = s.acc.get 0 k)
      ∧ ∀ j < n,
        let base := j / 64 * 64
        let open' : Prop := ∃ l < 64, x (base + l) = .nan ∨ ∃ neg, x (base + l) = .inf neg
        (open' → u.acc.get 0 (512 * m + j) = 0x7FC00000#32)
        ∧ (¬ open' → rowExp ((List.range n).map x) = none → u.acc.get 0 (512 * m + j) = 0)
        ∧ (∀ k, ¬ open' → rowExp ((List.range n).map x) = some k →
            let q (y : FVal) : Int := match y with | .num c e => FVal.toInteger 0 (.num c (e - k)) | _ => 0
            let sum := ((List.range 64).map (fun l => hadamard (j % 64) l * q (x (base + l)))).sum
            u.acc.get 0 (512 * m + j) = BitVec.ofNat 32 (f32.round 0 false (if sum = 0 then .zero false else .num sum (k - 3))))))
  ∧ (∀ (s : Slab) (f : XForm) (c m : Nat),
    let row := s.fixRow f c m
    let scaled (i : Nat) : FVal :=
      if s.curn ≤ c + i then .zero false
      else match f32.decode (s.acc.get 0 (512 * m + (c + i))).toNat with
        | .num a e => .num a (e + (s.fix.setWidth 8 : BitVec 8).toInt)
        | y => y
    let v (i : Nat) : FVal := if s.fix.getLsbD 8 = true ∧ scaled i ≠ .nan ∧ (scaled i).neg? = true then .zero false else scaled i
    let block (four : Bool) (j : Nat) : Exps × List BElem := quantise four 0 ((List.range 32).map (fun k => v (32 * j + k)))
    (f = .f32 → row.tag = 0 ∧ ∀ i < 16, elemOf 32 row.data i = f32.round 0 false (v i) % 2 ^ 32)
    ∧ (f = .b16 → row.tag = 0 ∧ ∀ i < 32, elemOf 16 row.data i = b16.round 0 false (v i) % 2 ^ 16)
    ∧ (f = .i8 → row.tag = 0 ∧ ∀ i < 64, intOf 8 true (elemOf 8 row.data i) = max (-128) (min 127 (FVal.toInteger 0 (v i))))
    ∧ (f = .db8 → row.tag = 1 ∧ ∀ j < 2, sideExps row.side j = (block false j).1
        ∧ ∀ k < 32, elemOf 8 row.data (32 * j + k) = ((block false j).2.getD k ⟨false, false, 0⟩).bits false)
    ∧ (f = .db4 → row.tag = 2 ∧ ∀ j < 4, sideExps row.side j = (block true j).1
        ∧ ∀ k < 32, elemOf 4 row.data (32 * j + k) = ((block true j).2.getD k ⟨false, false, 0⟩).bits true))
  ∧ (∀ (s : State) (c : Nat) (x : MExec) (b : Nat) (kind : MKind), x.todo = [] → mxOf x.entry.instr = some (b, kind) → x.slab = b →
    let k := s.core c
    let old := k.slab b
    let own := x.own old
    (x.failed = false → x.skipped = false → x.rerun = false → x.steps < mxSteps x.entry.instr x.groups → k.bankFree .matrix x.spLines s.cycle = true →
      (∀ key ∈ old.bad, x.readsAt old own x.steps key = false) →
      ((s.stepMx c x).core c).slab b = (k.stepEffect x).slab b ∧ ((s.stepMx c x).core c).sp = (k.stepEffect x).sp ∧ (s.stepMx c x).mem = s.mem)
    ∧ ((∃ f prof ts r v pk, kind = .mma f prof ts r v pk) ∨ kind = .mrot →
        (k.stepEffect x).slab b = old.runStep own x.steps (fun r m => (k.tile r).line m) ∧ (k.stepEffect x).sp = k.sp)
    ∧ (∀ f, kind = .sld f →
        let u := old.loadStep f (fun n => k.line (x.entry.y.toNat / 64 + n)) x.steps
        ((k.stepEffect x).slab b).p0 = u.p0 ∧ ((k.stepEffect x).slab b).p1 = u.p1 ∧ ((k.stepEffect x).slab b).acc = old.acc ∧ (k.stepEffect x).sp = k.sp)
    ∧ (∀ f rdn r v, kind = .mfix f rdn false r v →
        let first := x.entry.x.toNat / 64 + 32 * (x.steps / 8) + 4 * (x.steps % 8)
        let column := old.curs - fixWidth f * x.groups + fixWidth f * (x.steps / 8)
        (∀ j < 4, (k.stepEffect x).line (first + j) = old.fixRow f column (4 * (x.steps % 8) + j))
        ∧ (∀ l, l < first ∨ first + 4 ≤ l → (k.stepEffect x).line l = k.line l) ∧ (k.stepEffect x).slabs = k.slabs))
  ∧ (∀ (k : Core) (now g : Nat) (e : QEntry) (foot : Foot) (landed : Bool) (b : Nat) (f : XForm) (rdn tv : BitVec 4) (r : Nat),
    k.busy b (fun x => !x.load) = false → e.skip = false → e.cancel = false → foot.declared = true → k.checkDst ⟨r, tv, rdn⟩ 0 = .pass →
    let s0 := (k.openTile b).slab b
    ∃ k' x w, k.startMfix now g e foot landed b f rdn true r tv = .go k' x ∧ x.retire = now + 11 ∧ k'.twrites.find? r = some w
      ∧ w.rdn = rdn ∧ w.exec = true ∧ w.due = some (now + 11) ∧ (∀ i < 32, w.rows.get {} i = s0.fixRow f s0.curs i)
      ∧ (k'.slab b).curs = s0.curs + fixWidth f ∧ (k'.tile r).wpend = true)

/-- R147: the command at the head of an LD or ST queue that entered in an earlier cycle and pops no token starts, at once when it is skipped, and otherwise once the footprint
tracker, its earlier scratchpad writes and its first checks let it; a check that fails parks the stream with the fault held at the head. R147 and R150: the lines of CPY and FILL are the bytes of the destination range line by line, the source at
the same distance from its start; line `o` of row `r` of GATH and SCAT is 64 bytes of that row, by the index list. In a cycle in which its engine has the bank, a started command moves its
next line, and counts it: FILL writes the pattern, byte k of the range being byte k modulo 8 of the pattern; CPY and GATH of the LD engine put the bytes that stand at the source into
scratchpad, a whole aligned line with its side field, tag and poison (R152), bytes that cross a line of the source by two accesses; those of the ST engine store the scratchpad bytes; every other byte of scratchpad
and, with no format region in force, of memory stays. A started command whose lines have all moved, or
that is skipped, and that pushes no token, leaves the queue. R145: a marker at the head of a queue with room in its reply channel leaves the queue and pushes a reply token. -/
def Obligations.CopyEngineEvents : Prop :=
  ∀ (s : State) (g q : Nat) (e : QEntry) (r : List QEntry), s.site.unit = g → s.site.sub = q → q = 0 ∨ q = 2 → (s.stream g).queue q = e :: r →
    e.fault = none → e.faultAt = 0 →
    (∀ j, e.job = some j → e.started = false → e.entered < s.cycle → (tokenBits e.instr).1 = false → (tokenBits e.instr).2.1 = false →
      (e.skip = true → ∃ t e' r', exec .copyCommandStart s = .next t ∧ (t.stream g).queue q = e' :: r' ∧ e'.started = true ∧ e'.number = e.number
        ∧ t.mem = s.mem ∧ (t.core (g / 4)).sp = (s.core (g / 4)).sp)
      ∧ (e.skip = false → e.cancel = false → (s.core (g / 4)).tracked e.order ((s.stream g).slotOf j.fp) = false → (s.stream g).landedBy e.entered = true →
          ((s.core (g / 4)).copyChecks j ((s.stream g).slotOf j.fp) = none →
            ∃ t e' r', exec .copyCommandStart s = .next t ∧ (t.stream g).queue q = e' :: r' ∧ e'.started = true ∧ e'.number = e.number
              ∧ e'.idx = (s.core (g / 4)).indices j ∧ t.mem = s.mem ∧ (t.core (g / 4)).sp = (s.core (g / 4)).sp)
          ∧ (∀ f, (s.core (g / 4)).copyChecks j ((s.stream g).slotOf j.fp) = some f → f.src = 0 → (s.stream g).status = .running → e.cutAt ≠ s.cycle →
            ∃ t e' r', exec .copyCommandStart s = .next t ∧ (t.stream g).queue q = e' :: r' ∧ e'.started = false ∧ (t.stream g).status = .parked
              ∧ (∃ f', e'.fault = some f' ∧ f'.code = f.code ∧ f'.src = 2 ∧ f'.unit = q ∧ f'.word = e.va) ∧ t.mem = s.mem)))
    ∧ (∀ j, e.job = some j → e.started = true → (tokenBits e.instr).2.2.1 = false → (tokenBits e.instr).2.2.2 = false →
      e.skip = true ∨ e.cancel = true ∨ j.lines ≤ e.prog → ∃ t, exec .copyCommandRetire s = .next t
        ∧ (t.stream g).queue q = ((s.stream g).queue q).filter (fun x => x.number != e.number)
        ∧ t.mem = s.mem ∧ (t.core (g / 4)).sp = (s.core (g / 4)).sp)
    ∧ (∀ j, e.job = some j → e.started = true → e.skip = false → e.cancel = false → e.prog < j.lines → s.memOk →
      (s.core (g / 4)).bankFree (copyEngine j.ld) (j.spLines e.idx e.prog) s.cycle = true → (∀ k < 8, (s.fmtBase.get 0 k).getLsbD 63 = false) →
      let k := s.core (g / 4)
      let s' := s.modCore (g / 4) (fun k => k.useBanks (copyEngine j.ld) (j.spLines e.idx e.prog) s.cycle)
      let w := (s.stream g).copyWho g q e j
      let foot := (s.stream g).slotOf j.fp
      let p := j.piece e.idx e.prog
      let n1 := 64 - p.src % 64
      let whole := p.n = 64 ∧ (j.kind = .fill ∨ p.src % 64 = 0)
      let moved (t : State) : Prop := exec .copyCommandRetire s = .next t
        ∧ ∃ e' r', (t.stream g).queue q = e' :: r' ∧ e'.number = e.number ∧ e'.prog = e.prog + 1
      let pattern (v : Nat) : Prop := ∀ i < p.n, v / 256 ^ i % 256 = j.src.toNat / 256 ^ ((p.dst - j.dest.toNat + i) % 8) % 256
      p.dst % 64 + p.n ≤ 64 →
      (j.kind = .fill → j.ld = true → ∃ t v, moved t ∧ t.mem = s.mem ∧ pattern v ∧ PutsSp k (t.core (g / 4)) p.dst p.n v)
      ∧ (∀ m u, j.kind = .fill → j.ld = false → vaCheck foot j.fp p.dst p.n true = none → s'.plainWrite w (BitVec.ofNat 64 p.dst) p.n = .ok (m, u) →
          ∃ t v, moved t ∧ (t.core (g / 4)).sp = k.sp ∧ pattern v ∧ PutsMem s.mem t.mem (if p.n = 64 then m.pa / 64 * 64 else m.pa) p.n v)
      ∧ (∀ m u, j.kind ≠ .fill → j.ld = true → p.n ≤ n1 → vaCheck foot j.fp p.src p.n false = none →
          s'.plainRead w (BitVec.ofNat 64 p.src) p.n = .ok (m, u) →
          ∃ t, moved t ∧ t.mem = s.mem
            ∧ (whole → (t.core (g / 4)).line (p.dst / 64) = u.lineAt m.pa ∧ ∀ l, l ≠ p.dst / 64 → (t.core (g / 4)).line l = k.line l)
            ∧ (¬ whole → PutsSp k (t.core (g / 4)) p.dst p.n (Memory.getNat s.mem m.pa p.n)))
      ∧ (∀ m u m' u', j.kind ≠ .fill → j.ld = true → n1 < p.n → vaCheck foot j.fp p.src n1 false = none →
          s'.plainRead w (BitVec.ofNat 64 p.src) n1 = .ok (m, u) → vaCheck foot j.fp (p.src + n1) (p.n - n1) false = none →
          u.plainRead w (BitVec.ofNat 64 (p.src + n1)) (p.n - n1) = .ok (m', u') →
          ∃ t, moved t ∧ t.mem = s.mem ∧ PutsSp k (t.core (g / 4)) p.dst p.n
            (Memory.getNat s.mem m.pa n1 + 2 ^ (8 * n1) * Memory.getNat s.mem m'.pa (p.n - n1)))
      ∧ (∀ m u, j.kind ≠ .fill → j.ld = false → vaCheck foot j.fp p.dst p.n true = none → s'.plainWrite w (BitVec.ofNat 64 p.dst) p.n = .ok (m, u) →
          ∃ t, moved t ∧ (t.core (g / 4)).sp = k.sp ∧ PutsMem s.mem t.mem (if whole then m.pa / 64 * 64 else m.pa) p.n
            (if p.n ≤ n1 then k.spGet p.src p.n else k.spGet p.src n1 + 2 ^ (8 * n1) * k.spGet (p.src + n1) (p.n - n1))))
    ∧ (∀ (j : CopyJob) (idx : List Nat) (i : Nat), i < j.lines → j.kind ≠ .rows →
      let p := j.piece idx i
      p.dst = (if i = 0 then j.dest.toNat else (j.dest.toNat / 64 + i) * 64) ∧ p.dst + p.n = min (j.dest.toNat + j.len.toNat) ((j.dest.toNat / 64 + i + 1) * 64)
        ∧ 0 < p.n ∧ p.dst % 64 + p.n ≤ 64 ∧ p.src = (j.src.toNat + (p.dst - j.dest.toNat)) % 2 ^ 64)
    ∧ (∀ (j : CopyJob) (idx : List Nat) (r o : Nat), j.kind = .rows → o ≤ j.rowl →
      let p := j.piece idx (r * (j.rowl + 1) + o)
      p.n = 64 ∧ (if j.ld then p.dst else p.src) = j.spad.toNat + r * j.rowBytes + 64 * o
        ∧ (if j.ld then p.src else p.dst) = (j.va.toNat + idx.getD r 0 * j.rowBytes + 64 * o) % 2 ^ 64)
    ∧ (isMarker e.instr = true → ((s.stream g).replies.get [] q).length < 16 → ∃ t c, exec .tokenMarkerStart s = .next t
      ∧ (t.stream g).queue q = r ∧ (t.stream g).replies.get [] q = (s.stream g).replies.get [] q ++ [c] ∧ t.mem = s.mem)

/-- R155: a running unit without an entry, with no fault held and the scratchpad writes before its kick landed, reads its entry from memory, where it can be read and is sound, and
otherwise parks its stream and holds the fault, which names the entry: that of the read, POISON for a poisoned entry, RING for one with an invalid field, whose ADDR and INFO are the model's choice
(log entry 24, DESIGN CHOICE); an entry whose ring wait holds, whose footprint nothing earlier meets and whose first checks pass begins its copy; an entry whose lines have all moved advances
the ring that it posts to, where it posts, and the unit goes on to NEXT, or to HEAD where it has been linked anew, and stops at 0. -/
def Obligations.ChainUnitEvents : Prop :=
  ∀ (s : State) (g : Nat) (ld : Bool) (c : Chain), s.site.unit = g → s.site.sub = (if ld then 0 else 1) → (s.stream g).chain ld = c → c.run = true →
    c.fault = none → c.faultAt = 0 →
    (∀ p u, c.entry = none → c.skip = false → c.waited = false → (s.stream g).landedBy c.kicked = true →
      s.plainRead ((s.stream g).chainWho g fetchQ c 3 0) c.cur 64 = .ok (p, u) → (u.lineAt p.pa).poison = false → chainBad (u.lineAt p.pa).data = false →
      ∃ t, exec .chainEntryFetch s = .next t ∧ ((t.stream g).chain ld).entry = some (u.lineAt p.pa).data ∧ ((t.stream g).chain ld).waited = false
        ∧ ((t.stream g).chain ld).prog = 0 ∧ ((t.stream g).chain ld).cur = c.cur)
    ∧ (∀ f, c.entry = none → c.skip = false → (s.stream g).landedBy c.kicked = true → (s.stream g).status = .running →
      s.plainRead ((s.stream g).chainWho g fetchQ c 3 0) c.cur 64 = .error f → f.src = 0 →
      ∃ t, exec .chainEntryFetch s = .next t ∧ (t.stream g).status = .parked ∧ ∃ f', ((t.stream g).chain ld).fault = some f' ∧ f'.code = f.code
        ∧ f'.src = 3 ∧ f'.unit = (if ld then 0 else 2) ∧ f'.word = c.cur)
    ∧ (∀ p u, c.entry = none → c.skip = false → (s.stream g).landedBy c.kicked = true → (s.stream g).status = .running →
      s.plainRead ((s.stream g).chainWho g fetchQ c 3 0) c.cur 64 = .ok (p, u) → ((u.lineAt p.pa).poison = true ∨ chainBad (u.lineAt p.pa).data = true) →
      ∃ t, exec .chainEntryFetch s = .next t ∧ (t.stream g).status = .parked ∧ ∃ f', ((t.stream g).chain ld).fault = some f'
        ∧ f'.src = 3 ∧ f'.unit = (if ld then 0 else 2) ∧ f'.word = c.cur
        ∧ ((u.lineAt p.pa).poison = true → f'.code = .poison ∧ f'.addr = c.cur ∧ f'.info = 2)
        ∧ ((u.lineAt p.pa).poison = false → f'.code = .ring ∧ f'.addr = (ringFault 0 0 false).addr ∧ f'.info = (ringFault 0 0 false).info))
    ∧ (∀ e, c.entry = some e → c.waited = false → c.skip = false → (entryByte e 11 % 2 = 1 → (s.stream g).charge = none) → (s.core (g / 4)).chainReady e = true →
      (s.core (g / 4)).tracked c.order ((s.stream g).slotOf (chainJob ld e).fp) = false →
      (s.core (g / 4)).copyChecks (chainJob ld e) ((s.stream g).slotOf (chainJob ld e).fp) = none →
      ∃ t, exec .chainWaitSatisfied s = .next t ∧ ((t.stream g).chain ld).waited = true ∧ ((t.stream g).chain ld).entry = some e ∧ t.mem = s.mem)
    ∧ (∀ e, c.entry = some e → c.waited = true → c.skip = false → (s.stream g).charge = none → (chainJob ld e).lines ≤ c.prog →
      let next : Word := if c.pend then c.head else entryWord e 0
      (entryByte e 11 / 4 % 2 = 0 → ∃ t, exec .chainEntryRetire s = .next t ∧ ((t.stream g).chain ld).cur = next
        ∧ ((t.stream g).chain ld).run = (next != 0) ∧ ((t.stream g).chain ld).entry = none ∧ ((t.stream g).chain ld).pend = false
        ∧ (t.core (g / 4)).rings = (s.core (g / 4)).rings ∧ t.mem = s.mem)
      ∧ (∀ r, entryByte e 11 / 4 % 2 = 1 →
          ((s.core (g / 4)).ring (entryByte e 13)).advance (entryByte e 13) (entryHalf e 16) (entryByte e 11 / 8 % 2 == 0) = .ok r →
          ∃ t, exec .chainEntryRetire s = .next t ∧ (t.core (g / 4)).ring (entryByte e 13) = r ∧ ((t.stream g).chain ld).cur = next
            ∧ ((t.stream g).chain ld).entry = none ∧ t.mem = s.mem))

/-- R98 and R99: with an accepted block at the head of its stack's queue, the developer begins it and marks it begun, and, with no format region in force, each line of its destination then holds
the sums of the sources' lines at the same place, as they stood, is poisoned where one of them was and clean elsewhere, and no byte outside the destination changes; a begun block stores FVAL, eight bytes, to the flag and leaves the
queue; with no format region in force no byte outside the flag changes by that store. R97: the element of the destination at a position is the sum of the sources' elements there, along the tree ((v0+v1)+(v2+v3))+((v4+v5)+(v6+v7))
without the sources that are absent: for integers the sum modulo 2^32 or 2^64; for F32, and for B16 widened to F32 and rounded once at the end, the F32 sum rounded to nearest even at each addition; a NaN among the sources, or infinities of
both signs, give the canonical NaN of the TYPE. -/
def Obligations.DeveloperEvents : Prop :=
  (∀ (s : State) (st : Nat) (b : DevBlock) (r : List DevBlock), s.site.unit = st → s.devq.get [] st = b :: r → b.begun = false →
    ∃ t, exec .developerBlockStart s = .next t ∧ t.devq.get [] st = { b with begun := true } :: r)
  ∧ (∀ (s : State) (st : Nat) (b : DevBlock) (r : List DevBlock), s.memOk → s.site.unit = st → s.devq.get [] st = b :: r → b.begun = false →
    (∀ k < 8, (s.fmtBase.get 0 k).getLsbD 63 = false) → b.srcVas.length = b.srcs.length → b.len % 64 = 0 →
    let dst (i : Nat) : Nat := pieceAt b.dst (64 * i)
    let src (l : List (Nat × Nat)) (i : Nat) : Nat := pieceAt l (64 * i)
    let apart (x y : Nat) : Prop := x / 64 ≠ y / 64
    (∀ i < b.len / 64, dst i % 64 = 0 ∧ ∀ l ∈ b.srcs, src l i % 64 = 0) →
    (∀ i < b.len / 64, ∀ j < i, apart (dst i) (dst j) ∧ ∀ l ∈ b.srcs, apart (src l i) (dst j)) →
    ∃ t, exec .developerBlockStart s = .next t
      ∧ (∀ i < b.len / 64, Memory.getNat t.mem (dst i) 64 = devLine b.ty (b.srcs.map (fun l => Memory.getNat s.mem (src l i) 64)) % 2 ^ 512
          ∧ t.poisoned (dst i) = b.srcs.any (fun l => s.poisoned (src l i)))
      ∧ (∀ a, (∀ i < b.len / 64, apart a (dst i)) → Memory.get t.mem a = Memory.get s.mem a ∧ t.poisoned a = s.poisoned a))
  ∧ (∀ (s : State) (st : Nat) (b : DevBlock) (r : List DevBlock), s.memOk → s.site.unit = st → s.devq.get [] st = b :: r → b.begun = true →
    (∀ k < 8, (s.fmtBase.get 0 k).getLsbD 63 = false) →
    ∃ t, exec .developerFlagStore s = .next t ∧ t.devq.get [] st = r ∧ Memory.getNat t.mem b.flag 8 = b.fval.toNat
      ∧ ∀ a, a < b.flag ∨ b.flag + 8 ≤ a → Memory.get t.mem a = Memory.get s.mem a)
  ∧ (∀ (ty : Nat) (v : List Nat) (i : Nat), ty < 4 → v.length ≤ 8 → i < 64 / devWidth ty →
    let w := 8 * devWidth ty
    devLine ty v / 2 ^ (w * i) % 2 ^ w = devElement ty (v.map (fun x => x / 2 ^ (w * i) % 2 ^ w)))
  ∧ (∀ v : List Nat, v ≠ [] → v.length ≤ 8 → ((∀ x ∈ v, x < 2 ^ 32) → devElement 2 v = v.sum % 2 ^ 32)
      ∧ ((∀ x ∈ v, x < 2 ^ 64) → devElement 3 v = v.sum % 2 ^ 64))
  ∧ (∀ (add : Nat → Nat → Nat) (a b c d e f g h : Nat),
    devTree add [a, b, c, d, e, f, g, h] = some (add (add (add a b) (add c d)) (add (add e f) (add g h)))
    ∧ devTree add [a] = some a ∧ devTree add [a, b] = some (add a b) ∧ devTree add [a, b, c] = some (add (add a b) c)
    ∧ devTree add [a, b, c, d] = some (add (add a b) (add c d)) ∧ devTree add [a, b, c, d, e] = some (add (add (add a b) (add c d)) e)
    ∧ devTree add [a, b, c, d, e, f] = some (add (add (add a b) (add c d)) (add e f))
    ∧ devTree add [a, b, c, d, e, f, g] = some (add (add (add a b) (add c d)) (add (add e f) g)))
  ∧ (∀ (v : List Nat) (x : Nat), (∀ y ∈ v, y < 2 ^ 32 ∧ f32.decode y ≠ .nan ∧ ∀ b, f32.decode y ≠ .inf b) →
    devTree (fun a b => f32.round 0 false ((f32.decode a).add 0 (f32.decode b))) v = some x → devElement 0 v = x)
  ∧ (∀ (v : List Nat) (x : Nat), (∀ y ∈ v, y < 2 ^ 16 ∧ b16.decode y ≠ .nan ∧ ∀ b, b16.decode y ≠ .inf b) →
    devTree (fun a b => f32.round 0 false ((f32.decode a).add 0 (f32.decode b))) (v.map (fun y => y * 2 ^ 16)) = some x →
    devElement 1 v = b16.round 0 false (f32.decode x))
  ∧ (∀ v : List Nat, ((∃ y ∈ v, f32.decode y = .nan) ∨ ((∃ y ∈ v, f32.decode y = .inf false) ∧ ∃ y ∈ v, f32.decode y = .inf true) → devElement 0 v = 0x7FC00000)
    ∧ ((∃ y ∈ v, b16.decode y = .nan) ∨ ((∃ y ∈ v, b16.decode y = .inf false) ∧ ∃ y ∈ v, b16.decode y = .inf true) → devElement 1 v = 0x7FC0))

/-- R328: a stream at TEND whose work has drained, with no item record to update, goes idle with its task state cleared. R322: an idle stream that has been taken a stage item for starts at its code
address, with S1 and S2 the item's and every other register at its launch value (R323). R293: a group all of whose members have arrived with their counted writes made completes: its generation goes up, and its
arrivals are clear. R341: a broadcast improvement reaches a core's shadow, which takes it where it is better. -/
def Obligations.TaskEvents : Prop :=
  (∀ (s : State) (g : Nat), s.site.unit = g → (s.stream g).status = .atTend → (∀ e ∈ (s.stream g).aq, e.fault = none) → s.drained g = true →
    (s.stream g).task.active = false →
    ∃ t, exec .itemEnd s = .next t ∧ (t.stream g).status = .idle ∧ (t.stream g).task = {} ∧ (t.stream g).idleAt = s.cycle ∧ (t.stream g).aq = []
      ∧ (∀ k ∈ t.tracks, k.gsid = g → k.write = true → 4 ≤ k.level) ∧ t.mem = s.mem)
  ∧ (∀ (s : State) (g : Nat), s.site.unit = g → (s.stream g).status = .atTend → (∀ e ∈ (s.stream g).aq, e.fault = none) → s.drained g = false →
    exec .itemEnd s = .next s)
  ∧ (∀ (s : State) (g : Nat) (k : Taken), s.site.unit = g → (s.stream g).status = .idle → (s.stream g).taken = some k → (s.stream g).charge = none →
    ∃ t, exec .itemStart s = .next t ∧ (t.stream g).status = .running ∧ (t.stream g).pc = k.code ∧ (t.stream g).taken = none ∧ (t.stream g).task = k.task
      ∧ (t.stream g).s.get 0 1 = k.s1 ∧ (t.stream g).s.get 0 2 = k.s2
      ∧ (∀ n, n ≠ 1 → n ≠ 2 → (t.stream g).s.get 0 n = (s.stream g).sinit.get 0 n)
      ∧ (∀ n, (t.stream g).q.get false n = false ∧ (t.stream g).m.get 0 n = 0 ∧ (t.stream g).j.get 0 n = 0)
      ∧ (t.stream g).lc = 0 ∧ (t.stream g).ec = 0 ∧ (t.stream g).rotb = 0
      ∧ (t.stream g).expchk = (s.stream g).expchk ∧ (t.stream g).mark = (s.stream g).mark ∧ (t.stream g).cpid = (s.stream g).cpid)
  ∧ (∀ (s : State) (l g n : Nat) (p : Place) (u : State), s.site.unit = l → s.firstIdle l = some g → (s.launches.get {} l).pick (g % 4) = some n → 16 ≤ n →
    (s.core (g / 4)).launch = some l →
    s.marked (s.ownWho g) (((s.launches.get {} l).queue n).slot n ((s.launches.get {} l).queue n).head) (slotSize n) .read = .ok (p, u) →
    ∃ t k, exec .itemTake s = .next t ∧ (t.stream g).taken = some k ∧ k.code = codeAddr ((s.launches.get {} l).stages.get 0 (n - 16))
      ∧ k.s1 = BitVec.ofNat 64 (Memory.getNat u.mem p.pa (slotSize n)) ∧ k.s2 = BitVec.ofNat 64 (Memory.getNat u.mem p.pa (slotSize n) / 2 ^ 64)
      ∧ k.task.active = true ∧ k.task.slot = ((s.launches.get {} l).queue n).slot n ((s.launches.get {} l).queue n).head)
  ∧ (∀ (s : State) (l n : Nat) (x : Group), s.site.unit = l → s.site.sub = n → (s.launches.get {} l).group n = x → x.members ≠ [] →
    (∀ m ∈ x.members, m ∈ x.arrived) → s.groupPend x = 0 →
    ∃ t, exec .barrierComplete s = .next t ∧ ((t.launches.get {} l).group n).gen = x.gen + 1 ∧ ((t.launches.get {} l).group n).arrived = []
      ∧ ((t.launches.get {} l).group n).members = x.members ∧ t.mem = s.mem)
  ∧ (∀ (s : State) (c n : Nat) (v w : BitVec 32) (r : List (Nat × Nat × BitVec 32 × BitVec 32)), s.site.unit = c → s.shadowMs = (c, n, v, w) :: r →
    let old := s.shadows.get (0, 0) (16 * c + n)
    (Inc.better (s.incs.get {} n).cfg v old.1 = true → ∃ t, exec .shadowUpdate s = .next t ∧ t.shadows.get (0, 0) (16 * c + n) = (v, w) ∧ t.shadowMs = r)
    ∧ (Inc.better (s.incs.get {} n).cfg v old.1 = false → ∃ t, exec .shadowUpdate s = .next t ∧ t.shadows = s.shadows ∧ t.shadowMs = r))
/-! ## The vector row -/

/-- R199: a core-cycle form with its operands there issues: its destination is reserved, with the form's value over the sources as they stand, due after the cycles of its
station; its claims are due in c + 7; the region ends. VCMP leaves instead a latent write of its mask, landing in c + 14. A rail-bound form is put into its stream's row with its sources;
its destination, where it has one, is reserved. Predicated off, the same claims and reservation are made, with the old payload (R172, R202). Failed checks hold the group or
take VERSION. -/
def Obligations.VectorFormsIssue : Prop :=
  ∀ (h : Hdr) (v : Tv) (s : State),
    let td := v.td.toNat
    let issued (i : Instr) (t : State) : Prop := exec i s = .next t ∧ t.verdict = .issued ∧ KeepsRegisters s t ∧ t.me.region = s.me.region + 1
    (∀ p ∈ tileForms h v, railBound v = false → s.me.charge = none →
      (s.ready h (vreads s.me p.1 v) [] → s.operandsReady (some ⟨td, v.tdv, v.rdn⟩) (vsrcs p.1 v) → ∃ t w, issued p.1 t ∧ t.me.latents = s.me.latents
        ∧ t.myCore.twrites.find? td = some w ∧ w.rdn = v.rdn ∧ w.exec = true ∧ w.due = some (s.cycle + p.2)
        ∧ (w.rows, w.mask) = vresult p.1 v (s.vsource p.1 v) ∧ (t.myCore.tile td).wpend = true
        ∧ t.myCore.claims = s.myCore.claims ++ s.claimsOf (vsrcs p.1 v) (s.cycle + 7))
      ∧ (s.off h → (s.myCore.checkAll s.cycle (some ⟨td, v.tdv, v.rdn⟩) (vsrcs p.1 v)).1 = .pass → ∃ t w, issued p.1 t ∧ t.me.latents = s.me.latents
        ∧ t.myCore.twrites.find? td = some w ∧ w.rdn = v.rdn ∧ w.exec = false ∧ w.due = some (s.cycle + p.2) ∧ (t.myCore.tile td).wpend = true
        ∧ t.myCore.claims = s.myCore.claims ++ s.claimsOf (vsrcs p.1 v) (s.cycle + 7))
      ∧ (s.ready h (vreads s.me p.1 v) [] → (s.myCore.checkAll s.cycle (some ⟨td, v.tdv, v.rdn⟩) (vsrcs p.1 v)).1 = .wait →
          ∃ own, exec p.1 s = .next (s.holdMe own))
      ∧ (∀ f, s.ready h (vreads s.me p.1 v) [] → (s.myCore.checkAll s.cycle (some ⟨td, v.tdv, v.rdn⟩) (vsrcs p.1 v)).1 = .fault f → Faults p.1 s f))
    ∧ (∀ i ∈ [Instr.vcmpF h v, .vcmpI h v], railBound v = false → s.ready h (vreads s.me i v) [(.m td, 14)] → s.operandsReady none (vsrcs i v) →
        ∃ t, issued i t ∧ t.myCore.twrites = s.myCore.twrites ∧ t.myCore.claims = s.myCore.claims ++ s.claimsOf (vsrcs i v) (s.cycle + 7)
          ∧ t.me.latents = s.me.latents ++ [⟨.m td, some (vcmpMask i v (s.vsource i v) (s.me.m.get 0 td)), s.cycle, s.cycle + 14⟩])
    ∧ (∀ p ∈ tileForms h v, railBound v = true → vdst p.1 v ≠ none ∨ vsrcs p.1 v ≠ [] → s.ready h (vreads s.me p.1 v) [] →
        s.operandsReady (vdst p.1 v) (vsrcs p.1 v) → ∃ t f, issued p.1 t ∧ t.me.latents = s.me.latents ∧ t.me.flights = s.me.flights ++ [f]
          ∧ f.instr = p.1 ∧ f.exec = true ∧ f.age = 0 ∧ f.ta = (s.vsource p.1 v).a ∧ f.tb = (s.vsource p.1 v).b ∧ f.mask = (s.vsource p.1 v).mask
          ∧ t.myCore.claims = s.myCore.claims ∧ (v.drives = false → (t.myCore.tile td).wpend = true ∧ ∃ w, t.myCore.twrites.find? td = some w
              ∧ w.rdn = v.rdn ∧ w.due = none))

/-- R217: a transcendental form with its operands there and fewer than 8 entries in the unit's queue issues, reserves its destination and enters the queue with its source; a full
queue holds it. R216: VLDS and VSTS with an aligned tile inside scratchpad, banks free and operands there issue and list their access, VLDS with its destination reserved and VSTS with its
claim due in c + 8; a misaligned address takes ALIGN in the issue cycle, and until its operands are there a VLDS is held whatever its address (R51, R170). R23 and R199: with each row cycle what stands on a rail at a station below X7 moves to the next, a tap of a form at station k reads the rail there in
its row cycle k + q, and nothing enters at X0 by itself. -/
def Obligations.TranscendentalAndRailForms : Prop :=
  (∀ (h : Hdr) (v : Tv) (s : State), ∀ i ∈ unitForms h v, railBound v = false → s.ready h (vreads s.me i v) [] →
    (s.myCore.xt.length < 8 → s.operandsReady (some ⟨v.td.toNat, v.tdv, v.rdn⟩) (vsrcs i v) →
      ∃ t e, exec i s = .next t ∧ t.verdict = .issued ∧ KeepsRegisters s t ∧ t.me.region = s.me.region + 1 ∧ t.myCore.xt = s.myCore.xt ++ [e]
        ∧ e.instr = i ∧ e.exec = true ∧ e.gsid = s.cur ∧ e.src = (s.vsource i v).a ∧ e.mask = (s.vsource i v).mask ∧ e.start = none
        ∧ (t.myCore.tile v.td.toNat).wpend = true ∧ t.myCore.claims = s.myCore.claims ++ s.claimsOf (vsrcs i v) (s.cycle + 7))
    ∧ (8 ≤ s.myCore.xt.length → (∀ f, (s.myCore.checkAll s.cycle (some ⟨v.td.toNat, v.tdv, v.rdn⟩) (vsrcs i v)).1 ≠ .fault f) →
        exec i s = .next (s.holdMe false)))
  ∧ (∀ (h : Hdr) (td : BitVec 6) (tv rdn : BitVec 4) (tap : BitVec 1) (sa : BitVec 5) (hi : BitVec 6) (msk : BitVec 3) (lo : BitVec 9) (s : State),
    let a := s.S sa + (hi ++ lo).signExtend 64 * 64
    let inside := a.toNat % 64 = 0 ∧ 0 ≤ a.toInt ∧ a.toInt + 2048 ≤ 0x60000
    let free := ∀ r ∈ s.myCore.spRes, (∃ k < 32, r.bank = (a.toNat / 64 + k) % 16 ∧ r.cycle = s.cycle + 1 + k / 4) → r.gsid = s.cur ∧ r.made = s.cycle
    (s.ready h [s.me.sp sa] [] → inside → free → s.operandsReady (some ⟨td.toNat, tv, rdn⟩) [] →
      ∃ t, exec (.vlds h td tv rdn sa hi 0 msk lo) s = .next t ∧ t.verdict = .issued ∧ KeepsRegisters s t
        ∧ t.me.accs = s.me.accs ++ [⟨.vload td.toNat (BitVec.allOnes 512) .empty none, a.toNat, s.word, s.cycle, s.cycle + 1, 0⟩]
        ∧ (t.myCore.tile td.toNat).wpend = true ∧ t.myCore.claims = s.myCore.claims)
    ∧ (s.ready h [s.me.sp sa] [] → inside → free → s.operandsReady none [⟨td.toNat, tv, tap == 1⟩] →
      ∃ t, exec (.vsts h td tv tap sa hi 0 msk lo) s = .next t ∧ t.verdict = .issued ∧ KeepsRegisters s t
        ∧ t.me.accs = s.me.accs ++ [⟨.vstore td.toNat (tap == 1) (BitVec.allOnes 512) (s.myCore.tile td.toNat).row, a.toNat, s.word, s.cycle,
            s.cycle + 1, 0⟩]
        ∧ t.myCore.claims = s.myCore.claims ++ s.claimsOf [⟨td.toNat, tv, tap == 1⟩] (s.cycle + 8))
    ∧ (s.ready h [s.me.sp sa] [] → a.toNat % 64 ≠ 0 →
        (s.operandsReady (some ⟨td.toNat, tv, rdn⟩) [] → Faults (.vlds h td tv rdn sa hi 0 msk lo) s { code := .align, addr := a, info := 4 })
        ∧ (s.operandsReady none [⟨td.toNat, tv, tap == 1⟩] → Faults (.vsts h td tv tap sa hi 0 msk lo) s { code := .align, addr := a, info := 5 }))
    ∧ (s.ready h [s.me.sp sa] [] → (s.myCore.checkAll s.cycle (some ⟨td.toNat, tv, rdn⟩) []).1 = .wait →
        ∃ own, exec (.vlds h td tv rdn sa hi 0 msk lo) s = .next (s.holdMe own)))
  ∧ (∀ (x : Tbl Quad) (r k : Nat), (k < 7 → (shiftRails x).get 0 (8 * r + k + 1) = x.get 0 (8 * r + k)) ∧ (shiftRails x).get 0 (8 * r) = 0)
  ∧ (∀ (f : VFlight) (x : Tbl Quad) (h : Hdr) (v : Tv) (q : Nat), f.instr = .vaddF h v → v.taps = true → f.age = 1 + q → q < 8 →
      (f.tapNow x).taps.get 0 q = x.get 0 (8 * railOf v + 1))

/-- R205 and R206 for every element of an integer TYPE of w bits: without .SAT VADD, VSUB, VMUL and VNEG wrap modulo 2^w, and with it they clamp to the range of the TYPE; VMIN and VMAX are exact;
shifts by w or more give 0, but VSHR.I, which gives copies of the sign. For every row, VAND, VOR and VXOR are bitwise; VSEL takes each 4-byte group from its first source where the mask bit is set and from its second elsewhere; VPERM,
VBCAST, VXROW and VMOVT move whole elements or rows, rows with their side field and tag; bit g of VCMP's mask is the condition over the elements of group g, or as it was where the mask leaves the group. VADD.F, VSUB.F, VMUL.F and VFMA round the exact result once;
VMIN.F, VMAX.F, VABS.F and VNEG.F give the operand that they select. R207 and R208: VCVT converts the elements in order under R184, and VQNT quantises each 32 in order to a block with its exponents in the side field and the tag of its format; what lies beyond
the last element is zero. R209, R210 and R197: VRED gives the sum, greatest or least of the elements that the mask lets in, and VSCAN that of each prefix; a floating-point sum follows the pairwise tree or ascends, rounded at each addition, but a NaN, or infinities of both signs,
give NaN, and infinities of one sign that infinity. R213: VTOPK gives the k first elements of the tile by rank, then by index, and their indices. R214 and R215: VRNG gives the generator's groups from its key and counter, for .F32 the upper 24 bits of each word scaled by 2^-24.
R196: the transcendental forms give their special cases, and VRCP the exact reciprocal where it is a finite binary fraction. -/
def Obligations.VectorValues : Prop :=
  ∀ (h : Hdr) (v : Tv) (x : VSrc) (r e : Nat),
    let ty := v.ty.toNat
    let w := tyBits ty
    let a := elemOf w (x.a.get {} r).data e
    let b := elemOf w (x.b.get {} r).data e
    let out (i : Instr) : Nat := elemOf w (vrow i v x r).data e
    let num (n : Nat) : Int := intOf w (tySigned ty) n
    let clamp (z : Int) : Int := max (intMin w (tySigned ty)) (min (intMax w (tySigned ty)) z)
    (ty ≤ 5 → e < tyEpr ty →
      (v.sat = 0 → out (.vaddI h v) = (a + b) % 2 ^ w ∧ out (.vsubI h v) = (a + 2 ^ w - b) % 2 ^ w ∧ out (.vmulI h v) = (a * b) % 2 ^ w
        ∧ out (.vneg h v) = (2 ^ w - a) % 2 ^ w)
      ∧ (v.sat = 1 → num (out (.vaddI h v)) = clamp (num a + num b) ∧ num (out (.vsubI h v)) = clamp (num a - num b)
        ∧ num (out (.vmulI h v)) = clamp (num a * num b) ∧ num (out (.vneg h v)) = clamp (-num a) ∧ num (out (.vabs h v)) = clamp (num a).natAbs)
      ∧ num (out (.vminI h v)) = min (num a) (num b) ∧ num (out (.vmaxI h v)) = max (num a) (num b)
      ∧ out (.vshl h v) = (if w ≤ b then 0 else a * 2 ^ b % 2 ^ w) ∧ out (.vshrN h v) = (if w ≤ b then 0 else a / 2 ^ b)
      ∧ num (out (.vshrI h v)) = num a / 2 ^ (min b w)
      ∧ out (.vpermT h v) = elemOf w (x.a.get {} r).data (b % tyEpr ty) ∧ out (.vbcastS h v) = x.sval.toNat % 2 ^ w)
    ∧ (6 ≤ ty → ty ≤ 8 → e < tyEpr ty →
      let f := tyFmt ty
      out (.vaddF h v) = f.round v.rnd.toNat (v.sat == 1) (FVal.add v.rnd.toNat (f.decode a) (f.decode b)) % 2 ^ w
      ∧ out (.vmulF h v) = f.round v.rnd.toNat (v.sat == 1) (FVal.mul (f.decode a) (f.decode b)) % 2 ^ w
      ∧ out (.vfma h v) = f.round v.rnd.toNat (v.sat == 1)
          (FVal.add v.rnd.toNat (FVal.mul (f.decode a) (f.decode b)) (f.decode (elemOf w (x.t.get {} r).data e))) % 2 ^ w
      ∧ out (.vsubF h v) = f.round v.rnd.toNat (v.sat == 1) (FVal.add v.rnd.toNat (f.decode a) (f.decode b).negate) % 2 ^ w
      ∧ out (.vminF h v) = f.round v.rnd.toNat (v.sat == 1) (FVal.pick false (f.decode a) (f.decode b)) % 2 ^ w
      ∧ out (.vmaxF h v) = f.round v.rnd.toNat (v.sat == 1) (FVal.pick true (f.decode a) (f.decode b)) % 2 ^ w
      ∧ out (.vabs h v) = f.round v.rnd.toNat (v.sat == 1) (f.decode a).abs % 2 ^ w
      ∧ out (.vneg h v) = f.round v.rnd.toNat (v.sat == 1) (f.decode a).negate % 2 ^ w)
    ∧ (6 ≤ ty → ty ≤ 8 → e < tyEpr ty →
      let f := tyFmt ty
      let d := f.decode a
      let rd (y : FVal) : Nat := f.round v.rnd.toNat (v.sat == 1) y % 2 ^ w
      (d = .nan → ∀ i ∈ [Instr.vexp h v, .vlog h v, .vsin h v, .vcos h v, .vtanh h v, .vrsq h v, .vrcp h v, .vsig h v], out i = f.nanBits)
      ∧ (∀ n, d = .inf n →
          out (.vexp h v) = (if n then 0 else rd (.inf false)) ∧ out (.vlog h v) = (if n then f.nanBits else rd (.inf false))
          ∧ out (.vsin h v) = f.nanBits ∧ out (.vcos h v) = f.nanBits ∧ out (.vtanh h v) = rd (.num (if n then -1 else 1) 0)
          ∧ out (.vrsq h v) = (if n then f.nanBits else 0) ∧ out (.vrcp h v) = rd (.zero n) ∧ out (.vsig h v) = (if n then 0 else rd (.num 1 0)))
      ∧ (∀ n, d = .zero n →
          out (.vexp h v) = rd (.num 1 0) ∧ out (.vlog h v) = rd (.inf true) ∧ out (.vsin h v) = rd (.zero n) ∧ out (.vcos h v) = rd (.num 1 0)
          ∧ out (.vtanh h v) = rd (.zero n) ∧ out (.vrsq h v) = rd (.inf n) ∧ out (.vrcp h v) = rd (.inf n) ∧ out (.vsig h v) = rd (.num 1 (-1)))
      ∧ (∀ m k, d = .num m k → m < 0 → out (.vlog h v) = f.nanBits ∧ out (.vrsq h v) = f.nanBits)
      ∧ (∀ j : Nat, j ≤ 23 → d = .num (2 ^ j) (-j) → out (.vlog h v) = 0)
      ∧ (∀ m k, d = .num m k → 2 ^ 64 % m.natAbs = 0 → out (.vrcp h v) = rd (.num (m.sign * (2 * (2 ^ 64 / m.natAbs : Nat))) (-65 - k))))
    ∧ (let st := v.srcTy.toNat
      let k := r * tyEpr ty + e
      let l := x.a.get {} (k / tyEpr st)
      let y := elemOf (tyBits st) l.data (k % tyEpr st)
      let pair (j : Nat) : Exps := ((l.side >>> (16 * j)).toNat % 256, (l.side >>> (16 * j + 8)).toNat % 256)
      let val : FVal := if 6 ≤ st ∧ st ≤ 8 then (tyFmt st).decode y
        else if st = 9 then (BElem.ofBits false y).value false (pair (k % tyEpr st / 32))
        else if st = 10 then (BElem.ofBits true y).value true (pair (k % tyEpr st / 32)) else .ofInt (intOf (tyBits st) (tySigned st) y)
      let n := 16384 / max (tyBits st) (tyBits ty)
      ty ≤ 8 → st ≤ 10 → e < tyEpr ty → ∀ i ∈ [Instr.vcvtF h v, .vcvtI h v],
        (n ≤ k → out i = 0)
        ∧ (k < n → 6 ≤ ty → out i = (tyFmt ty).round v.rnd.toNat (v.sat == 1) val % 2 ^ w)
        ∧ (k < n → ty ≤ 5 → 6 ≤ st → num (out i) = clamp (FVal.toInteger v.rnd.toNat val))
        ∧ (k < n → ty ≤ 5 → st ≤ 5 →
            (v.sat = 0 ∨ tyBits st < w → (out i : Int) = intOf (tyBits st) (tySigned st) y % 2 ^ w)
            ∧ (v.sat = 1 → w ≤ tyBits st → num (out i) = clamp (intOf (tyBits st) (tySigned st) y))))
    ∧ (∀ j, (ty = 9 ∧ j < 2) ∨ (ty = 10 ∧ j < 4) → v.srcTy.toNat ≤ 8 →
      let st := v.srcTy.toNat
      let i := if ty = 10 then Instr.vqntDb4 h v else .vqntDb8 h v
      let k := (r * (tyEpr ty / 32) + j) * 32
      let q := quantise (ty == 10) v.rnd.toNat ((List.range 32).map (fun i => sourceVal st (x.a.get {} ((k + i) / tyEpr st)) ((k + i) % tyEpr st)))
      let exps : Nat := ((vrow i v x r).side >>> (16 * j)).toNat % 65536
      (vrow i v x r).tag = (if ty = 10 then 2 else 1)
      ∧ (k < 16384 / max (tyBits st) (tyBits ty) → exps = q.1.1 + 256 * q.1.2
          ∧ ∀ m < 32, ∃ b, q.2[m]? = some b ∧ elemOf w (vrow i v x r).data (32 * j + m) = b.bits (ty == 10))
      ∧ (16384 / max (tyBits st) (tyBits ty) ≤ k → exps = 0 ∧ ∀ m < 32, elemOf w (vrow i v x r).data (32 * j + m) = 0))
    ∧ (let pick (n : Nat) : List Nat := ((List.range n).filter (fun j => v.men = 0 ∨ maskBit x.mask w r j)).map (elemOf w (x.a.get {} r).data)
      let op := (v.tb.extractLsb' 4 2).toNat
      let top (z : Int) (l : List Nat) : Prop := (∃ y ∈ l, z = num y) ∧ ∀ y ∈ l, num y ≤ z
      let least (z : Int) (l : List Nat) : Prop := (∃ y ∈ l, z = num y) ∧ ∀ y ∈ l, z ≤ num y
      e < tyEpr ty →
      (ty ≤ 5 → pick (tyEpr ty) ≠ [] →
        let l := pick (tyEpr ty)
        (op = 0 → v.sat = 0 → (out (.vredI h v) : Int) = (l.map num).sum % 2 ^ w) ∧ (op = 0 → v.sat = 1 → num (out (.vredI h v)) = clamp (l.map num).sum)
        ∧ (op = 1 → top (num (out (.vredI h v))) l) ∧ (op = 2 → least (num (out (.vredI h v))) l))
      ∧ (ty ≤ 5 → (v.men = 0 ∨ maskBit x.mask w r e) →
        let l := pick (e + 1)
        (op = 0 → v.sat = 0 → (out (.vscanI h v) : Int) = (l.map num).sum % 2 ^ w)
        ∧ (op = 1 → top (num (out (.vscanI h v))) l) ∧ (op = 2 → least (num (out (.vscanI h v))) l))
      ∧ (6 ≤ ty → ty ≤ 8 →
        let f := tyFmt ty
        let nan (l : List Nat) : Prop := (∃ y ∈ l, f.decode y = .nan) ∨ ((∃ y ∈ l, f.decode y = .inf false) ∧ ∃ y ∈ l, f.decode y = .inf true)
        let inf (b : Bool) (l : List Nat) : Prop := (∀ y ∈ l, f.decode y ≠ .nan ∧ f.decode y ≠ .inf (!b)) ∧ ∃ y ∈ l, f.decode y = .inf b
        let add (y z : Nat) : Nat := f.round v.rnd.toNat false (FVal.add v.rnd.toNat (f.decode y) (f.decode z))
        let rd (y : FVal) : Nat := f.round v.rnd.toNat (v.sat == 1) y % 2 ^ w
        (nan (pick (tyEpr ty)) → out (.vredF h v) = f.nanBits) ∧ (∀ b, inf b (pick (tyEpr ty)) → out (.vredF h v) = rd (.inf b))
        ∧ ((v.men = 0 ∨ maskBit x.mask w r e) → (nan (pick (e + 1)) → out (.vscanF h v) = f.nanBits)
            ∧ (∀ b, inf b (pick (e + 1)) → out (.vscanF h v) = rd (.inf b)))
        ∧ (∀ t : Nat → Nat → Nat, v.men = 0 → op = 0 → (∀ y ∈ pick (tyEpr ty), f.decode y ≠ .nan ∧ ∀ b, f.decode y ≠ .inf b) →
            (∀ j < tyEpr ty, t 0 j = elemOf w (x.a.get {} r).data j) → (∀ k j, t (k + 1) j = add (t k (2 * j)) (t k (2 * j + 1))) →
            out (.vredF h v) = rd (f.decode (t (Nat.log2 (tyEpr ty)) 0)))
        ∧ (∀ t : Nat → Nat, v.men = 0 → op = 0 → (∀ y ∈ pick (e + 1), f.decode y ≠ .nan ∧ ∀ b, f.decode y ≠ .inf b) →
            t 0 = elemOf w (x.a.get {} r).data 0 → (∀ j, t (j + 1) = add (t j) (elemOf w (x.a.get {} r).data (j + 1))) →
            out (.vscanF h v) = rd (f.decode (t e)))))
    ∧ (let el (j : Nat) : Nat := elemOf 32 (x.a.get {} (j / 16)).data (j % 16)
      let rank (y : Nat) : Int := if ty = 6 then (if f32.decode y = .nan then -(2 ^ 32) else if y < 2 ^ 31 then (y : Int) else -((y : Int) - 2 ^ 31) - 1)
        else intOf 32 (tySigned ty) y
      let at' (q j : Nat) : Nat := elemOf 32 (vrow (.vtopk h v) v x q).data j
      ty = 2 ∨ ty = 5 ∨ ty = 6 → 1 ≤ v.imm.toNat → v.imm.toNat ≤ 16 →
      (∀ j < v.imm.toNat, at' 1 j < 512 ∧ at' 0 j = (if ty = 6 ∧ f32.decode (el (at' 1 j)) = .nan then 0x7FC00000 else el (at' 1 j))
        ∧ (∀ i < j, at' 1 i ≠ at' 1 j)
        ∧ ∀ q < 512, (∀ i < j, at' 1 i ≠ q) → rank (el q) < rank (el (at' 1 j)) ∨ (rank (el q) = rank (el (at' 1 j)) ∧ at' 1 j ≤ q))
      ∧ (∀ j, v.imm.toNat ≤ j → j < 16 → at' 0 j = 0 ∧ at' 1 j = 0) ∧ (2 ≤ r → (vrow (.vtopk h v) v x r).data = 0))
    ∧ (let src := (x.a.get {} 0).data
      let g (j : Nat) : Nat := (icg (src.setWidth 128) ((src >>> 128).setWidth 64 + BitVec.ofNat 64 (4 * r + j))).toNat
      (ty = 5 → ∀ j < 4, elemOf 128 (vrow (.vrng h v) v x r).data j = g j)
      ∧ (ty = 6 → ∀ j < 16, elemOf 32 (vrow (.vrng h v) v x r).data j
          = (let z : Nat := g (j / 4) / 2 ^ (32 * (j % 4)) % 2 ^ 32 / 256; if z = 0 then 0 else f32.round 0 false (.num z (-24)))))
    ∧ (e < tyEpr ty → ty ≤ 8 →
      let kind := (v.imm.extractLsb' 8 3).toNat
      let p := (v.imm.extractLsb' 0 8).toNat
      let from' (j : Nat) : Nat := elemOf w (x.a.get {} r).data j
      (kind = 0 → out (.vpermImm h v) = from' ((e + p) % tyEpr ty)) ∧ (kind = 1 → out (.vpermImm h v) = from' (tyEpr ty - 1 - e))
      ∧ (kind = 2 → out (.vpermImm h v) = from' (e ^^^ 2 ^ p)) ∧ (kind = 3 → out (.vpermImm h v) = from' p))
    ∧ (vrow (.vand h v) v x r).data = (x.a.get {} r).data &&& (x.b.get {} r).data
    ∧ (vrow (.vor h v) v x r).data = (x.a.get {} r).data ||| (x.b.get {} r).data
    ∧ (vrow (.vxor h v) v x r).data = (x.a.get {} r).data ^^^ (x.b.get {} r).data
    ∧ (∀ g < 16, r < 32 → elemOf 32 (vrow (.vsel h v) v x r).data g
        = if x.mask.getLsbD (16 * r + g) then elemOf 32 (x.a.get {} r).data g else elemOf 32 (x.b.get {} r).data g)
    ∧ (vrow (.vxrow h v) v x r).data = (x.a.get {} ((x.b.get {} r).data.toNat % 32)).data
    ∧ (vrow (.vbcastRow h v) v x r).data = (x.a.get {} 0).data ∧ (vrow (.vmovt h v) v x r).data = (x.a.get {} r).data
    ∧ (let held (l m : Line) : Prop := l.side = m.side ∧ l.tag = m.tag
      held (vrow (.vxrow h v) v x r) (x.a.get {} ((x.b.get {} r).data.toNat % 32)) ∧ held (vrow (.vbcastRow h v) v x r) (x.a.get {} 0)
      ∧ (x.tap = false → held (vrow (.vmovt h v) v x r) (x.a.get {} r)) ∧ (x.tap = true → held (vrow (.vmovt h v) v x r) {}))
    ∧ (∀ (g : Nat) (old : Row), g < 512 → ty ≤ 5 → v.cond.toNat < 6 →
      let p (l : Line) (j : Nat) : Int := num (elemOf w l.data (g % 16 * (32 / w) + j))
      let y (j : Nat) : Int := p (x.a.get {} (g / 16)) j
      let z (j : Nat) : Int := p (x.b.get {} (g / 16)) j
      let holds (j : Nat) : Prop := [y j = z j, y j ≠ z j, y j < z j, y j ≤ z j, z j < y j, z j ≤ y j].getD v.cond.toNat True
      (v.men = 1 → x.mask.getLsbD g = false → (vcmpMask (.vcmpI h v) v x old).getLsbD g = old.getLsbD g)
      ∧ (v.men = 0 ∨ x.mask.getLsbD g = true → ((vcmpMask (.vcmpI h v) v x old).getLsbD g = true ↔ ∀ j < 32 / w, holds j)))
    ∧ (∀ (g : Nat) (old : Row), g < 512 → 6 ≤ ty → ty ≤ 8 → v.men = 0 ∨ x.mask.getLsbD g = true →
      ((vcmpMask (.vcmpF h v) v x old).getLsbD g = true ↔ ∀ j < 32 / w, FVal.cond v.cond.toNat
        ((tyFmt ty).decode (elemOf w (x.a.get {} (g / 16)).data (g % 16 * (32 / w) + j)))
        ((tyFmt ty).decode (elemOf w (x.b.get {} (g / 16)).data (g % 16 * (32 / w) + j))) = true))

/-- R182, for F32, F16 and B16 in every mode and for every exact result: where rounding without .SAT gives an infinity, of an overflow or of an infinite input, rounding with it gives the largest finite
magnitude with the same sign; every other result is the same with and without .SAT; and a NaN gives the canonical NaN. No finite datum of the format has a greater magnitude than that largest one. -/
def Obligations.SatReplacesInfinities : Prop :=
  ∀ f ∈ [f32, f16, b16], ∀ mode < 4, ∀ x : FVal,
    let y := f.round mode false x
    (∀ neg, f.decode y = .inf neg → f.round mode true x = f.infBits - 1 + (if neg then f.signBit else 0))
    ∧ ((∀ neg, f.decode y ≠ .inf neg) → f.round mode true x = y)
    ∧ f.round mode true .nan = f.nanBits
    ∧ (∀ z < f.signBit, (∃ m k, f.decode z = .num m k) → z ≤ f.infBits - 1)

/-- R186: with selector s, sign and magnitude M the bits of R185 (DB8: 7, 6 and 5:0; DB4: 3, 2 and 1:0) and E the exponent that s selects, an element decodes to NaN where E is 0xFF, else to +0 where M is 0,
else to (-1)^sign M 2^(E - 127 - f); no element decodes as an infinity. -/
def Obligations.BlockElementsDecode : Prop :=
  ∀ (four : Bool) (s sign : Bool) (m e0 e1 : Nat), m < (if four then 4 else 64) → e0 < 256 → e1 < 256 →
    let f : Int := if four then 2 else 6
    let bits := (if four then (if s then 8 else 0) + (if sign then 4 else 0) else (if s then 128 else 0) + (if sign then 64 else 0)) + m
    let e := if s then e1 else e0
    let v := (BElem.ofBits four bits).value four (e0, e1)
    (e = 255 → v = .nan) ∧ (e ≠ 255 → m = 0 → v = .zero false)
    ∧ (e ≠ 255 → m ≠ 0 → v = .num (if sign then -(m : Int) else m) ((e : Int) - 127 - f)) ∧ (∀ neg, v ≠ .inf neg)
/-! ## Events of the device -/

/-- R356: an acknowledgment of the partner above DUR makes DUR that number and ends a silence, and any other changes nothing. R357: after 1,048,576 cycles without progress the engine is
silent and the host is told, once. R365: a reseat that runs sends its tail over the link in force and ends. R356 and R420: as a partner, the device writes an entry in its turn to its place and acknowledges
it, keeps one that comes early, and takes none that NEGWIN does not accept; a write to NEGWIN waits while an accepted entry is unwritten. R355: a write to JROUTE is held until the next pairing. Which
entry a quarter takes next is R356's order; that in a fresh quarter, and in one whose source comes back to this partner, it is the first that the source's die ships to it (`e.first`), and that NEGWIN_WRITE
begins the quarters anew, are the model's choices (log entry 27, DESIGN CHOICE). -/
def Obligations.JournalEvents : Prop :=
  (∀ (s : State) (d : Nat), s.site.unit = d →
    (s.site.sub = jPdev s.jpair → jEn s.jpair = true → (s.jnOf d).dur < s.site.val.toNat % 2 ^ 62 → ∃ t, exec .journalAckReceive s = .next t
      ∧ (t.jnOf d).dur = s.site.val.toNat % 2 ^ 62 ∧ (t.jnOf d).silent = false ∧ (t.jnOf d).lastn = (s.jnOf d).lastn
      ∧ ∀ e, e ≠ d → t.jnOf e = s.jnOf e)
    ∧ (s.site.sub ≠ jPdev s.jpair ∨ jEn s.jpair = false ∨ s.site.val.toNat % 2 ^ 62 ≤ (s.jnOf d).dur → exec .journalAckReceive s = .next s)
    ∧ (1048576 ≤ (s.jnOf d).since → (s.jnOf d).silent = false → ∃ t, exec .journalSilent s = .next t ∧ (t.jnOf d).silent = true
      ∧ t.host = (s.notify 5 d 0).host ∧ t.mem = s.mem)
    ∧ ((s.jnOf d).since < 1048576 ∨ (s.jnOf d).silent = true → exec .journalSilent s = .next s)
    ∧ ((s.jnOf d).reseat = true → (s.linkOf ((s.jnOf d).route.extractLsb' 56 4).toNat).down = false → ∃ t, exec .reseatTailSent s = .next t
      ∧ (t.jnOf d).reseat = false ∧ (t.jnOf d).tail = [] ∧ (t.jnOf d).sent = (s.jnOf d).sent ++ (s.jnOf d).tail.map (s.travel d) ∧ t.mem = s.mem)
    ∧ (∃ t, exec .jrouteWrite s = .next t ∧ (t.jnOf d).jroute = s.site.val ∧ (t.jnOf d).route = (s.jnOf d).route))
  ∧ (∀ (s : State) (e : JEntry), s.site.input = .entry e → s.memOk →
    let g := s.negs.get {} e.die
    let k := (entryRecord e).k
    (s.negAccepts e = false → exec .journalEntryReceive s = .next s)
    ∧ (s.negAccepts e = true → g.wait = [] → s.host.negHeld = [] → k ≤ e.first ∨ (g.acked ≠ 0 ∧ k ≤ g.acked + 1) → ∃ t, exec .journalEntryReceive s = .next t
      ∧ (t.negs.get {} e.die).acked = max g.acked k ∧ (t.negs.get {} e.die).acks = g.acks ++ [max g.acked k] ∧ (t.negs.get {} e.die).wait = []
      ∧ ∀ l, e.lines = [l] →
          Memory.getNat t.mem (e.pa + 64 + e.offset % ringBytes e.size) 64 = l.toNat)
    ∧ (s.negAccepts e = true → g.wait = [] → e.first < k → g.acked = 0 ∨ g.acked + 1 < k → ∃ t, exec .journalEntryReceive s = .next t
      ∧ t.negs.get {} e.die = { g with wait := [e] } ∧ t.mem = s.mem))
  ∧ (∀ s : State, ((∀ g ∈ s.negs.entries, g.2.wait = []) → ∃ t, exec .negwinWrite s = .next t
      ∧ t.host.negwin = s.site.val &&& 0xBFFFFFFFFFFFF000#64 ∧ t.negs.entries = [] ∧ t.mem = s.mem)
    ∧ ((∃ g ∈ s.negs.entries, g.2.wait ≠ []) → ∃ t, exec .negwinWrite s = .next t ∧ t.host.negwin = s.host.negwin
      ∧ t.host.negHeld = s.host.negHeld ++ [s.site.val] ∧ t.negs = s.negs))

/-- R173: an awake bank that nothing has touched for 256 cycles becomes drowsy and a drowsy one after 16,384 gated, unless TRSAW is set; a bank that wakes is awake at the end of its wake; a refresh
makes accesses wait. R332: a head blocked for 256 cycles sends a probe along each full FIFO; a probe at a queue whose head is not blocked is dropped; one that has come back to a head
that has been blocked for 256 cycles, counted anew from a grant, lends the reserve slot to its FIFO, waits while the slot is lent, or, where no queue of the cycle has started
or retired anything since the last grant to it, parks the stream with DEADLOCK. -/
def Obligations.ProbesAndBanks : Prop :=
  (∀ (s : State) (c b : Nat), s.site.unit = c → s.site.sub = b →
    let k := s.core c
    (k.trsaw = false → (k.bank b).power = .awake → (k.bank b).last + 256 ≤ s.cycle →
      ∃ t, exec .bankDrowsy s = .next t ∧ (t.core c).bank b = { k.bank b with power := .drowsy } ∧ ∀ x, x ≠ b → (t.core c).bank x = k.bank x)
    ∧ (k.trsaw = false → (k.bank b).power = .drowsy → (k.bank b).last + 16384 ≤ s.cycle →
      ∃ t, exec .bankGated s = .next t ∧ (t.core c).bank b = { k.bank b with power := .gated } ∧ ∀ x, x ≠ b → (t.core c).bank x = k.bank x)
    ∧ (k.trsaw = true → exec .bankDrowsy s = .next s ∧ exec .bankGated s = .next s)
    ∧ ((k.bank b).power = .waking → (k.bank b).wake ≤ s.cycle + 1 →
      ∃ t, exec .bankWakeDone s = .next t ∧ (t.core c).bank b = { k.bank b with power := .awake } ∧ ∀ x, x ≠ b → (t.core c).bank x = k.bank x)
    ∧ ((k.bank b).power = .awake → (s.cycle + 1) % 2048 = 128 * b →
      ∃ t, exec .bankRefresh s = .next t ∧ (t.core c).bank b = { k.bank b with wake := max (k.bank b).wake (s.cycle + 5) }))
  ∧ (∀ (s : State) (g q : Nat), s.site.unit = g → s.site.sub = q →
    ((s.core (g / 4)).probesNow (g % 4) q s.cycle = true → ∃ t, exec .probeSend s = .next t ∧ t.mem = s.mem
      ∧ (t.core (g / 4)).probes = (s.core (g / 4)).probes
          ++ ((s.core (g / 4)).blockedAt (g % 4) q s.cycle).map (fun f => (g % 4, q, f, consumerOf f)))
    ∧ ((s.core (g / 4)).probesNow (g % 4) q s.cycle = false → exec .probeSend s = .next s))
  ∧ (∀ (s : State) (c i q f a : Nat), s.site.unit = c → i < 4 → (s.core c).probes = [(i, q, f, a)] →
    let k := s.core c
    (a ≠ q → k.blockedAt i a s.cycle = [] → ∃ t, exec .probeForward s = .next t ∧ (t.core c).probes = [] ∧ (t.core c).lent = k.lent)
    ∧ (∀ f', a ≠ q → k.blockedAt i a s.cycle = [f'] → ∃ t, exec .probeForward s = .next t ∧ (t.core c).probes = [(i, q, f, consumerOf f')]
        ∧ (t.core c).lent = k.lent)
    ∧ (∀ e, a = q → k.finished i q s.cycle = some e → f ∈ k.blockedAt i q s.cycle →
      let unmoved : Prop := ∃ l, k.granted = some (i, q, l) ∧ ∀ p ∈ k.holds i q f s.cycle, l.getD p 0 = (k.stream i).progress p
      let long : Prop := e.since ≠ 0 ∧ e.since + 256 ≤ s.cycle + 1
      (long → ¬ unmoved → k.lent = none → ∃ t, exec .probeForward s = .next t ∧ (t.core c).probes = [] ∧ (t.core c).lent = some (i, f)
          ∧ (t.core c).granted = some (i, q, [0, 1, 2, 3].map (k.stream i).progress))
      ∧ (long → ¬ unmoved → k.lent ≠ none → ∃ t, exec .probeForward s = .next t ∧ (t.core c).probes = [(i, q, f, q)] ∧ (t.core c).lent = k.lent)
      ∧ (long → unmoved → (k.stream i).status = .running →
        ∃ t, exec .probeForward s = .next t ∧ (t.core c).probes = [] ∧ ((t.core c).stream i).status = .parked
          ∧ ∃ r, ((t.core c).stream i).pend = some r ∧ r.code = .deadlock ∧ r.unit = q ∧ r.info = BitVec.ofNat 64 q)
      ∧ (¬ long → ∃ t, exec .probeForward s = .next t ∧ (t.core c).probes = [] ∧ (t.core c).lent = k.lent)))

/-- R375: a fault at issue parks the stream with a pending record of KIND 0 that names the fault, the word and the program counter. FAULT_DELIVERY of a stream with a record pending that has not
been tried: where the launch's ring takes the record (`writeRecord`), it is written and pending no more, and the host is told (code 2) unless a handler is spawned, which raises the handler queue's
tail; where the ring does not take it, the record stays and the host is told (code 4), once. FAULT_RING_RETRY writes it later. R376: CORE_CONTEXT_FAULT writes the core-context records and tells the
host (code 3) once of the fault, even where it parks no stream. R378: none of the three acts on a stopped context. R374: what the device itself writes, with no format region in force, is `n` bytes at the place of the address, and no other byte. R377: RESUME with action 0 lets a stream parked by a
fault of its own go on as it was, 1 makes it proceed as TEND with its queued work skipped, 2 halts it with its writes performed at .V; another stream is left alone. R372: PC, WORD, ADDR, INFO and ARGS
of a record stand at bytes 16 to 55. -/
def Obligations.FaultRecordsAndResumption : Prop :=
  (∀ (s : State) (f : FaultInfo), f.src ≠ 4 → let t := s.faultMe f
    t.verdict = .faulted ∧ t.me.status = .parked ∧ t.me.pc = s.me.pc ∧ t.me.s = s.me.s ∧ t.me.q = s.me.q ∧ t.me.latents = s.me.latents ∧ t.mem = s.mem
    ∧ ∃ r, t.me.pend = some r ∧ r.code = f.code ∧ r.kind = 0 ∧ r.src = f.src ∧ r.gsid = s.cur ∧ r.addr = f.addr ∧ r.info = f.info
        ∧ r.word = (if f.word = 0 then s.word else f.word) ∧ r.pc = (if s.me.status = .idle then 0 else s.me.pc)
        ∧ r.num = (s.launchOf (s.cur / 4)).records + 1)
  ∧ (∀ (s : State) (g : Nat), s.site.unit = g → (s.core (g / 4)).stopped = true → ∀ i ∈ [Instr.faultDelivery, .faultRingRetry], exec i s = .next s)
  ∧ (∀ (s : State) (g : Nat) (r : FRec), s.site.unit = g → (s.core (g / 4)).stopped = false → (s.stream g).pend = some r →
    let l := s.launchOf (g / 4)
    (∀ u va e, s.writeRecord (g / 4) r = some (u, va, e) → (s.stream g).waitRing = false → e = 0 ∨ l.hqen = false →
      ∃ t, exec .faultDelivery s = .next t ∧ (t.stream g).pend = none ∧ (t.stream g).status = (s.stream g).status ∧ t.mem = u.mem
        ∧ t.host = (u.notify 2 g r.num).host)
    ∧ (∀ u va e p, s.writeRecord (g / 4) r = some (u, va, e) → (s.stream g).waitRing = false → e ≠ 0 → l.hqen = true →
      (l.queue l.hq).enabled = true → (l.queue l.hq).full = false →
      (u.modStream g (fun t => { t with pend := none, waitRing := t.coreRec.isSome && t.waitRing })).place l.ctx ((l.queue l.hq).slot l.hq (l.queue l.hq).tail) .write = .ok p →
      p.isDevice = false →
      ∃ t, exec .faultDelivery s = .next t ∧ (t.stream g).pend = none ∧ t.host = u.host
        ∧ ((t.launchOf (g / 4)).queue l.hq).tail = (l.queue l.hq).tail + 1)
    ∧ (s.writeRecord (g / 4) r = none → (s.stream g).waitRing = false → ∃ t, exec .faultDelivery s = .next t
      ∧ (t.stream g).pend = some r ∧ (t.stream g).waitRing = true ∧ t.host = (s.notify 4 g l.lid.toNat).host ∧ t.mem = s.mem)
    ∧ ((s.stream g).waitRing = true → exec .faultDelivery s = .next s)
    ∧ (∀ u va e, s.writeRecord (g / 4) r = some (u, va, e) → (s.stream g).coreRec = none → e = 0 ∨ l.hqen = false → ∃ t, exec .faultRingRetry s = .next t
      ∧ (t.stream g).pend = none ∧ (t.stream g).waitRing = false ∧ t.mem = u.mem ∧ t.host = (u.notify 2 g r.num).host)
    ∧ (s.writeRecord (g / 4) r = none → (s.stream g).waitRing = true → (s.stream g).coreRec = none → ∃ t, exec .faultRingRetry s = .next t
      ∧ (t.stream g).pend = some r ∧ (t.stream g).waitRing = true ∧ t.host = s.host ∧ t.mem = s.mem))
  ∧ (∀ (s : State) (g : Nat) (r : FRec) (u : State) (va e : Word), s.site.unit = g → (s.core (g / 4)).stopped = false → (s.stream g).pend = none →
    (s.stream g).coreRec = some r → s.writeRecord (g / 4) r = some (u, va, e) → ∃ t, exec .faultRingRetry s = .next t ∧ (t.stream g).coreRec = none ∧ t.mem = u.mem ∧ t.host = u.host)
  ∧ (∀ (s : State) (c j : Nat) (r : FRec) (u : State) (va e : Word), s.site.unit = c → j < 4 → (s.core c).stopped = false →
    (s.stream (4 * c + j)).coreRec = some r → (s.stream (4 * c + j)).waitRing = false → (∀ i < 4, i ≠ j → (s.stream (4 * c + i)).coreRec = none) →
    s.writeRecord c r = some (u, va, e) →
    ∃ t, exec .coreContextFault s = .next t ∧ (t.stream (4 * c + j)).coreRec = none ∧ (t.stream (4 * c + j)).status = (s.stream (4 * c + j)).status
      ∧ t.mem = u.mem ∧ (t.core c).ctxNote = false
      ∧ t.host = (if (s.core c).ctxNote then (u.notify 3 c (s.launchOf c).lid.toNat).host else u.host))
  ∧ (∀ (s : State) (c : Nat), s.site.unit = c →
    ((s.core c).stopped = true → exec .coreContextFault s = .next s)
    ∧ ((s.core c).stopped = false → (∀ i < 4, (s.stream (4 * c + i)).coreRec = none ∨ (s.stream (4 * c + i)).waitRing = true) →
      ((s.core c).ctxNote = false → exec .coreContextFault s = .next s)
      ∧ ((s.core c).ctxNote = true → ∃ t, exec .coreContextFault s = .next t ∧ t.host = (s.notify 3 c (s.launchOf c).lid.toNat).host
          ∧ t.mem = s.mem ∧ (t.core c).ctxNote = false ∧ ∀ g, t.stream g = s.stream g)))
  ∧ (∀ (s : State) (ctx n v : Nat) (va : Word) (k : AccKind) (p : Place), s.memOk → (∀ k < 8, (s.fmtBase.get 0 k).getLsbD 63 = false) →
    s.place ctx va k = .ok p → p.isDevice = false → ∃ u, s.ownWrite ctx va n v k = some u ∧ Memory.getNat u.mem p.pa n = v % 2 ^ (8 * n)
      ∧ ∀ a, a < p.pa ∨ p.pa + n ≤ a → Memory.get u.mem a = Memory.get s.mem a)
  ∧ (∀ (s : State) (g : Nat), s.site.unit = g →
    (∀ r, (s.stream g).status = .parked → (s.stream g).parkedBy = some r → r.kind ≠ 2 →
      (∃ t, exec .resumeStream s = .next t ∧ (t.stream g).status = (s.stream g).parkedIn ∧ (t.stream g).parkedBy = none
        ∧ (t.stream g).pc = (s.stream g).pc ∧ (t.stream g).s = (s.stream g).s ∧ (t.stream g).latents = (s.stream g).latents
        ∧ (∀ e ∈ (t.stream g).aq, e.fault = none) ∧ t.mem = s.mem ∧ ∀ x, x ≠ g → t.stream x = s.stream x)
      ∧ (∃ t, exec .abandonStream s = .next t ∧ (t.stream g).status = .atTend ∧ (t.stream g).parkedBy = none ∧ (t.stream g).xfer = {}
        ∧ (t.stream g).seg.isOpen = false ∧ (t.stream g).region = (s.stream g).region + 1 ∧ (t.stream g).abandon = some (BitVec.ofNat 16 r.code.num)
        ∧ (∀ e ∈ (t.stream g).aq, e.started = false → e.done = false → e.cancel = true ∧ e.fault = none)
        ∧ t.mem = s.mem ∧ ∀ x, x ≠ g → t.stream x = s.stream x)
      ∧ (∃ t, exec .haltStream s = .next t ∧ (t.stream g).status = .halted ∧ (t.stream g).parkedBy = none ∧ (t.stream g).xfer = {}
        ∧ (t.stream g).region = (s.stream g).region + 1 ∧ (∀ k ∈ t.tracks, k.gsid = g → k.write = true → 4 ≤ k.level)
        ∧ t.mem = s.mem ∧ ∀ x, x ≠ g → t.stream x = s.stream x))
    ∧ ((s.stream g).status ≠ .parked ∨ (∀ r, (s.stream g).parkedBy = some r → r.kind = 2) →
        ∀ i ∈ [Instr.resumeStream, .abandonStream, .haltStream], ∃ t, exec i s = .next t ∧ t.mem = s.mem ∧ ∀ x, t.stream x = s.stream x))
  ∧ (∀ r : FRec, r.kind < 256 → r.src < 256 → r.toNat / 2 ^ 128 % 2 ^ 64 = r.pc.toNat ∧ r.toNat / 2 ^ 192 % 2 ^ 64 = r.word.toNat
    ∧ r.toNat / 2 ^ 256 % 2 ^ 64 = r.addr.toNat ∧ r.toNat / 2 ^ 320 % 2 ^ 64 = r.info.toNat ∧ r.toNat / 2 ^ 384 % 2 ^ 64 = r.args.toNat
    ∧ r.toNat % 2 ^ 16 = r.code.num)

/-- R380: of a core in a launch that runs, SAVE to a valid area is accepted, to another is turned away with ERR 1; RESUME and RESTORE of a running context are turned away with ERR 3; a command for a core in no running launch takes ERR 3; a
write while BUSY reads 1 is ignored. R381: a SAVE whose 100 cycles have passed stops the context. R382: once what must complete has completed, and every bank of the tile store is awake (R173),
the image stands at AREA, with the header that RESTORE asks for and the cycle of the stop (R385), no byte of memory outside AREA changes, and BUSY reads 0; a resumed context is stopped no more, and neither is a
restored one, which is as its image gives it. The context that the model keeps beside the image, for what the image has no bits for, is its own (`State.images`, log entry 25, DESIGN CHOICE). -/
def Obligations.PreemptionEvents : Prop :=
  ∀ (s : State) (c : Nat), s.site.unit = c →
    let k := s.core c
    let page := (s.site.val.extractLsb' 12 34).toNat
    let awake : Prop := ∀ b < 16, (k.bank b).power = .awake ∧ (k.bank b).wake ≤ s.cycle
    (k.pctlBusy = true → ∀ i ∈ [Instr.pctlSave, .pctlResume, .pctlRestore], exec i s = .next s)
    ∧ (k.pctlBusy = false → k.launch.isSome = true → k.mbState = 3 →
      (areaOk page = true → ∃ t, exec .pctlSave s = .next t ∧ (t.core c).pctlBusy = true ∧ (t.core c).pctlErr = 0 ∧ (t.core c).saveAt = s.cycle
        ∧ (t.core c).pctlArea.toNat = page ∧ (t.core c).pctlCmd = 1 ∧ (t.core c).streams = k.streams ∧ t.mem = s.mem)
      ∧ (areaOk page = false → ∃ t, exec .pctlSave s = .next t ∧ (t.core c).pctlBusy = false ∧ (t.core c).pctlErr = 1)
      ∧ (k.stopped = false → ∀ i ∈ [Instr.pctlResume, .pctlRestore], ∃ t, exec i s = .next t ∧ (t.core c).pctlBusy = false
          ∧ (t.core c).pctlErr = 3 ∧ (t.core c).streams = k.streams)
      ∧ (k.stopped = true → (∀ i < 4, (k.stream i).pend = none ∧ (k.stream i).coreRec = none) → ∃ t, exec .pctlResume s = .next t
          ∧ (t.core c).stopped = false ∧ (t.core c).pctlBusy = false ∧ t.mem = s.mem
          ∧ ∀ i, ((t.core c).stream i).status = (k.stream i).status ∧ ((t.core c).stream i).pc = (k.stream i).pc ∧ ((t.core c).stream i).s = (k.stream i).s)
      ∧ (k.stopped = true → areaOk page = true →
          (s.modCore c (fun k => { k with pctlArea := s.site.val.extractLsb' 12 34 })).restorable c = true → ∃ t, exec .pctlRestore s = .next t
          ∧ (t.core c).pctlBusy = true ∧ (t.core c).pctlErr = 0 ∧ (t.core c).streams = k.streams)
      ∧ (k.stopped = true → areaOk page = true →
          (s.modCore c (fun k => { k with pctlArea := s.site.val.extractLsb' 12 34 })).restorable c = false → ∃ t, exec .pctlRestore s = .next t
          ∧ (t.core c).pctlBusy = false ∧ (t.core c).pctlErr = 2 ∧ (t.core c).streams = k.streams))
    ∧ (k.pctlBusy = false → k.launch = none ∨ k.mbState ≠ 3 → ∀ i ∈ [Instr.pctlSave, .pctlResume, .pctlRestore], ∃ t, exec i s = .next t
        ∧ (t.core c).pctlErr = 3 ∧ (t.core c).pctlBusy = false ∧ (t.core c).streams = k.streams)
    ∧ (k.pctlBusy = true → k.pctlCmd = 1 → k.stopped = false →
      (k.saveAt + 100 ≤ s.cycle + 1 → ∃ t, exec .contextStop s = .next t ∧ (t.core c).stopped = true
        ∧ (t.core c).stopCyc = BitVec.ofNat 64 s.cycle ∧ (t.core c).streams = k.streams ∧ t.mem = s.mem)
      ∧ (s.cycle + 1 < k.saveAt + 100 → exec .contextStop s = .next s))
    ∧ (k.pctlBusy = true → k.pctlCmd = 1 → k.stopped = true →
      (k.settled = true → awake → ∃ t k', exec .saveComplete s = .next t ∧ (t.core c).pctlBusy = false ∧ (t.core c).stopped = true
          ∧ (t.core c).streams = k.streams ∧ (t.core c).tiles = k.tiles ∧ (t.core c).sp = k.sp
          ∧ (t.images.get [] c).head? = some k' ∧ k'.streams = k.streams ∧ k'.tiles = k.tiles
          ∧ (s.memOk →
              (∀ a, a < 4096 * k.pctlArea.toNat ∨ 4096 * k.pctlArea.toNat + 0x2A0000 ≤ a → Memory.get t.mem a = Memory.get s.mem a)
              ∧ Memory.getNat t.mem (4096 * k.pctlArea.toNat + 0x28) 8 = k.stopCyc.toNat
              ∧ ((s.launchOf c).ctx < 2 ^ 64 → c < 2 ^ 64 → t.restorable c = true)))
      ∧ (k.settled = true → ¬ awake → ∃ t, exec .saveComplete s = .next t ∧ (t.core c).pctlBusy = true ∧ (t.core c).streams = k.streams ∧ t.mem = s.mem)
      ∧ (k.settled = false → exec .saveComplete s = .next s))
    ∧ (k.pctlBusy = true → k.pctlCmd = 3 → k.stopped = true →
      let u := (k.touchAll s.cycle (List.range 16)).2.restored (s.images.get [] c) c (s.cellsAt (4096 * k.pctlArea.toNat) areaSize)
      (awake → (∀ i < 4, (u.stream i).pend = none ∧ (u.stream i).coreRec = none) →
        ∃ t, exec .restoreComplete s = .next t ∧ (t.core c).stopped = false ∧ (t.core c).pctlBusy = false ∧ (t.core c).launch = k.launch
          ∧ (t.core c).sp = u.sp ∧ (t.core c).rings = u.rings ∧ (∀ i, ((t.core c).stream i).s = (u.stream i).s ∧ ((t.core c).stream i).pc = (u.stream i).pc)
          ∧ t.mem = s.mem)
      ∧ (¬ awake → ∃ t, exec .restoreComplete s = .next t ∧ (t.core c).pctlBusy = true ∧ (t.core c).streams = k.streams ∧ t.mem = s.mem))

/-- R393: an error found at a source is counted there. R394: a source with THRESH events within WINDOW is lasting: it is retired once and the host told, and no other is; a row of class 0 takes a spare of its bank, or, with none left, fences its core (that the spare is taken at once, and the
number of a row as a source, are log entries 40 and 28, DESIGN CHOICE, as is bit 63 of the event, which tells an error found from the check of the count). R395: a channel with a repair pauses, and after the repair goes on. R392: a scrub that finds a line it cannot correct poisons it, where no cache holds
it. R397: with no reset in progress, a partition reset takes its launch out of its cores, an engine reset parks the core's streams with POISON, a link reset holds the link's traffic, a channel reset pauses the channel, and each sets GO until the reset is done;
while GO reads 1 a write is ignored. R392 and R424: a lost heartbeat or a junction that is too hot is reported to the host. -/
def Obligations.ErrorsAndResets : Prop :=
  (∀ (s : State) (cls src : Nat), s.site.unit = cls → s.site.sub = src →
    let thresh := ((s.ectl cls).extractLsb' 32 4).toNat
    let window := max 1 ((s.ectl cls).extractLsb' 0 16).toNat * 2 ^ 20
    (∀ e, cls < 4 → s.site.val.getLsbD 63 = false → s.ras.errs.find? (fun e => e.cls == cls && e.src == src) = some e → e.last = false → thresh ≠ 0 →
      thresh ≤ (e.times.filter (fun t => decide (s.cycle < t + window))).length →
      ∃ t, exec .sourceLasting s = .next t ∧ t.ras.errs.any (fun e => e.cls == cls && e.src == src && e.last) = true
        ∧ (cls = 0 → t.host = (s.notify 6 cls src).host ∧ t.mem = s.mem
          ∧ ((s.core (src / 65536)).spares.get 0 (arrayBank src) < 4 →
              (t.core (src / 65536)).spares.get 0 (arrayBank src) = (s.core (src / 65536)).spares.get 0 (arrayBank src) + 1)
          ∧ (4 ≤ (s.core (src / 65536)).spares.get 0 (arrayBank src) → (s.core (src / 65536)).launch = none →
              (t.core (src / 65536)).fenced = true)))
    ∧ (∀ e, cls < 4 → s.site.val.getLsbD 63 = false → s.ras.errs.find? (fun e => e.cls == cls && e.src == src) = some e → e.last = true ∨ thresh = 0 ∨
      (e.times.filter (fun t => decide (s.cycle < t + window))).length < thresh → exec .sourceLasting s = .next s)
    ∧ (cls < 4 → s.site.val.getLsbD 63 = true → ∃ t, exec .sourceLasting s = .next t
      ∧ ∃ e ∈ t.ras.errs, e.cls = cls ∧ e.src = src ∧ s.cycle ∈ e.times))
  ∧ (∀ (s : State) (n : Nat), s.site.unit = n →
    ((∃ r ∈ s.ras.repairs, r.1 = n) → n ∉ s.ras.paused → ∃ t, exec .laneRepairPause s = .next t ∧ t.ras.paused = n :: s.ras.paused ∧ t.mem = s.mem)
    ∧ (n ∈ s.ras.paused → ∃ t, exec .laneRepairDone s = .next t ∧ n ∉ t.ras.paused ∧ (∀ r ∈ t.ras.repairs, r.1 ≠ n) ∧ t.mem = s.mem
        ∧ t.ras.lanes.get 0 n ≤ 2)
    ∧ exec .dieHeartbeatLoss s = .next (s.notify 9 n 0) ∧ exec .junctionOvertemp s = .next (s.notify 9 n 0))
  ∧ (∀ (s : State) (pa : Nat), pa = s.site.val.toNat / 64 * 64 → populated pa = true →
    (s.site.sub = 2 → (∀ e ∈ s.l2.entries, e.2.pa ≠ pa) → ∃ t, exec .hbmScrub s = .next t ∧ t.poisoned pa = true ∧ t.mem = s.mem)
    ∧ (s.site.sub = 1 → ∃ t, exec .hbmScrub s = .next t ∧ t.poison = s.poison ∧ t.mem = s.mem)
    ∧ (s.site.sub = 0 → exec .hbmScrub s = .next s))
  ∧ (∀ (s : State) (n : Nat), n = (s.site.val.extractLsb' 0 16).toNat →
    (s.ras.rstctl.getLsbD 63 = true → ∀ i ∈ [Instr.resetPartition, .resetEngine, .resetLink, .resetChannel], exec i s = .next s)
    ∧ (s.ras.rstctl.getLsbD 63 = false →
      ((s.core n).launch = some n → ∃ t, exec .resetPartition s = .next t ∧ t.ras.rstctl.getLsbD 63 = true
        ∧ ∀ c ∈ coresOf (s.launches.get {} n).pmask, (t.core c).launch = none ∧ (t.core c).mbState = 0 ∧ ∀ i, (t.core c).stream i = {})
      ∧ (∀ eng < 3, (s.site.val.extractLsb' 56 4).toNat = eng → ∃ t, exec .resetEngine s = .next t ∧ t.ras.rstctl.getLsbD 63 = true
        ∧ (t.core n).ctxFault = true ∧ ∀ i < 4, (s.stream (4 * n + i)).faultable = true → (t.stream (4 * n + i)).status = .parked
            ∧ ∃ r, (t.stream (4 * n + i)).coreRec = some r ∧ r.code = .poison ∧ r.info = 5)
      ∧ (∃ t, exec .resetLink s = .next t ∧ t.ras.rstctl.getLsbD 63 = true ∧ (t.linkOf n).held = true ∧ (t.linkOf n).lanes = (s.linkOf n).lanes
        ∧ (∀ k, s.host.linkNew.find? n = some k → t.host.link.get 0 n = k) ∧ t.mem = s.mem)
      ∧ (∃ t, exec .resetChannel s = .next t ∧ t.ras.rstctl.getLsbD 63 = true ∧ n ∈ t.ras.paused ∧ t.mem = s.mem)))
  ∧ (∀ s : State, ∃ t, exec .resetComplete s = .next t ∧ t.ras.rstctl.getLsbD 63 = false ∧ (∀ l, (t.linkOf l).held = false) ∧ t.mem = s.mem)

/-- R308 and R310: on a READY device, GO in an idle mailbox checks the packet: one that fails a check leaves the mailbox in ERROR with its code, one that passes puts every core of PMASK into the launch, in LOAD. R311 and R312: once the banks of their tile stores are awake (R173), the cores are loaded from their images, with
no stream running yet, and then the started streams begin at once, in RUN. R313: a launch that is over leaves its cores, whose mailboxes read DONE, after LID has been stored to DONE. -/
def Obligations.LaunchLife : Prop :=
  ∀ (s : State) (c : Nat), s.site.unit = c →
    let k := s.core c
    let p := k.packet
    let l := s.launches.get {} c
    (s.host.phase ≠ 4 → exec .mailboxGo s = .next s)
    ∧ (s.host.phase = 4 → k.mbState = 0 ∨ k.mbState = 4 ∨ k.mbState = 5 →
      (∀ e, s.checkFirst c p = some e → ∃ t, exec .mailboxGo s = .next t ∧ (t.core c).mbState = 5 ∧ (t.core c).mbErr = BitVec.ofNat 8 e
        ∧ (∀ x, x ≠ c → t.core x = s.core x) ∧ t.mem = s.mem)
      ∧ (∀ e u, s.checkFirst c p = none → (s.setHomemap p.ctx p.hmap).checkLast p = .error (e, u) → ∃ t, exec .mailboxGo s = .next t
        ∧ (t.core c).mbState = 5 ∧ (t.core c).mbErr = BitVec.ofNat 8 e ∧ t.homemaps.get 0 p.ctx = s.homemaps.get 0 p.ctx)
      ∧ (∀ n u, s.checkFirst c p = none → (s.setHomemap p.ctx p.hmap).checkLast p = .ok (n, u) → ∃ t, exec .mailboxGo s = .next t
        ∧ t.launches.get {} c = n ∧ ∀ x ∈ coresOf p.pmask, (t.core x).launch = some c ∧ (t.core x).mbState = 2 ∧ (t.core x).mbErr = 0)
      ∧ (p.malformed = true → s.checkFirst c p = some 1)
      ∧ (p.malformed = false → (coresOf p.pmask).head? ≠ some c → s.checkFirst c p = some 3)
      ∧ (p.malformed = false → (coresOf p.pmask).head? = some c →
          (∃ x ∈ coresOf p.pmask, (s.core x).fenced = true ∨ (s.core x).launch.isSome = true) → s.checkFirst c p = some 4))
    ∧ (k.launch = some c → k.mbState = 2 → l.loaded = false →
      let awake : Prop := ∀ x ∈ coresOf l.pmask, ∀ b < 16, ((s.core x).bank b).power = .awake ∧ ((s.core x).bank b).wake ≤ s.cycle
      (awake → ∃ t, exec .launchLoad s = .next t ∧ (t.launches.get {} c).loaded = true
        ∧ (l.ovk = 0 → (∀ n < 8, (s.fmtBase.get 0 n).getLsbD 63 = false) → t.mem = s.mem)
        ∧ ∀ x ∈ coresOf l.pmask, ∀ i, ((t.core x).stream i).status ≠ .running)
      ∧ (¬ awake → ∃ t, exec .launchLoad s = .next t ∧ (t.launches.get {} c).loaded = false ∧ t.mem = s.mem ∧ ∀ g, t.stream g = s.stream g))
    ∧ (k.launch = some c → k.mbState = 2 → l.loaded = true → ∃ t, exec .streamsStart s = .next t ∧ (t.launches.get {} c).running = true ∧ t.mem = s.mem
        ∧ ∀ x ∈ coresOf l.pmask, (t.core x).mbState = 3 ∧ ∀ i, ((s.core x).stream i).started = true → ((s.core x).stream i).status = .never →
            ((t.core x).stream i).status = .running)
    ∧ (k.launch = some c → s.launchOver c = true → l.regions = [] → ∃ t, exec .launchEnd s = .next t ∧ (t.launches.get {} c).running = false
        ∧ (∀ x ∈ coresOf l.pmask, (t.core x).launch = none ∧ (t.core x).mbState = 4)
        ∧ (l.done = 0 → t.mem = s.mem) ∧ (∀ u, l.done ≠ 0 → s.ownWrite l.ctx l.done 8 l.lid.toNat .write = some u → t.mem = u.mem))
    ∧ (k.launch ≠ some c ∨ s.launchOver c = false → exec .launchEnd s = .next s)

/-- R418: a device reset puts the device in phase 0 with the boot address, its memory kept (log entry 30); a boot phase that ends well goes on to the next, and one that fails ends in phase 5 with its error. R415: the host reads and writes populated memory, and reads registers, a contact sheet once what it touches lets it (R175); a write changes the bytes
written and no other. R417: a register write acts on the register at its address and nothing elsewhere; read-only registers stay. R76: the root of a context is set without its reserved bits. R82: an invalidation runs from GO until it is done. R419: a notification goes into
the ring where EN is set and there is room, and else is kept pending. -/
def Obligations.HostAccesses : Prop :=
  (∀ s : State, ∃ t, exec .deviceReset s = .next t ∧ t.cycle = 0 ∧ t.host.phase = 0 ∧ t.host.bootPa = s.site.val ∧ t.mem = s.mem
    ∧ t.host.epoch = s.host.epoch ∧ (∀ g, (t.stream g).status = .never) ∧ t.launches.entries = [])
  ∧ (∀ (s : State) (fw : BitVec 16) (nv : BitVec 8) (ep : BitVec 16),
    (s.site.input = .boot (.done fw nv ep) →
      (s.host.phase = 0 ∨ s.host.phase = 2 → ∃ t, exec .bootPhaseComplete s = .next t ∧ t.host.phase = s.host.phase + 1)
      ∧ (s.host.phase = 1 → ¬ ep.toNat < s.host.epoch.toNat → ∃ t, exec .bootPhaseComplete s = .next t ∧ t.host.phase = 2 ∧ t.host.epoch = ep)
      ∧ (s.host.phase = 1 → ep.toNat < s.host.epoch.toNat → ∃ t, exec .bootPhaseComplete s = .next t ∧ t.host.phase = 5 ∧ t.host.err = 2)
      ∧ (s.host.phase = 3 → ∃ t, exec .bootPhaseComplete s = .next t ∧ t.host.phase = 4 ∧ t.host.fwver = fw ∧ t.host.numv = nv
          ∧ ∀ c, (t.core c).mbState = 0))
    ∧ (s.site.input = .boot .badSignature → s.host.phase = 1 → ∃ t, exec .bootPhaseComplete s = .next t ∧ t.host.phase = 5 ∧ t.host.err = 1)
    ∧ (s.site.input = .boot .training → s.host.phase = 2 → ∃ t, exec .bootPhaseComplete s = .next t ∧ t.host.phase = 5 ∧ t.host.err = 3)
    ∧ (s.site.input = .boot .heartbeat → s.host.phase = 2 ∨ s.host.phase = 3 → ∃ t, exec .bootPhaseComplete s = .next t ∧ t.host.phase = 5
        ∧ t.host.err = 4))
  ∧ (∀ (s : State) (pa n : Nat), s.site.unit = pa → s.site.sub = n → n ≤ 8 → s.site.input = .none →
    (populated pa = true → s.scaleAt pa = none → ∃ t, exec .hostMemoryRead s = .next t ∧ t.host.reads = s.host.reads ++ [BitVec.ofNat 64 (Memory.getNat s.mem pa n)]
      ∧ t.mem = s.mem)
    ∧ (∀ r, populated pa = false → devReg pa = some r → n = 8 →
      ((∀ c o, r ≠ .sheet c o) → ∃ t, exec .hostMemoryRead s = .next t ∧ t.host.reads = s.host.reads ++ [s.readReg r] ∧ t.mem = s.mem)
      ∧ ((s.regTouch r).1 = true → ∃ t, exec .hostMemoryRead s = .next t ∧ t.host.reads = s.host.reads ++ [(s.regTouch r).2.readReg r] ∧ t.mem = s.mem)
      ∧ ((s.regTouch r).1 = false → ∃ t, exec .hostMemoryRead s = .next t ∧ t.host.reads = s.host.reads
          ∧ (s.cycle + 1, s.site, .hostMemoryRead) ∈ t.inbox ∧ t.mem = s.mem))
    ∧ (s.memOk → 0 < n → populated pa = true → populated (pa + n - 1) = true → (∀ k < 8, (s.fmtBase.get 0 k).getLsbD 63 = false) →
      ∃ t, exec .hostMemoryWrite s = .next t ∧ Memory.getNat t.mem pa n = s.site.val.toNat % 256 ^ n
        ∧ ∀ a, a < pa ∨ pa + n ≤ a → Memory.get t.mem a = Memory.get s.mem a))
  ∧ (∀ s : State, (∀ r, devReg s.site.unit = some r → exec .hostRegisterWrite s = .next (s.regWrite r s.site.val))
    ∧ (devReg s.site.unit = none → exec .hostRegisterWrite s = .next s)
    ∧ (∀ d c o, ∀ r ∈ [DevReg.bootst, .hnqW, .lastn d, .dur d, .sheet c o], s.regWrite r s.site.val = s)
    ∧ (∃ t, exec .ctxrootWrite s = .next t ∧ t.ctxroots.get 0 s.site.unit = s.site.val &&& 0x80003FFFFFFFF000#64 ∧ t.mem = s.mem)
    ∧ (s.tuInv.getLsbD 63 = false → ∃ t, exec .tuInvGo s = .next t ∧ t.tuInv = s.site.val &&& 0xCFFFFFFFFFFFFFFF#64 ∧ t.mem = s.mem)
    ∧ (s.tuInv.getLsbD 63 = true → exec .tuInvGo s = .next s ∧ ∃ t, exec .tuInvDone s = .next t ∧ t.tuInv = s.tuInv &&& 0x7FFFFFFFFFFFFFFF#64
      ∧ ∀ c, ∀ e ∈ (t.core c).icache.entries, s.tuInv.getLsbD 62 = true → e.2.ctx ≠ (s.tuInv.extractLsb' 48 12).toNat)
    ∧ (s.host.pending = 0 → ∃ t, exec .hnqReadIndexWrite s = .next t ∧ t.host = { s.host with hnqR := s.site.val.setWidth 32 } ∧ t.mem = s.mem))
  ∧ (∀ (s : State) (code aux arg : Nat), s.memOk → 0 < code → code < 16 → s.host.pending.getLsbD code = false →
    let u := s.notify code aux arg
    let slot := (s.host.hnq.extractLsb' 12 34).toNat * 4096 + 16 * (s.host.hnqW.toNat % 256)
    (s.host.hnq.getLsbD 63 = true → (s.host.hnqW - s.host.hnqR).toNat ≠ 256 → u.host.hnqW = s.host.hnqW + 1 ∧ u.host.pending = s.host.pending
      ∧ Memory.getNat u.host.mem slot 2 = code ∧ Memory.getNat u.host.mem (slot + 2) 2 = aux % 2 ^ 16 ∧ Memory.getNat u.host.mem (slot + 4) 4 = arg % 2 ^ 32
      ∧ ∀ a, a < slot ∨ slot + 16 ≤ a → Memory.get u.host.mem a = Memory.get s.host.mem a)
    ∧ (s.host.hnq.getLsbD 63 = false ∨ (s.host.hnqW - s.host.hnqR).toNat = 256 → u.host.pending.getLsbD code = true ∧ u.host.hnqW = s.host.hnqW
      ∧ u.host.mem = s.host.mem))

/-- R422: GO builds a report whose bytes 0 to 47 are the nonce, with FWVER at byte 96, and then GO reads 0. R423: a command while GO reads 1 sets STATUS 4 only (log entry 31); OPEN opens a session; AGREE without one comes to 1, with a point that is not valid to 2, and else derives the key; INSTALL
without a session or key comes to 1, of an unknown kind to 3, with a tag that fails to 2, and else sets the key, of a slot at once, of a link for its next reset, or at once while it is down; CLOSE ends the session. When the command is done STATUS is set and GO reads 0. The crypto is uninterpreted (log entry 8). -/
def Obligations.AttestationAndKeys : Prop :=
  ∀ s : State,
    let k := s.host.ks
    (∃ t, exec .attnGo s = .next t ∧ t.host = { s.host with go := true } ∧ t.mem = s.mem)
    ∧ (s.host.go = true → ∃ t, exec .attnReportComplete s = .next t ∧ t.host.go = false ∧ t.host.report.extractLsb' 0 384 = s.host.nonce
      ∧ t.host.report.extractLsb' (8 * 96) 16 = s.host.fwver ∧ t.host.report.extractLsb' (8 * 98) 8 = s.host.numv
      ∧ t.host.report.extractLsb' (8 * 100) 16 = s.host.epoch)
    ∧ (s.host.go = false → exec .attnReportComplete s = .next s)
    ∧ (k.go = true → (∀ i ∈ [Instr.ksOpen, .ksAgree, .ksInstall, .ksClose], ∃ t, exec i s = .next t ∧ t.host.ks = { k with status := 4 })
      ∧ ∃ t, exec .keySessionCommandDone s = .next t ∧ t.host.ks = { k with go := false, status := k.next })
    ∧ (k.go = false →
      (∃ t, exec .ksOpen s = .next t ∧ t.host.ks.go = true ∧ t.host.ks.next = 0 ∧ t.host.ks.priv = some s.free ∧ t.host.ks.kek = none
        ∧ t.host.ks.dpub = Config.sessionPub s.free)
      ∧ (k.priv = none → ∀ i ∈ [Instr.ksAgree, .ksInstall, .ksClose], ∃ t, exec i s = .next t ∧ t.host.ks.go = true ∧ t.host.ks.next = 1
        ∧ t.host.keys = s.host.keys)
      ∧ (∀ n, k.priv = some n → (Config.ecdh n k.ppub = none → ∃ t, exec .ksAgree s = .next t ∧ t.host.ks.next = 2 ∧ t.host.ks.kek = k.kek)
        ∧ (∀ z, Config.ecdh n k.ppub = some z → ∃ t, exec .ksAgree s = .next t ∧ t.host.ks.next = 0
            ∧ t.host.ks.kek = some (Config.hkdf z k.nonce))
        ∧ (∃ t, exec .ksClose s = .next t ∧ t.host.ks.next = 0 ∧ t.host.ks.priv = none ∧ t.host.ks.kek = none))
      ∧ (∀ n kek, k.priv = some n → k.kek = some kek →
        let kind : BitVec 4 := s.site.val.extractLsb' 4 4
        let slot : BitVec 8 := s.site.val.extractLsb' 32 8
        let key := Config.gcmOpen kek (k.wrap.extractLsb' 0 96) (k.wrap.extractLsb' 352 128) (k.wrap.extractLsb' 96 256) (slot ++ kind.setWidth 8)
        (1 < kind.toNat → ∃ t, exec .ksInstall s = .next t ∧ t.host.ks.next = 3 ∧ t.host.keys = s.host.keys)
        ∧ (kind = 0 → key = none → ∃ t, exec .ksInstall s = .next t ∧ t.host.ks.next = 2 ∧ t.host.keys = s.host.keys)
        ∧ (∀ v, kind = 0 → key = some v → ∃ t, exec .ksInstall s = .next t ∧ t.host.ks.next = 0 ∧ t.host.keys.get 0 slot.toNat = v
            ∧ t.host.linkNew = s.host.linkNew)
        ∧ (∀ v, kind = 1 → slot.toNat ≤ 15 → key = some v → ∃ t, exec .ksInstall s = .next t ∧ t.host.ks.next = 0 ∧ t.host.keys = s.host.keys
            ∧ if (s.linkOf slot.toNat).down then t.host.link.get 0 slot.toNat = v else t.host.linkNew.get 0 slot.toNat = v)))

/-- R398: a flit with a good CRC and the expected number is delivered, and its credits free flits of the replay buffer; one out of sequence, or with a bad CRC, is asked for again; where the sideband holds its fields is the model's choice (log entry 29, DESIGN CHOICE). R399: a link short of four lanes goes down, the host is told and no packet stays queued for it. R405: EN sets the indices of a slot's rings to 0; a visit to a ring in force takes the entry at its index,
if the engine owns it, and moves on; with four entries in flight it takes none. R407: the oldest entry with no response outstanding gives its status back and leaves. R408: a response settles one place of the entry that awaits its packet, of several the one taken first (log entry 39, DEDUCED), and the first failure is the entry's status; one that no entry awaits is dropped (log entry 39, DEDUCED). -/
def Obligations.CollectiveRings : Prop :=
  (∀ (s : State) (l : Nat) (bs : List Byte), s.site.unit = l → s.site.input = .bytes bs → bs.length = 72 →
    let good := bytesNat (bs.drop 68) = (crcOf [(68, bytesNat (bs.take 68))]).toNat
    let seq := BitVec.ofNat 16 (bytesNat ((bs.drop 64).take 2))
    (good → seq = (s.linkOf l).seq → ∃ t, exec .flitReceive s = .next t
      ∧ t.linkOf l = ({ s.linkOf l with rx := (s.linkOf l).rx ++ [BitVec.ofNat 512 (bytesNat (bs.take 68))], seq := (s.linkOf l).seq + 1,
                                        tries := 0 } : Link).credit (bytesNat ((bs.drop 66).take 2) % 32768))
    ∧ (good → seq ≠ (s.linkOf l).seq → ∃ t, exec .flitReceive s = .next t ∧ t.linkOf l = { s.linkOf l with asked := (s.linkOf l).asked + 1 })
    ∧ (¬ good → (s.linkOf l).tries < 8 → ∃ t, exec .flitReceive s = .next t
      ∧ t.linkOf l = { s.linkOf l with asked := (s.linkOf l).asked + 1, tries := (s.linkOf l).tries + 1 })
    ∧ (¬ good → 8 ≤ (s.linkOf l).tries → ∃ t, exec .flitReceive s = .next t ∧ (t.linkOf l).held = true ∧ (t.linkOf l).tries = 0))
  ∧ (∀ (s : State) (l : Nat), s.site.unit = l →
    ((s.linkOf l).lanes < 4 → (s.linkOf l).down = false → ∃ t, exec .linkDown s = .next t ∧ (t.linkOf l).down = true ∧ (∀ p ∈ t.fab.out, p.port ≠ l)
      ∧ t.host = (s.notify 8 l 0).host)
    ∧ (4 ≤ (s.linkOf l).lanes → exec .linkDown s = .next s))
  ∧ (∀ (s : State) (n : Nat), s.site.unit = n → ∃ t, exec .cringEnable s = .next t
    ∧ t.fab.cring.get 0 n = (s.site.val ||| 0x8000000000000000#64) &&& 0x8FFFFFFFFFFFFF00#64 ∧ ∀ r < 64, t.fab.index.get 0 (64 * n + r) = 0)
  ∧ (∀ (s : State) (k : Nat) (p : Place) (c : Word), s.site.unit = k → s.fab.cring.get 0 (k / 64) = c → c.getLsbD 63 = true →
    let logn := (c.extractLsb' 8 4).toNat
    let va := (c.extractLsb' 12 36).toNat * 4096 + k % 64 * 64 * 2 ^ logn + 64 * s.fab.index.get 0 k
    4 ≤ logn → logn ≤ 12 →
    ((s.fab.works.get [] k).length < 4 → s.linePlaces (c.extractLsb' 48 12).toNat va 64 .read = some [p] →
      let u := (s.holdRange (c.extractLsb' 48 12).toNat va 64 .read).readFor p
      ((u.prow p.pa).getLsbD 511 = false → exec .ringVisit s = .next u)
      ∧ ((u.prow p.pa).getLsbD 511 = true → ∃ t w, exec .ringVisit s = .next t ∧ t.fab.index.get 0 k = (s.fab.index.get 0 k + 1) % 2 ^ logn
          ∧ (t.fab.works.get [] k).getLast? = some w ∧ w.va = BitVec.ofNat 64 va ∧ w.entry = u.prow p.pa))
    ∧ (4 ≤ (s.fab.works.get [] k).length → exec .ringVisit s = .next s))
  ∧ (∀ (s : State) (k : Nat) (w : Work) (r : List Work), s.site.unit = k → s.fab.works.get [] k = w :: r →
    (w.await = [] → ∃ t, exec .workRequestFinish s = .next t ∧ t.fab.works.get [] k = r
      ∧ t.mem = ((s.ownWrite w.ctx (w.va + 56) 8 (w.status.toNat * 2 ^ 48) .write).getD s).mem)
    ∧ (w.await ≠ [] → exec .workRequestFinish s = .next s)
)
  ∧ (∀ (s : State) (n : Nat), s.site.sub = n →
    (s.awaiting n (fun _ => true) = none → exec .packetStatusReturn s = .next s)
    ∧ (∀ w, s.awaiting n (fun _ => true) = some w → ∃ t, exec .packetStatusReturn s = .next t ∧ t.mem = s.mem
      ∧ ∀ k, t.fab.works.get [] k = (s.fab.works.get [] k).map (fun x => if x.number = w.number then
          { x with await := x.await.erase n,
                   status := if s.site.val.setWidth 8 = 1#8 ∨ x.status ≠ 1 then x.status else s.site.val.setWidth 8 } else x)))
  ∧ (∀ (s : State) (n : Nat) (like : Work → Bool),
    let some' (w : Work) : Prop := (∃ l ∈ s.fab.works.entries, w ∈ l.2) ∧ n ∈ w.await ∧ like w = true
    match s.awaiting n like with
    | none => ∀ w, ¬ some' w
    | some w => some' w ∧ ∀ x, some' x → w.number ≤ x.number)

/-- R409 and R410: a packet with a FWD op leaves by the port of its route with that hop taken off, an MCAST op copies it to each port of its mask, a packet without a hop is answered 9. R411 and R412: the first packet of a RED op waits under its key, and keys short of packets after 100 ms are discarded and
their contributors told 6. R404: a delivery with hops left is answered 9, one that its window does not take is dropped, and the host and the source told; one that it takes writes its lines
at their place in the window, raises the window's counter by as many bytes, and is answered 1. R409: a PULL is answered likewise, or its lines go back, or, where the link is down, the source is told 7 (R399). R407 and R409: a reply with hops left is answered 9 and fails its entry so; one that an entry awaits is written,
line by line, at the local VA of that entry, which has one place less to await, or gives it PAGE where that cannot be; one that no entry awaits is dropped (log entry 39, DEDUCED); the payload of a SEALED packet is opened with its key (log entry 51). R401 and R402: a read of another device answers the word at
its home, a write changes that word alone, an APROM no byte, and an access that races answers the race. -/
def Obligations.FabricDeliveries : Prop :=
  (∀ (s : State) (n : Nat) (p : Packet), s.site.unit = n → s.site.input = .packet p →
    let x := s.fab.switches.get {} n
    (∀ r rest, p.route = r :: rest → r ≠ 0xFF → opKind (p.ops.headD 0) = 0 → ∃ t, exec .switchHop s = .next t
      ∧ t.fab.switches.get {} n = { x with out := x.out ++ [{ port := r, packet := hopped p s.site.sub }] })
    ∧ (∀ r rest, p.route = r :: rest → opKind (p.ops.headD 0) = 2 → ∃ t, exec .switchHop s = .next t
      ∧ t.fab.switches.get {} n = { x with out := x.out
          ++ ((List.range 56).filter (fun b => bit (opMask (p.ops.headD 0)) b)).map (fun b => { port := b, packet := hopped p s.site.sub }) })
    ∧ (p.route = [] → ∃ t, exec .switchHop s = .next t
      ∧ t.fab.switches.get {} n = { x with resp := x.resp ++ [⟨(hopped p s.site.sub).ret, p.src, p.seq, 9⟩] })
    ∧ (∀ r rest, p.route = r :: rest → opKind (p.ops.headD 0) = 1 → (∀ k ∈ x.keys, ¬(k.ap = p.ap ∧ k.tag = p.tag ∧ k.len = p.len)) →
      ∃ t, exec .switchHop s = .next t ∧ t.fab.switches.get {} n = { x with keys := x.keys
          ++ [{ op := p.ops.headD 0, ap := p.ap, tag := p.tag, len := p.len, since := s.cycle, got := [hopped p s.site.sub] }] }))
  ∧ (∀ (s : State) (n : Nat), s.site.unit = n → ∃ t, exec .redTimeout s = .next t
    ∧ (t.fab.switches.get {} n).keys = (s.fab.switches.get {} n).keys.filter (fun k => decide (s.cycle < k.since + 60000000))
    ∧ (t.fab.switches.get {} n).resp = (s.fab.switches.get {} n).resp
        ++ ((((s.fab.switches.get {} n).keys.filter (fun k => decide (k.since + 60000000 ≤ s.cycle))).flatMap (fun k => k.got)).map
            (fun p => ⟨p.ret, p.src, p.seq, 6⟩)))
  ∧ (∀ (s : State) (p : Packet), s.site.input = .packet p →
    let w := (p.ap - 2 ^ 44) / 2 ^ 32 % 4096
    let off := p.ap % 2 ^ 32
    let apart (ps : List Place) : Prop := ∀ i j, i < j → j < ps.length → ∀ x y, ps[i]? = some x → ps[j]? = some y → x.pa / 64 ≠ y.pa / 64
    let holds (t : State) (ps : List Place) (key : BitVec 256) : Prop := ∀ i q l, ps[i]? = some q → p.payload[i]? = some l →
      t.prow (q.pa / 64 * 64) = (if p.sealed then l.1 ^^^ Config.keystream key (p.src * 65536 + p.seq) i else l.1) ∧ t.poisoned q.pa = l.2
    (p.route ≠ [] → exec .apertureDelivery s = .next (s.answer p 9) ∧ exec .pullReply s = .next (s.answer p 9))
    ∧ (p.route = [] → s.windowTakes w off (64 * p.payload.length) = false → exec .apertureDelivery s = .next ((s.notify 7 w p.src).answer p 5))
    ∧ (p.route = [] → s.windowTakes w off p.len = false → exec .pullReply s = .next ((s.notify 7 w p.src).answer p 5))
    ∧ (∀ ps c, p.route = [] → s.windowTakes w off (64 * p.payload.length) = true →
        s.linePlaces (s.windowBase w).2 ((s.windowBase w).1 + off) (64 * p.payload.length) .write = some ps →
        s.place (s.windowBase w).2 (BitVec.ofNat 64 (s.windowBase w).1) .atomic = .ok c → c.isDevice = false →
        ∃ t, exec .apertureDelivery s = .next t ∧ t.fab.resp.getLast? = some ⟨p.ret, p.src, p.seq, 1⟩
          ∧ (s.memOk → (∀ k < 8, (s.fmtBase.get 0 k).getLsbD 63 = false) → c.pa % 64 + 8 ≤ 64 → apart ps → (∀ q ∈ ps, q.pa / 64 ≠ c.pa / 64) →
            holds t ps (s.host.keys.get 0 p.key)
            ∧ Memory.getNat t.mem c.pa 8 = (Memory.getNat s.mem c.pa 8 + 64 * p.payload.length) % 2 ^ 64
            ∧ ∀ a, (∀ q ∈ ps, a / 64 ≠ q.pa / 64) → a < c.pa ∨ c.pa + 8 ≤ a → Memory.get t.mem a = Memory.get s.mem a))
    ∧ (∀ ps, p.route = [] → s.windowTakes w off p.len = true → s.linePlaces (s.windowBase w).2 ((s.windowBase w).1 + off) p.len .read = some ps →
        ((s.linkOf s.site.unit).down = false → ∃ t x, exec .pullReply s = .next t
          ∧ t.fab.out.getLast? = some x ∧ x.port = s.site.unit ∧ x.asker = some p.src ∧ x.packet.route = p.ret ∧ x.packet.seq = p.seq
          ∧ x.packet.payload.length = ps.length
          ∧ ((∀ k < 8, (s.fmtBase.get 0 k).getLsbD 63 = false) → p.sealed = false →
              x.packet.payload = ps.map (fun q => (s.prow (q.pa / 64 * 64), s.poisoned q.pa))))
        ∧ ((s.linkOf s.site.unit).down = true → ∃ t, exec .pullReply s = .next t ∧ t.fab.resp.getLast? = some ⟨p.ret, p.src, p.seq, 7⟩))
    ∧ (p.route ≠ [] → exec .pullReplyReceive s = .next ((s.answer p 9).respond p.seq (Work.asks p) 9))
    ∧ (p.route = [] → s.awaiting p.seq (Work.asks p) = none → exec .pullReplyReceive s = .next s)
    ∧ (∀ v, p.route = [] → s.awaiting p.seq (Work.asks p) = some v →
      let va := ef v.entry 8 8 + (p.ap - ef v.entry 16 8)
      let settled (t : State) (status : BitVec 8) : Prop := ∀ k, t.fab.works.get [] k = (s.fab.works.get [] k).map (fun x =>
        if x.number = v.number then
          { x with await := x.await.erase p.seq, status := if status = 1 ∨ x.status ≠ 1 then x.status else status } else x)
      (s.linePlaces v.ctx va (64 * p.payload.length) .write = none → ∃ t, exec .pullReplyReceive s = .next t ∧ settled t 4 ∧ t.mem = s.mem)
      ∧ (∀ ps, s.linePlaces v.ctx va (64 * p.payload.length) .write = some ps →
          ∃ t, exec .pullReplyReceive s = .next t ∧ settled t 1
            ∧ (s.memOk → (∀ k < 8, (s.fmtBase.get 0 k).getLsbD 63 = false) → apart ps → holds t ps v.key
              ∧ ∀ a, (∀ q ∈ ps, a / 64 ≠ q.pa / 64) → Memory.get t.mem a = Memory.get s.mem a))))
  ∧ (∀ (s : State) (r : RemoteReq), s.site.input = .remote r → populated r.pa = true → r.pa % 64 + r.width ≤ 64 →
    (∀ i, s.remoteRace r = some i → ∃ t, exec .remoteAccessRequest s = .next t ∧ t.fab.replies = s.fab.replies ++ [{ src := r.src, value := 0, poison := false, race := some i }]
      ∧ t.mem = s.mem)
    ∧ (s.memOk → s.remoteRace r = none → (∀ k < 8, (s.fmtBase.get 0 k).getLsbD 63 = false) → r.atomic = none →
      (∀ scp, r.aprom = some scp → ∃ t x, exec .remoteAccessRequest s = .next t ∧ t.fab.replies.getLast? = some x ∧ x.value = 0 ∧ x.race = none
          ∧ ∀ a, Memory.get t.mem a = Memory.get s.mem a)
      ∧ (r.aprom = none → r.write = none → ∃ t x, exec .remoteAccessRequest s = .next t ∧ t.fab.replies.getLast? = some x
          ∧ x.value = BitVec.ofNat 512 (Memory.getNat s.mem r.pa r.width) ∧ x.race = none ∧ ∀ a, Memory.get t.mem a = Memory.get s.mem a)
      ∧ (∀ v, r.aprom = none → r.write = some v → ∃ t, exec .remoteAccessRequest s = .next t
          ∧ Memory.getNat t.mem r.pa r.width = v.toNat % 256 ^ r.width
          ∧ ∀ a, a < r.pa ∨ r.pa + r.width ≤ a → Memory.get t.mem a = Memory.get s.mem a)))
end

