-- ==== Sys2Proof/Laws/Tbl.lean ====
section
/-! SUPPORT. Laws/Tbl.lean: reading a table after it has been written. -/
namespace Sys2Proof.Machine

theorem Tbl.findIn_putIn_same {α : Type} (l : List (Nat × α)) (k : Nat) (v : α) :
    Tbl.findIn (Tbl.putIn l k v) k = some v := by
  induction l with
  | nil => simp [Tbl.putIn, Tbl.findIn]
  | cons e r ih =>
    obtain ⟨a, w⟩ := e
    simp only [Tbl.putIn]
    split
    · simp [Tbl.findIn]
    · split
      · simp [Tbl.findIn]
      · simp [Tbl.findIn, *]

theorem Tbl.findIn_putIn_ne {α : Type} (l : List (Nat × α)) (j k : Nat) (v : α) (h : j ≠ k) :
    Tbl.findIn (Tbl.putIn l k v) j = Tbl.findIn l j := by
  induction l with
  | nil => simp [Tbl.putIn, Tbl.findIn, Ne.symm h]
  | cons e r ih =>
    obtain ⟨a, w⟩ := e
    simp only [Tbl.putIn]
    split
    · simp [Tbl.findIn, Ne.symm h]
    · split
      · subst a; simp [Tbl.findIn, Ne.symm h]
      · simp [Tbl.findIn, ih]

/-- An entry that has just been put is found. -/
@[simp] theorem Tbl.find?_put_same {α : Type} (t : Tbl α) (k : Nat) (v : α) : (t.put k v).find? k = some v :=
  Tbl.findIn_putIn_same _ _ _
/-- Putting an entry leaves the others. -/
theorem Tbl.find?_put_ne {α : Type} (t : Tbl α) (j k : Nat) (v : α) (h : j ≠ k) : (t.put k v).find? j = t.find? j :=
  Tbl.findIn_putIn_ne _ _ _ _ h
/-- An entry that has just been put is read. -/
@[simp] theorem Tbl.get_put_same {α : Type} (t : Tbl α) (d : α) (k : Nat) (v : α) : (t.put k v).get d k = v := by
  simp [Tbl.get]
/-- Putting an entry leaves what the others read as. -/
theorem Tbl.get_put_ne {α : Type} (t : Tbl α) (d : α) (j k : Nat) (v : α) (h : j ≠ k) : (t.put k v).get d j = t.get d j := by
  simp [Tbl.get, Tbl.find?_put_ne _ _ _ _ h]
/-- Reading after putting, both cases. -/
theorem Tbl.get_put {α : Type} (t : Tbl α) (d : α) (j k : Nat) (v : α) :
    (t.put k v).get d j = if j = k then v else t.get d j := by
  split
  · subst j; simp
  · exact Tbl.get_put_ne _ _ _ _ _ ‹_›
/-- A changed entry reads changed. -/
@[simp] theorem Tbl.get_mod_same {α : Type} (t : Tbl α) (d : α) (k : Nat) (f : α → α) : (t.mod d k f).get d k = f (t.get d k) := by
  simp [Tbl.mod]
/-- Changing an entry leaves the others. -/
theorem Tbl.get_mod_ne {α : Type} (t : Tbl α) (d : α) (j k : Nat) (f : α → α) (h : j ≠ k) : (t.mod d k f).get d j = t.get d j := by
  simp [Tbl.mod, Tbl.get_put_ne _ _ _ _ _ h]

theorem Tbl.findIn_filter_ne {α : Type} (l : List (Nat × α)) (k : Nat) : Tbl.findIn (l.filter (fun e => e.1 != k)) k = none := by
  induction l with
  | nil => rfl
  | cons e r ih =>
    obtain ⟨a, w⟩ := e
    by_cases h : a = k
    · simpa [h] using ih
    · simp [h, Tbl.findIn, ih]

/-- A dropped entry is not found. -/
@[simp] theorem Tbl.find?_drop_same {α : Type} (t : Tbl α) (k : Nat) : (t.drop k).find? k = none := Tbl.findIn_filter_ne _ _
/-- The empty table lists nothing. -/
@[simp] theorem Tbl.get_empty {α : Type} (d : α) (k : Nat) : (Tbl.empty : Tbl α).get d k = d := rfl

theorem Tbl.findIn_map {α : Type} (l : List (Nat × α)) (f : Nat → α → α) (k : Nat) :
    Tbl.findIn (l.map (fun e => (e.1, f e.1 e.2))) k = (Tbl.findIn l k).map (f k) := by
  induction l with
  | nil => rfl
  | cons e r ih =>
    obtain ⟨a, w⟩ := e
    simp only [List.map_cons, Tbl.findIn]
    split
    · subst a; rfl
    · exact ih

/-- Every listed entry of a mapped table is changed. -/
theorem Tbl.find?_map {α : Type} (t : Tbl α) (f : Nat → α → α) (k : Nat) : (t.map f).find? k = (t.find? k).map (f k) :=
  Tbl.findIn_map _ _ _

end Sys2Proof.Machine
end

