-- ==== Sys2Proof/Laws/State.lean ====
section
/-! SUPPORT. Laws/State.lean: one lemma per field per update of State, Core and Stream, and what a core or stream reads as after
it has been changed. -/
namespace Sys2Proof.Machine

/-! ## Updates of a core and of a stream -/

@[simp] theorem State.modCore_before (s : State) (c : Nat) (f : Core → Core) : (s.modCore c f).before = s.before := rfl
@[simp] theorem State.modCore_images (s : State) (c : Nat) (f : Core → Core) : (s.modCore c f).images = s.images := rfl
@[simp] theorem State.modCore_launches (s : State) (c : Nat) (f : Core → Core) : (s.modCore c f).launches = s.launches := rfl
@[simp] theorem State.modCore_mem (s : State) (c : Nat) (f : Core → Core) : (s.modCore c f).mem = s.mem := rfl
@[simp] theorem State.modCore_poison (s : State) (c : Nat) (f : Core → Core) : (s.modCore c f).poison = s.poison := rfl
@[simp] theorem State.modCore_sides (s : State) (c : Nat) (f : Core → Core) : (s.modCore c f).sides = s.sides := rfl
@[simp] theorem State.modCore_cycle (s : State) (c : Nat) (f : Core → Core) : (s.modCore c f).cycle = s.cycle := rfl
@[simp] theorem State.modCore_homemaps (s : State) (c : Nat) (f : Core → Core) : (s.modCore c f).homemaps = s.homemaps := rfl
@[simp] theorem State.modCore_hmArrays (s : State) (c : Nat) (f : Core → Core) : (s.modCore c f).hmArrays = s.hmArrays := rfl
@[simp] theorem State.modCore_ctxroots (s : State) (c : Nat) (f : Core → Core) : (s.modCore c f).ctxroots = s.ctxroots := rfl
@[simp] theorem State.modCore_tuInv (s : State) (c : Nat) (f : Core → Core) : (s.modCore c f).tuInv = s.tuInv := rfl
@[simp] theorem State.modCore_trans (s : State) (c : Nat) (f : Core → Core) : (s.modCore c f).trans = s.trans := rfl
@[simp] theorem State.modCore_filters (s : State) (c : Nat) (f : Core → Core) : (s.modCore c f).filters = s.filters := rfl
@[simp] theorem State.modCore_filterNo (s : State) (c : Nat) (f : Core → Core) : (s.modCore c f).filterNo = s.filterNo := rfl
@[simp] theorem State.modCore_fmtBase (s : State) (c : Nat) (f : Core → Core) : (s.modCore c f).fmtBase = s.fmtBase := rfl
@[simp] theorem State.modCore_fmtScale (s : State) (c : Nat) (f : Core → Core) : (s.modCore c f).fmtScale = s.fmtScale := rfl
@[simp] theorem State.modCore_waymask (s : State) (c : Nat) (f : Core → Core) : (s.modCore c f).waymask = s.waymask := rfl
@[simp] theorem State.modCore_l2 (s : State) (c : Nat) (f : Core → Core) : (s.modCore c f).l2 = s.l2 := rfl
@[simp] theorem State.modCore_rdc (s : State) (c : Nat) (f : Core → Core) : (s.modCore c f).rdc = s.rdc := rfl
@[simp] theorem State.modCore_tracks (s : State) (c : Nat) (f : Core → Core) : (s.modCore c f).tracks = s.tracks := rfl
@[simp] theorem State.modCore_releases (s : State) (c : Nat) (f : Core → Core) : (s.modCore c f).releases = s.releases := rfl
@[simp] theorem State.modCore_known (s : State) (c : Nat) (f : Core → Core) : (s.modCore c f).known = s.known := rfl
@[simp] theorem State.modCore_devq (s : State) (c : Nat) (f : Core → Core) : (s.modCore c f).devq = s.devq := rfl
@[simp] theorem State.modCore_incs (s : State) (c : Nat) (f : Core → Core) : (s.modCore c f).incs = s.incs := rfl
@[simp] theorem State.modCore_shadows (s : State) (c : Nat) (f : Core → Core) : (s.modCore c f).shadows = s.shadows := rfl
@[simp] theorem State.modCore_jpair (s : State) (c : Nat) (f : Core → Core) : (s.modCore c f).jpair = s.jpair := rfl
@[simp] theorem State.modCore_shadowMs (s : State) (c : Nat) (f : Core → Core) : (s.modCore c f).shadowMs = s.shadowMs := rfl
@[simp] theorem State.modCore_incNew (s : State) (c : Nat) (f : Core → Core) : (s.modCore c f).incNew = s.incNew := rfl
@[simp] theorem State.modCore_jn (s : State) (c : Nat) (f : Core → Core) : (s.modCore c f).jn = s.jn := rfl
@[simp] theorem State.modCore_negs (s : State) (c : Nat) (f : Core → Core) : (s.modCore c f).negs = s.negs := rfl
@[simp] theorem State.modCore_host (s : State) (c : Nat) (f : Core → Core) : (s.modCore c f).host = s.host := rfl
@[simp] theorem State.modCore_fab (s : State) (c : Nat) (f : Core → Core) : (s.modCore c f).fab = s.fab := rfl
@[simp] theorem State.modCore_ras (s : State) (c : Nat) (f : Core → Core) : (s.modCore c f).ras = s.ras := rfl
@[simp] theorem State.modCore_inbox (s : State) (c : Nat) (f : Core → Core) : (s.modCore c f).inbox = s.inbox := rfl
@[simp] theorem State.modCore_agenda (s : State) (c : Nat) (f : Core → Core) : (s.modCore c f).agenda = s.agenda := rfl
@[simp] theorem State.modCore_cur (s : State) (c : Nat) (f : Core → Core) : (s.modCore c f).cur = s.cur := rfl
@[simp] theorem State.modCore_word (s : State) (c : Nat) (f : Core → Core) : (s.modCore c f).word = s.word := rfl
@[simp] theorem State.modCore_site (s : State) (c : Nat) (f : Core → Core) : (s.modCore c f).site = s.site := rfl
@[simp] theorem State.modCore_verdict (s : State) (c : Nat) (f : Core → Core) : (s.modCore c f).verdict = s.verdict := rfl
@[simp] theorem State.modCore_free (s : State) (c : Nat) (f : Core → Core) : (s.modCore c f).free = s.free := rfl
@[simp] theorem State.modCore_devDone (s : State) (c : Nat) (f : Core → Core) : (s.modCore c f).devDone = s.devDone := rfl
@[simp] theorem State.modCore_serial (s : State) (c : Nat) (f : Core → Core) : (s.modCore c f).serial = s.serial := rfl
@[simp] theorem State.modCore_spills (s : State) (c : Nat) (f : Core → Core) : (s.modCore c f).spills = s.spills := rfl

@[simp] theorem State.modStream_before (s : State) (g : Nat) (f : Stream → Stream) : (s.modStream g f).before = s.before := rfl
@[simp] theorem State.modStream_images (s : State) (g : Nat) (f : Stream → Stream) : (s.modStream g f).images = s.images := rfl
@[simp] theorem State.modStream_launches (s : State) (g : Nat) (f : Stream → Stream) : (s.modStream g f).launches = s.launches := rfl
@[simp] theorem State.modStream_mem (s : State) (g : Nat) (f : Stream → Stream) : (s.modStream g f).mem = s.mem := rfl
@[simp] theorem State.modStream_poison (s : State) (g : Nat) (f : Stream → Stream) : (s.modStream g f).poison = s.poison := rfl
@[simp] theorem State.modStream_sides (s : State) (g : Nat) (f : Stream → Stream) : (s.modStream g f).sides = s.sides := rfl
@[simp] theorem State.modStream_cycle (s : State) (g : Nat) (f : Stream → Stream) : (s.modStream g f).cycle = s.cycle := rfl
@[simp] theorem State.modStream_homemaps (s : State) (g : Nat) (f : Stream → Stream) : (s.modStream g f).homemaps = s.homemaps := rfl
@[simp] theorem State.modStream_hmArrays (s : State) (g : Nat) (f : Stream → Stream) : (s.modStream g f).hmArrays = s.hmArrays := rfl
@[simp] theorem State.modStream_ctxroots (s : State) (g : Nat) (f : Stream → Stream) : (s.modStream g f).ctxroots = s.ctxroots := rfl
@[simp] theorem State.modStream_tuInv (s : State) (g : Nat) (f : Stream → Stream) : (s.modStream g f).tuInv = s.tuInv := rfl
@[simp] theorem State.modStream_trans (s : State) (g : Nat) (f : Stream → Stream) : (s.modStream g f).trans = s.trans := rfl
@[simp] theorem State.modStream_filters (s : State) (g : Nat) (f : Stream → Stream) : (s.modStream g f).filters = s.filters := rfl
@[simp] theorem State.modStream_filterNo (s : State) (g : Nat) (f : Stream → Stream) : (s.modStream g f).filterNo = s.filterNo := rfl
@[simp] theorem State.modStream_fmtBase (s : State) (g : Nat) (f : Stream → Stream) : (s.modStream g f).fmtBase = s.fmtBase := rfl
@[simp] theorem State.modStream_fmtScale (s : State) (g : Nat) (f : Stream → Stream) : (s.modStream g f).fmtScale = s.fmtScale := rfl
@[simp] theorem State.modStream_waymask (s : State) (g : Nat) (f : Stream → Stream) : (s.modStream g f).waymask = s.waymask := rfl
@[simp] theorem State.modStream_l2 (s : State) (g : Nat) (f : Stream → Stream) : (s.modStream g f).l2 = s.l2 := rfl
@[simp] theorem State.modStream_rdc (s : State) (g : Nat) (f : Stream → Stream) : (s.modStream g f).rdc = s.rdc := rfl
@[simp] theorem State.modStream_tracks (s : State) (g : Nat) (f : Stream → Stream) : (s.modStream g f).tracks = s.tracks := rfl
@[simp] theorem State.modStream_releases (s : State) (g : Nat) (f : Stream → Stream) : (s.modStream g f).releases = s.releases := rfl
@[simp] theorem State.modStream_known (s : State) (g : Nat) (f : Stream → Stream) : (s.modStream g f).known = s.known := rfl
@[simp] theorem State.modStream_devq (s : State) (g : Nat) (f : Stream → Stream) : (s.modStream g f).devq = s.devq := rfl
@[simp] theorem State.modStream_incs (s : State) (g : Nat) (f : Stream → Stream) : (s.modStream g f).incs = s.incs := rfl
@[simp] theorem State.modStream_shadows (s : State) (g : Nat) (f : Stream → Stream) : (s.modStream g f).shadows = s.shadows := rfl
@[simp] theorem State.modStream_jpair (s : State) (g : Nat) (f : Stream → Stream) : (s.modStream g f).jpair = s.jpair := rfl
@[simp] theorem State.modStream_shadowMs (s : State) (g : Nat) (f : Stream → Stream) : (s.modStream g f).shadowMs = s.shadowMs := rfl
@[simp] theorem State.modStream_incNew (s : State) (g : Nat) (f : Stream → Stream) : (s.modStream g f).incNew = s.incNew := rfl
@[simp] theorem State.modStream_jn (s : State) (g : Nat) (f : Stream → Stream) : (s.modStream g f).jn = s.jn := rfl
@[simp] theorem State.modStream_negs (s : State) (g : Nat) (f : Stream → Stream) : (s.modStream g f).negs = s.negs := rfl
@[simp] theorem State.modStream_host (s : State) (g : Nat) (f : Stream → Stream) : (s.modStream g f).host = s.host := rfl
@[simp] theorem State.modStream_fab (s : State) (g : Nat) (f : Stream → Stream) : (s.modStream g f).fab = s.fab := rfl
@[simp] theorem State.modStream_ras (s : State) (g : Nat) (f : Stream → Stream) : (s.modStream g f).ras = s.ras := rfl
@[simp] theorem State.modStream_inbox (s : State) (g : Nat) (f : Stream → Stream) : (s.modStream g f).inbox = s.inbox := rfl
@[simp] theorem State.modStream_agenda (s : State) (g : Nat) (f : Stream → Stream) : (s.modStream g f).agenda = s.agenda := rfl
@[simp] theorem State.modStream_cur (s : State) (g : Nat) (f : Stream → Stream) : (s.modStream g f).cur = s.cur := rfl
@[simp] theorem State.modStream_word (s : State) (g : Nat) (f : Stream → Stream) : (s.modStream g f).word = s.word := rfl
@[simp] theorem State.modStream_site (s : State) (g : Nat) (f : Stream → Stream) : (s.modStream g f).site = s.site := rfl
@[simp] theorem State.modStream_verdict (s : State) (g : Nat) (f : Stream → Stream) : (s.modStream g f).verdict = s.verdict := rfl
@[simp] theorem State.modStream_free (s : State) (g : Nat) (f : Stream → Stream) : (s.modStream g f).free = s.free := rfl
@[simp] theorem State.modStream_devDone (s : State) (g : Nat) (f : Stream → Stream) : (s.modStream g f).devDone = s.devDone := rfl
@[simp] theorem State.modStream_serial (s : State) (g : Nat) (f : Stream → Stream) : (s.modStream g f).serial = s.serial := rfl
@[simp] theorem State.modStream_spills (s : State) (g : Nat) (f : Stream → Stream) : (s.modStream g f).spills = s.spills := rfl

@[simp] theorem State.modMe_before (s : State) (f : Stream → Stream) : (s.modMe f).before = s.before := rfl
@[simp] theorem State.modMe_images (s : State) (f : Stream → Stream) : (s.modMe f).images = s.images := rfl
@[simp] theorem State.modMe_launches (s : State) (f : Stream → Stream) : (s.modMe f).launches = s.launches := rfl
@[simp] theorem State.modMe_mem (s : State) (f : Stream → Stream) : (s.modMe f).mem = s.mem := rfl
@[simp] theorem State.modMe_poison (s : State) (f : Stream → Stream) : (s.modMe f).poison = s.poison := rfl
@[simp] theorem State.modMe_sides (s : State) (f : Stream → Stream) : (s.modMe f).sides = s.sides := rfl
@[simp] theorem State.modMe_cycle (s : State) (f : Stream → Stream) : (s.modMe f).cycle = s.cycle := rfl
@[simp] theorem State.modMe_homemaps (s : State) (f : Stream → Stream) : (s.modMe f).homemaps = s.homemaps := rfl
@[simp] theorem State.modMe_hmArrays (s : State) (f : Stream → Stream) : (s.modMe f).hmArrays = s.hmArrays := rfl
@[simp] theorem State.modMe_ctxroots (s : State) (f : Stream → Stream) : (s.modMe f).ctxroots = s.ctxroots := rfl
@[simp] theorem State.modMe_tuInv (s : State) (f : Stream → Stream) : (s.modMe f).tuInv = s.tuInv := rfl
@[simp] theorem State.modMe_trans (s : State) (f : Stream → Stream) : (s.modMe f).trans = s.trans := rfl
@[simp] theorem State.modMe_filters (s : State) (f : Stream → Stream) : (s.modMe f).filters = s.filters := rfl
@[simp] theorem State.modMe_filterNo (s : State) (f : Stream → Stream) : (s.modMe f).filterNo = s.filterNo := rfl
@[simp] theorem State.modMe_fmtBase (s : State) (f : Stream → Stream) : (s.modMe f).fmtBase = s.fmtBase := rfl
@[simp] theorem State.modMe_fmtScale (s : State) (f : Stream → Stream) : (s.modMe f).fmtScale = s.fmtScale := rfl
@[simp] theorem State.modMe_waymask (s : State) (f : Stream → Stream) : (s.modMe f).waymask = s.waymask := rfl
@[simp] theorem State.modMe_l2 (s : State) (f : Stream → Stream) : (s.modMe f).l2 = s.l2 := rfl
@[simp] theorem State.modMe_rdc (s : State) (f : Stream → Stream) : (s.modMe f).rdc = s.rdc := rfl
@[simp] theorem State.modMe_tracks (s : State) (f : Stream → Stream) : (s.modMe f).tracks = s.tracks := rfl
@[simp] theorem State.modMe_releases (s : State) (f : Stream → Stream) : (s.modMe f).releases = s.releases := rfl
@[simp] theorem State.modMe_known (s : State) (f : Stream → Stream) : (s.modMe f).known = s.known := rfl
@[simp] theorem State.modMe_devq (s : State) (f : Stream → Stream) : (s.modMe f).devq = s.devq := rfl
@[simp] theorem State.modMe_incs (s : State) (f : Stream → Stream) : (s.modMe f).incs = s.incs := rfl
@[simp] theorem State.modMe_shadows (s : State) (f : Stream → Stream) : (s.modMe f).shadows = s.shadows := rfl
@[simp] theorem State.modMe_jpair (s : State) (f : Stream → Stream) : (s.modMe f).jpair = s.jpair := rfl
@[simp] theorem State.modMe_shadowMs (s : State) (f : Stream → Stream) : (s.modMe f).shadowMs = s.shadowMs := rfl
@[simp] theorem State.modMe_incNew (s : State) (f : Stream → Stream) : (s.modMe f).incNew = s.incNew := rfl
@[simp] theorem State.modMe_jn (s : State) (f : Stream → Stream) : (s.modMe f).jn = s.jn := rfl
@[simp] theorem State.modMe_negs (s : State) (f : Stream → Stream) : (s.modMe f).negs = s.negs := rfl
@[simp] theorem State.modMe_host (s : State) (f : Stream → Stream) : (s.modMe f).host = s.host := rfl
@[simp] theorem State.modMe_fab (s : State) (f : Stream → Stream) : (s.modMe f).fab = s.fab := rfl
@[simp] theorem State.modMe_ras (s : State) (f : Stream → Stream) : (s.modMe f).ras = s.ras := rfl
@[simp] theorem State.modMe_inbox (s : State) (f : Stream → Stream) : (s.modMe f).inbox = s.inbox := rfl
@[simp] theorem State.modMe_agenda (s : State) (f : Stream → Stream) : (s.modMe f).agenda = s.agenda := rfl
@[simp] theorem State.modMe_cur (s : State) (f : Stream → Stream) : (s.modMe f).cur = s.cur := rfl
@[simp] theorem State.modMe_word (s : State) (f : Stream → Stream) : (s.modMe f).word = s.word := rfl
@[simp] theorem State.modMe_site (s : State) (f : Stream → Stream) : (s.modMe f).site = s.site := rfl
@[simp] theorem State.modMe_verdict (s : State) (f : Stream → Stream) : (s.modMe f).verdict = s.verdict := rfl
@[simp] theorem State.modMe_free (s : State) (f : Stream → Stream) : (s.modMe f).free = s.free := rfl
@[simp] theorem State.modMe_devDone (s : State) (f : Stream → Stream) : (s.modMe f).devDone = s.devDone := rfl
@[simp] theorem State.modMe_serial (s : State) (f : Stream → Stream) : (s.modMe f).serial = s.serial := rfl
@[simp] theorem State.modMe_spills (s : State) (f : Stream → Stream) : (s.modMe f).spills = s.spills := rfl

@[simp] theorem State.modMyCore_before (s : State) (f : Core → Core) : (s.modMyCore f).before = s.before := rfl
@[simp] theorem State.modMyCore_images (s : State) (f : Core → Core) : (s.modMyCore f).images = s.images := rfl
@[simp] theorem State.modMyCore_launches (s : State) (f : Core → Core) : (s.modMyCore f).launches = s.launches := rfl
@[simp] theorem State.modMyCore_mem (s : State) (f : Core → Core) : (s.modMyCore f).mem = s.mem := rfl
@[simp] theorem State.modMyCore_poison (s : State) (f : Core → Core) : (s.modMyCore f).poison = s.poison := rfl
@[simp] theorem State.modMyCore_sides (s : State) (f : Core → Core) : (s.modMyCore f).sides = s.sides := rfl
@[simp] theorem State.modMyCore_cycle (s : State) (f : Core → Core) : (s.modMyCore f).cycle = s.cycle := rfl
@[simp] theorem State.modMyCore_homemaps (s : State) (f : Core → Core) : (s.modMyCore f).homemaps = s.homemaps := rfl
@[simp] theorem State.modMyCore_hmArrays (s : State) (f : Core → Core) : (s.modMyCore f).hmArrays = s.hmArrays := rfl
@[simp] theorem State.modMyCore_ctxroots (s : State) (f : Core → Core) : (s.modMyCore f).ctxroots = s.ctxroots := rfl
@[simp] theorem State.modMyCore_tuInv (s : State) (f : Core → Core) : (s.modMyCore f).tuInv = s.tuInv := rfl
@[simp] theorem State.modMyCore_trans (s : State) (f : Core → Core) : (s.modMyCore f).trans = s.trans := rfl
@[simp] theorem State.modMyCore_filters (s : State) (f : Core → Core) : (s.modMyCore f).filters = s.filters := rfl
@[simp] theorem State.modMyCore_filterNo (s : State) (f : Core → Core) : (s.modMyCore f).filterNo = s.filterNo := rfl
@[simp] theorem State.modMyCore_fmtBase (s : State) (f : Core → Core) : (s.modMyCore f).fmtBase = s.fmtBase := rfl
@[simp] theorem State.modMyCore_fmtScale (s : State) (f : Core → Core) : (s.modMyCore f).fmtScale = s.fmtScale := rfl
@[simp] theorem State.modMyCore_waymask (s : State) (f : Core → Core) : (s.modMyCore f).waymask = s.waymask := rfl
@[simp] theorem State.modMyCore_l2 (s : State) (f : Core → Core) : (s.modMyCore f).l2 = s.l2 := rfl
@[simp] theorem State.modMyCore_rdc (s : State) (f : Core → Core) : (s.modMyCore f).rdc = s.rdc := rfl
@[simp] theorem State.modMyCore_tracks (s : State) (f : Core → Core) : (s.modMyCore f).tracks = s.tracks := rfl
@[simp] theorem State.modMyCore_releases (s : State) (f : Core → Core) : (s.modMyCore f).releases = s.releases := rfl
@[simp] theorem State.modMyCore_known (s : State) (f : Core → Core) : (s.modMyCore f).known = s.known := rfl
@[simp] theorem State.modMyCore_devq (s : State) (f : Core → Core) : (s.modMyCore f).devq = s.devq := rfl
@[simp] theorem State.modMyCore_incs (s : State) (f : Core → Core) : (s.modMyCore f).incs = s.incs := rfl
@[simp] theorem State.modMyCore_shadows (s : State) (f : Core → Core) : (s.modMyCore f).shadows = s.shadows := rfl
@[simp] theorem State.modMyCore_jpair (s : State) (f : Core → Core) : (s.modMyCore f).jpair = s.jpair := rfl
@[simp] theorem State.modMyCore_shadowMs (s : State) (f : Core → Core) : (s.modMyCore f).shadowMs = s.shadowMs := rfl
@[simp] theorem State.modMyCore_incNew (s : State) (f : Core → Core) : (s.modMyCore f).incNew = s.incNew := rfl
@[simp] theorem State.modMyCore_jn (s : State) (f : Core → Core) : (s.modMyCore f).jn = s.jn := rfl
@[simp] theorem State.modMyCore_negs (s : State) (f : Core → Core) : (s.modMyCore f).negs = s.negs := rfl
@[simp] theorem State.modMyCore_host (s : State) (f : Core → Core) : (s.modMyCore f).host = s.host := rfl
@[simp] theorem State.modMyCore_fab (s : State) (f : Core → Core) : (s.modMyCore f).fab = s.fab := rfl
@[simp] theorem State.modMyCore_ras (s : State) (f : Core → Core) : (s.modMyCore f).ras = s.ras := rfl
@[simp] theorem State.modMyCore_inbox (s : State) (f : Core → Core) : (s.modMyCore f).inbox = s.inbox := rfl
@[simp] theorem State.modMyCore_agenda (s : State) (f : Core → Core) : (s.modMyCore f).agenda = s.agenda := rfl
@[simp] theorem State.modMyCore_cur (s : State) (f : Core → Core) : (s.modMyCore f).cur = s.cur := rfl
@[simp] theorem State.modMyCore_word (s : State) (f : Core → Core) : (s.modMyCore f).word = s.word := rfl
@[simp] theorem State.modMyCore_site (s : State) (f : Core → Core) : (s.modMyCore f).site = s.site := rfl
@[simp] theorem State.modMyCore_verdict (s : State) (f : Core → Core) : (s.modMyCore f).verdict = s.verdict := rfl
@[simp] theorem State.modMyCore_free (s : State) (f : Core → Core) : (s.modMyCore f).free = s.free := rfl
@[simp] theorem State.modMyCore_devDone (s : State) (f : Core → Core) : (s.modMyCore f).devDone = s.devDone := rfl
@[simp] theorem State.modMyCore_serial (s : State) (f : Core → Core) : (s.modMyCore f).serial = s.serial := rfl
@[simp] theorem State.modMyCore_spills (s : State) (f : Core → Core) : (s.modMyCore f).spills = s.spills := rfl

@[simp] theorem State.latch_before (s : State) (r : PReg) (lat : Nat) (v : Row) : (s.latch r lat v).before = s.before := rfl
@[simp] theorem State.latch_images (s : State) (r : PReg) (lat : Nat) (v : Row) : (s.latch r lat v).images = s.images := rfl
@[simp] theorem State.latch_launches (s : State) (r : PReg) (lat : Nat) (v : Row) : (s.latch r lat v).launches = s.launches := rfl
@[simp] theorem State.latch_mem (s : State) (r : PReg) (lat : Nat) (v : Row) : (s.latch r lat v).mem = s.mem := rfl
@[simp] theorem State.latch_poison (s : State) (r : PReg) (lat : Nat) (v : Row) : (s.latch r lat v).poison = s.poison := rfl
@[simp] theorem State.latch_sides (s : State) (r : PReg) (lat : Nat) (v : Row) : (s.latch r lat v).sides = s.sides := rfl
@[simp] theorem State.latch_cycle (s : State) (r : PReg) (lat : Nat) (v : Row) : (s.latch r lat v).cycle = s.cycle := rfl
@[simp] theorem State.latch_homemaps (s : State) (r : PReg) (lat : Nat) (v : Row) : (s.latch r lat v).homemaps = s.homemaps := rfl
@[simp] theorem State.latch_hmArrays (s : State) (r : PReg) (lat : Nat) (v : Row) : (s.latch r lat v).hmArrays = s.hmArrays := rfl
@[simp] theorem State.latch_ctxroots (s : State) (r : PReg) (lat : Nat) (v : Row) : (s.latch r lat v).ctxroots = s.ctxroots := rfl
@[simp] theorem State.latch_tuInv (s : State) (r : PReg) (lat : Nat) (v : Row) : (s.latch r lat v).tuInv = s.tuInv := rfl
@[simp] theorem State.latch_trans (s : State) (r : PReg) (lat : Nat) (v : Row) : (s.latch r lat v).trans = s.trans := rfl
@[simp] theorem State.latch_filters (s : State) (r : PReg) (lat : Nat) (v : Row) : (s.latch r lat v).filters = s.filters := rfl
@[simp] theorem State.latch_filterNo (s : State) (r : PReg) (lat : Nat) (v : Row) : (s.latch r lat v).filterNo = s.filterNo := rfl
@[simp] theorem State.latch_fmtBase (s : State) (r : PReg) (lat : Nat) (v : Row) : (s.latch r lat v).fmtBase = s.fmtBase := rfl
@[simp] theorem State.latch_fmtScale (s : State) (r : PReg) (lat : Nat) (v : Row) : (s.latch r lat v).fmtScale = s.fmtScale := rfl
@[simp] theorem State.latch_waymask (s : State) (r : PReg) (lat : Nat) (v : Row) : (s.latch r lat v).waymask = s.waymask := rfl
@[simp] theorem State.latch_l2 (s : State) (r : PReg) (lat : Nat) (v : Row) : (s.latch r lat v).l2 = s.l2 := rfl
@[simp] theorem State.latch_rdc (s : State) (r : PReg) (lat : Nat) (v : Row) : (s.latch r lat v).rdc = s.rdc := rfl
@[simp] theorem State.latch_tracks (s : State) (r : PReg) (lat : Nat) (v : Row) : (s.latch r lat v).tracks = s.tracks := rfl
@[simp] theorem State.latch_releases (s : State) (r : PReg) (lat : Nat) (v : Row) : (s.latch r lat v).releases = s.releases := rfl
@[simp] theorem State.latch_known (s : State) (r : PReg) (lat : Nat) (v : Row) : (s.latch r lat v).known = s.known := rfl
@[simp] theorem State.latch_devq (s : State) (r : PReg) (lat : Nat) (v : Row) : (s.latch r lat v).devq = s.devq := rfl
@[simp] theorem State.latch_incs (s : State) (r : PReg) (lat : Nat) (v : Row) : (s.latch r lat v).incs = s.incs := rfl
@[simp] theorem State.latch_shadows (s : State) (r : PReg) (lat : Nat) (v : Row) : (s.latch r lat v).shadows = s.shadows := rfl
@[simp] theorem State.latch_jpair (s : State) (r : PReg) (lat : Nat) (v : Row) : (s.latch r lat v).jpair = s.jpair := rfl
@[simp] theorem State.latch_shadowMs (s : State) (r : PReg) (lat : Nat) (v : Row) : (s.latch r lat v).shadowMs = s.shadowMs := rfl
@[simp] theorem State.latch_incNew (s : State) (r : PReg) (lat : Nat) (v : Row) : (s.latch r lat v).incNew = s.incNew := rfl
@[simp] theorem State.latch_jn (s : State) (r : PReg) (lat : Nat) (v : Row) : (s.latch r lat v).jn = s.jn := rfl
@[simp] theorem State.latch_negs (s : State) (r : PReg) (lat : Nat) (v : Row) : (s.latch r lat v).negs = s.negs := rfl
@[simp] theorem State.latch_host (s : State) (r : PReg) (lat : Nat) (v : Row) : (s.latch r lat v).host = s.host := rfl
@[simp] theorem State.latch_fab (s : State) (r : PReg) (lat : Nat) (v : Row) : (s.latch r lat v).fab = s.fab := rfl
@[simp] theorem State.latch_ras (s : State) (r : PReg) (lat : Nat) (v : Row) : (s.latch r lat v).ras = s.ras := rfl
@[simp] theorem State.latch_inbox (s : State) (r : PReg) (lat : Nat) (v : Row) : (s.latch r lat v).inbox = s.inbox := rfl
@[simp] theorem State.latch_agenda (s : State) (r : PReg) (lat : Nat) (v : Row) : (s.latch r lat v).agenda = s.agenda := rfl
@[simp] theorem State.latch_cur (s : State) (r : PReg) (lat : Nat) (v : Row) : (s.latch r lat v).cur = s.cur := rfl
@[simp] theorem State.latch_word (s : State) (r : PReg) (lat : Nat) (v : Row) : (s.latch r lat v).word = s.word := rfl
@[simp] theorem State.latch_site (s : State) (r : PReg) (lat : Nat) (v : Row) : (s.latch r lat v).site = s.site := rfl
@[simp] theorem State.latch_verdict (s : State) (r : PReg) (lat : Nat) (v : Row) : (s.latch r lat v).verdict = s.verdict := rfl
@[simp] theorem State.latch_free (s : State) (r : PReg) (lat : Nat) (v : Row) : (s.latch r lat v).free = s.free := rfl
@[simp] theorem State.latch_devDone (s : State) (r : PReg) (lat : Nat) (v : Row) : (s.latch r lat v).devDone = s.devDone := rfl
@[simp] theorem State.latch_serial (s : State) (r : PReg) (lat : Nat) (v : Row) : (s.latch r lat v).serial = s.serial := rfl
@[simp] theorem State.latch_spills (s : State) (r : PReg) (lat : Nat) (v : Row) : (s.latch r lat v).spills = s.spills := rfl

@[simp] theorem State.pset_cores (s : State) (a n v : Nat) : (s.pset a n v).cores = s.cores := rfl
@[simp] theorem State.pset_before (s : State) (a n v : Nat) : (s.pset a n v).before = s.before := rfl
@[simp] theorem State.pset_images (s : State) (a n v : Nat) : (s.pset a n v).images = s.images := rfl
@[simp] theorem State.pset_launches (s : State) (a n v : Nat) : (s.pset a n v).launches = s.launches := rfl
@[simp] theorem State.pset_poison (s : State) (a n v : Nat) : (s.pset a n v).poison = s.poison := rfl
@[simp] theorem State.pset_sides (s : State) (a n v : Nat) : (s.pset a n v).sides = s.sides := rfl
@[simp] theorem State.pset_cycle (s : State) (a n v : Nat) : (s.pset a n v).cycle = s.cycle := rfl
@[simp] theorem State.pset_homemaps (s : State) (a n v : Nat) : (s.pset a n v).homemaps = s.homemaps := rfl
@[simp] theorem State.pset_hmArrays (s : State) (a n v : Nat) : (s.pset a n v).hmArrays = s.hmArrays := rfl
@[simp] theorem State.pset_ctxroots (s : State) (a n v : Nat) : (s.pset a n v).ctxroots = s.ctxroots := rfl
@[simp] theorem State.pset_tuInv (s : State) (a n v : Nat) : (s.pset a n v).tuInv = s.tuInv := rfl
@[simp] theorem State.pset_trans (s : State) (a n v : Nat) : (s.pset a n v).trans = s.trans := rfl
@[simp] theorem State.pset_filters (s : State) (a n v : Nat) : (s.pset a n v).filters = s.filters := rfl
@[simp] theorem State.pset_filterNo (s : State) (a n v : Nat) : (s.pset a n v).filterNo = s.filterNo := rfl
@[simp] theorem State.pset_fmtBase (s : State) (a n v : Nat) : (s.pset a n v).fmtBase = s.fmtBase := rfl
@[simp] theorem State.pset_fmtScale (s : State) (a n v : Nat) : (s.pset a n v).fmtScale = s.fmtScale := rfl
@[simp] theorem State.pset_waymask (s : State) (a n v : Nat) : (s.pset a n v).waymask = s.waymask := rfl
@[simp] theorem State.pset_l2 (s : State) (a n v : Nat) : (s.pset a n v).l2 = s.l2 := rfl
@[simp] theorem State.pset_rdc (s : State) (a n v : Nat) : (s.pset a n v).rdc = s.rdc := rfl
@[simp] theorem State.pset_tracks (s : State) (a n v : Nat) : (s.pset a n v).tracks = s.tracks := rfl
@[simp] theorem State.pset_releases (s : State) (a n v : Nat) : (s.pset a n v).releases = s.releases := rfl
@[simp] theorem State.pset_known (s : State) (a n v : Nat) : (s.pset a n v).known = s.known := rfl
@[simp] theorem State.pset_devq (s : State) (a n v : Nat) : (s.pset a n v).devq = s.devq := rfl
@[simp] theorem State.pset_incs (s : State) (a n v : Nat) : (s.pset a n v).incs = s.incs := rfl
@[simp] theorem State.pset_shadows (s : State) (a n v : Nat) : (s.pset a n v).shadows = s.shadows := rfl
@[simp] theorem State.pset_jpair (s : State) (a n v : Nat) : (s.pset a n v).jpair = s.jpair := rfl
@[simp] theorem State.pset_shadowMs (s : State) (a n v : Nat) : (s.pset a n v).shadowMs = s.shadowMs := rfl
@[simp] theorem State.pset_incNew (s : State) (a n v : Nat) : (s.pset a n v).incNew = s.incNew := rfl
@[simp] theorem State.pset_jn (s : State) (a n v : Nat) : (s.pset a n v).jn = s.jn := rfl
@[simp] theorem State.pset_negs (s : State) (a n v : Nat) : (s.pset a n v).negs = s.negs := rfl
@[simp] theorem State.pset_host (s : State) (a n v : Nat) : (s.pset a n v).host = s.host := rfl
@[simp] theorem State.pset_fab (s : State) (a n v : Nat) : (s.pset a n v).fab = s.fab := rfl
@[simp] theorem State.pset_ras (s : State) (a n v : Nat) : (s.pset a n v).ras = s.ras := rfl
@[simp] theorem State.pset_inbox (s : State) (a n v : Nat) : (s.pset a n v).inbox = s.inbox := rfl
@[simp] theorem State.pset_agenda (s : State) (a n v : Nat) : (s.pset a n v).agenda = s.agenda := rfl
@[simp] theorem State.pset_cur (s : State) (a n v : Nat) : (s.pset a n v).cur = s.cur := rfl
@[simp] theorem State.pset_word (s : State) (a n v : Nat) : (s.pset a n v).word = s.word := rfl
@[simp] theorem State.pset_site (s : State) (a n v : Nat) : (s.pset a n v).site = s.site := rfl
@[simp] theorem State.pset_verdict (s : State) (a n v : Nat) : (s.pset a n v).verdict = s.verdict := rfl
@[simp] theorem State.pset_free (s : State) (a n v : Nat) : (s.pset a n v).free = s.free := rfl
@[simp] theorem State.pset_devDone (s : State) (a n v : Nat) : (s.pset a n v).devDone = s.devDone := rfl
@[simp] theorem State.pset_serial (s : State) (a n v : Nat) : (s.pset a n v).serial = s.serial := rfl
@[simp] theorem State.pset_spills (s : State) (a n v : Nat) : (s.pset a n v).spills = s.spills := rfl

@[simp] theorem State.setPoison_cores (s : State) (a : Nat) (b : Bool) : (s.setPoison a b).cores = s.cores := rfl
@[simp] theorem State.setPoison_before (s : State) (a : Nat) (b : Bool) : (s.setPoison a b).before = s.before := rfl
@[simp] theorem State.setPoison_images (s : State) (a : Nat) (b : Bool) : (s.setPoison a b).images = s.images := rfl
@[simp] theorem State.setPoison_launches (s : State) (a : Nat) (b : Bool) : (s.setPoison a b).launches = s.launches := rfl
@[simp] theorem State.setPoison_mem (s : State) (a : Nat) (b : Bool) : (s.setPoison a b).mem = s.mem := rfl
@[simp] theorem State.setPoison_sides (s : State) (a : Nat) (b : Bool) : (s.setPoison a b).sides = s.sides := rfl
@[simp] theorem State.setPoison_cycle (s : State) (a : Nat) (b : Bool) : (s.setPoison a b).cycle = s.cycle := rfl
@[simp] theorem State.setPoison_homemaps (s : State) (a : Nat) (b : Bool) : (s.setPoison a b).homemaps = s.homemaps := rfl
@[simp] theorem State.setPoison_hmArrays (s : State) (a : Nat) (b : Bool) : (s.setPoison a b).hmArrays = s.hmArrays := rfl
@[simp] theorem State.setPoison_ctxroots (s : State) (a : Nat) (b : Bool) : (s.setPoison a b).ctxroots = s.ctxroots := rfl
@[simp] theorem State.setPoison_tuInv (s : State) (a : Nat) (b : Bool) : (s.setPoison a b).tuInv = s.tuInv := rfl
@[simp] theorem State.setPoison_trans (s : State) (a : Nat) (b : Bool) : (s.setPoison a b).trans = s.trans := rfl
@[simp] theorem State.setPoison_filters (s : State) (a : Nat) (b : Bool) : (s.setPoison a b).filters = s.filters := rfl
@[simp] theorem State.setPoison_filterNo (s : State) (a : Nat) (b : Bool) : (s.setPoison a b).filterNo = s.filterNo := rfl
@[simp] theorem State.setPoison_fmtBase (s : State) (a : Nat) (b : Bool) : (s.setPoison a b).fmtBase = s.fmtBase := rfl
@[simp] theorem State.setPoison_fmtScale (s : State) (a : Nat) (b : Bool) : (s.setPoison a b).fmtScale = s.fmtScale := rfl
@[simp] theorem State.setPoison_waymask (s : State) (a : Nat) (b : Bool) : (s.setPoison a b).waymask = s.waymask := rfl
@[simp] theorem State.setPoison_l2 (s : State) (a : Nat) (b : Bool) : (s.setPoison a b).l2 = s.l2 := rfl
@[simp] theorem State.setPoison_rdc (s : State) (a : Nat) (b : Bool) : (s.setPoison a b).rdc = s.rdc := rfl
@[simp] theorem State.setPoison_tracks (s : State) (a : Nat) (b : Bool) : (s.setPoison a b).tracks = s.tracks := rfl
@[simp] theorem State.setPoison_releases (s : State) (a : Nat) (b : Bool) : (s.setPoison a b).releases = s.releases := rfl
@[simp] theorem State.setPoison_known (s : State) (a : Nat) (b : Bool) : (s.setPoison a b).known = s.known := rfl
@[simp] theorem State.setPoison_devq (s : State) (a : Nat) (b : Bool) : (s.setPoison a b).devq = s.devq := rfl
@[simp] theorem State.setPoison_incs (s : State) (a : Nat) (b : Bool) : (s.setPoison a b).incs = s.incs := rfl
@[simp] theorem State.setPoison_shadows (s : State) (a : Nat) (b : Bool) : (s.setPoison a b).shadows = s.shadows := rfl
@[simp] theorem State.setPoison_jpair (s : State) (a : Nat) (b : Bool) : (s.setPoison a b).jpair = s.jpair := rfl
@[simp] theorem State.setPoison_shadowMs (s : State) (a : Nat) (b : Bool) : (s.setPoison a b).shadowMs = s.shadowMs := rfl
@[simp] theorem State.setPoison_incNew (s : State) (a : Nat) (b : Bool) : (s.setPoison a b).incNew = s.incNew := rfl
@[simp] theorem State.setPoison_jn (s : State) (a : Nat) (b : Bool) : (s.setPoison a b).jn = s.jn := rfl
@[simp] theorem State.setPoison_negs (s : State) (a : Nat) (b : Bool) : (s.setPoison a b).negs = s.negs := rfl
@[simp] theorem State.setPoison_host (s : State) (a : Nat) (b : Bool) : (s.setPoison a b).host = s.host := rfl
@[simp] theorem State.setPoison_fab (s : State) (a : Nat) (b : Bool) : (s.setPoison a b).fab = s.fab := rfl
@[simp] theorem State.setPoison_ras (s : State) (a : Nat) (b : Bool) : (s.setPoison a b).ras = s.ras := rfl
@[simp] theorem State.setPoison_inbox (s : State) (a : Nat) (b : Bool) : (s.setPoison a b).inbox = s.inbox := rfl
@[simp] theorem State.setPoison_agenda (s : State) (a : Nat) (b : Bool) : (s.setPoison a b).agenda = s.agenda := rfl
@[simp] theorem State.setPoison_cur (s : State) (a : Nat) (b : Bool) : (s.setPoison a b).cur = s.cur := rfl
@[simp] theorem State.setPoison_word (s : State) (a : Nat) (b : Bool) : (s.setPoison a b).word = s.word := rfl
@[simp] theorem State.setPoison_site (s : State) (a : Nat) (b : Bool) : (s.setPoison a b).site = s.site := rfl
@[simp] theorem State.setPoison_verdict (s : State) (a : Nat) (b : Bool) : (s.setPoison a b).verdict = s.verdict := rfl
@[simp] theorem State.setPoison_free (s : State) (a : Nat) (b : Bool) : (s.setPoison a b).free = s.free := rfl
@[simp] theorem State.setPoison_devDone (s : State) (a : Nat) (b : Bool) : (s.setPoison a b).devDone = s.devDone := rfl
@[simp] theorem State.setPoison_serial (s : State) (a : Nat) (b : Bool) : (s.setPoison a b).serial = s.serial := rfl
@[simp] theorem State.setPoison_spills (s : State) (a : Nat) (b : Bool) : (s.setPoison a b).spills = s.spills := rfl

@[simp] theorem State.draw_cores (s : State) : (s.draw).cores = s.cores := rfl
@[simp] theorem State.draw_before (s : State) : (s.draw).before = s.before := rfl
@[simp] theorem State.draw_images (s : State) : (s.draw).images = s.images := rfl
@[simp] theorem State.draw_launches (s : State) : (s.draw).launches = s.launches := rfl
@[simp] theorem State.draw_mem (s : State) : (s.draw).mem = s.mem := rfl
@[simp] theorem State.draw_poison (s : State) : (s.draw).poison = s.poison := rfl
@[simp] theorem State.draw_sides (s : State) : (s.draw).sides = s.sides := rfl
@[simp] theorem State.draw_cycle (s : State) : (s.draw).cycle = s.cycle := rfl
@[simp] theorem State.draw_homemaps (s : State) : (s.draw).homemaps = s.homemaps := rfl
@[simp] theorem State.draw_hmArrays (s : State) : (s.draw).hmArrays = s.hmArrays := rfl
@[simp] theorem State.draw_ctxroots (s : State) : (s.draw).ctxroots = s.ctxroots := rfl
@[simp] theorem State.draw_tuInv (s : State) : (s.draw).tuInv = s.tuInv := rfl
@[simp] theorem State.draw_trans (s : State) : (s.draw).trans = s.trans := rfl
@[simp] theorem State.draw_filters (s : State) : (s.draw).filters = s.filters := rfl
@[simp] theorem State.draw_filterNo (s : State) : (s.draw).filterNo = s.filterNo := rfl
@[simp] theorem State.draw_fmtBase (s : State) : (s.draw).fmtBase = s.fmtBase := rfl
@[simp] theorem State.draw_fmtScale (s : State) : (s.draw).fmtScale = s.fmtScale := rfl
@[simp] theorem State.draw_waymask (s : State) : (s.draw).waymask = s.waymask := rfl
@[simp] theorem State.draw_l2 (s : State) : (s.draw).l2 = s.l2 := rfl
@[simp] theorem State.draw_rdc (s : State) : (s.draw).rdc = s.rdc := rfl
@[simp] theorem State.draw_tracks (s : State) : (s.draw).tracks = s.tracks := rfl
@[simp] theorem State.draw_releases (s : State) : (s.draw).releases = s.releases := rfl
@[simp] theorem State.draw_known (s : State) : (s.draw).known = s.known := rfl
@[simp] theorem State.draw_devq (s : State) : (s.draw).devq = s.devq := rfl
@[simp] theorem State.draw_incs (s : State) : (s.draw).incs = s.incs := rfl
@[simp] theorem State.draw_shadows (s : State) : (s.draw).shadows = s.shadows := rfl
@[simp] theorem State.draw_jpair (s : State) : (s.draw).jpair = s.jpair := rfl
@[simp] theorem State.draw_shadowMs (s : State) : (s.draw).shadowMs = s.shadowMs := rfl
@[simp] theorem State.draw_incNew (s : State) : (s.draw).incNew = s.incNew := rfl
@[simp] theorem State.draw_jn (s : State) : (s.draw).jn = s.jn := rfl
@[simp] theorem State.draw_negs (s : State) : (s.draw).negs = s.negs := rfl
@[simp] theorem State.draw_host (s : State) : (s.draw).host = s.host := rfl
@[simp] theorem State.draw_fab (s : State) : (s.draw).fab = s.fab := rfl
@[simp] theorem State.draw_ras (s : State) : (s.draw).ras = s.ras := rfl
@[simp] theorem State.draw_inbox (s : State) : (s.draw).inbox = s.inbox := rfl
@[simp] theorem State.draw_agenda (s : State) : (s.draw).agenda = s.agenda := rfl
@[simp] theorem State.draw_cur (s : State) : (s.draw).cur = s.cur := rfl
@[simp] theorem State.draw_word (s : State) : (s.draw).word = s.word := rfl
@[simp] theorem State.draw_site (s : State) : (s.draw).site = s.site := rfl
@[simp] theorem State.draw_verdict (s : State) : (s.draw).verdict = s.verdict := rfl

/-- Drawing a free value raises the count. -/
@[simp] theorem State.draw_free (s : State) : s.draw.free = s.free + 1 := rfl
@[simp] theorem State.draw_devDone (s : State) : s.draw.devDone = s.devDone := rfl
@[simp] theorem State.draw_serial (s : State) : s.draw.serial = s.serial := rfl
@[simp] theorem State.draw_spills (s : State) : s.draw.spills = s.spills := rfl
/-- A write of memory. -/
@[simp] theorem State.pset_mem (s : State) (a n v : Nat) : (s.pset a n v).mem = Memory.setNat s.mem a n v := rfl

@[simp] theorem State.modLaunchOf_cores (s : State) (c : Nat) (f : Launch → Launch) : (s.modLaunchOf c f).cores = s.cores := by
  unfold State.modLaunchOf; split <;> rfl
@[simp] theorem State.modLaunchOf_before (s : State) (c : Nat) (f : Launch → Launch) : (s.modLaunchOf c f).before = s.before := by
  unfold State.modLaunchOf; split <;> rfl
@[simp] theorem State.modLaunchOf_images (s : State) (c : Nat) (f : Launch → Launch) : (s.modLaunchOf c f).images = s.images := by
  unfold State.modLaunchOf; split <;> rfl
@[simp] theorem State.modLaunchOf_mem (s : State) (c : Nat) (f : Launch → Launch) : (s.modLaunchOf c f).mem = s.mem := by
  unfold State.modLaunchOf; split <;> rfl
@[simp] theorem State.modLaunchOf_poison (s : State) (c : Nat) (f : Launch → Launch) : (s.modLaunchOf c f).poison = s.poison := by
  unfold State.modLaunchOf; split <;> rfl
@[simp] theorem State.modLaunchOf_sides (s : State) (c : Nat) (f : Launch → Launch) : (s.modLaunchOf c f).sides = s.sides := by
  unfold State.modLaunchOf; split <;> rfl
@[simp] theorem State.modLaunchOf_cycle (s : State) (c : Nat) (f : Launch → Launch) : (s.modLaunchOf c f).cycle = s.cycle := by
  unfold State.modLaunchOf; split <;> rfl
@[simp] theorem State.modLaunchOf_homemaps (s : State) (c : Nat) (f : Launch → Launch) : (s.modLaunchOf c f).homemaps = s.homemaps := by
  unfold State.modLaunchOf; split <;> rfl
@[simp] theorem State.modLaunchOf_hmArrays (s : State) (c : Nat) (f : Launch → Launch) : (s.modLaunchOf c f).hmArrays = s.hmArrays := by
  unfold State.modLaunchOf; split <;> rfl
@[simp] theorem State.modLaunchOf_ctxroots (s : State) (c : Nat) (f : Launch → Launch) : (s.modLaunchOf c f).ctxroots = s.ctxroots := by
  unfold State.modLaunchOf; split <;> rfl
@[simp] theorem State.modLaunchOf_tuInv (s : State) (c : Nat) (f : Launch → Launch) : (s.modLaunchOf c f).tuInv = s.tuInv := by
  unfold State.modLaunchOf; split <;> rfl
@[simp] theorem State.modLaunchOf_trans (s : State) (c : Nat) (f : Launch → Launch) : (s.modLaunchOf c f).trans = s.trans := by
  unfold State.modLaunchOf; split <;> rfl
@[simp] theorem State.modLaunchOf_filters (s : State) (c : Nat) (f : Launch → Launch) : (s.modLaunchOf c f).filters = s.filters := by
  unfold State.modLaunchOf; split <;> rfl
@[simp] theorem State.modLaunchOf_filterNo (s : State) (c : Nat) (f : Launch → Launch) : (s.modLaunchOf c f).filterNo = s.filterNo := by
  unfold State.modLaunchOf; split <;> rfl
@[simp] theorem State.modLaunchOf_fmtBase (s : State) (c : Nat) (f : Launch → Launch) : (s.modLaunchOf c f).fmtBase = s.fmtBase := by
  unfold State.modLaunchOf; split <;> rfl
@[simp] theorem State.modLaunchOf_fmtScale (s : State) (c : Nat) (f : Launch → Launch) : (s.modLaunchOf c f).fmtScale = s.fmtScale := by
  unfold State.modLaunchOf; split <;> rfl
@[simp] theorem State.modLaunchOf_waymask (s : State) (c : Nat) (f : Launch → Launch) : (s.modLaunchOf c f).waymask = s.waymask := by
  unfold State.modLaunchOf; split <;> rfl
@[simp] theorem State.modLaunchOf_l2 (s : State) (c : Nat) (f : Launch → Launch) : (s.modLaunchOf c f).l2 = s.l2 := by
  unfold State.modLaunchOf; split <;> rfl
@[simp] theorem State.modLaunchOf_rdc (s : State) (c : Nat) (f : Launch → Launch) : (s.modLaunchOf c f).rdc = s.rdc := by
  unfold State.modLaunchOf; split <;> rfl
@[simp] theorem State.modLaunchOf_tracks (s : State) (c : Nat) (f : Launch → Launch) : (s.modLaunchOf c f).tracks = s.tracks := by
  unfold State.modLaunchOf; split <;> rfl
@[simp] theorem State.modLaunchOf_releases (s : State) (c : Nat) (f : Launch → Launch) : (s.modLaunchOf c f).releases = s.releases := by
  unfold State.modLaunchOf; split <;> rfl
@[simp] theorem State.modLaunchOf_known (s : State) (c : Nat) (f : Launch → Launch) : (s.modLaunchOf c f).known = s.known := by
  unfold State.modLaunchOf; split <;> rfl
@[simp] theorem State.modLaunchOf_devq (s : State) (c : Nat) (f : Launch → Launch) : (s.modLaunchOf c f).devq = s.devq := by
  unfold State.modLaunchOf; split <;> rfl
@[simp] theorem State.modLaunchOf_incs (s : State) (c : Nat) (f : Launch → Launch) : (s.modLaunchOf c f).incs = s.incs := by
  unfold State.modLaunchOf; split <;> rfl
@[simp] theorem State.modLaunchOf_shadows (s : State) (c : Nat) (f : Launch → Launch) : (s.modLaunchOf c f).shadows = s.shadows := by
  unfold State.modLaunchOf; split <;> rfl
@[simp] theorem State.modLaunchOf_jpair (s : State) (c : Nat) (f : Launch → Launch) : (s.modLaunchOf c f).jpair = s.jpair := by
  unfold State.modLaunchOf; split <;> rfl
@[simp] theorem State.modLaunchOf_shadowMs (s : State) (c : Nat) (f : Launch → Launch) : (s.modLaunchOf c f).shadowMs = s.shadowMs := by
  unfold State.modLaunchOf; split <;> rfl
@[simp] theorem State.modLaunchOf_incNew (s : State) (c : Nat) (f : Launch → Launch) : (s.modLaunchOf c f).incNew = s.incNew := by
  unfold State.modLaunchOf; split <;> rfl
@[simp] theorem State.modLaunchOf_jn (s : State) (c : Nat) (f : Launch → Launch) : (s.modLaunchOf c f).jn = s.jn := by
  unfold State.modLaunchOf; split <;> rfl
@[simp] theorem State.modLaunchOf_negs (s : State) (c : Nat) (f : Launch → Launch) : (s.modLaunchOf c f).negs = s.negs := by
  unfold State.modLaunchOf; split <;> rfl
@[simp] theorem State.modLaunchOf_host (s : State) (c : Nat) (f : Launch → Launch) : (s.modLaunchOf c f).host = s.host := by
  unfold State.modLaunchOf; split <;> rfl
@[simp] theorem State.modLaunchOf_fab (s : State) (c : Nat) (f : Launch → Launch) : (s.modLaunchOf c f).fab = s.fab := by
  unfold State.modLaunchOf; split <;> rfl
@[simp] theorem State.modLaunchOf_ras (s : State) (c : Nat) (f : Launch → Launch) : (s.modLaunchOf c f).ras = s.ras := by
  unfold State.modLaunchOf; split <;> rfl
@[simp] theorem State.modLaunchOf_inbox (s : State) (c : Nat) (f : Launch → Launch) : (s.modLaunchOf c f).inbox = s.inbox := by
  unfold State.modLaunchOf; split <;> rfl
@[simp] theorem State.modLaunchOf_agenda (s : State) (c : Nat) (f : Launch → Launch) : (s.modLaunchOf c f).agenda = s.agenda := by
  unfold State.modLaunchOf; split <;> rfl
@[simp] theorem State.modLaunchOf_cur (s : State) (c : Nat) (f : Launch → Launch) : (s.modLaunchOf c f).cur = s.cur := by
  unfold State.modLaunchOf; split <;> rfl
@[simp] theorem State.modLaunchOf_word (s : State) (c : Nat) (f : Launch → Launch) : (s.modLaunchOf c f).word = s.word := by
  unfold State.modLaunchOf; split <;> rfl
@[simp] theorem State.modLaunchOf_site (s : State) (c : Nat) (f : Launch → Launch) : (s.modLaunchOf c f).site = s.site := by
  unfold State.modLaunchOf; split <;> rfl
@[simp] theorem State.modLaunchOf_verdict (s : State) (c : Nat) (f : Launch → Launch) : (s.modLaunchOf c f).verdict = s.verdict := by
  unfold State.modLaunchOf; split <;> rfl
@[simp] theorem State.modLaunchOf_free (s : State) (c : Nat) (f : Launch → Launch) : (s.modLaunchOf c f).free = s.free := by
  unfold State.modLaunchOf; split <;> rfl
@[simp] theorem State.modLaunchOf_devDone (s : State) (c : Nat) (f : Launch → Launch) : (s.modLaunchOf c f).devDone = s.devDone := by
  unfold State.modLaunchOf; split <;> rfl
@[simp] theorem State.modLaunchOf_serial (s : State) (c : Nat) (f : Launch → Launch) : (s.modLaunchOf c f).serial = s.serial := by
  unfold State.modLaunchOf; split <;> rfl
@[simp] theorem State.modLaunchOf_spills (s : State) (c : Nat) (f : Launch → Launch) : (s.modLaunchOf c f).spills = s.spills := by
  unfold State.modLaunchOf; split <;> rfl

@[simp] theorem Core.modStream_tiles (k : Core) (i : Nat) (f : Stream → Stream) : (k.modStream i f).tiles = k.tiles := rfl
@[simp] theorem Core.modStream_twrites (k : Core) (i : Nat) (f : Stream → Stream) : (k.modStream i f).twrites = k.twrites := rfl
@[simp] theorem Core.modStream_claims (k : Core) (i : Nat) (f : Stream → Stream) : (k.modStream i f).claims = k.claims := rfl
@[simp] theorem Core.modStream_banks (k : Core) (i : Nat) (f : Stream → Stream) : (k.modStream i f).banks = k.banks := rfl
@[simp] theorem Core.modStream_sp (k : Core) (i : Nat) (f : Stream → Stream) : (k.modStream i f).sp = k.sp := rfl
@[simp] theorem Core.modStream_spRes (k : Core) (i : Nat) (f : Stream → Stream) : (k.modStream i f).spRes = k.spRes := rfl
@[simp] theorem Core.modStream_rings (k : Core) (i : Nat) (f : Stream → Stream) : (k.modStream i f).rings = k.rings := rfl
@[simp] theorem Core.modStream_ringsPrev (k : Core) (i : Nat) (f : Stream → Stream) : (k.modStream i f).ringsPrev = k.ringsPrev := rfl
@[simp] theorem Core.modStream_ringLock (k : Core) (i : Nat) (f : Stream → Stream) : (k.modStream i f).ringLock = k.ringLock := rfl
@[simp] theorem Core.modStream_trsaw (k : Core) (i : Nat) (f : Stream → Stream) : (k.modStream i f).trsaw = k.trsaw := rfl
@[simp] theorem Core.modStream_detmode (k : Core) (i : Nat) (f : Stream → Stream) : (k.modStream i f).detmode = k.detmode := rfl
@[simp] theorem Core.modStream_detStart (k : Core) (i : Nat) (f : Stream → Stream) : (k.modStream i f).detStart = k.detStart := rfl
@[simp] theorem Core.modStream_slabs (k : Core) (i : Nat) (f : Stream → Stream) : (k.modStream i f).slabs = k.slabs := rfl
@[simp] theorem Core.modStream_mexec (k : Core) (i : Nat) (f : Stream → Stream) : (k.modStream i f).mexec = k.mexec := rfl
@[simp] theorem Core.modStream_mxLast (k : Core) (i : Nat) (f : Stream → Stream) : (k.modStream i f).mxLast = k.mxLast := rfl
@[simp] theorem Core.modStream_xt (k : Core) (i : Nat) (f : Stream → Stream) : (k.modStream i f).xt = k.xt := rfl
@[simp] theorem Core.modStream_orders (k : Core) (i : Nat) (f : Stream → Stream) : (k.modStream i f).orders = k.orders := rfl
@[simp] theorem Core.modStream_icache (k : Core) (i : Nat) (f : Stream → Stream) : (k.modStream i f).icache = k.icache := rfl
@[simp] theorem Core.modStream_irrpv (k : Core) (i : Nat) (f : Stream → Stream) : (k.modStream i f).irrpv = k.irrpv := rfl
@[simp] theorem Core.modStream_ovk (k : Core) (i : Nat) (f : Stream → Stream) : (k.modStream i f).ovk = k.ovk := rfl
@[simp] theorem Core.modStream_ovb (k : Core) (i : Nat) (f : Stream → Stream) : (k.modStream i f).ovb = k.ovb := rfl
@[simp] theorem Core.modStream_l1d (k : Core) (i : Nat) (f : Stream → Stream) : (k.modStream i f).l1d = k.l1d := rfl
@[simp] theorem Core.modStream_launch (k : Core) (i : Nat) (f : Stream → Stream) : (k.modStream i f).launch = k.launch := rfl
@[simp] theorem Core.modStream_fenced (k : Core) (i : Nat) (f : Stream → Stream) : (k.modStream i f).fenced = k.fenced := rfl
@[simp] theorem Core.modStream_stopped (k : Core) (i : Nat) (f : Stream → Stream) : (k.modStream i f).stopped = k.stopped := rfl
@[simp] theorem Core.modStream_ctxFault (k : Core) (i : Nat) (f : Stream → Stream) : (k.modStream i f).ctxFault = k.ctxFault := rfl
@[simp] theorem Core.modStream_ctxNote (k : Core) (i : Nat) (f : Stream → Stream) : (k.modStream i f).ctxNote = k.ctxNote := rfl
@[simp] theorem Core.modStream_mailbox (k : Core) (i : Nat) (f : Stream → Stream) : (k.modStream i f).mailbox = k.mailbox := rfl
@[simp] theorem Core.modStream_mailbox2 (k : Core) (i : Nat) (f : Stream → Stream) : (k.modStream i f).mailbox2 = k.mailbox2 := rfl
@[simp] theorem Core.modStream_mbErr (k : Core) (i : Nat) (f : Stream → Stream) : (k.modStream i f).mbErr = k.mbErr := rfl
@[simp] theorem Core.modStream_mbState (k : Core) (i : Nat) (f : Stream → Stream) : (k.modStream i f).mbState = k.mbState := rfl
@[simp] theorem Core.modStream_mbGo (k : Core) (i : Nat) (f : Stream → Stream) : (k.modStream i f).mbGo = k.mbGo := rfl
@[simp] theorem Core.modStream_pctlCmd (k : Core) (i : Nat) (f : Stream → Stream) : (k.modStream i f).pctlCmd = k.pctlCmd := rfl
@[simp] theorem Core.modStream_pctlBusy (k : Core) (i : Nat) (f : Stream → Stream) : (k.modStream i f).pctlBusy = k.pctlBusy := rfl
@[simp] theorem Core.modStream_pctlErr (k : Core) (i : Nat) (f : Stream → Stream) : (k.modStream i f).pctlErr = k.pctlErr := rfl
@[simp] theorem Core.modStream_pctlArea (k : Core) (i : Nat) (f : Stream → Stream) : (k.modStream i f).pctlArea = k.pctlArea := rfl
@[simp] theorem Core.modStream_saveAt (k : Core) (i : Nat) (f : Stream → Stream) : (k.modStream i f).saveAt = k.saveAt := rfl
@[simp] theorem Core.modStream_stopCyc (k : Core) (i : Nat) (f : Stream → Stream) : (k.modStream i f).stopCyc = k.stopCyc := rfl
@[simp] theorem Core.modStream_lent (k : Core) (i : Nat) (f : Stream → Stream) : (k.modStream i f).lent = k.lent := rfl
@[simp] theorem Core.modStream_lentUsed (k : Core) (i : Nat) (f : Stream → Stream) : (k.modStream i f).lentUsed = k.lentUsed := rfl
@[simp] theorem Core.modStream_granted (k : Core) (i : Nat) (f : Stream → Stream) : (k.modStream i f).granted = k.granted := rfl
@[simp] theorem Core.modStream_probes (k : Core) (i : Nat) (f : Stream → Stream) : (k.modStream i f).probes = k.probes := rfl
@[simp] theorem Core.modStream_spares (k : Core) (i : Nat) (f : Stream → Stream) : (k.modStream i f).spares = k.spares := rfl
@[simp] theorem Core.modStream_toFence (k : Core) (i : Nat) (f : Stream → Stream) : (k.modStream i f).toFence = k.toFence := rfl
@[simp] theorem Core.modTile_streams (k : Core) (t : Nat) (f : Tile → Tile) : (k.modTile t f).streams = k.streams := rfl
@[simp] theorem Core.modTile_twrites (k : Core) (t : Nat) (f : Tile → Tile) : (k.modTile t f).twrites = k.twrites := rfl
@[simp] theorem Core.modTile_claims (k : Core) (t : Nat) (f : Tile → Tile) : (k.modTile t f).claims = k.claims := rfl
@[simp] theorem Core.modTile_banks (k : Core) (t : Nat) (f : Tile → Tile) : (k.modTile t f).banks = k.banks := rfl
@[simp] theorem Core.modTile_sp (k : Core) (t : Nat) (f : Tile → Tile) : (k.modTile t f).sp = k.sp := rfl
@[simp] theorem Core.modTile_spRes (k : Core) (t : Nat) (f : Tile → Tile) : (k.modTile t f).spRes = k.spRes := rfl
@[simp] theorem Core.modTile_rings (k : Core) (t : Nat) (f : Tile → Tile) : (k.modTile t f).rings = k.rings := rfl
@[simp] theorem Core.modTile_ringsPrev (k : Core) (t : Nat) (f : Tile → Tile) : (k.modTile t f).ringsPrev = k.ringsPrev := rfl
@[simp] theorem Core.modTile_ringLock (k : Core) (t : Nat) (f : Tile → Tile) : (k.modTile t f).ringLock = k.ringLock := rfl
@[simp] theorem Core.modTile_trsaw (k : Core) (t : Nat) (f : Tile → Tile) : (k.modTile t f).trsaw = k.trsaw := rfl
@[simp] theorem Core.modTile_detmode (k : Core) (t : Nat) (f : Tile → Tile) : (k.modTile t f).detmode = k.detmode := rfl
@[simp] theorem Core.modTile_detStart (k : Core) (t : Nat) (f : Tile → Tile) : (k.modTile t f).detStart = k.detStart := rfl
@[simp] theorem Core.modTile_slabs (k : Core) (t : Nat) (f : Tile → Tile) : (k.modTile t f).slabs = k.slabs := rfl
@[simp] theorem Core.modTile_mexec (k : Core) (t : Nat) (f : Tile → Tile) : (k.modTile t f).mexec = k.mexec := rfl
@[simp] theorem Core.modTile_mxLast (k : Core) (t : Nat) (f : Tile → Tile) : (k.modTile t f).mxLast = k.mxLast := rfl
@[simp] theorem Core.modTile_xt (k : Core) (t : Nat) (f : Tile → Tile) : (k.modTile t f).xt = k.xt := rfl
@[simp] theorem Core.modTile_orders (k : Core) (t : Nat) (f : Tile → Tile) : (k.modTile t f).orders = k.orders := rfl
@[simp] theorem Core.modTile_icache (k : Core) (t : Nat) (f : Tile → Tile) : (k.modTile t f).icache = k.icache := rfl
@[simp] theorem Core.modTile_irrpv (k : Core) (t : Nat) (f : Tile → Tile) : (k.modTile t f).irrpv = k.irrpv := rfl
@[simp] theorem Core.modTile_ovk (k : Core) (t : Nat) (f : Tile → Tile) : (k.modTile t f).ovk = k.ovk := rfl
@[simp] theorem Core.modTile_ovb (k : Core) (t : Nat) (f : Tile → Tile) : (k.modTile t f).ovb = k.ovb := rfl
@[simp] theorem Core.modTile_l1d (k : Core) (t : Nat) (f : Tile → Tile) : (k.modTile t f).l1d = k.l1d := rfl
@[simp] theorem Core.modTile_launch (k : Core) (t : Nat) (f : Tile → Tile) : (k.modTile t f).launch = k.launch := rfl
@[simp] theorem Core.modTile_fenced (k : Core) (t : Nat) (f : Tile → Tile) : (k.modTile t f).fenced = k.fenced := rfl
@[simp] theorem Core.modTile_stopped (k : Core) (t : Nat) (f : Tile → Tile) : (k.modTile t f).stopped = k.stopped := rfl
@[simp] theorem Core.modTile_ctxFault (k : Core) (t : Nat) (f : Tile → Tile) : (k.modTile t f).ctxFault = k.ctxFault := rfl
@[simp] theorem Core.modTile_ctxNote (k : Core) (t : Nat) (f : Tile → Tile) : (k.modTile t f).ctxNote = k.ctxNote := rfl
@[simp] theorem Core.modTile_mailbox (k : Core) (t : Nat) (f : Tile → Tile) : (k.modTile t f).mailbox = k.mailbox := rfl
@[simp] theorem Core.modTile_mailbox2 (k : Core) (t : Nat) (f : Tile → Tile) : (k.modTile t f).mailbox2 = k.mailbox2 := rfl
@[simp] theorem Core.modTile_mbErr (k : Core) (t : Nat) (f : Tile → Tile) : (k.modTile t f).mbErr = k.mbErr := rfl
@[simp] theorem Core.modTile_mbState (k : Core) (t : Nat) (f : Tile → Tile) : (k.modTile t f).mbState = k.mbState := rfl
@[simp] theorem Core.modTile_mbGo (k : Core) (t : Nat) (f : Tile → Tile) : (k.modTile t f).mbGo = k.mbGo := rfl
@[simp] theorem Core.modTile_pctlCmd (k : Core) (t : Nat) (f : Tile → Tile) : (k.modTile t f).pctlCmd = k.pctlCmd := rfl
@[simp] theorem Core.modTile_pctlBusy (k : Core) (t : Nat) (f : Tile → Tile) : (k.modTile t f).pctlBusy = k.pctlBusy := rfl
@[simp] theorem Core.modTile_pctlErr (k : Core) (t : Nat) (f : Tile → Tile) : (k.modTile t f).pctlErr = k.pctlErr := rfl
@[simp] theorem Core.modTile_pctlArea (k : Core) (t : Nat) (f : Tile → Tile) : (k.modTile t f).pctlArea = k.pctlArea := rfl
@[simp] theorem Core.modTile_saveAt (k : Core) (t : Nat) (f : Tile → Tile) : (k.modTile t f).saveAt = k.saveAt := rfl
@[simp] theorem Core.modTile_stopCyc (k : Core) (t : Nat) (f : Tile → Tile) : (k.modTile t f).stopCyc = k.stopCyc := rfl
@[simp] theorem Core.modTile_lent (k : Core) (t : Nat) (f : Tile → Tile) : (k.modTile t f).lent = k.lent := rfl
@[simp] theorem Core.modTile_lentUsed (k : Core) (t : Nat) (f : Tile → Tile) : (k.modTile t f).lentUsed = k.lentUsed := rfl
@[simp] theorem Core.modTile_granted (k : Core) (t : Nat) (f : Tile → Tile) : (k.modTile t f).granted = k.granted := rfl
@[simp] theorem Core.modTile_probes (k : Core) (t : Nat) (f : Tile → Tile) : (k.modTile t f).probes = k.probes := rfl
@[simp] theorem Core.modTile_spares (k : Core) (t : Nat) (f : Tile → Tile) : (k.modTile t f).spares = k.spares := rfl
@[simp] theorem Core.modTile_toFence (k : Core) (t : Nat) (f : Tile → Tile) : (k.modTile t f).toFence = k.toFence := rfl

@[simp] theorem Stream.latch_aqAt (t : Stream) (c : Nat) (r : PReg) (lat : Nat) (v : Option Row) : (t.latch c r lat v).aqAt = t.aqAt := by
  unfold Stream.latch; split <;> rfl
@[simp] theorem Stream.latch_life (t : Stream) (c : Nat) (r : PReg) (lat : Nat) (v : Option Row) : (t.latch c r lat v).life = t.life := by
  unfold Stream.latch; split <;> rfl
@[simp] theorem Stream.latch_cctlRd (t : Stream) (c : Nat) (r : PReg) (lat : Nat) (v : Option Row) : (t.latch c r lat v).cctlRd = t.cctlRd := by
  unfold Stream.latch; split <;> rfl
@[simp] theorem Stream.latch_status (t : Stream) (c : Nat) (r : PReg) (lat : Nat) (v : Option Row) : (t.latch c r lat v).status = t.status := by
  unfold Stream.latch; split <;> rfl
@[simp] theorem Stream.latch_pc (t : Stream) (c : Nat) (r : PReg) (lat : Nat) (v : Option Row) : (t.latch c r lat v).pc = t.pc := by
  unfold Stream.latch; split <;> rfl
@[simp] theorem Stream.latch_s (t : Stream) (c : Nat) (r : PReg) (lat : Nat) (v : Option Row) : (t.latch c r lat v).s = t.s := by
  unfold Stream.latch; split <;> rfl
@[simp] theorem Stream.latch_q (t : Stream) (c : Nat) (r : PReg) (lat : Nat) (v : Option Row) : (t.latch c r lat v).q = t.q := by
  unfold Stream.latch; split <;> rfl
@[simp] theorem Stream.latch_m (t : Stream) (c : Nat) (r : PReg) (lat : Nat) (v : Option Row) : (t.latch c r lat v).m = t.m := by
  unfold Stream.latch; split <;> rfl
@[simp] theorem Stream.latch_j (t : Stream) (c : Nat) (r : PReg) (lat : Nat) (v : Option Row) : (t.latch c r lat v).j = t.j := by
  unfold Stream.latch; split <;> rfl
@[simp] theorem Stream.latch_lc (t : Stream) (c : Nat) (r : PReg) (lat : Nat) (v : Option Row) : (t.latch c r lat v).lc = t.lc := by
  unfold Stream.latch; split <;> rfl
@[simp] theorem Stream.latch_ec (t : Stream) (c : Nat) (r : PReg) (lat : Nat) (v : Option Row) : (t.latch c r lat v).ec = t.ec := by
  unfold Stream.latch; split <;> rfl
@[simp] theorem Stream.latch_rotb (t : Stream) (c : Nat) (r : PReg) (lat : Nat) (v : Option Row) : (t.latch c r lat v).rotb = t.rotb := by
  unfold Stream.latch; split <;> rfl
@[simp] theorem Stream.latch_sinit (t : Stream) (c : Nat) (r : PReg) (lat : Nat) (v : Option Row) : (t.latch c r lat v).sinit = t.sinit := by
  unfold Stream.latch; split <;> rfl
@[simp] theorem Stream.latch_expchk (t : Stream) (c : Nat) (r : PReg) (lat : Nat) (v : Option Row) : (t.latch c r lat v).expchk = t.expchk := by
  unfold Stream.latch; split <;> rfl
@[simp] theorem Stream.latch_mark (t : Stream) (c : Nat) (r : PReg) (lat : Nat) (v : Option Row) : (t.latch c r lat v).mark = t.mark := by
  unfold Stream.latch; split <;> rfl
@[simp] theorem Stream.latch_cpid (t : Stream) (c : Nat) (r : PReg) (lat : Nat) (v : Option Row) : (t.latch c r lat v).cpid = t.cpid := by
  unfold Stream.latch; split <;> rfl
@[simp] theorem Stream.latch_jlast (t : Stream) (c : Nat) (r : PReg) (lat : Nat) (v : Option Row) : (t.latch c r lat v).jlast = t.jlast := by
  unfold Stream.latch; split <;> rfl
@[simp] theorem Stream.latch_xfer (t : Stream) (c : Nat) (r : PReg) (lat : Nat) (v : Option Row) : (t.latch c r lat v).xfer = t.xfer := by
  unfold Stream.latch; split <;> rfl
@[simp] theorem Stream.latch_pbr (t : Stream) (c : Nat) (r : PReg) (lat : Nat) (v : Option Row) : (t.latch c r lat v).pbr = t.pbr := by
  unfold Stream.latch; split <;> rfl
@[simp] theorem Stream.latch_ret (t : Stream) (c : Nat) (r : PReg) (lat : Nat) (v : Option Row) : (t.latch c r lat v).ret = t.ret := by
  unfold Stream.latch; split <;> rfl
@[simp] theorem Stream.latch_gate (t : Stream) (c : Nat) (r : PReg) (lat : Nat) (v : Option Row) : (t.latch c r lat v).gate = t.gate := by
  unfold Stream.latch; split <;> rfl
@[simp] theorem Stream.latch_rowHeld (t : Stream) (c : Nat) (r : PReg) (lat : Nat) (v : Option Row) : (t.latch c r lat v).rowHeld = t.rowHeld := by
  unfold Stream.latch; split <;> rfl
@[simp] theorem Stream.latch_rails (t : Stream) (c : Nat) (r : PReg) (lat : Nat) (v : Option Row) : (t.latch c r lat v).rails = t.rails := by
  unfold Stream.latch; split <;> rfl
@[simp] theorem Stream.latch_flights (t : Stream) (c : Nat) (r : PReg) (lat : Nat) (v : Option Row) : (t.latch c r lat v).flights = t.flights := by
  unfold Stream.latch; split <;> rfl
@[simp] theorem Stream.latch_accs (t : Stream) (c : Nat) (r : PReg) (lat : Nat) (v : Option Row) : (t.latch c r lat v).accs = t.accs := by
  unfold Stream.latch; split <;> rfl
@[simp] theorem Stream.latch_ldq (t : Stream) (c : Nat) (r : PReg) (lat : Nat) (v : Option Row) : (t.latch c r lat v).ldq = t.ldq := by
  unfold Stream.latch; split <;> rfl
@[simp] theorem Stream.latch_mxq (t : Stream) (c : Nat) (r : PReg) (lat : Nat) (v : Option Row) : (t.latch c r lat v).mxq = t.mxq := by
  unfold Stream.latch; split <;> rfl
@[simp] theorem Stream.latch_stq (t : Stream) (c : Nat) (r : PReg) (lat : Nat) (v : Option Row) : (t.latch c r lat v).stq = t.stq := by
  unfold Stream.latch; split <;> rfl
@[simp] theorem Stream.latch_aq (t : Stream) (c : Nat) (r : PReg) (lat : Nat) (v : Option Row) : (t.latch c r lat v).aq = t.aq := by
  unfold Stream.latch; split <;> rfl
@[simp] theorem Stream.latch_counts (t : Stream) (c : Nat) (r : PReg) (lat : Nat) (v : Option Row) : (t.latch c r lat v).counts = t.counts := by
  unfold Stream.latch; split <;> rfl
@[simp] theorem Stream.latch_clocks (t : Stream) (c : Nat) (r : PReg) (lat : Nat) (v : Option Row) : (t.latch c r lat v).clocks = t.clocks := by
  unfold Stream.latch; split <;> rfl
@[simp] theorem Stream.latch_tokens (t : Stream) (c : Nat) (r : PReg) (lat : Nat) (v : Option Row) : (t.latch c r lat v).tokens = t.tokens := by
  unfold Stream.latch; split <;> rfl
@[simp] theorem Stream.latch_replies (t : Stream) (c : Nat) (r : PReg) (lat : Nat) (v : Option Row) : (t.latch c r lat v).replies = t.replies := by
  unfold Stream.latch; split <;> rfl
@[simp] theorem Stream.latch_region (t : Stream) (c : Nat) (r : PReg) (lat : Nat) (v : Option Row) : (t.latch c r lat v).region = t.region := by
  unfold Stream.latch; split <;> rfl
@[simp] theorem Stream.latch_charge (t : Stream) (c : Nat) (r : PReg) (lat : Nat) (v : Option Row) : (t.latch c r lat v).charge = t.charge := by
  unfold Stream.latch; split <;> rfl
@[simp] theorem Stream.latch_foot (t : Stream) (c : Nat) (r : PReg) (lat : Nat) (v : Option Row) : (t.latch c r lat v).foot = t.foot := by
  unfold Stream.latch; split <;> rfl
@[simp] theorem Stream.latch_ldChain (t : Stream) (c : Nat) (r : PReg) (lat : Nat) (v : Option Row) : (t.latch c r lat v).ldChain = t.ldChain := by
  unfold Stream.latch; split <;> rfl
@[simp] theorem Stream.latch_stChain (t : Stream) (c : Nat) (r : PReg) (lat : Nat) (v : Option Row) : (t.latch c r lat v).stChain = t.stChain := by
  unfold Stream.latch; split <;> rfl
@[simp] theorem Stream.latch_task (t : Stream) (c : Nat) (r : PReg) (lat : Nat) (v : Option Row) : (t.latch c r lat v).task = t.task := by
  unfold Stream.latch; split <;> rfl
@[simp] theorem Stream.latch_taken (t : Stream) (c : Nat) (r : PReg) (lat : Nat) (v : Option Row) : (t.latch c r lat v).taken = t.taken := by
  unfold Stream.latch; split <;> rfl
@[simp] theorem Stream.latch_idleAt (t : Stream) (c : Nat) (r : PReg) (lat : Nat) (v : Option Row) : (t.latch c r lat v).idleAt = t.idleAt := by
  unfold Stream.latch; split <;> rfl
@[simp] theorem Stream.latch_abandon (t : Stream) (c : Nat) (r : PReg) (lat : Nat) (v : Option Row) : (t.latch c r lat v).abandon = t.abandon := by
  unfold Stream.latch; split <;> rfl
@[simp] theorem Stream.latch_seg (t : Stream) (c : Nat) (r : PReg) (lat : Nat) (v : Option Row) : (t.latch c r lat v).seg = t.seg := by
  unfold Stream.latch; split <;> rfl
@[simp] theorem Stream.latch_pend (t : Stream) (c : Nat) (r : PReg) (lat : Nat) (v : Option Row) : (t.latch c r lat v).pend = t.pend := by
  unfold Stream.latch; split <;> rfl
@[simp] theorem Stream.latch_coreRec (t : Stream) (c : Nat) (r : PReg) (lat : Nat) (v : Option Row) : (t.latch c r lat v).coreRec = t.coreRec := by
  unfold Stream.latch; split <;> rfl
@[simp] theorem Stream.latch_waitRing (t : Stream) (c : Nat) (r : PReg) (lat : Nat) (v : Option Row) : (t.latch c r lat v).waitRing = t.waitRing := by
  unfold Stream.latch; split <;> rfl
@[simp] theorem Stream.latch_parkedBy (t : Stream) (c : Nat) (r : PReg) (lat : Nat) (v : Option Row) : (t.latch c r lat v).parkedBy = t.parkedBy := by
  unfold Stream.latch; split <;> rfl
@[simp] theorem Stream.latch_parkedIn (t : Stream) (c : Nat) (r : PReg) (lat : Nat) (v : Option Row) : (t.latch c r lat v).parkedIn = t.parkedIn := by
  unfold Stream.latch; split <;> rfl
@[simp] theorem Stream.latch_issuedAt (t : Stream) (c : Nat) (r : PReg) (lat : Nat) (v : Option Row) : (t.latch c r lat v).issuedAt = t.issuedAt := by
  unfold Stream.latch; split <;> rfl
@[simp] theorem Stream.latch_started (t : Stream) (c : Nat) (r : PReg) (lat : Nat) (v : Option Row) : (t.latch c r lat v).started = t.started := by
  unfold Stream.latch; split <;> rfl

/-! ## What a core or a stream reads as -/

/-- A changed core reads changed. -/
@[simp] theorem State.core_modCore_same (s : State) (c : Nat) (f : Core → Core) : (s.modCore c f).core c = f (s.core c) := by
  simp [State.core, State.modCore]
/-- The other cores stay. -/
theorem State.core_modCore_ne (s : State) (c d : Nat) (f : Core → Core) (h : d ≠ c) : (s.modCore c f).core d = s.core d := by
  simp [State.core, State.modCore, Tbl.get_mod_ne _ _ _ _ _ h]
/-- A changed stream of a core reads changed. -/
@[simp] theorem Core.stream_modStream_same (k : Core) (i : Nat) (f : Stream → Stream) :
    (k.modStream i f).stream i = f (k.stream i) := by
  simp [Core.stream, Core.modStream]
/-- The other streams of the core stay. -/
theorem Core.stream_modStream_ne (k : Core) (i j : Nat) (f : Stream → Stream) (h : j ≠ i) :
    (k.modStream i f).stream j = k.stream j := by
  simp [Core.stream, Core.modStream, Tbl.get_mod_ne _ _ _ _ _ h]
/-- A changed stream reads changed. -/
@[simp] theorem State.stream_modStream_same (s : State) (g : Nat) (f : Stream → Stream) :
    (s.modStream g f).stream g = f (s.stream g) := by
  simp [State.stream, State.modStream]
/-- The other streams stay. -/
theorem State.stream_modStream_ne (s : State) (g i : Nat) (f : Stream → Stream) (h : i ≠ g) :
    (s.modStream g f).stream i = s.stream i := by
  unfold State.stream State.modStream
  by_cases hc : i / 4 = g / 4
  · rw [hc, State.core_modCore_same]
    exact Core.stream_modStream_ne _ _ _ _ (by omega)
  · rw [State.core_modCore_ne _ _ _ _ hc]
/-- The issuing stream after its own change. -/
@[simp] theorem State.me_modMe (s : State) (f : Stream → Stream) : (s.modMe f).me = f s.me := by
  simp [State.me, State.modMe]
/-- The issuing core after its own change. -/
@[simp] theorem State.myCore_modMyCore (s : State) (f : Core → Core) : (s.modMyCore f).myCore = f s.myCore := by
  simp [State.myCore, State.modMyCore]
/-- A change of a stream leaves the launch of every core. -/
@[simp] theorem State.core_modStream_launch (s : State) (g c : Nat) (f : Stream → Stream) :
    ((s.modStream g f).core c).launch = (s.core c).launch := by
  unfold State.modStream
  by_cases h : c = g / 4
  · subst c; simp
  · rw [State.core_modCore_ne _ _ _ _ h]
/-- A change of a stream leaves the launch record of every core. -/
@[simp] theorem State.launchOf_modStream (s : State) (g c : Nat) (f : Stream → Stream) :
    (s.modStream g f).launchOf c = s.launchOf c := by
  simp [State.launchOf]
/-- The latent writes after one more. -/
theorem Stream.latch_latents (t : Stream) (c : Nat) (r : PReg) (lat : Nat) (v : Option Row) :
    (t.latch c r lat v).latents = if r.discards then t.latents else t.latents ++ [⟨r, v, c, c + lat⟩] := by
  unfold Stream.latch; split <;> rfl

end Sys2Proof.Machine
end

