-- ==== Sys2Proof/Laws/Issue.lean ====
section
/-! SUPPORT. Laws/Issue.lean: what the shared forms of issue come to: the LATENCY check, predication, and the wrappers of the scalar,
system, queue and vector forms. -/
namespace Sys2Proof.Machine

theorem Stream.windowOf_none {t : Stream} {c after : Nat} {r : PReg}
    (h : ∀ l ∈ t.latents, l.issued < c → l.reg = r → l.due ≤ after) : t.windowOf c after r = none := by
  simp only [Stream.windowOf, List.find?_eq_none]
  intro l hl
  have := h l hl
  simp only [Bool.and_eq_true, decide_eq_true_eq, not_and, not_lt]
  exact fun hr => this hr.2 hr.1

/-- No window fault where every window is open. -/
theorem State.windowFault_none {s : State} {rs : List PReg} {ws : List (PReg × Nat)}
    (h : s.me.expchk = true → s.windowsOpen rs ws) (word : Word) : s.me.windowFault s.cycle word rs ws = none := by
  unfold Stream.windowFault
  cases he : s.me.expchk with
  | false => rfl
  | true =>
    have hw := h he
    have h1 : rs.findSome? (fun r => s.me.windowOf s.cycle s.cycle r) = none := by
      rw [List.findSome?_eq_none_iff]
      exact fun r hr => Stream.windowOf_none (fun l hl hc e => (hw l hl hc).1 (e ▸ hr))
    have h2 : ws.findSome? (fun w => s.me.windowOf s.cycle (s.cycle + w.2) w.1) = none := by
      rw [List.findSome?_eq_none_iff]
      exact fun w hw' => Stream.windowOf_none (fun l hl hc e => (hw l hl hc).2 w hw' e.symm)
    simp [h1, h2]

theorem State.windowsOpen_mono {s : State} {rs rs' : List PReg} {ws ws' : List (PReg × Nat)} (h : s.windowsOpen rs ws)
    (h1 : ∀ r ∈ rs', r ∈ rs) (h2 : ∀ w ∈ ws', w ∈ ws) : s.windowsOpen rs' ws' :=
  fun l hl hc => ⟨fun hr => (h l hl hc).1 (h1 _ hr), fun w hw => (h l hl hc).2 w (h2 _ hw)⟩

/-- A word that is ready evaluates its body. -/
theorem State.slot_ready {s : State} {h : Hdr} {rs : List PReg} {ws : List (PReg × Nat)} (hr : s.ready h rs ws) (off body : Act) :
    s.slot h rs ws off body = body := by
  have h1 := State.windowFault_none (s := s) (rs := [s.me.qp h.qs]) (ws := [])
    (fun he => State.windowsOpen_mono (hr.2 he) (by simp) (by simp)) s.word
  have h2 := State.windowFault_none (s := s) (rs := rs) (ws := ws)
    (fun he => State.windowsOpen_mono (hr.2 he) (fun r h => List.mem_cons_of_mem _ h) (fun _ h => h)) s.word
  simp [State.slot, h1, h2, hr.1]

/-- A word that is predicated off evaluates what it does then. -/
theorem State.slot_off {s : State} {h : Hdr} (hr : s.off h) (rs : List PReg) (ws : List (PReg × Nat)) (off body : Act) :
    s.slot h rs ws off body = off := by
  have h1 := State.windowFault_none (s := s) (rs := [s.me.qp h.qs]) (ws := []) hr.2 s.word
  simp [State.slot, h1, hr.1]

/-- A word of the plain kind that is ready. -/
theorem State.plain_ready {s : State} {h : Hdr} {rs : List PReg} {ws : List (PReg × Nat)} (hr : s.ready h rs ws) (body : Act) :
    s.plain h rs ws body = body := State.slot_ready hr _ _
/-- A word of the plain kind that is predicated off has no effect. -/
theorem State.plain_off {s : State} {h : Hdr} (hr : s.off h) (rs : List PReg) (ws : List (PReg × Nat)) (body : Act) :
    s.plain h rs ws body = .go s := State.slot_off hr _ _ _ _
/-- A word that ignores its predicate. -/
theorem State.always_heedless {s : State} {h : Hdr} {rs : List PReg} (hr : s.heedless h rs) (body : Act) :
    s.always h rs body = body := by
  simp [State.always, State.windowFault_none hr s.word]

/-- The outcome of each answer of a meaning. -/
@[simp] theorem Act.done_go (s t : State) : (Act.go t).done s = .next { t with verdict := .issued } := rfl
@[simp] theorem Act.done_fault (s : State) (f : FaultInfo) : (Act.fault f).done s = .next (s.faultMe f) := rfl
@[simp] theorem Act.done_wait (s t : State) (b : Bool) : (Act.wait t b).done s = .next (t.holdMe b) := rfl

/-- A scalar form that is ready. -/
theorem State.alu_ready {s : State} {h : Hdr} {rs : List (BitVec 5)} {sd : BitVec 5} {lat : Nat} {v : Word}
    (hr : s.ready h (rs.map s.me.sp) [(s.me.sp sd, lat)]) :
    s.alu h rs sd lat v = .go (s.latch (s.me.sp sd) lat (v.setWidth 512)) := by
  simp only [State.alu]; exact State.plain_ready hr _

/-- A predicate form that is ready. -/
theorem State.setQ_ready {s : State} {h : Hdr} {rs : List PReg} {qd : BitVec 3} {v : Bool}
    (hr : s.ready h rs [(s.me.qp qd, 1)]) : s.setQ h rs qd v = .go (s.latch (s.me.qp qd) 1 (boolRow v)) := by
  simp only [State.setQ]; exact State.plain_ready hr _

/-- A race charged to no stream lets a synchronisation operation issue. -/
theorem State.sync_none {s : State} (h : s.me.charge = none) (a : Act) : s.sync a = a := by simp [State.sync, h]

end Sys2Proof.Machine
end

