-- ==== Sys2Proof/Laws/Frame.lean ====
section
/-! SUPPORT. Laws/Frame.lean: changes of the issuing stream and core composed, and what a change of the issuing stream leaves alone. -/
namespace Sys2Proof.Machine

theorem Tbl.putIn_putIn {α : Type} (l : List (Nat × α)) (k : Nat) (a b : α) : Tbl.putIn (Tbl.putIn l k a) k b = Tbl.putIn l k b := by
  induction l with
  | nil => simp [Tbl.putIn]
  | cons e r ih =>
    obtain ⟨x, y⟩ := e
    simp only [Tbl.putIn]
    split
    · simp [Tbl.putIn]
    · split
      · simp [Tbl.putIn]
      · simp [Tbl.putIn, *]

/-- An entry put twice holds the second. -/
@[simp] theorem Tbl.put_put {α : Type} (t : Tbl α) (k : Nat) (a b : α) : (t.put k a).put k b = t.put k b := by
  simp only [Tbl.put, Tbl.putIn_putIn]
/-- An entry changed twice. -/
@[simp] theorem Tbl.mod_mod {α : Type} (t : Tbl α) (d : α) (k : Nat) (f g : α → α) :
    (t.mod d k f).mod d k g = t.mod d k (fun x => g (f x)) := by
  simp only [Tbl.mod, Tbl.get_put_same, Tbl.put_put]

/-- A core changed twice. -/
@[simp] theorem State.modCore_modCore (s : State) (c : Nat) (f g : Core → Core) :
    (s.modCore c f).modCore c g = s.modCore c (fun x => g (f x)) := by
  simp only [State.modCore, Tbl.mod_mod]
/-- A stream of a core changed twice. -/
@[simp] theorem Core.modStream_modStream (k : Core) (i : Nat) (f g : Stream → Stream) :
    (k.modStream i f).modStream i g = k.modStream i (fun x => g (f x)) := by
  simp only [Core.modStream, Tbl.mod_mod]
/-- A stream changed twice. -/
@[simp] theorem State.modStream_modStream (s : State) (g : Nat) (f h : Stream → Stream) :
    (s.modStream g f).modStream g h = s.modStream g (fun x => h (f x)) := by
  simp only [State.modStream, State.modCore_modCore, Core.modStream_modStream]
/-- The issuing stream changed twice. -/
@[simp] theorem State.modMe_modMe (s : State) (f g : Stream → Stream) : (s.modMe f).modMe g = s.modMe (fun x => g (f x)) :=
  State.modStream_modStream _ _ _ _
/-- The issuing core changed twice. -/
@[simp] theorem State.modMyCore_modMyCore (s : State) (f g : Core → Core) :
    (s.modMyCore f).modMyCore g = s.modMyCore (fun x => g (f x)) := State.modCore_modCore _ _ _ _

/-- Changing core `c` leaves the streams of every other core. -/
theorem State.stream_modCore_ne (s : State) (c g : Nat) (f : Core → Core) (h : g / 4 ≠ c) : (s.modCore c f).stream g = s.stream g := by
  simp only [State.stream, State.core_modCore_ne _ _ _ _ h]
/-- Changing a core without its streams leaves every stream. -/
theorem State.stream_modCore (s : State) (c g : Nat) (f : Core → Core) (h : ∀ k : Core, (f k).streams = k.streams) :
    (s.modCore c f).stream g = s.stream g := by
  by_cases e : g / 4 = c
  · subst e; simp [State.stream, Core.stream, h]
  · exact State.stream_modCore_ne _ _ _ _ e

/-- A change of the issuing stream changes nothing else. -/
theorem OnlyMe.modMe (s : State) (f : Stream → Stream) : OnlyMe s { s.modMe f with verdict := .issued } := by
  refine ⟨?_, ?_, ?_, ?_⟩
  · intro g hg
    exact State.stream_modStream_ne s s.cur g f hg
  · intro c hc
    exact State.core_modCore_ne s _ c _ hc
  · show ({ (s.modMe f).core (s.cur/4) with streams := .empty } : Core) = _
    simp [State.modMe, State.modStream, State.core, State.modCore, Core.modStream, State.myCore]
  · simp [State.modMe, State.modStream, State.modCore]

/-- A word that issues and changes the issuing stream alone leaves it as the change says. -/
theorem Leaves.of {i : Instr} {s : State} {f : Stream → Stream} {x : Stream} (h : exec i s = .next { s.modMe f with verdict := .issued })
    (hx : f s.me = x) : Leaves i s x :=
  ⟨_, h, rfl, hx ▸ State.stream_modStream_same s s.cur f, OnlyMe.modMe _ _⟩

/-- Bits 63:48 of an address are zero exactly below 2^48. -/
theorem high_eq_zero_iff (a : Word) : a.extractLsb' 48 16 = 0 ↔ a.toNat < 2 ^ 48 := by
  constructor
  · intro h
    have := congrArg BitVec.toNat h
    simp [BitVec.extractLsb'_toNat, Nat.shiftRight_eq_div_pow] at this
    have := a.isLt; omega
  · intro h
    apply BitVec.eq_of_toNat_eq
    simp [BitVec.extractLsb'_toNat, Nat.shiftRight_eq_div_pow]; omega

end Sys2Proof.Machine
end

