-- ==== Sys2Proof/Laws/Memory.lean ====
section
/-! SUPPORT. Laws/Memory.lean: memory keeps its canonical form under every write, and reads what was written. -/
namespace Sys2Proof.Machine

/-- Every address listed lies above `k`. -/
def Memory.above (m : List Host.Cell) (k : Nat) : Prop := ∀ c ∈ m, k < c.1

/-- The canonical form of a list with a head. -/
theorem Memory.wf_cons (a : Nat) (b : Byte) (r : List Host.Cell) :
    Memory.wf ((a, b) :: r) = true ↔ b ≠ 0 ∧ Memory.above r a ∧ Memory.wf r = true := by
  induction r generalizing a b with
  | nil => simp [Memory.wf, Memory.above]
  | cons d r ih =>
    obtain ⟨a', b'⟩ := d
    rw [Memory.wf]
    simp only [Bool.and_eq_true, bne_iff_ne, decide_eq_true_eq, ih]
    constructor
    · rintro ⟨⟨h1, h2⟩, h3, h4, h5⟩
      refine ⟨h1, ?_, h3, h4, h5⟩
      intro c hc
      rcases List.mem_cons.1 hc with rfl | hc
      · exact h2
      · exact lt_trans h2 (h4 c hc)
    · rintro ⟨h1, h2, h3, h4, h5⟩
      exact ⟨⟨h1, h2 (a', b') (by simp)⟩, h3, h4, h5⟩

theorem Memory.above_set (m : List Host.Cell) (k j : Nat) (v : Byte) (h : Memory.above m j) (hk : j < k) :
    Memory.above (Memory.set m k v) j := by
  induction m with
  | nil =>
    simp only [Memory.set]
    split <;> intro c hc
    · cases hc
    · rcases List.mem_singleton.1 hc with rfl; exact hk
  | cons e r ih =>
    obtain ⟨a, b⟩ := e
    have hr : Memory.above r j := fun c hc => h c (List.mem_cons_of_mem _ hc)
    have ha : j < a := h (a, b) (by simp)
    simp only [Memory.set]
    split
    · split
      · exact h
      · intro c hc
        rcases List.mem_cons.1 hc with rfl | hc
        · exact hk
        · exact h c hc
    · split
      · split
        · exact hr
        · intro c hc
          rcases List.mem_cons.1 hc with rfl | hc
          · exact hk
          · exact hr c hc
      · intro c hc
        rcases List.mem_cons.1 hc with rfl | hc
        · exact ha
        · exact ih hr c hc

/-- A write of one byte keeps the canonical form. -/
theorem Memory.wf_set (m : List Host.Cell) (k : Nat) (v : Byte) (h : Memory.wf m = true) :
    Memory.wf (Memory.set m k v) = true := by
  induction m with
  | nil =>
    simp only [Memory.set]
    split
    · rfl
    · simpa [Memory.wf] using ‹_›
  | cons e r ih =>
    obtain ⟨a, b⟩ := e
    obtain ⟨hb, ha, hr⟩ := (Memory.wf_cons a b r).1 h
    simp only [Memory.set]
    split
    · split
      · exact h
      · refine (Memory.wf_cons _ _ _).2 ⟨‹_›, ?_, h⟩
        intro c hc
        rcases List.mem_cons.1 hc with rfl | hc
        · assumption
        · exact lt_trans ‹_› (ha c hc)
    · split
      · subst a
        split
        · exact hr
        · exact (Memory.wf_cons _ _ _).2 ⟨‹_›, ha, hr⟩
      · exact (Memory.wf_cons _ _ _).2 ⟨hb, Memory.above_set r k a v ha (by omega), ih hr⟩

theorem Memory.get_of_above (m : List Host.Cell) (k : Nat) (h : Memory.above m k) : Memory.get m k = 0 := by
  cases m with
  | nil => rfl
  | cons e r =>
    obtain ⟨a, b⟩ := e
    have ha : k < a := h (a, b) (by simp)
    simp only [Memory.get]
    rw [if_neg (by omega), if_pos ha]

/-- A byte reads as it was written, and the others as before. -/
theorem Memory.get_set (m : List Host.Cell) (k j : Nat) (v : Byte) (h : Memory.wf m = true) :
    Memory.get (Memory.set m k v) j = if j = k then v else Memory.get m j := by
  induction m with
  | nil =>
    simp only [Memory.set]
    by_cases hv : v = 0
    · subst hv; simp [Memory.get]
    · rw [if_neg hv]
      by_cases hj : j = k
      · simp [Memory.get, hj]
      · simp [Memory.get, hj, Ne.symm hj]
  | cons e r ih =>
    obtain ⟨a, b⟩ := e
    obtain ⟨hb, ha, hr⟩ := (Memory.wf_cons a b r).1 h
    simp only [Memory.set]
    by_cases h1 : k < a
    · rw [if_pos h1]
      by_cases hv : v = 0
      · rw [if_pos hv]
        split
        · subst j; subst hv
          simp only [Memory.get]
          rw [if_neg (by omega), if_pos h1]
        · rfl
      · rw [if_neg hv]
        by_cases hj : j = k
        · simp [Memory.get, hj]
        · rw [if_neg hj, Memory.get, if_neg (Ne.symm hj)]
          split
          · rw [Memory.get, if_neg (by omega), if_pos (by omega)]
          · rfl
    · rw [if_neg h1]
      by_cases h2 : a = k
      · subst a
        rw [if_pos rfl]
        by_cases hv : v = 0
        · rw [if_pos hv]
          by_cases hj : j = k
          · subst j; subst hv
            rw [if_pos rfl]; exact Memory.get_of_above r k ha
          · rw [if_neg hj]
            simp only [Memory.get, if_neg (Ne.symm hj)]
            split
            · exact Memory.get_of_above r j (fun c hc => lt_trans ‹_› (ha c hc))
            · rfl
        · rw [if_neg hv]
          by_cases hj : j = k
          · simp [Memory.get, hj]
          · simp only [Memory.get, if_neg (Ne.symm hj), if_neg hj]
      · rw [if_neg h2]
        by_cases h3 : a = j
        · simp only [Memory.get, if_pos h3]
          rw [if_neg (by omega)]
        · simp only [Memory.get, if_neg h3]
          by_cases h4 : j < a
          · rw [if_pos h4, if_pos h4, if_neg (by omega)]
          · rw [if_neg h4, if_neg h4, ih hr]

/-- A write of several bytes keeps the canonical form. -/
theorem Memory.wf_setNat (m : List Host.Cell) (a n v : Nat) (h : Memory.wf m = true) :
    Memory.wf (Memory.setNat m a n v) = true := by
  induction n generalizing m a v with
  | zero => exact h
  | succ n ih => exact ih _ _ _ (Memory.wf_set _ _ _ h)

/-- A byte after a write of several: the byte of the value within the write, and the byte before it elsewhere. -/
theorem Memory.get_setNat (m : List Host.Cell) (a n v j : Nat) (h : Memory.wf m = true) :
    Memory.get (Memory.setNat m a n v) j =
      if a ≤ j ∧ j < a + n then BitVec.ofNat 8 (v / 256 ^ (j - a)) else Memory.get m j := by
  induction n generalizing m a v with
  | zero => rw [if_neg (by omega)]; rfl
  | succ n ih =>
    rw [Memory.setNat, ih _ _ _ (Memory.wf_set _ _ _ h), Memory.get_set _ _ _ _ h]
    by_cases h1 : j = a
    · subst j
      rw [if_neg (by omega), if_pos rfl, if_pos (by omega)]
      simp
    · rw [if_neg h1]
      by_cases h2 : a + 1 ≤ j ∧ j < a + 1 + n
      · rw [if_pos h2, if_pos (by omega), Nat.div_div_eq_div_mul, ← Nat.pow_succ',
          show (j - (a + 1)).succ = j - a by omega]
      · rw [if_neg h2, if_neg (by omega)]

/-- What a write of `n` bytes stores reads back. -/
theorem Memory.getNat_setNat_same (m : List Host.Cell) (a n v : Nat) (h : Memory.wf m = true) :
    Memory.getNat (Memory.setNat m a n v) a n = v % 256 ^ n := by
  have key : ∀ k b, b + k ≤ a + n → a ≤ b →
      Memory.getNat (Memory.setNat m a n v) b k = v / 256 ^ (b - a) % 256 ^ k := by
    intro k
    induction k with
    | zero => intro b _ _; simp [Memory.getNat, Nat.mod_one]
    | succ k ih =>
      intro b h1 h2
      rw [Memory.getNat, Memory.get_setNat _ _ _ _ _ h, if_pos (by omega), ih (b + 1) (by omega) (by omega)]
      rw [show b + 1 - a = (b - a) + 1 by omega, pow_succ, ← Nat.div_div_eq_div_mul, pow_succ, Nat.mul_comm (256 ^ k) 256,
        Nat.mod_mul]
      simp
  simpa using key n a (by omega) (by omega)

/-- A read of bytes that a write does not touch gives what it gave before. -/
theorem Memory.getNat_setNat_apart (m : List Host.Cell) (a n v b k : Nat) (h : Memory.wf m = true)
    (hd : b + k ≤ a ∨ a + n ≤ b) : Memory.getNat (Memory.setNat m a n v) b k = Memory.getNat m b k := by
  induction k generalizing b with
  | zero => rfl
  | succ k ih =>
    rw [Memory.getNat, Memory.getNat, Memory.get_setNat _ _ _ _ _ h, if_neg (by omega), ih (b + 1) (by omega)]

/-- The empty memory is canonical. -/
theorem Memory.wf_nil : Memory.wf [] = true := rfl

/-- Clearing the bytes of a list keeps the canonical form. -/
theorem Memory.wf_foldl_set (l : List Host.Cell) (g : Host.Cell → Nat × Byte) (m : List Host.Cell) (h : Memory.wf m = true) :
    Memory.wf (l.foldl (fun m c => Memory.set m (g c).1 (g c).2) m) = true := by
  induction l generalizing m with
  | nil => exact h
  | cons c r ih => exact ih _ (Memory.wf_set _ _ _ h)

end Sys2Proof.Machine
end

