-- ==== Sys2Proof/Laws/Image.lean ====
section
/-! SUPPORT. Laws/Image.lean: what the image of a core is as memory: canonical, with the header of R385 in front and every field inside the save
area (R384), and what writing it at an area does. -/
namespace Sys2Proof.Machine

/-- A value of the field stands below `n` and at or above byte `lo`. -/
def Field.Within (f : Field) (lo n : Nat) : Prop := lo ≤ f.base ∧ ∀ i < f.count, f.base + f.stride * i + f.bytes ≤ n

/-- What a saved field writes lies within it. -/
theorem Field.save_spec (f : Field) (k : Core) (lo n : Nat) (hf : f.Within lo n) (m : List Host.Cell) (h : Memory.wf m = true) :
    Memory.wf (f.save k m) = true ∧ ∀ a, a < lo ∨ n ≤ a → Memory.get (f.save k m) a = Memory.get m a := by
  unfold Field.save
  have key : ∀ l : List Nat, (∀ i ∈ l, i < f.count) → ∀ m : List Host.Cell, Memory.wf m = true →
      Memory.wf (l.foldl (fun m i => if f.get k i = 0 then m else Memory.setNat m (f.base + f.stride * i) f.bytes (f.get k i)) m) = true ∧
      ∀ a, a < lo ∨ n ≤ a →
        Memory.get (l.foldl (fun m i => if f.get k i = 0 then m else Memory.setNat m (f.base + f.stride * i) f.bytes (f.get k i)) m) a
          = Memory.get m a := by
    intro l
    induction l with
    | nil => exact fun _ m h => ⟨h, fun _ _ => rfl⟩
    | cons i l ih =>
      intro hl m h
      rw [List.foldl_cons]
      by_cases hv : f.get k i = 0
      · rw [if_pos hv]; exact ih (fun j hj => hl j (List.mem_cons_of_mem _ hj)) m h
      · rw [if_neg hv]
        obtain ⟨h1, h2⟩ := ih (fun j hj => hl j (List.mem_cons_of_mem _ hj)) _ (Memory.wf_setNat m (f.base + f.stride * i) f.bytes (f.get k i) h)
        refine ⟨h1, fun a ha => (h2 a ha).trans ?_⟩
        have := hf.2 i (hl i (List.mem_cons_self))
        have := hf.1
        rw [Memory.get_setNat _ _ _ _ _ h, if_neg]
        rintro ⟨_, _⟩; omega
  exact key _ (fun i hi => List.mem_range.1 hi) m h

/-- The field's own bound. -/
def Field.Fits (f : Field) : Prop := 72 ≤ f.base ∧ f.base + f.stride * (f.count - 1) + f.bytes ≤ areaSize

theorem Field.Fits.within {f : Field} (h : f.Fits) : f.Within 72 areaSize := by
  refine ⟨h.1, fun i hi => ?_⟩
  have : f.stride * i ≤ f.stride * (f.count - 1) := Nat.mul_le_mul_left _ (by omega)
  have := h.2
  omega

theorem Field.fits_mk {b st n w : Nat} {g : Core → Nat → Nat} {p : Core → Nat → Nat → Core} (h1 : 72 ≤ b) (h2 : b + st * (n - 1) + w ≤ areaSize) :
    Field.Fits ⟨b, st, n, w, g, p⟩ := ⟨h1, h2⟩

theorem streamField_fits {s off w : Nat} {g : Stream → Nat} {p : Stream → Nat → Stream} (hs : s < 4) (h : off + w ≤ 0x2000) :
    (streamField s off w g p).Fits := Field.fits_mk (by omega) (by unfold areaSize; omega)

theorem streamArray_fits {s off st n w : Nat} {g : Stream → Nat → Nat} {p : Stream → Nat → Nat → Stream} (hs : s < 4)
    (h : off + st * (n - 1) + w ≤ 0x2000) : (streamArray s off st n w g p).Fits := Field.fits_mk (by omega) (by unfold areaSize; omega)

theorem streamFields_fit (x s : Nat) (hs : s < 4) : ∀ f ∈ streamFields x s, f.Fits := by
  unfold streamFields
  simp only [List.forall_mem_cons, List.not_mem_nil, false_implies, implies_true, and_true]
  iterate 12 refine ⟨streamField_fits hs (by omega), ?_⟩
  iterate 5 refine ⟨streamArray_fits hs (by omega), ?_⟩
  exact streamArray_fits hs (by omega)

theorem queueFields_fit (x c s : Nat) (hs : s < 4) : ∀ f ∈ queueFields x c s, f.Fits := by
  unfold queueFields
  simp only [List.forall_mem_cons, List.not_mem_nil, false_implies, implies_true, and_true]
  iterate 8 refine ⟨Field.fits_mk (by omega) (by unfold areaSize; omega), ?_⟩
  exact streamField_fits hs (by omega)

theorem pendingFields_fit (x t : Nat) (ht : t < 64) : ∀ f ∈ pendingFields x t, f.Fits := by
  unfold pendingFields
  simp only [List.forall_mem_cons, List.not_mem_nil, false_implies, implies_true, and_true]
  exact ⟨Field.fits_mk (by omega) (by unfold areaSize; omega), Field.fits_mk (by omega) (by unfold areaSize; omega)⟩

theorem slabFields_fit (c : Nat) : ∀ f ∈ slabFields c, f.Fits := by
  unfold slabFields
  simp only [List.forall_mem_flatMap, List.forall_mem_cons, List.not_mem_nil, false_implies, implies_true, and_true, List.mem_range]
  intro n hn
  refine ⟨?_, ?_, ?_⟩
  all_goals exact Field.fits_mk (by omega) (by unfold areaSize; omega)

theorem bulkFields_fit : ∀ f ∈ bulkFields, f.Fits := by
  unfold bulkFields
  simp only [List.forall_mem_append, List.forall_mem_flatMap, List.forall_mem_cons, List.not_mem_nil, false_implies, implies_true, and_true,
    List.mem_range]
  refine ⟨⟨?_, ?_, ?_⟩, fun n hn => ⟨⟨⟨?_, ?_⟩, ?_, ?_⟩, ?_, ?_⟩⟩
  all_goals exact Field.fits_mk (by omega) (by unfold areaSize; omega)

/-- The fields of an image lie between the header and the end of the save area. -/
theorem imageFields_fit (c x : Nat) : ∀ f ∈ imageFields c x, f.Fits := by
  unfold imageFields loadFields
  simp only [List.forall_mem_append, List.forall_mem_flatMap, List.mem_range]
  have quarter {p : Nat → Prop} (h : ∀ s < 4, p s) : ∀ s ∈ [0, 1, 2, 3], p s := fun s hs => h s (by simp at hs; omega)
  refine ⟨⟨⟨⟨⟨⟨⟨?_, ?_⟩, ?_⟩, ?_⟩, ?_⟩, ?_⟩, fun t ht => pendingFields_fit x t ht⟩, bulkFields_fit⟩
  · exact quarter fun s hs => List.forall_mem_cons.2 ⟨streamField_fits hs (by omega), streamFields_fit x s hs⟩
  · unfold ringFields
    simp only [List.forall_mem_cons, List.not_mem_nil, false_implies, implies_true, and_true]
    exact ⟨Field.fits_mk (by omega) (by unfold areaSize; omega), Field.fits_mk (by omega) (by unfold areaSize; omega)⟩
  · unfold tileFields
    simp only [List.forall_mem_cons, List.not_mem_nil, false_implies, implies_true, and_true]
    exact ⟨Field.fits_mk (by omega) (by unfold areaSize; omega), Field.fits_mk (by omega) (by unfold areaSize; omega),
      Field.fits_mk (by omega) (by unfold areaSize; omega)⟩
  · exact slabFields_fit c
  · unfold spFields
    simp only [List.forall_mem_cons, List.not_mem_nil, false_implies, implies_true, and_true]
    exact ⟨Field.fits_mk (by omega) (by unfold areaSize; omega), Field.fits_mk (by omega) (by unfold areaSize; omega),
      Field.fits_mk (by omega) (by unfold areaSize; omega)⟩
  · exact quarter fun s hs => queueFields_fit x c s hs

/-- Fields saved over an image change nothing outside them. -/
theorem saved_spec (k : Core) (fs : List Field) (hf : ∀ f ∈ fs, f.Fits) (m : List Host.Cell) (h : Memory.wf m = true) :
    Memory.wf (fs.foldl (fun m f => f.save k m) m) = true
    ∧ ∀ a, a < 72 ∨ areaSize ≤ a → Memory.get (fs.foldl (fun m f => f.save k m) m) a = Memory.get m a := by
  induction fs generalizing m with
  | nil => exact ⟨h, fun _ _ => rfl⟩
  | cons f fs ih =>
    obtain ⟨h1, h2⟩ := f.save_spec k 72 areaSize (hf f List.mem_cons_self).within m h
    obtain ⟨h3, h4⟩ := ih (fun g hg => hf g (List.mem_cons_of_mem _ hg)) _ h1
    exact ⟨h3, fun a ha => (h4 a ha).trans (h2 a ha)⟩

/-- Reading bytes that two memories share gives one number. -/
theorem Memory.getNat_congr {m w : List Host.Cell} (a n : Nat) (h : ∀ j, a ≤ j → j < a + n → Memory.get m j = Memory.get w j) :
    Memory.getNat m a n = Memory.getNat w a n := by
  induction n generalizing a with
  | zero => rfl
  | succ n ih => rw [Memory.getNat, Memory.getNat, h a le_rfl (by omega), ih (a + 1) (fun j h1 h2 => h j (by omega) (by omega))]

/-- The image of a core: canonical, inside its area, and with the header of R385 in front. -/
theorem image_spec (s : State) (c : Nat) (k : Core) :
    Memory.wf (s.image c k) = true ∧ (∀ a, areaSize ≤ a → Memory.get (s.image c k) a = 0)
    ∧ ∀ i < 9, Memory.getNat (s.image c k) (8 * i) 8 = s.header c k true i % 2 ^ 64 := by
  have head : ∀ n, let m := (List.range n).foldl (fun m i => Memory.setNat m (8 * i) 8 (s.header c k true i)) []
      Memory.wf m = true ∧ (∀ a, 8 * n ≤ a → Memory.get m a = 0)
      ∧ ∀ i < n, Memory.getNat m (8 * i) 8 = s.header c k true i % 2 ^ 64 := by
    intro n
    induction n with
    | zero => exact ⟨rfl, fun _ _ => rfl, fun i hi => absurd hi (by omega)⟩
    | succ n ih =>
      obtain ⟨h1, h2, h3⟩ := ih
      simp only [List.range_succ, List.foldl_append, List.foldl_cons, List.foldl_nil]
      refine ⟨Memory.wf_setNat _ _ _ _ h1, fun a ha => ?_, fun i hi => ?_⟩
      · rw [Memory.get_setNat _ _ _ _ _ h1, if_neg (by omega)]; exact h2 a (by omega)
      · by_cases hn : i = n
        · subst hn; rw [Memory.getNat_setNat_same _ _ _ _ h1]; rfl
        · rw [Memory.getNat_setNat_apart _ _ _ _ _ _ h1 (by omega)]; exact h3 i (by omega)
  obtain ⟨h1, h2, h3⟩ := head 9
  obtain ⟨h4, h5⟩ := saved_spec k _ (imageFields_fit c k.stopCyc.toNat) _ h1
  refine ⟨h4, fun a ha => (h5 a (.inr ha)).trans (h2 a (by unfold areaSize at ha; omega)), fun i hi => ?_⟩
  rw [← h3 i hi]
  exact Memory.getNat_congr _ _ fun j h6 h7 => h5 j (.inl (by omega))

/-- Bytes written one by one from a list in which each address stands once. -/
theorem Memory.get_foldl_set (img m : List Host.Cell) (pa a : Nat) (hi : Memory.wf img = true) (h : Memory.wf m = true) :
    Memory.get (img.foldl (fun m c => Memory.set m (pa + c.1) c.2) m) a
      = if ∃ c ∈ img, pa + c.1 = a then Memory.get img (a - pa) else Memory.get m a := by
  induction img generalizing m with
  | nil => simp
  | cons c r ih =>
    obtain ⟨j, b⟩ := c
    obtain ⟨-, h2, h3⟩ := (Memory.wf_cons j b r).1 hi
    rw [List.foldl_cons, ih _ h3 (Memory.wf_set _ _ _ h), Memory.get_set _ _ _ _ h]
    by_cases ha : ∃ c ∈ r, pa + c.1 = a
    · obtain ⟨d, hd, rfl⟩ := ha
      have := h2 d hd
      rw [if_pos ⟨d, hd, rfl⟩, if_pos ⟨d, List.mem_cons_of_mem _ hd, rfl⟩, Memory.get, if_neg (by omega), if_neg (by omega)]
    · rw [if_neg ha]
      by_cases hj : a = pa + j
      · subst hj
        rw [if_pos rfl, if_pos ⟨(j, b), List.mem_cons_self, rfl⟩, Memory.get, if_pos (by omega)]
      · rw [if_neg hj, if_neg]
        rintro ⟨d, hd, rfl⟩
        rcases List.mem_cons.1 hd with rfl | hd
        · exact hj rfl
        · exact ha ⟨d, hd, rfl⟩

/-- A byte that a canonical list does not mention reads as zero. -/
theorem Memory.get_unlisted (m : List Host.Cell) (a : Nat) (h : ∀ c ∈ m, c.1 ≠ a) : Memory.get m a = 0 := by
  induction m with
  | nil => rfl
  | cons c r ih =>
    rw [Memory.get, if_neg (h c List.mem_cons_self)]
    split
    · rfl
    · exact ih fun d hd => h d (List.mem_cons_of_mem _ hd)

/-- Addresses cleared one by one. -/
theorem Memory.get_foldl_clear (l m : List Host.Cell) (a : Nat) (h : Memory.wf m = true) :
    Memory.get (l.foldl (fun m c => Memory.set m c.1 0) m) a = if ∃ c ∈ l, c.1 = a then 0 else Memory.get m a := by
  induction l generalizing m with
  | nil => simp
  | cons c r ih =>
    rw [List.foldl_cons, ih _ (Memory.wf_set _ _ _ h), Memory.get_set _ _ _ _ h]
    by_cases ha : ∃ c ∈ r, c.1 = a
    · obtain ⟨d, hd, rfl⟩ := ha
      rw [if_pos ⟨d, hd, rfl⟩, if_pos ⟨d, List.mem_cons_of_mem _ hd, rfl⟩]
    · rw [if_neg ha]
      by_cases hc : a = c.1
      · subst hc; rw [if_pos rfl, if_pos ⟨c, List.mem_cons_self, rfl⟩]
      · rw [if_neg hc, if_neg]
        rintro ⟨d, hd, rfl⟩
        rcases List.mem_cons.1 hd with rfl | hd
        · exact hc rfl
        · exact ha ⟨d, hd, rfl⟩

/-- An image written at an area: the bytes of the area are those of the image, and every other byte stays. -/
theorem State.putImage_get (s : State) (pa n : Nat) (img : List Host.Cell) (h : Memory.wf s.mem = true) (hi : Memory.wf img = true)
    (hn : ∀ a, n ≤ a → Memory.get img a = 0) (a : Nat) :
    Memory.get (s.putImage pa n img).mem a = if pa ≤ a ∧ a < pa + n then Memory.get img (a - pa) else Memory.get s.mem a := by
  have hz : ∀ (m : List Host.Cell) c, Memory.wf m = true → c ∈ m → Memory.get m c.1 = c.2 ∧ c.2 ≠ 0 := by
    intro m
    induction m with
    | nil => intro c _ hc; cases hc
    | cons d r ih =>
      intro c hw hc
      obtain ⟨h1, h2, h3⟩ := (Memory.wf_cons d.1 d.2 r).1 hw
      rcases List.mem_cons.1 hc with rfl | hc
      · exact ⟨by rw [Memory.get, if_pos rfl], h1⟩
      · have := h2 c hc
        rw [Memory.get, if_neg (by omega), if_neg (by omega)]
        exact ih c h3 hc
  unfold State.putImage
  simp only
  rw [Memory.get_foldl_set _ _ _ _ hi (Memory.wf_foldl_set _ (fun c => (c.1, 0)) _ h), Memory.get_foldl_clear _ _ _ h]
  by_cases ha : pa ≤ a ∧ a < pa + n
  · rw [if_pos ha]
    split
    · rfl
    · rename_i hno
      have h0 : Memory.get img (a - pa) = 0 := Memory.get_unlisted _ _ fun c hc he => hno ⟨c, hc, by omega⟩
      rw [h0]
      split
      · rfl
      · rename_i hm
        refine Memory.get_unlisted _ _ fun c hc he => hm ⟨c, List.mem_filter.2 ⟨hc, ?_⟩, he⟩
        simp only [he, decide_eq_true_eq]; exact ha
  · rw [if_neg ha, if_neg, if_neg]
    · rintro ⟨c, hc, rfl⟩
      exact ha (of_decide_eq_true (List.mem_filter.1 hc).2)
    · rintro ⟨c, hc, rfl⟩
      obtain ⟨h1, h2⟩ := hz img c hi hc
      by_cases hb : n ≤ c.1
      · exact h2 (h1 ▸ hn _ hb)
      · exact ha ⟨by omega, by omega⟩

end Sys2Proof.Machine
end

