-- ==== Sys2Proof/Laws/PerInstr.lean ====
section
/-! SUPPORT. Laws/PerInstr.lean: decoding the word of a well-formed instruction gives it back, one lemma for each constructor (R45 to
R74). -/
namespace Sys2Proof.Laws.RoundTrip
set_option Elab.async false

/-- The word of a well-formed instruction decodes to it; an event has no word. -/
def Statement (i : Instr) : Prop := i.isEvent = false → i.wf = true → decode (encode i) = .ok i

/-! ## Fields of a word -/

theorem self {w : Nat} {x : BitVec w} : x.extractLsb' 0 w = x := BitVec.extractLsb'_eq_self

theorem up {a b s n : Nat} {x : BitVec a} {y : BitVec b} {v : BitVec n} (e : x.extractLsb' (s - b) n = v) (h : b ≤ s := by decide) :
    (x ++ y).extractLsb' s n = v := (BitVec.extractLsb'_append_eq_of_le h).trans e

theorem dn {a b s n : Nat} {x : BitVec a} {y : BitVec b} {v : BitVec n} (e : y.extractLsb' s n = v) (h : s + n ≤ b := by decide) :
    (x ++ y).extractLsb' s n = v := (BitVec.extractLsb'_append_eq_of_add_le h).trans e

variable {op : BitVec 8} {h : Hdr} {b : BitVec 51}

theorem bd {s n : Nat} {v : BitVec n} (e : b.extractLsb' s n = v) (hs : s + n ≤ 51 := by decide) : (wordOf op h b).extractLsb' s n = v :=
  dn e (Nat.le_trans hs (by decide))

theorem op_word : (wordOf op h b).extractLsb' 56 8 = op :=
  up (up (up (up self)))

theorem hdr_word : hdr (wordOf op h b) = h :=
  (Hdr.mk.injEq ..).mpr ⟨up (up (up (dn self))), up (up (dn self)), up (dn self)⟩

/-- The mask of these fields: lowest bit and width. -/
def maskOf : List (Nat × Nat) → Word
  | [] => 0
  | p :: r => (BitVec.ofNat 64 (2 ^ p.2 - 1) <<< p.1) ||| maskOf r

/-- These fields of a body are zero. -/
def zeros (b : BitVec 51) : List (Nat × Nat) → Prop
  | [] => True
  | p :: r => (p.1 + p.2 ≤ 51 ∧ b.extractLsb' p.1 p.2 = 0) ∧ zeros b r

theorem and_field (w : Word) (s n : Nat) (e : w.extractLsb' s n = 0) : w &&& (BitVec.ofNat 64 (2 ^ n - 1) <<< s) = 0 := by
  apply BitVec.eq_of_getLsbD_eq
  intro i hi
  have := congrArg (fun v => v.getLsbD (i - s)) e
  simp only [BitVec.getLsbD_extractLsb'] at this
  simp only [BitVec.getLsbD_and, BitVec.getLsbD_shiftLeft, BitVec.getLsbD_ofNat, Nat.testBit_two_pow_sub_one]
  by_cases hs : i < s
  · simp [hs]
  · by_cases hn : i - s < n
    · rw [show s + (i - s) = i by omega] at this
      simp [hn] at this
      simp [this]
    · simp [hn]

theorem and_mask (m : List (Nat × Nat)) (z : zeros b m) : wordOf op h b &&& maskOf m = 0 := by
  induction m with
  | nil => exact BitVec.and_zero
  | cons p r ih =>
    rw [maskOf, BitVec.and_or_distrib_left, ih z.2, and_field _ _ _ (bd z.1.2 z.1.1)]
    rfl

theorem wordRow (r : OpRow) {i : Instr} (hr : opRow? op.toNat = some r) (m : List (Nat × Nat)) (hm : r.reserved = maskOf m)
    (z : zeros b m) (hi : r.read (wordOf op h b) = i) (hw : i.wf = true) : decode (wordOf op h b) = .ok i := by
  unfold decode
  rw [op_word, hr]
  dsimp only
  rw [hm, and_mask m z, hi, hw]
  rfl

theorem tv_word (v : Tv) : tvOf (wordOf op h (tvBody v)) = v :=
  (Tv.mk.injEq ..).mpr ⟨bd (up (up (up (up (up (up (up (up (up (up (up (up (up (up self)))))))))))))), bd (up (up (up (up (up (up (up (up (up (up (up (up (up (dn
    self)))))))))))))), bd (up (up (up (up (up (up (up (up (up (up (up (up (dn self))))))))))))), bd (up (up (up (up (up (up (up (up (up (up (up (dn self)))))))))))), bd
    (up (up (up (up (up (up (up (up (up (up (dn self))))))))))), bd (up (up (up (up (up (up (up (up (up (dn self)))))))))), bd (up (up (up (up (up (up (up (up (dn
    self))))))))), bd (up (up (up (up (up (up (up (dn self)))))))), bd (up (up (up (up (up (up (dn self))))))), bd (up (up (up (up (up (dn self)))))), bd (up (up (up (up
    (dn self))))), bd (up (up (up (dn self)))), bd (up (up (dn self))), bd (up (dn self)), bd (dn self)⟩

theorem aq_word (a : Aq) : aqOf (wordOf op h (aqBody a)) = a :=
  (Aq.mk.injEq ..).mpr ⟨bd (up (up (up (up (up (up (up (up (up (up (up (up self)))))))))))), bd (up (up (up (up (up (up (up (up (up (up (up (dn self)))))))))))), bd (up (up
    (up (up (up (up (up (up (up (up (dn self))))))))))), bd (up (up (up (up (up (up (up (up (up (dn self)))))))))), bd (up (up (up (up (up (up (up (up (dn self))))))))),
    bd (up (up (up (up (up (up (up (dn self)))))))), bd (up (up (up (up (up (up (dn self))))))), bd (up (up (up (up (up (dn self)))))), bd (up (up (up (up (dn self))))),
    bd (up (up (up (dn self)))), bd (up (up (dn self))), bd (up (dn self)), bd (dn self)⟩

theorem ec_word (e : Ec) (hb : b.extractLsb' 36 15 = ecBody e) : ecOf (wordOf op h b) = e := by
  have sub (s n : Nat) (hs : s + n ≤ 15) : b.extractLsb' (36 + s) n = (ecBody e).extractLsb' s n := by
    rw [← hb]
    apply BitVec.eq_of_getLsbD_eq
    intro i hi
    simp only [BitVec.getLsbD_extractLsb', hi, decide_true, Bool.true_and, show s + i < 15 by omega]
    congr 1
    omega
  exact (Ec.mk.injEq ..).mpr ⟨bd ((sub 14 1 (by decide)).trans (up (up (up (up (up self)))))), bd ((sub 13 1 (by decide)).trans (up (up (up (up (dn self)))))), bd ((sub 12 1 (by decide)).trans (up (up (up (dn self))))), bd ((sub 11 1 (by decide)).trans (up (up (dn self)))), bd ((sub 5 6 (by decide)).trans (up (dn self))), bd ((sub 0 5 (by decide)).trans
    (dn self))⟩

theorem tvWord (op : BitVec 8) (c : Hdr → Tv → Instr) (hr : opRow? op.toNat = some ⟨op.toNat, 0, fun w => c (hdr w) (tvOf w)⟩)
    (h : Hdr) (v : Tv) (hw : (c h v).wf = true) : decode (wordOf op h (tvBody v)) = .ok (c h v) :=
  wordRow _ hr [] rfl trivial (by show c _ _ = _; rw [hdr_word, tv_word]) hw

theorem aqWord (op : BitVec 8) (c : Hdr → Aq → Instr) (hr : opRow? op.toNat = some ⟨op.toNat, 0, fun w => c (hdr w) (aqOf w)⟩)
    (h : Hdr) (a : Aq) (hw : (c h a).wf = true) : decode (wordOf op h (aqBody a)) = .ok (c h a) :=
  wordRow _ hr [] rfl trivial (by show c _ _ = _; rw [hdr_word, aq_word]) hw

/-! ## One lemma for each constructor -/

/-- SYSWR as it reads from the register number and Sa. -/
theorem syswr_word (sa : BitVec 5) (reg : BitVec 16) {i : Instr} (hw : i.wf = true)
    (hi : (if reg = 0x20 then .syswrHomemap h sa
      else if reg.extractLsb' 3 13 = 7 then .syswrFmtScale h sa (reg.extractLsb' 0 3)
      else if reg.extractLsb' 3 13 = 6 then .syswrFmtBase h sa (reg.extractLsb' 0 3)
      else if reg.extractLsb' 3 13 = 3 then .syswrWaymask h sa (reg.extractLsb' 0 3)
      else if reg.extractLsb' 4 12 = 5 then .syswrInccfg h sa (reg.extractLsb' 0 4)
      else if reg = 0x40 then .syswrJpair h sa
      else .syswr h sa reg) = i) :
    decode (wordOf 0x33 h ((0 : BitVec 5) ++ sa ++ (0 : BitVec 25) ++ reg)) = .ok i := by
  refine wordRow _ rfl [(46, 5), (16, 25)] rfl
    ⟨⟨by decide, up (up (up self))⟩, ⟨by decide, up (dn self)⟩, trivial⟩
    ?_ hw
  have hr : (wordOf 0x33 h ((0 : BitVec 5) ++ sa ++ (0 : BitVec 25) ++ reg)).extractLsb' 0 16 = reg := bd (dn self)
  have hs : (wordOf 0x33 h ((0 : BitVec 5) ++ sa ++ (0 : BitVec 25) ++ reg)).extractLsb' 41 5 = sa :=
    bd (up (up (dn self)))
  have h3 : (wordOf 0x33 h ((0 : BitVec 5) ++ sa ++ (0 : BitVec 25) ++ reg)).extractLsb' 0 3 = reg.extractLsb' 0 3 :=
    bd (dn rfl)
  have h4 : (wordOf 0x33 h ((0 : BitVec 5) ++ sa ++ (0 : BitVec 25) ++ reg)).extractLsb' 0 4 = reg.extractLsb' 0 4 :=
    bd (dn rfl)
  show readSyswr _ = i
  unfold readSyswr
  simp only [hr, hs, h3, h4, hdr_word]
  exact hi

theorem syswr (h : Hdr) (sa : BitVec 5) (reg : BitVec 16) : Statement (.syswr h sa reg) := by
  intro _ w
  refine syswr_word sa reg w ?_
  have hw : syswrReg reg = true := w
  unfold syswrReg at hw
  simp only [decide_eq_true_eq] at hw
  have h20 : reg ≠ 0x20 := fun e => by subst e; revert hw; decide
  have h40 : reg ≠ 0x40 := fun e => by subst e; revert hw; decide
  have three (k : Nat) (hk : k < 8192) (e : reg.extractLsb' 3 13 = BitVec.ofNat 13 k) : reg.toNat / 8 = k := by
    have := congrArg BitVec.toNat e
    simp only [BitVec.extractLsb'_toNat, BitVec.toNat_ofNat, Nat.shiftRight_eq_div_pow] at this
    have := reg.isLt
    omega
  have four (e : reg.extractLsb' 4 12 = 5) : reg.toNat / 16 = 5 := by
    have := congrArg BitVec.toNat e
    simp only [BitVec.extractLsb'_toNat, Nat.shiftRight_eq_div_pow] at this
    have := reg.isLt
    simp at *
    omega
  rw [if_neg h20, if_neg (fun e => by have := three 7 (by decide) e; omega), if_neg (fun e => by have := three 6 (by decide) e; omega),
    if_neg (fun e => by have := three 3 (by decide) e; omega), if_neg (fun e => by have := four e; omega), if_neg h40]

theorem syswrHomemap (h : Hdr) (sa : BitVec 5) : Statement (.syswrHomemap h sa) := fun _ w => syswr_word sa 32 w rfl
theorem syswrJpair (h : Hdr) (sa : BitVec 5) : Statement (.syswrJpair h sa) := fun _ w => syswr_word sa 64 w rfl

/-- The register number that a numbered SYSWR row names, as that row's word holds it. -/
theorem syswr_split (sa : BitVec 5) {a b : Nat} (hab : 5 + 5 + 25 + a + b = 5 + 5 + 25 + (a + b)) (c : BitVec a) (n : BitVec b) :
    ((0 : BitVec 5) ++ sa ++ (0 : BitVec 25) ++ c ++ n).cast hab = (0 : BitVec 5) ++ sa ++ (0 : BitVec 25) ++ (c ++ n) := by
  apply BitVec.eq_of_getLsbD_eq
  intro i _
  simp only [BitVec.getLsbD_cast, BitVec.getLsbD_append]
  by_cases h1 : i < b
  · simp [h1, show i < a + b by omega]
  · by_cases h2 : i - b < a
    · simp [h1, h2, show i < a + b by omega]
    · simp [h1, h2, show ¬ i < a + b by omega, Nat.sub_sub, Nat.add_comm]

theorem syswrFmtScale (h : Hdr) (sa : BitVec 5) (n : BitVec 3) : Statement (.syswrFmtScale h sa n) := by
  intro _ w
  have k : ∀ n : BitVec 3, ((7 : BitVec 13) ++ n : BitVec 16) ≠ 0x20 ∧ ((7 : BitVec 13) ++ n : BitVec 16).extractLsb' 3 13 = 7 ∧ ((7 : BitVec 13) ++ n : BitVec 16).extractLsb' 0 3 = n := by decide
  obtain ⟨k0, k1, kn⟩ := k n
  refine (congrArg (fun x => decode (wordOf 0x33 h x)) (syswr_split sa rfl (7 : BitVec 13) n)).trans (syswr_word sa _ w ?_)
  exact (if_neg k0).trans ((if_pos k1).trans (congrArg (Instr.syswrFmtScale h sa) kn))

theorem syswrFmtBase (h : Hdr) (sa : BitVec 5) (n : BitVec 3) : Statement (.syswrFmtBase h sa n) := by
  intro _ w
  have k : ∀ n : BitVec 3, ((6 : BitVec 13) ++ n : BitVec 16) ≠ 0x20 ∧ ((6 : BitVec 13) ++ n : BitVec 16).extractLsb' 3 13 ≠ 7 ∧ ((6 : BitVec 13) ++ n : BitVec 16).extractLsb' 3 13 = 6 ∧ ((6 : BitVec 13) ++ n : BitVec 16).extractLsb' 0 3 = n := by decide
  obtain ⟨k0, k1, k2, kn⟩ := k n
  refine (congrArg (fun x => decode (wordOf 0x33 h x)) (syswr_split sa rfl (6 : BitVec 13) n)).trans (syswr_word sa _ w ?_)
  exact (if_neg k0).trans ((if_neg k1).trans ((if_pos k2).trans (congrArg (Instr.syswrFmtBase h sa) kn)))

theorem syswrWaymask (h : Hdr) (sa : BitVec 5) (n : BitVec 3) : Statement (.syswrWaymask h sa n) := by
  intro _ w
  have k : ∀ n : BitVec 3, ((3 : BitVec 13) ++ n : BitVec 16) ≠ 0x20 ∧ ((3 : BitVec 13) ++ n : BitVec 16).extractLsb' 3 13 ≠ 7 ∧ ((3 : BitVec 13) ++ n : BitVec 16).extractLsb' 3 13 ≠ 6 ∧ ((3 : BitVec 13) ++ n : BitVec 16).extractLsb' 3 13 = 3 ∧ ((3 : BitVec 13) ++ n : BitVec 16).extractLsb' 0 3 = n := by decide
  obtain ⟨k0, k1, k2, k3, kn⟩ := k n
  refine (congrArg (fun x => decode (wordOf 0x33 h x)) (syswr_split sa rfl (3 : BitVec 13) n)).trans (syswr_word sa _ w ?_)
  exact (if_neg k0).trans ((if_neg k1).trans ((if_neg k2).trans ((if_pos k3).trans (congrArg (Instr.syswrWaymask h sa) kn))))

theorem syswrInccfg (h : Hdr) (sa : BitVec 5) (n : BitVec 4) : Statement (.syswrInccfg h sa n) := by
  intro _ w
  have k : ∀ n : BitVec 4, ((5 : BitVec 12) ++ n : BitVec 16) ≠ 0x20 ∧ ((5 : BitVec 12) ++ n : BitVec 16).extractLsb' 3 13 ≠ 7 ∧ ((5 : BitVec 12) ++ n : BitVec 16).extractLsb' 3 13 ≠ 6 ∧ ((5 : BitVec 12) ++ n : BitVec 16).extractLsb' 3 13 ≠ 3 ∧ ((5 : BitVec 12) ++ n : BitVec 16).extractLsb' 4 12 = 5 ∧ ((5 : BitVec 12) ++ n : BitVec 16).extractLsb' 0 4 = n := by decide
  obtain ⟨k0, k1, k2, k3, k4, kn⟩ := k n
  refine (congrArg (fun x => decode (wordOf 0x33 h x)) (syswr_split sa rfl (5 : BitVec 12) n)).trans (syswr_word sa _ w ?_)
  exact (if_neg k0).trans ((if_neg k1).trans ((if_neg k2).trans ((if_neg k3).trans ((if_pos k4).trans (congrArg (Instr.syswrInccfg h sa) kn)))))


theorem nop (h : Hdr) : Statement (.nop h) :=
  fun _ w => wordRow (op := 0x00) _ rfl [(0, 51)] rfl ⟨⟨by decide, self⟩, trivial⟩ ((Instr.nop.injEq ..).mpr hdr_word) w
theorem add (h : Hdr) (sd : BitVec 5) (sa : BitVec 5) (sb : BitVec 5) : Statement (.add h sd sa sb) :=
  fun _ w => wordRow (op := 0x01) _ rfl [(0, 36)] rfl ⟨⟨by decide, dn self⟩, trivial⟩ ((Instr.add.injEq ..).mpr ⟨hdr_word, bd (up (up (up self))), bd (up (up (dn self))),
    bd (up (dn self))⟩) w
theorem sub (h : Hdr) (sd : BitVec 5) (sa : BitVec 5) (sb : BitVec 5) : Statement (.sub h sd sa sb) :=
  fun _ w => wordRow (op := 0x02) _ rfl [(0, 36)] rfl ⟨⟨by decide, dn self⟩, trivial⟩ ((Instr.sub.injEq ..).mpr ⟨hdr_word, bd (up (up (up self))), bd (up (up (dn self))),
    bd (up (dn self))⟩) w
theorem addi (h : Hdr) (sd : BitVec 5) (sa : BitVec 5) (imm : BitVec 36) : Statement (.addi h sd sa imm) :=
  fun _ w => wordRow (op := 0x03) _ rfl [(36, 5)] rfl ⟨⟨by decide, up (dn self)⟩, trivial⟩ ((Instr.addi.injEq ..).mpr ⟨hdr_word, bd (up (up (up self))), bd (up (up (dn
    self))), bd (dn self)⟩) w
theorem mul (h : Hdr) (sd : BitVec 5) (sa : BitVec 5) (sb : BitVec 5) : Statement (.mul h sd sa sb) :=
  fun _ w => wordRow (op := 0x04) _ rfl [(0, 36)] rfl ⟨⟨by decide, dn self⟩, trivial⟩ ((Instr.mul.injEq ..).mpr ⟨hdr_word, bd (up (up (up self))), bd (up (up (dn self))),
    bd (up (dn self))⟩) w
theorem mulh (h : Hdr) (sd : BitVec 5) (sa : BitVec 5) (sb : BitVec 5) : Statement (.mulh h sd sa sb) :=
  fun _ w => wordRow (op := 0x05) _ rfl [(0, 36)] rfl ⟨⟨by decide, dn self⟩, trivial⟩ ((Instr.mulh.injEq ..).mpr ⟨hdr_word, bd (up (up (up self))), bd (up (up (dn self))),
    bd (up (dn self))⟩) w
theorem mulhn (h : Hdr) (sd : BitVec 5) (sa : BitVec 5) (sb : BitVec 5) : Statement (.mulhn h sd sa sb) :=
  fun _ w => wordRow (op := 0x06) _ rfl [(0, 36)] rfl ⟨⟨by decide, dn self⟩, trivial⟩ ((Instr.mulhn.injEq ..).mpr ⟨hdr_word, bd (up (up (up self))), bd (up (up (dn self))),
    bd (up (dn self))⟩) w
theorem divs (h : Hdr) (sd : BitVec 5) (sa : BitVec 5) (sb : BitVec 5) : Statement (.divs h sd sa sb) :=
  fun _ w => wordRow (op := 0x07) _ rfl [(0, 36)] rfl ⟨⟨by decide, dn self⟩, trivial⟩ ((Instr.divs.injEq ..).mpr ⟨hdr_word, bd (up (up (up self))), bd (up (up (dn self))),
    bd (up (dn self))⟩) w
theorem divn (h : Hdr) (sd : BitVec 5) (sa : BitVec 5) (sb : BitVec 5) : Statement (.divn h sd sa sb) :=
  fun _ w => wordRow (op := 0x08) _ rfl [(0, 36)] rfl ⟨⟨by decide, dn self⟩, trivial⟩ ((Instr.divn.injEq ..).mpr ⟨hdr_word, bd (up (up (up self))), bd (up (up (dn self))),
    bd (up (dn self))⟩) w
theorem and (h : Hdr) (sd : BitVec 5) (sa : BitVec 5) (sb : BitVec 5) : Statement (.and h sd sa sb) :=
  fun _ w => wordRow (op := 0x09) _ rfl [(0, 36)] rfl ⟨⟨by decide, dn self⟩, trivial⟩ ((Instr.and.injEq ..).mpr ⟨hdr_word, bd (up (up (up self))), bd (up (up (dn self))),
    bd (up (dn self))⟩) w
theorem or (h : Hdr) (sd : BitVec 5) (sa : BitVec 5) (sb : BitVec 5) : Statement (.or h sd sa sb) :=
  fun _ w => wordRow (op := 0x0A) _ rfl [(0, 36)] rfl ⟨⟨by decide, dn self⟩, trivial⟩ ((Instr.or.injEq ..).mpr ⟨hdr_word, bd (up (up (up self))), bd (up (up (dn self))), bd
    (up (dn self))⟩) w
theorem xor (h : Hdr) (sd : BitVec 5) (sa : BitVec 5) (sb : BitVec 5) : Statement (.xor h sd sa sb) :=
  fun _ w => wordRow (op := 0x0B) _ rfl [(0, 36)] rfl ⟨⟨by decide, dn self⟩, trivial⟩ ((Instr.xor.injEq ..).mpr ⟨hdr_word, bd (up (up (up self))), bd (up (up (dn self))),
    bd (up (dn self))⟩) w
theorem andn (h : Hdr) (sd : BitVec 5) (sa : BitVec 5) (sb : BitVec 5) : Statement (.andn h sd sa sb) :=
  fun _ w => wordRow (op := 0x0C) _ rfl [(0, 36)] rfl ⟨⟨by decide, dn self⟩, trivial⟩ ((Instr.andn.injEq ..).mpr ⟨hdr_word, bd (up (up (up self))), bd (up (up (dn self))),
    bd (up (dn self))⟩) w
theorem shl (h : Hdr) (sd : BitVec 5) (sa : BitVec 5) (sb : BitVec 5) : Statement (.shl h sd sa sb) :=
  fun _ w => wordRow (op := 0x0D) _ rfl [(0, 36)] rfl ⟨⟨by decide, dn self⟩, trivial⟩ ((Instr.shl.injEq ..).mpr ⟨hdr_word, bd (up (up (up self))), bd (up (up (dn self))),
    bd (up (dn self))⟩) w
theorem shrl (h : Hdr) (sd : BitVec 5) (sa : BitVec 5) (sb : BitVec 5) : Statement (.shrl h sd sa sb) :=
  fun _ w => wordRow (op := 0x0E) _ rfl [(0, 36)] rfl ⟨⟨by decide, dn self⟩, trivial⟩ ((Instr.shrl.injEq ..).mpr ⟨hdr_word, bd (up (up (up self))), bd (up (up (dn self))),
    bd (up (dn self))⟩) w
theorem shra (h : Hdr) (sd : BitVec 5) (sa : BitVec 5) (sb : BitVec 5) : Statement (.shra h sd sa sb) :=
  fun _ w => wordRow (op := 0x0F) _ rfl [(0, 36)] rfl ⟨⟨by decide, dn self⟩, trivial⟩ ((Instr.shra.injEq ..).mpr ⟨hdr_word, bd (up (up (up self))), bd (up (up (dn self))),
    bd (up (dn self))⟩) w
theorem mins (h : Hdr) (sd : BitVec 5) (sa : BitVec 5) (sb : BitVec 5) : Statement (.mins h sd sa sb) :=
  fun _ w => wordRow (op := 0x10) _ rfl [(0, 36)] rfl ⟨⟨by decide, dn self⟩, trivial⟩ ((Instr.mins.injEq ..).mpr ⟨hdr_word, bd (up (up (up self))), bd (up (up (dn self))),
    bd (up (dn self))⟩) w
theorem maxs (h : Hdr) (sd : BitVec 5) (sa : BitVec 5) (sb : BitVec 5) : Statement (.maxs h sd sa sb) :=
  fun _ w => wordRow (op := 0x11) _ rfl [(0, 36)] rfl ⟨⟨by decide, dn self⟩, trivial⟩ ((Instr.maxs.injEq ..).mpr ⟨hdr_word, bd (up (up (up self))), bd (up (up (dn self))),
    bd (up (dn self))⟩) w
theorem minn (h : Hdr) (sd : BitVec 5) (sa : BitVec 5) (sb : BitVec 5) : Statement (.minn h sd sa sb) :=
  fun _ w => wordRow (op := 0x12) _ rfl [(0, 36)] rfl ⟨⟨by decide, dn self⟩, trivial⟩ ((Instr.minn.injEq ..).mpr ⟨hdr_word, bd (up (up (up self))), bd (up (up (dn self))),
    bd (up (dn self))⟩) w
theorem maxn (h : Hdr) (sd : BitVec 5) (sa : BitVec 5) (sb : BitVec 5) : Statement (.maxn h sd sa sb) :=
  fun _ w => wordRow (op := 0x13) _ rfl [(0, 36)] rfl ⟨⟨by decide, dn self⟩, trivial⟩ ((Instr.maxn.injEq ..).mpr ⟨hdr_word, bd (up (up (up self))), bd (up (up (dn self))),
    bd (up (dn self))⟩) w
theorem sel (h : Hdr) (sd : BitVec 5) (sa : BitVec 5) (sb : BitVec 5) (qsel : BitVec 3) : Statement (.sel h sd sa sb qsel) :=
  fun _ w => wordRow (op := 0x14) _ rfl [(3, 33)] rfl ⟨⟨by decide, up (dn self)⟩, trivial⟩ ((Instr.sel.injEq ..).mpr ⟨hdr_word, bd (up (up (up (up self)))), bd (up (up (up
    (dn self)))), bd (up (up (dn self))), bd (dn self)⟩) w
theorem clz (h : Hdr) (sd : BitVec 5) (sa : BitVec 5) : Statement (.clz h sd sa) :=
  fun _ w => wordRow (op := 0x15) _ rfl [(0, 41)] rfl ⟨⟨by decide, dn self⟩, trivial⟩ ((Instr.clz.injEq ..).mpr ⟨hdr_word, bd (up (up self)), bd (up (dn self))⟩) w
theorem popc (h : Hdr) (sd : BitVec 5) (sa : BitVec 5) : Statement (.popc h sd sa) :=
  fun _ w => wordRow (op := 0x16) _ rfl [(0, 41)] rfl ⟨⟨by decide, dn self⟩, trivial⟩ ((Instr.popc.injEq ..).mpr ⟨hdr_word, bd (up (up self)), bd (up (dn self))⟩) w
theorem bfxI (h : Hdr) (sd : BitVec 5) (sa : BitVec 5) (width : BitVec 7) (lsb : BitVec 6) : Statement (.bfxI h sd sa width lsb) :=
  fun _ w => wordRow (op := 0x17) _ rfl [(36, 5), (13, 23)] rfl ⟨⟨by decide, up (up (up (dn self)))⟩, ⟨by decide, up (up (dn self))⟩, trivial⟩ ((Instr.bfxI.injEq ..).mpr
    ⟨hdr_word, bd (up (up (up (up (up self))))), bd (up (up (up (up (dn self))))), bd (up (dn self)), bd (dn self)⟩) w
theorem bfxN (h : Hdr) (sd : BitVec 5) (sa : BitVec 5) (width : BitVec 7) (lsb : BitVec 6) : Statement (.bfxN h sd sa width lsb) :=
  fun _ w => wordRow (op := 0x18) _ rfl [(36, 5), (13, 23)] rfl ⟨⟨by decide, up (up (up (dn self)))⟩, ⟨by decide, up (up (dn self))⟩, trivial⟩ ((Instr.bfxN.injEq ..).mpr
    ⟨hdr_word, bd (up (up (up (up (up self))))), bd (up (up (up (up (dn self))))), bd (up (dn self)), bd (dn self)⟩) w
theorem bfi (h : Hdr) (sd : BitVec 5) (sa : BitVec 5) (width : BitVec 7) (lsb : BitVec 6) : Statement (.bfi h sd sa width lsb) :=
  fun _ w => wordRow (op := 0x19) _ rfl [(36, 5), (13, 23)] rfl ⟨⟨by decide, up (up (up (dn self)))⟩, ⟨by decide, up (up (dn self))⟩, trivial⟩ ((Instr.bfi.injEq ..).mpr
    ⟨hdr_word, bd (up (up (up (up (up self))))), bd (up (up (up (up (dn self))))), bd (up (dn self)), bd (dn self)⟩) w
theorem movi (h : Hdr) (sd : BitVec 5) (imm : BitVec 36) : Statement (.movi h sd imm) :=
  fun _ w => wordRow (op := 0x1A) _ rfl [(36, 10)] rfl ⟨⟨by decide, up (dn self)⟩, trivial⟩ ((Instr.movi.injEq ..).mpr ⟨hdr_word, bd (up (up self)), bd (dn self)⟩) w
theorem movh (h : Hdr) (sd : BitVec 5) (imm : BitVec 28) : Statement (.movh h sd imm) :=
  fun _ w => wordRow (op := 0x1B) _ rfl [(36, 10), (28, 8)] rfl ⟨⟨by decide, up (up (dn self))⟩, ⟨by decide, up (dn self)⟩, trivial⟩ ((Instr.movh.injEq ..).mpr ⟨hdr_word,
    bd (up (up (up self))), bd (dn self)⟩) w
theorem lea (h : Hdr) (sd : BitVec 5) (sa : BitVec 5) (sb : BitVec 5) (sc : BitVec 2) (disp : BitVec 34) : Statement (.lea h sd sa sb sc disp) :=
  fun _ w => wordRow (op := 0x1C) _ rfl [] rfl trivial ((Instr.lea.injEq ..).mpr ⟨hdr_word, bd (up (up (up (up self)))), bd (up (up (up (dn self)))), bd (up (up (dn
    self))), bd (up (dn self)), bd (dn self)⟩) w
theorem cmpReg (h : Hdr) (qd : BitVec 3) (sa : BitVec 5) (sb : BitVec 5) (cond : BitVec 4) : Statement (.cmpReg h qd sa sb cond) :=
  fun _ w => wordRow (op := 0x1D) _ rfl [(49, 2), (4, 32)] rfl ⟨⟨by decide, up (up (up (up (up self))))⟩, ⟨by decide, up (dn self)⟩, trivial⟩ ((Instr.cmpReg.injEq ..).mpr
    ⟨hdr_word, bd (up (up (up (up (dn self))))), bd (up (up (up (dn self)))), bd (up (up (dn self))), bd (dn self)⟩) w
theorem cmpImm (h : Hdr) (qd : BitVec 3) (sa : BitVec 5) (imm : BitVec 32) (cond : BitVec 4) : Statement (.cmpImm h qd sa imm cond) :=
  fun _ w => wordRow (op := 0x1E) _ rfl [(49, 2), (36, 5)] rfl ⟨⟨by decide, up (up (up (up (up self))))⟩, ⟨by decide, up (up (dn self))⟩, trivial⟩ ((Instr.cmpImm.injEq
    ..).mpr ⟨hdr_word, bd (up (up (up (up (dn self))))), bd (up (up (up (dn self)))), bd (up (dn self)), bd (dn self)⟩) w
theorem qop (h : Hdr) (qd : BitVec 3) (qa : BitVec 3) (qb : BitVec 3) (qop : BitVec 2) : Statement (.qop h qd qa qb qop) :=
  fun _ w => wordRow (op := 0x1F) _ rfl [(49, 2), (44, 2), (39, 2), (2, 34)] rfl ⟨⟨by decide, up (up (up (up (up (up (up self))))))⟩, ⟨by decide, up (up (up (up (up (dn
    self)))))⟩, ⟨by decide, up (up (up (dn self)))⟩, ⟨by decide, up (dn self)⟩, trivial⟩ ((Instr.qop.injEq ..).mpr ⟨hdr_word, bd (up (up (up (up (up (up (dn self))))))),
    bd (up (up (up (up (dn self))))), bd (up (up (dn self))), bd (dn self)⟩) w
theorem lds (h : Hdr) (sd : BitVec 5) (sa : BitVec 5) (wk : BitVec 4) (off : BitVec 32) : Statement (.lds h sd sa wk off) :=
  fun _ w => wordRow (op := 0x20) _ rfl [(36, 5)] rfl ⟨⟨by decide, up (up (dn self))⟩, trivial⟩ ((Instr.lds.injEq ..).mpr ⟨hdr_word, bd (up (up (up (up self)))), bd (up (up
    (up (dn self)))), bd (up (dn self)), bd (dn self)⟩) w
theorem sts (h : Hdr) (sa : BitVec 5) (sb : BitVec 5) (wk : BitVec 4) (off : BitVec 32) : Statement (.sts h sa sb wk off) :=
  fun _ w => wordRow (op := 0x21) _ rfl [(46, 5)] rfl ⟨⟨by decide, up (up (up (up self)))⟩, trivial⟩ ((Instr.sts.injEq ..).mpr ⟨hdr_word, bd (up (up (up (dn self)))), bd
    (up (up (dn self))), bd (up (dn self)), bd (dn self)⟩) w
theorem pbr (h : Hdr) (j : BitVec 3) (off : BitVec 41) : Statement (.pbr h j off) :=
  fun _ w => wordRow (op := 0x22) _ rfl [(45, 3), (41, 4)] rfl ⟨⟨by decide, up (up (dn self))⟩, ⟨by decide, up (dn self)⟩, trivial⟩ ((Instr.pbr.injEq ..).mpr ⟨hdr_word, bd
    (up (up (up self))), bd (dn self)⟩) w
theorem brq (h : Hdr) (j : BitVec 3) (qc : BitVec 3) : Statement (.brq h j qc) :=
  fun _ w => wordRow (op := 0x23) _ rfl [(41, 4), (0, 41)] rfl ⟨⟨by decide, up (dn self)⟩, ⟨by decide, dn self⟩, trivial⟩ ((Instr.brq.injEq ..).mpr ⟨hdr_word, bd (up (up
    (up self))), bd (up (up (dn self)))⟩) w
theorem br (h : Hdr) (j : BitVec 3) : Statement (.br h j) :=
  fun _ w => wordRow (op := 0x24) _ rfl [(0, 48)] rfl ⟨⟨by decide, dn self⟩, trivial⟩ ((Instr.br.injEq ..).mpr ⟨hdr_word, bd (up self)⟩) w
theorem call (h : Hdr) (j : BitVec 3) : Statement (.call h j) :=
  fun _ w => wordRow (op := 0x25) _ rfl [(0, 48)] rfl ⟨⟨by decide, dn self⟩, trivial⟩ ((Instr.call.injEq ..).mpr ⟨hdr_word, bd (up self)⟩) w
theorem ret (h : Hdr) (j : BitVec 3) : Statement (.ret h j) :=
  fun _ w => wordRow (op := 0x26) _ rfl [(0, 48)] rfl ⟨⟨by decide, dn self⟩, trivial⟩ ((Instr.ret.injEq ..).mpr ⟨hdr_word, bd (up self)⟩) w
theorem loop (h : Hdr) (j : BitVec 3) : Statement (.loop h j) :=
  fun _ w => wordRow (op := 0x27) _ rfl [(0, 48)] rfl ⟨⟨by decide, dn self⟩, trivial⟩ ((Instr.loop.injEq ..).mpr ⟨hdr_word, bd (up self)⟩) w
theorem rotz (h : Hdr) : Statement (.rotz h) :=
  fun _ w => wordRow (op := 0x28) _ rfl [(0, 51)] rfl ⟨⟨by decide, self⟩, trivial⟩ ((Instr.rotz.injEq ..).mpr hdr_word) w
theorem anym (h : Hdr) (qd : BitVec 3) (mk : BitVec 3) : Statement (.anym h qd mk) :=
  fun _ w => wordRow (op := 0x29) _ rfl [(49, 2), (44, 2), (0, 41)] rfl ⟨⟨by decide, up (up (up (up self)))⟩, ⟨by decide, up (up (dn self))⟩, ⟨by decide, dn self⟩, trivial⟩
    ((Instr.anym.injEq ..).mpr ⟨hdr_word, bd (up (up (up (dn self)))), bd (up (dn self))⟩) w
theorem allm (h : Hdr) (qd : BitVec 3) (mk : BitVec 3) : Statement (.allm h qd mk) :=
  fun _ w => wordRow (op := 0x2A) _ rfl [(49, 2), (44, 2), (0, 41)] rfl ⟨⟨by decide, up (up (up (up self)))⟩, ⟨by decide, up (up (dn self))⟩, ⟨by decide, dn self⟩, trivial⟩
    ((Instr.allm.injEq ..).mpr ⟨hdr_word, bd (up (up (up (dn self)))), bd (up (dn self))⟩) w
theorem osend (h : Hdr) (qc : BitVec 3) (hd : BitVec 4) : Statement (.osend h qc hd) :=
  fun _ w => wordRow (op := 0x2B) _ rfl [(48, 3), (0, 41)] rfl ⟨⟨by decide, up (up (up self))⟩, ⟨by decide, dn self⟩, trivial⟩ ((Instr.osend.injEq ..).mpr ⟨hdr_word, bd (up
    (up (dn self))), bd (up (dn self))⟩) w
theorem bro (h : Hdr) (j : BitVec 3) (hd : BitVec 4) : Statement (.bro h j hd) :=
  fun _ w => wordRow (op := 0x2C) _ rfl [(45, 3), (0, 41)] rfl ⟨⟨by decide, up (up (dn self))⟩, ⟨by decide, dn self⟩, trivial⟩ ((Instr.bro.injEq ..).mpr ⟨hdr_word, bd (up
    (up (up self))), bd (up (dn self))⟩) w
theorem qcut (h : Hdr) (hi : BitVec 6) (lo : BitVec 6) : Statement (.qcut h hi lo) :=
  fun _ w => wordRow (op := 0x2D) _ rfl [(12, 39)] rfl ⟨⟨by decide, up (up self)⟩, trivial⟩ ((Instr.qcut.injEq ..).mpr ⟨hdr_word, bd (up (dn self)), bd (dn self)⟩) w
theorem wait (h : Hdr) (n : BitVec 16) : Statement (.wait h n) :=
  fun _ w => wordRow (op := 0x2E) _ rfl [(16, 35)] rfl ⟨⟨by decide, up self⟩, trivial⟩ ((Instr.wait.injEq ..).mpr ⟨hdr_word, bd (dn self)⟩) w
theorem yield (h : Hdr) : Statement (.yield h) :=
  fun _ w => wordRow (op := 0x2F) _ rfl [(0, 51)] rfl ⟨⟨by decide, self⟩, trivial⟩ ((Instr.yield.injEq ..).mpr hdr_word) w
theorem halt (h : Hdr) : Statement (.halt h) :=
  fun _ w => wordRow (op := 0x30) _ rfl [(0, 51)] rfl ⟨⟨by decide, self⟩, trivial⟩ ((Instr.halt.injEq ..).mpr hdr_word) w
theorem trap (h : Hdr) (n : BitVec 16) : Statement (.trap h n) :=
  fun _ w => wordRow (op := 0x31) _ rfl [(16, 35)] rfl ⟨⟨by decide, up self⟩, trivial⟩ ((Instr.trap.injEq ..).mpr ⟨hdr_word, bd (dn self)⟩) w
theorem sysrd (h : Hdr) (sd : BitVec 5) (reg : BitVec 16) : Statement (.sysrd h sd reg) :=
  fun _ w => wordRow (op := 0x32) _ rfl [(16, 30)] rfl ⟨⟨by decide, up (dn self)⟩, trivial⟩ ((Instr.sysrd.injEq ..).mpr ⟨hdr_word, bd (up (up self)), bd (dn self)⟩) w
theorem conf (h : Hdr) (sa : BitVec 5) (reg : BitVec 16) : Statement (.conf h sa reg) :=
  fun _ w => wordRow (op := 0x34) _ rfl [(46, 5), (16, 25)] rfl ⟨⟨by decide, up (up (up self))⟩, ⟨by decide, up (dn self)⟩, trivial⟩ ((Instr.conf.injEq ..).mpr ⟨hdr_word,
    bd (up (up (dn self))), bd (dn self)⟩) w
theorem snap (h : Hdr) (sd : BitVec 5) (reg : BitVec 16) : Statement (.snap h sd reg) :=
  fun _ w => wordRow (op := 0x35) _ rfl [(16, 30)] rfl ⟨⟨by decide, up (dn self)⟩, trivial⟩ ((Instr.snap.injEq ..).mpr ⟨hdr_word, bd (up (up self)), bd (dn self)⟩) w
theorem rdcyc (h : Hdr) (sd : BitVec 5) : Statement (.rdcyc h sd) :=
  fun _ w => wordRow (op := 0x36) _ rfl [(0, 46)] rfl ⟨⟨by decide, dn self⟩, trivial⟩ ((Instr.rdcyc.injEq ..).mpr ⟨hdr_word, bd (up self)⟩) w
theorem icinv (h : Hdr) (sa : BitVec 5) (scope : BitVec 3) : Statement (.icinv h sa scope) :=
  fun _ w => wordRow (op := 0x37) _ rfl [(46, 5), (3, 38)] rfl ⟨⟨by decide, up (up (up self))⟩, ⟨by decide, up (dn self)⟩, trivial⟩ ((Instr.icinv.injEq ..).mpr ⟨hdr_word,
    bd (up (up (dn self))), bd (dn self)⟩) w
theorem vaddF (h : Hdr) (v : Tv) : Statement (.vaddF h v) :=
  fun _ w => tvWord 0x40 .vaddF rfl h v w
theorem vaddI (h : Hdr) (v : Tv) : Statement (.vaddI h v) :=
  fun _ w => tvWord 0x41 .vaddI rfl h v w
theorem vsubF (h : Hdr) (v : Tv) : Statement (.vsubF h v) :=
  fun _ w => tvWord 0x42 .vsubF rfl h v w
theorem vsubI (h : Hdr) (v : Tv) : Statement (.vsubI h v) :=
  fun _ w => tvWord 0x43 .vsubI rfl h v w
theorem vmulF (h : Hdr) (v : Tv) : Statement (.vmulF h v) :=
  fun _ w => tvWord 0x44 .vmulF rfl h v w
theorem vmulI (h : Hdr) (v : Tv) : Statement (.vmulI h v) :=
  fun _ w => tvWord 0x45 .vmulI rfl h v w
theorem vfma (h : Hdr) (v : Tv) : Statement (.vfma h v) :=
  fun _ w => tvWord 0x46 .vfma rfl h v w
theorem vminF (h : Hdr) (v : Tv) : Statement (.vminF h v) :=
  fun _ w => tvWord 0x47 .vminF rfl h v w
theorem vminI (h : Hdr) (v : Tv) : Statement (.vminI h v) :=
  fun _ w => tvWord 0x48 .vminI rfl h v w
theorem vmaxF (h : Hdr) (v : Tv) : Statement (.vmaxF h v) :=
  fun _ w => tvWord 0x49 .vmaxF rfl h v w
theorem vmaxI (h : Hdr) (v : Tv) : Statement (.vmaxI h v) :=
  fun _ w => tvWord 0x4A .vmaxI rfl h v w
theorem vabs (h : Hdr) (v : Tv) : Statement (.vabs h v) :=
  fun _ w => tvWord 0x4B .vabs rfl h v w
theorem vneg (h : Hdr) (v : Tv) : Statement (.vneg h v) :=
  fun _ w => tvWord 0x4C .vneg rfl h v w
theorem vcmpF (h : Hdr) (v : Tv) : Statement (.vcmpF h v) :=
  fun _ w => tvWord 0x4D .vcmpF rfl h v w
theorem vcmpI (h : Hdr) (v : Tv) : Statement (.vcmpI h v) :=
  fun _ w => tvWord 0x4E .vcmpI rfl h v w
theorem vsel (h : Hdr) (v : Tv) : Statement (.vsel h v) :=
  fun _ w => tvWord 0x4F .vsel rfl h v w
theorem vand (h : Hdr) (v : Tv) : Statement (.vand h v) :=
  fun _ w => tvWord 0x50 .vand rfl h v w
theorem vor (h : Hdr) (v : Tv) : Statement (.vor h v) :=
  fun _ w => tvWord 0x51 .vor rfl h v w
theorem vxor (h : Hdr) (v : Tv) : Statement (.vxor h v) :=
  fun _ w => tvWord 0x52 .vxor rfl h v w
theorem vshl (h : Hdr) (v : Tv) : Statement (.vshl h v) :=
  fun _ w => tvWord 0x53 .vshl rfl h v w
theorem vshrN (h : Hdr) (v : Tv) : Statement (.vshrN h v) :=
  fun _ w => tvWord 0x54 .vshrN rfl h v w
theorem vshrI (h : Hdr) (v : Tv) : Statement (.vshrI h v) :=
  fun _ w => tvWord 0x55 .vshrI rfl h v w
theorem vcvtF (h : Hdr) (v : Tv) : Statement (.vcvtF h v) :=
  fun _ w => tvWord 0x56 .vcvtF rfl h v w
theorem vcvtI (h : Hdr) (v : Tv) : Statement (.vcvtI h v) :=
  fun _ w => tvWord 0x57 .vcvtI rfl h v w
theorem vqntDb8 (h : Hdr) (v : Tv) : Statement (.vqntDb8 h v) :=
  fun _ w => tvWord 0x58 .vqntDb8 rfl h v w
theorem vqntDb4 (h : Hdr) (v : Tv) : Statement (.vqntDb4 h v) :=
  fun _ w => tvWord 0x59 .vqntDb4 rfl h v w
theorem vredF (h : Hdr) (v : Tv) : Statement (.vredF h v) :=
  fun _ w => tvWord 0x5A .vredF rfl h v w
theorem vredI (h : Hdr) (v : Tv) : Statement (.vredI h v) :=
  fun _ w => tvWord 0x5B .vredI rfl h v w
theorem vscanF (h : Hdr) (v : Tv) : Statement (.vscanF h v) :=
  fun _ w => tvWord 0x5C .vscanF rfl h v w
theorem vscanI (h : Hdr) (v : Tv) : Statement (.vscanI h v) :=
  fun _ w => tvWord 0x5D .vscanI rfl h v w
theorem vpermT (h : Hdr) (v : Tv) : Statement (.vpermT h v) :=
  fun _ w => tvWord 0x5E .vpermT rfl h v w
theorem vpermImm (h : Hdr) (v : Tv) : Statement (.vpermImm h v) :=
  fun _ w => tvWord 0x5F .vpermImm rfl h v w
theorem vxrow (h : Hdr) (v : Tv) : Statement (.vxrow h v) :=
  fun _ w => tvWord 0x60 .vxrow rfl h v w
theorem vbcastS (h : Hdr) (v : Tv) : Statement (.vbcastS h v) :=
  fun _ w => tvWord 0x61 .vbcastS rfl h v w
theorem vbcastRow (h : Hdr) (v : Tv) : Statement (.vbcastRow h v) :=
  fun _ w => tvWord 0x62 .vbcastRow rfl h v w
theorem vtopk (h : Hdr) (v : Tv) : Statement (.vtopk h v) :=
  fun _ w => tvWord 0x63 .vtopk rfl h v w
theorem vrng (h : Hdr) (v : Tv) : Statement (.vrng h v) :=
  fun _ w => tvWord 0x64 .vrng rfl h v w
theorem vmovt (h : Hdr) (v : Tv) : Statement (.vmovt h v) :=
  fun _ w => tvWord 0x65 .vmovt rfl h v w
theorem vlds (h : Hdr) (td : BitVec 6) (tdv : BitVec 4) (rdn : BitVec 4) (sa : BitVec 5) (offHi : BitVec 6) (men : BitVec 1) (msk : BitVec 3) (offLo : BitVec 9) : Statement (.vlds h td tdv rdn sa offHi men msk offLo) :=
  fun _ w => wordRow (op := 0x66) _ rfl [(26, 11), (12, 2)] rfl ⟨⟨by decide, up (up (up (up (up (up (dn self))))))⟩, ⟨by decide, up (up (dn self))⟩, trivial⟩
    ((Instr.vlds.injEq ..).mpr ⟨hdr_word, bd (up (up (up (up (up (up (up (up (up self))))))))), bd (up (up (up (up (up (up (up (up (dn self))))))))), bd (up (up (up (up
    (up (up (up (dn self)))))))), bd (up (up (up (up (up (dn self)))))), bd (up (up (up (up (dn self))))), bd (up (up (up (dn self)))), bd (up (dn self)), bd (dn self)⟩)
    w
theorem vsts (h : Hdr) (ta : BitVec 6) (tav : BitVec 4) (tap : BitVec 1) (sa : BitVec 5) (offHi : BitVec 6) (men : BitVec 1) (msk : BitVec 3) (offLo : BitVec 9) : Statement (.vsts h ta tav tap sa offHi men msk offLo) :=
  fun _ w => wordRow (op := 0x67) _ rfl [(37, 14), (12, 2)] rfl ⟨⟨by decide, up (up (up (up (up (up (up (up (up self))))))))⟩, ⟨by decide, up (up (dn self))⟩, trivial⟩
    ((Instr.vsts.injEq ..).mpr ⟨hdr_word, bd (up (up (up (up (up (up (up (up (dn self))))))))), bd (up (up (up (up (up (up (up (dn self)))))))), bd (up (up (up (up (up
    (up (dn self))))))), bd (up (up (up (up (up (dn self)))))), bd (up (up (up (up (dn self))))), bd (up (up (up (dn self)))), bd (up (dn self)), bd (dn self)⟩) w
theorem vexp (h : Hdr) (v : Tv) : Statement (.vexp h v) :=
  fun _ w => tvWord 0x68 .vexp rfl h v w
theorem vlog (h : Hdr) (v : Tv) : Statement (.vlog h v) :=
  fun _ w => tvWord 0x69 .vlog rfl h v w
theorem vsin (h : Hdr) (v : Tv) : Statement (.vsin h v) :=
  fun _ w => tvWord 0x6A .vsin rfl h v w
theorem vcos (h : Hdr) (v : Tv) : Statement (.vcos h v) :=
  fun _ w => tvWord 0x6B .vcos rfl h v w
theorem vtanh (h : Hdr) (v : Tv) : Statement (.vtanh h v) :=
  fun _ w => tvWord 0x6C .vtanh rfl h v w
theorem vrsq (h : Hdr) (v : Tv) : Statement (.vrsq h v) :=
  fun _ w => tvWord 0x6D .vrsq rfl h v w
theorem vrcp (h : Hdr) (v : Tv) : Statement (.vrcp h v) :=
  fun _ w => tvWord 0x6E .vrcp rfl h v w
theorem vsig (h : Hdr) (v : Tv) : Statement (.vsig h v) :=
  fun _ w => tvWord 0x6F .vsig rfl h v w
theorem mmaDb8 (h : Hdr) (ec : Ec) (sx : BitVec 5) (slab : BitVec 3) (prof : BitVec 4) (ts : BitVec 1) (t : BitVec 6) (tv : BitVec 4) (peek : BitVec 1) : Statement (.mmaDb8 h ec sx slab prof ts t tv peek) :=
  fun _ w => wordRow (op := 0x80) _ rfl [(21, 10), (0, 2)] rfl ⟨⟨by decide, up (up (up (up (up (up (up (dn self)))))))⟩, ⟨by decide, dn self⟩, trivial⟩ ((Instr.mmaDb8.injEq
    ..).mpr ⟨hdr_word, ec_word _ (up (up (up (up (up (up (up (up (up self))))))))), bd (up (up (up (up (up (up (up (up (dn self))))))))), bd (up (up (up (up (up (up (dn
    self))))))), bd (up (up (up (up (up (dn self)))))), bd (up (up (up (up (dn self))))), bd (up (up (up (dn self)))), bd (up (up (dn self))), bd (up (dn self))⟩) w
theorem mmaDb4 (h : Hdr) (ec : Ec) (sx : BitVec 5) (slab : BitVec 3) (prof : BitVec 4) (ts : BitVec 1) (t : BitVec 6) (tv : BitVec 4) (peek : BitVec 1) : Statement (.mmaDb4 h ec sx slab prof ts t tv peek) :=
  fun _ w => wordRow (op := 0x81) _ rfl [(21, 10), (0, 2)] rfl ⟨⟨by decide, up (up (up (up (up (up (up (dn self)))))))⟩, ⟨by decide, dn self⟩, trivial⟩ ((Instr.mmaDb4.injEq
    ..).mpr ⟨hdr_word, ec_word _ (up (up (up (up (up (up (up (up (up self))))))))), bd (up (up (up (up (up (up (up (up (dn self))))))))), bd (up (up (up (up (up (up (dn
    self))))))), bd (up (up (up (up (up (dn self)))))), bd (up (up (up (up (dn self))))), bd (up (up (up (dn self)))), bd (up (up (dn self))), bd (up (dn self))⟩) w
theorem mmaI8 (h : Hdr) (ec : Ec) (sx : BitVec 5) (slab : BitVec 3) (prof : BitVec 4) (ts : BitVec 1) (t : BitVec 6) (tv : BitVec 4) (peek : BitVec 1) : Statement (.mmaI8 h ec sx slab prof ts t tv peek) :=
  fun _ w => wordRow (op := 0x82) _ rfl [(21, 10), (0, 2)] rfl ⟨⟨by decide, up (up (up (up (up (up (up (dn self)))))))⟩, ⟨by decide, dn self⟩, trivial⟩ ((Instr.mmaI8.injEq
    ..).mpr ⟨hdr_word, ec_word _ (up (up (up (up (up (up (up (up (up self))))))))), bd (up (up (up (up (up (up (up (up (dn self))))))))), bd (up (up (up (up (up (up (dn
    self))))))), bd (up (up (up (up (up (dn self)))))), bd (up (up (up (up (dn self))))), bd (up (up (up (dn self)))), bd (up (up (dn self))), bd (up (dn self))⟩) w
theorem mma2 (h : Hdr) (ec : Ec) (sx : BitVec 5) (slab : BitVec 3) (prof : BitVec 4) (ts : BitVec 1) (t : BitVec 6) (tv : BitVec 4) (peek : BitVec 1) : Statement (.mma2 h ec sx slab prof ts t tv peek) :=
  fun _ w => wordRow (op := 0x83) _ rfl [(21, 10), (0, 2)] rfl ⟨⟨by decide, up (up (up (up (up (up (up (dn self)))))))⟩, ⟨by decide, dn self⟩, trivial⟩ ((Instr.mma2.injEq
    ..).mpr ⟨hdr_word, ec_word _ (up (up (up (up (up (up (up (up (up self))))))))), bd (up (up (up (up (up (up (up (up (dn self))))))))), bd (up (up (up (up (up (up (dn
    self))))))), bd (up (up (up (up (up (dn self)))))), bd (up (up (up (up (dn self))))), bd (up (up (up (dn self)))), bd (up (up (dn self))), bd (up (dn self))⟩) w
theorem sldDb8 (h : Hdr) (ec : Ec) (sy : BitVec 5) (slab : BitVec 3) : Statement (.sldDb8 h ec sy slab) :=
  fun _ w => wordRow (op := 0x84) _ rfl [(31, 5), (21, 5), (0, 18)] rfl ⟨⟨by decide, up (up (up (up (dn self))))⟩, ⟨by decide, up (up (dn self))⟩, ⟨by decide, dn self⟩,
    trivial⟩ ((Instr.sldDb8.injEq ..).mpr ⟨hdr_word, ec_word _ (up (up (up (up (up self))))), bd (up (up (up (dn self)))), bd (up (dn self))⟩) w
theorem sldDb4 (h : Hdr) (ec : Ec) (sy : BitVec 5) (slab : BitVec 3) : Statement (.sldDb4 h ec sy slab) :=
  fun _ w => wordRow (op := 0x85) _ rfl [(31, 5), (21, 5), (0, 18)] rfl ⟨⟨by decide, up (up (up (up (dn self))))⟩, ⟨by decide, up (up (dn self))⟩, ⟨by decide, dn self⟩,
    trivial⟩ ((Instr.sldDb4.injEq ..).mpr ⟨hdr_word, ec_word _ (up (up (up (up (up self))))), bd (up (up (up (dn self)))), bd (up (dn self))⟩) w
theorem sldI8 (h : Hdr) (ec : Ec) (sy : BitVec 5) (slab : BitVec 3) : Statement (.sldI8 h ec sy slab) :=
  fun _ w => wordRow (op := 0x86) _ rfl [(31, 5), (21, 5), (0, 18)] rfl ⟨⟨by decide, up (up (up (up (dn self))))⟩, ⟨by decide, up (up (dn self))⟩, ⟨by decide, dn self⟩,
    trivial⟩ ((Instr.sldI8.injEq ..).mpr ⟨hdr_word, ec_word _ (up (up (up (up (up self))))), bd (up (up (up (dn self)))), bd (up (dn self))⟩) w
theorem sldB16 (h : Hdr) (ec : Ec) (sy : BitVec 5) (slab : BitVec 3) : Statement (.sldB16 h ec sy slab) :=
  fun _ w => wordRow (op := 0x87) _ rfl [(31, 5), (21, 5), (0, 18)] rfl ⟨⟨by decide, up (up (up (up (dn self))))⟩, ⟨by decide, up (up (dn self))⟩, ⟨by decide, dn self⟩,
    trivial⟩ ((Instr.sldB16.injEq ..).mpr ⟨hdr_word, ec_word _ (up (up (up (up (up self))))), bd (up (up (up (dn self)))), bd (up (dn self))⟩) w
theorem sswap (h : Hdr) (ec : Ec) (slab : BitVec 3) : Statement (.sswap h ec slab) :=
  fun _ w => wordRow (op := 0x88) _ rfl [(21, 15), (0, 18)] rfl ⟨⟨by decide, up (up (dn self))⟩, ⟨by decide, dn self⟩, trivial⟩ ((Instr.sswap.injEq ..).mpr ⟨hdr_word,
    ec_word _ (up (up (up self))), bd (up (dn self))⟩) w
theorem mrot (h : Hdr) (ec : Ec) (slab : BitVec 3) : Statement (.mrot h ec slab) :=
  fun _ w => wordRow (op := 0x89) _ rfl [(21, 15), (0, 18)] rfl ⟨⟨by decide, up (up (dn self))⟩, ⟨by decide, dn self⟩, trivial⟩ ((Instr.mrot.injEq ..).mpr ⟨hdr_word,
    ec_word _ (up (up (up self))), bd (up (dn self))⟩) w
theorem mfixF32 (h : Hdr) (ec : Ec) (sx : BitVec 5) (slab : BitVec 3) (rdn : BitVec 4) (dst : BitVec 1) (t : BitVec 6) (tv : BitVec 4) : Statement (.mfixF32 h ec sx slab rdn dst t tv) :=
  fun _ w => wordRow (op := 0x8A) _ rfl [(21, 10), (0, 3)] rfl ⟨⟨by decide, up (up (up (up (up (up (dn self))))))⟩, ⟨by decide, dn self⟩, trivial⟩ ((Instr.mfixF32.injEq
    ..).mpr ⟨hdr_word, ec_word _ (up (up (up (up (up (up (up (up self)))))))), bd (up (up (up (up (up (up (up (dn self)))))))), bd (up (up (up (up (up (dn self)))))), bd
    (up (up (up (up (dn self))))), bd (up (up (up (dn self)))), bd (up (up (dn self))), bd (up (dn self))⟩) w
theorem mfixB16 (h : Hdr) (ec : Ec) (sx : BitVec 5) (slab : BitVec 3) (rdn : BitVec 4) (dst : BitVec 1) (t : BitVec 6) (tv : BitVec 4) : Statement (.mfixB16 h ec sx slab rdn dst t tv) :=
  fun _ w => wordRow (op := 0x8B) _ rfl [(21, 10), (0, 3)] rfl ⟨⟨by decide, up (up (up (up (up (up (dn self))))))⟩, ⟨by decide, dn self⟩, trivial⟩ ((Instr.mfixB16.injEq
    ..).mpr ⟨hdr_word, ec_word _ (up (up (up (up (up (up (up (up self)))))))), bd (up (up (up (up (up (up (up (dn self)))))))), bd (up (up (up (up (up (dn self)))))), bd
    (up (up (up (up (dn self))))), bd (up (up (up (dn self)))), bd (up (up (dn self))), bd (up (dn self))⟩) w
theorem mfixI8 (h : Hdr) (ec : Ec) (sx : BitVec 5) (slab : BitVec 3) (rdn : BitVec 4) (dst : BitVec 1) (t : BitVec 6) (tv : BitVec 4) : Statement (.mfixI8 h ec sx slab rdn dst t tv) :=
  fun _ w => wordRow (op := 0x8C) _ rfl [(21, 10), (0, 3)] rfl ⟨⟨by decide, up (up (up (up (up (up (dn self))))))⟩, ⟨by decide, dn self⟩, trivial⟩ ((Instr.mfixI8.injEq
    ..).mpr ⟨hdr_word, ec_word _ (up (up (up (up (up (up (up (up self)))))))), bd (up (up (up (up (up (up (up (dn self)))))))), bd (up (up (up (up (up (dn self)))))), bd
    (up (up (up (up (dn self))))), bd (up (up (up (dn self)))), bd (up (up (dn self))), bd (up (dn self))⟩) w
theorem mfixDb8 (h : Hdr) (ec : Ec) (sx : BitVec 5) (slab : BitVec 3) (rdn : BitVec 4) (dst : BitVec 1) (t : BitVec 6) (tv : BitVec 4) : Statement (.mfixDb8 h ec sx slab rdn dst t tv) :=
  fun _ w => wordRow (op := 0x8D) _ rfl [(21, 10), (0, 3)] rfl ⟨⟨by decide, up (up (up (up (up (up (dn self))))))⟩, ⟨by decide, dn self⟩, trivial⟩ ((Instr.mfixDb8.injEq
    ..).mpr ⟨hdr_word, ec_word _ (up (up (up (up (up (up (up (up self)))))))), bd (up (up (up (up (up (up (up (dn self)))))))), bd (up (up (up (up (up (dn self)))))), bd
    (up (up (up (up (dn self))))), bd (up (up (up (dn self)))), bd (up (up (dn self))), bd (up (dn self))⟩) w
theorem mfixDb4 (h : Hdr) (ec : Ec) (sx : BitVec 5) (slab : BitVec 3) (rdn : BitVec 4) (dst : BitVec 1) (t : BitVec 6) (tv : BitVec 4) : Statement (.mfixDb4 h ec sx slab rdn dst t tv) :=
  fun _ w => wordRow (op := 0x8E) _ rfl [(21, 10), (0, 3)] rfl ⟨⟨by decide, up (up (up (up (up (up (dn self))))))⟩, ⟨by decide, dn self⟩, trivial⟩ ((Instr.mfixDb4.injEq
    ..).mpr ⟨hdr_word, ec_word _ (up (up (up (up (up (up (up (up self)))))))), bd (up (up (up (up (up (up (up (dn self)))))))), bd (up (up (up (up (up (dn self)))))), bd
    (up (up (up (up (dn self))))), bd (up (up (up (dn self)))), bd (up (up (dn self))), bd (up (dn self))⟩) w
theorem mzero (h : Hdr) (ec : Ec) (slab : BitVec 3) : Statement (.mzero h ec slab) :=
  fun _ w => wordRow (op := 0x8F) _ rfl [(21, 15), (0, 18)] rfl ⟨⟨by decide, up (up (dn self))⟩, ⟨by decide, dn self⟩, trivial⟩ ((Instr.mzero.injEq ..).mpr ⟨hdr_word,
    ec_word _ (up (up (up self))), bd (up (dn self))⟩) w
theorem cpyLd (h : Hdr) (ec : Ec) (sx : BitVec 5) (sy : BitVec 5) (sz : BitVec 5) (rd : BitVec 3) (hint : BitVec 2) : Statement (.cpyLd h ec sx sy sz rd hint) :=
  fun _ w => wordRow (op := 0x90) _ rfl [(0, 16)] rfl ⟨⟨by decide, dn self⟩, trivial⟩ ((Instr.cpyLd.injEq ..).mpr ⟨hdr_word, ec_word _ (up (up (up (up (up (up self)))))),
    bd (up (up (up (up (up (dn self)))))), bd (up (up (up (up (dn self))))), bd (up (up (up (dn self)))), bd (up (up (dn self))), bd (up (dn self))⟩) w
theorem cpySt (h : Hdr) (ec : Ec) (sx : BitVec 5) (sy : BitVec 5) (sz : BitVec 5) (rd : BitVec 3) (hint : BitVec 2) : Statement (.cpySt h ec sx sy sz rd hint) :=
  fun _ w => wordRow (op := 0x91) _ rfl [(0, 16)] rfl ⟨⟨by decide, dn self⟩, trivial⟩ ((Instr.cpySt.injEq ..).mpr ⟨hdr_word, ec_word _ (up (up (up (up (up (up self)))))),
    bd (up (up (up (up (up (dn self)))))), bd (up (up (up (up (dn self))))), bd (up (up (up (dn self)))), bd (up (up (dn self))), bd (up (dn self))⟩) w
theorem gath (h : Hdr) (ec : Ec) (sx : BitVec 5) (sy : BitVec 5) (sz : BitVec 5) (rd : BitVec 3) (hint : BitVec 2) (rowl : BitVec 6) : Statement (.gath h ec sx sy sz rd hint rowl) :=
  fun _ w => wordRow (op := 0x92) _ rfl [(0, 10)] rfl ⟨⟨by decide, dn self⟩, trivial⟩ ((Instr.gath.injEq ..).mpr ⟨hdr_word, ec_word _ (up (up (up (up (up (up (up
    self))))))), bd (up (up (up (up (up (up (dn self))))))), bd (up (up (up (up (up (dn self)))))), bd (up (up (up (up (dn self))))), bd (up (up (up (dn self)))), bd (up
    (up (dn self))), bd (up (dn self))⟩) w
theorem scat (h : Hdr) (ec : Ec) (sx : BitVec 5) (sy : BitVec 5) (sz : BitVec 5) (rd : BitVec 3) (hint : BitVec 2) (rowl : BitVec 6) : Statement (.scat h ec sx sy sz rd hint rowl) :=
  fun _ w => wordRow (op := 0x93) _ rfl [(0, 10)] rfl ⟨⟨by decide, dn self⟩, trivial⟩ ((Instr.scat.injEq ..).mpr ⟨hdr_word, ec_word _ (up (up (up (up (up (up (up
    self))))))), bd (up (up (up (up (up (up (dn self))))))), bd (up (up (up (up (up (dn self)))))), bd (up (up (up (up (dn self))))), bd (up (up (up (dn self)))), bd (up
    (up (dn self))), bd (up (dn self))⟩) w
theorem fillLd (h : Hdr) (ec : Ec) (sx : BitVec 5) (sy : BitVec 5) (sz : BitVec 5) (rd : BitVec 3) (hint : BitVec 2) : Statement (.fillLd h ec sx sy sz rd hint) :=
  fun _ w => wordRow (op := 0x94) _ rfl [(0, 16)] rfl ⟨⟨by decide, dn self⟩, trivial⟩ ((Instr.fillLd.injEq ..).mpr ⟨hdr_word, ec_word _ (up (up (up (up (up (up self)))))),
    bd (up (up (up (up (up (dn self)))))), bd (up (up (up (up (dn self))))), bd (up (up (up (dn self)))), bd (up (up (dn self))), bd (up (dn self))⟩) w
theorem fillSt (h : Hdr) (ec : Ec) (sx : BitVec 5) (sy : BitVec 5) (sz : BitVec 5) (rd : BitVec 3) (hint : BitVec 2) : Statement (.fillSt h ec sx sy sz rd hint) :=
  fun _ w => wordRow (op := 0x95) _ rfl [(0, 16)] rfl ⟨⟨by decide, dn self⟩, trivial⟩ ((Instr.fillSt.injEq ..).mpr ⟨hdr_word, ec_word _ (up (up (up (up (up (up self)))))),
    bd (up (up (up (up (up (dn self)))))), bd (up (up (up (up (dn self))))), bd (up (up (up (dn self)))), bd (up (up (dn self))), bd (up (dn self))⟩) w
theorem clinkLd (h : Hdr) (sy : BitVec 5) : Statement (.clinkLd h sy) :=
  fun _ w => wordRow (op := 0x96) _ rfl [(31, 20), (0, 26)] rfl ⟨⟨by decide, up (up self)⟩, ⟨by decide, dn self⟩, trivial⟩ ((Instr.clinkLd.injEq ..).mpr ⟨hdr_word, bd (up
    (dn self))⟩) w
theorem clinkSt (h : Hdr) (sy : BitVec 5) : Statement (.clinkSt h sy) :=
  fun _ w => wordRow (op := 0x97) _ rfl [(31, 20), (0, 26)] rfl ⟨⟨by decide, up (up self)⟩, ⟨by decide, dn self⟩, trivial⟩ ((Instr.clinkSt.injEq ..).mpr ⟨hdr_word, bd (up
    (dn self))⟩) w
theorem ckick (h : Hdr) (eng : BitVec 1) : Statement (.ckick h eng) :=
  fun _ w => wordRow (op := 0x98) _ rfl [(1, 50)] rfl ⟨⟨by decide, up self⟩, trivial⟩ ((Instr.ckick.injEq ..).mpr ⟨hdr_word, bd (dn self)⟩) w
theorem hconf (h : Hdr) (sx : BitVec 5) (sy : BitVec 5) (sz : BitVec 5) (kind : BitVec 2) (hd : BitVec 4) : Statement (.hconf h sx sy sz kind hd) :=
  fun _ w => wordRow (op := 0x99) _ rfl [(36, 15), (6, 15)] rfl ⟨⟨by decide, up (up (up (up (up (up self)))))⟩, ⟨by decide, up (up (dn self))⟩, trivial⟩ ((Instr.hconf.injEq
    ..).mpr ⟨hdr_word, bd (up (up (up (up (up (dn self)))))), bd (up (up (up (up (dn self))))), bd (up (up (up (dn self)))), bd (up (dn self)), bd (dn self)⟩) w
theorem radvp (h : Hdr) (n : BitVec 16) (hd : BitVec 4) : Statement (.radvp h n hd) :=
  fun _ w => wordRow (op := 0x9A) _ rfl [(20, 31)] rfl ⟨⟨by decide, up (up self)⟩, trivial⟩ ((Instr.radvp.injEq ..).mpr ⟨hdr_word, bd (up (dn self)), bd (dn self)⟩) w
theorem radvc (h : Hdr) (n : BitVec 16) (hd : BitVec 4) : Statement (.radvc h n hd) :=
  fun _ w => wordRow (op := 0x9B) _ rfl [(20, 31)] rfl ⟨⟨by decide, up (up self)⟩, trivial⟩ ((Instr.radvc.injEq ..).mpr ⟨hdr_word, bd (up (dn self)), bd (dn self)⟩) w
theorem rwaitf (h : Hdr) (n : BitVec 16) (hd : BitVec 4) : Statement (.rwaitf h n hd) :=
  fun _ w => wordRow (op := 0x9C) _ rfl [(20, 31)] rfl ⟨⟨by decide, up (up self)⟩, trivial⟩ ((Instr.rwaitf.injEq ..).mpr ⟨hdr_word, bd (up (dn self)), bd (dn self)⟩) w
theorem rwaite (h : Hdr) (n : BitVec 16) (hd : BitVec 4) : Statement (.rwaite h n hd) :=
  fun _ w => wordRow (op := 0x9D) _ rfl [(20, 31)] rfl ⟨⟨by decide, up (up self)⟩, trivial⟩ ((Instr.rwaite.injEq ..).mpr ⟨hdr_word, bd (up (dn self)), bd (dn self)⟩) w
theorem tksend (h : Hdr) (q : BitVec 2) : Statement (.tksend h q) :=
  fun _ w => wordRow (op := 0x9E) _ rfl [(2, 49)] rfl ⟨⟨by decide, up self⟩, trivial⟩ ((Instr.tksend.injEq ..).mpr ⟨hdr_word, bd (dn self)⟩) w
theorem tkwait (h : Hdr) (q : BitVec 2) : Statement (.tkwait h q) :=
  fun _ w => wordRow (op := 0x9F) _ rfl [(2, 49)] rfl ⟨⟨by decide, up self⟩, trivial⟩ ((Instr.tkwait.injEq ..).mpr ⟨hdr_word, bd (dn self)⟩) w
theorem gld (h : Hdr) (a : Aq) : Statement (.gld h a) :=
  fun _ w => aqWord 0xA0 .gld rfl h a w
theorem gst (h : Hdr) (a : Aq) : Statement (.gst h a) :=
  fun _ w => aqWord 0xA1 .gst rfl h a w
theorem aaddN32 (h : Hdr) (a : Aq) : Statement (.aaddN32 h a) :=
  fun _ w => aqWord 0xA2 .aaddN32 rfl h a w
theorem aaddN64 (h : Hdr) (a : Aq) : Statement (.aaddN64 h a) :=
  fun _ w => aqWord 0xA3 .aaddN64 rfl h a w
theorem afaddF32 (h : Hdr) (a : Aq) : Statement (.afaddF32 h a) :=
  fun _ w => aqWord 0xA4 .afaddF32 rfl h a w
theorem afaddB16 (h : Hdr) (a : Aq) : Statement (.afaddB16 h a) :=
  fun _ w => aqWord 0xA5 .afaddB16 rfl h a w
theorem aminI32 (h : Hdr) (a : Aq) : Statement (.aminI32 h a) :=
  fun _ w => aqWord 0xA6 .aminI32 rfl h a w
theorem aminI64 (h : Hdr) (a : Aq) : Statement (.aminI64 h a) :=
  fun _ w => aqWord 0xA7 .aminI64 rfl h a w
theorem aminN32 (h : Hdr) (a : Aq) : Statement (.aminN32 h a) :=
  fun _ w => aqWord 0xA8 .aminN32 rfl h a w
theorem aminN64 (h : Hdr) (a : Aq) : Statement (.aminN64 h a) :=
  fun _ w => aqWord 0xA9 .aminN64 rfl h a w
theorem amaxI32 (h : Hdr) (a : Aq) : Statement (.amaxI32 h a) :=
  fun _ w => aqWord 0xAA .amaxI32 rfl h a w
theorem amaxI64 (h : Hdr) (a : Aq) : Statement (.amaxI64 h a) :=
  fun _ w => aqWord 0xAB .amaxI64 rfl h a w
theorem amaxN32 (h : Hdr) (a : Aq) : Statement (.amaxN32 h a) :=
  fun _ w => aqWord 0xAC .amaxN32 rfl h a w
theorem amaxN64 (h : Hdr) (a : Aq) : Statement (.amaxN64 h a) :=
  fun _ w => aqWord 0xAD .amaxN64 rfl h a w
theorem aandN32 (h : Hdr) (a : Aq) : Statement (.aandN32 h a) :=
  fun _ w => aqWord 0xAE .aandN32 rfl h a w
theorem aandN64 (h : Hdr) (a : Aq) : Statement (.aandN64 h a) :=
  fun _ w => aqWord 0xAF .aandN64 rfl h a w
theorem aorN32 (h : Hdr) (a : Aq) : Statement (.aorN32 h a) :=
  fun _ w => aqWord 0xB0 .aorN32 rfl h a w
theorem aorN64 (h : Hdr) (a : Aq) : Statement (.aorN64 h a) :=
  fun _ w => aqWord 0xB1 .aorN64 rfl h a w
theorem axorN32 (h : Hdr) (a : Aq) : Statement (.axorN32 h a) :=
  fun _ w => aqWord 0xB2 .axorN32 rfl h a w
theorem axorN64 (h : Hdr) (a : Aq) : Statement (.axorN64 h a) :=
  fun _ w => aqWord 0xB3 .axorN64 rfl h a w
theorem axchgN32 (h : Hdr) (a : Aq) : Statement (.axchgN32 h a) :=
  fun _ w => aqWord 0xB4 .axchgN32 rfl h a w
theorem axchgN64 (h : Hdr) (a : Aq) : Statement (.axchgN64 h a) :=
  fun _ w => aqWord 0xB5 .axchgN64 rfl h a w
theorem axchgN128 (h : Hdr) (a : Aq) : Statement (.axchgN128 h a) :=
  fun _ w => aqWord 0xB6 .axchgN128 rfl h a w
theorem acasN32 (h : Hdr) (a : Aq) : Statement (.acasN32 h a) :=
  fun _ w => aqWord 0xB7 .acasN32 rfl h a w
theorem acasN64 (h : Hdr) (a : Aq) : Statement (.acasN64 h a) :=
  fun _ w => aqWord 0xB8 .acasN64 rfl h a w
theorem acasN128 (h : Hdr) (a : Aq) : Statement (.acasN128 h a) :=
  fun _ w => aqWord 0xB9 .acasN128 rfl h a w
theorem aprom (h : Hdr) (a : Aq) : Statement (.aprom h a) :=
  fun _ w => aqWord 0xBA .aprom rfl h a w
theorem fence (h : Hdr) (a : Aq) : Statement (.fence h a) :=
  fun _ w => aqWord 0xBB .fence rfl h a w
theorem pf (h : Hdr) (a : Aq) : Statement (.pf h a) :=
  fun _ w => aqWord 0xBC .pf rfl h a w
theorem linv (h : Hdr) (a : Aq) : Statement (.linv h a) :=
  fun _ w => aqWord 0xBD .linv rfl h a w
theorem lwb (h : Hdr) (a : Aq) : Statement (.lwb h a) :=
  fun _ w => aqWord 0xBE .lwb rfl h a w
theorem dvred (h : Hdr) (a : Aq) : Statement (.dvred h a) :=
  fun _ w => aqWord 0xBF .dvred rfl h a w
theorem tspawn (h : Hdr) (a : Aq) : Statement (.tspawn h a) :=
  fun _ w => aqWord 0xC0 .tspawn rfl h a w
theorem tstageReg (h : Hdr) (a : Aq) : Statement (.tstageReg h a) :=
  fun _ w => aqWord 0xC1 .tstageReg rfl h a w
theorem tstageImm (h : Hdr) (a : Aq) : Statement (.tstageImm h a) :=
  fun _ w => aqWord 0xC2 .tstageImm rfl h a w
theorem tend (h : Hdr) : Statement (.tend h) :=
  fun _ w => wordRow (op := 0xC3) _ rfl [(0, 51)] rfl ⟨⟨by decide, self⟩, trivial⟩ ((Instr.tend.injEq ..).mpr hdr_word) w
theorem tjoin (h : Hdr) (a : Aq) : Statement (.tjoin h a) :=
  fun _ w => aqWord 0xC4 .tjoin rfl h a w
theorem joinReg (h : Hdr) (a : Aq) : Statement (.joinReg h a) :=
  fun _ w => aqWord 0xC5 .joinReg rfl h a w
theorem joinImm (h : Hdr) (a : Aq) : Statement (.joinImm h a) :=
  fun _ w => aqWord 0xC6 .joinImm rfl h a w
theorem leaveReg (h : Hdr) (a : Aq) : Statement (.leaveReg h a) :=
  fun _ w => aqWord 0xC7 .leaveReg rfl h a w
theorem leaveImm (h : Hdr) (a : Aq) : Statement (.leaveImm h a) :=
  fun _ w => aqWord 0xC8 .leaveImm rfl h a w
theorem bargReg (h : Hdr) (a : Aq) : Statement (.bargReg h a) :=
  fun _ w => aqWord 0xC9 .bargReg rfl h a w
theorem bargImm (h : Hdr) (a : Aq) : Statement (.bargImm h a) :=
  fun _ w => aqWord 0xCA .bargImm rfl h a w
theorem gcountReg (h : Hdr) (a : Aq) : Statement (.gcountReg h a) :=
  fun _ w => aqWord 0xCB .gcountReg rfl h a w
theorem gcountImm (h : Hdr) (a : Aq) : Statement (.gcountImm h a) :=
  fun _ w => aqWord 0xCC .gcountImm rfl h a w
theorem imprv (h : Hdr) (a : Aq) : Statement (.imprv h a) :=
  fun _ w => aqWord 0xCD .imprv rfl h a w
theorem iread (h : Hdr) (a : Aq) : Statement (.iread h a) :=
  fun _ w => aqWord 0xCE .iread rfl h a w
theorem kchk (h : Hdr) (a : Aq) : Statement (.kchk h a) :=
  fun _ w => aqWord 0xCF .kchk rfl h a w
theorem jrec (h : Hdr) (a : Aq) : Statement (.jrec h a) :=
  fun _ w => aqWord 0xD0 .jrec rfl h a w
theorem jwait (h : Hdr) (a : Aq) : Statement (.jwait h a) :=
  fun _ w => aqWord 0xD1 .jwait rfl h a w
theorem emitN32 (h : Hdr) (a : Aq) : Statement (.emitN32 h a) :=
  fun _ w => aqWord 0xD2 .emitN32 rfl h a w
theorem emitN64 (h : Hdr) (a : Aq) : Statement (.emitN64 h a) :=
  fun _ w => aqWord 0xD3 .emitN64 rfl h a w
theorem jtrunc (h : Hdr) (a : Aq) : Statement (.jtrunc h a) :=
  fun _ w => aqWord 0xD4 .jtrunc rfl h a w
theorem jreseat (h : Hdr) (a : Aq) : Statement (.jreseat h a) :=
  fun _ w => aqWord 0xD5 .jreseat rfl h a w
theorem seg (h : Hdr) (count : BitVec 19) (sig : BitVec 32) : Statement (.seg h count sig) :=
  fun _ w => wordRow (op := 0xD6) _ rfl [] rfl trivial ((Instr.seg.injEq ..).mpr ⟨hdr_word, bd (up self), bd (dn self)⟩) w
theorem segend (h : Hdr) : Statement (.segend h) :=
  fun _ w => wordRow (op := 0xD7) _ rfl [(0, 51)] rfl ⟨⟨by decide, self⟩, trivial⟩ ((Instr.segend.injEq ..).mpr hdr_word) w
theorem unassignedOpcode (w : Word) : Statement (.unassignedOpcode w) := by
  intro _ hw
  show decode w = _
  have none_of : ∀ op : BitVec 8, unassigned op = true → opRow? op.toNat = none := by decide +kernel
  unfold decode
  rw [none_of _ hw]

theorem syswrRetire : Statement .syswrRetire := fun h _ => nomatch h
theorem icinvComplete : Statement .icinvComplete := fun h _ => nomatch h
theorem xtEntryStart : Statement .xtEntryStart := fun h _ => nomatch h
theorem xtEntryPublish : Statement .xtEntryPublish := fun h _ => nomatch h
theorem tileLanding : Statement .tileLanding := fun h _ => nomatch h
theorem latentWriteLanding : Statement .latentWriteLanding := fun h _ => nomatch h
theorem matrixCommandStart : Statement .matrixCommandStart := fun h _ => nomatch h
theorem matrixCommandRetire : Statement .matrixCommandRetire := fun h _ => nomatch h
theorem engineUncorrectableError : Statement .engineUncorrectableError := fun h _ => nomatch h
theorem copyCommandStart : Statement .copyCommandStart := fun h _ => nomatch h
theorem copyCommandRetire : Statement .copyCommandRetire := fun h _ => nomatch h
theorem chainEntryFetch : Statement .chainEntryFetch := fun h _ => nomatch h
theorem chainWaitSatisfied : Statement .chainWaitSatisfied := fun h _ => nomatch h
theorem chainEntryRetire : Statement .chainEntryRetire := fun h _ => nomatch h
theorem tokenMarkerStart : Statement .tokenMarkerStart := fun h _ => nomatch h
theorem aqOperationPerform : Statement .aqOperationPerform := fun h _ => nomatch h
theorem releaseMarkerPerform : Statement .releaseMarkerPerform := fun h _ => nomatch h
theorem developerBlockStart : Statement .developerBlockStart := fun h _ => nomatch h
theorem developerFlagStore : Statement .developerFlagStore := fun h _ => nomatch h
theorem itemEnd : Statement .itemEnd := fun h _ => nomatch h
theorem barrierComplete : Statement .barrierComplete := fun h _ => nomatch h
theorem itemTake : Statement .itemTake := fun h _ => nomatch h
theorem itemStart : Statement .itemStart := fun h _ => nomatch h
theorem shadowUpdate : Statement .shadowUpdate := fun h _ => nomatch h
theorem reseatTailSent : Statement .reseatTailSent := fun h _ => nomatch h
theorem journalEntryReceive : Statement .journalEntryReceive := fun h _ => nomatch h
theorem journalAckReceive : Statement .journalAckReceive := fun h _ => nomatch h
theorem journalSilent : Statement .journalSilent := fun h _ => nomatch h
theorem probeSend : Statement .probeSend := fun h _ => nomatch h
theorem probeForward : Statement .probeForward := fun h _ => nomatch h
theorem bankDrowsy : Statement .bankDrowsy := fun h _ => nomatch h
theorem bankGated : Statement .bankGated := fun h _ => nomatch h
theorem bankRefresh : Statement .bankRefresh := fun h _ => nomatch h
theorem bankWakeDone : Statement .bankWakeDone := fun h _ => nomatch h
theorem faultDelivery : Statement .faultDelivery := fun h _ => nomatch h
theorem faultRingRetry : Statement .faultRingRetry := fun h _ => nomatch h
theorem coreContextFault : Statement .coreContextFault := fun h _ => nomatch h
theorem resumeStream : Statement .resumeStream := fun h _ => nomatch h
theorem abandonStream : Statement .abandonStream := fun h _ => nomatch h
theorem haltStream : Statement .haltStream := fun h _ => nomatch h
theorem pctlSave : Statement .pctlSave := fun h _ => nomatch h
theorem contextStop : Statement .contextStop := fun h _ => nomatch h
theorem saveComplete : Statement .saveComplete := fun h _ => nomatch h
theorem pctlResume : Statement .pctlResume := fun h _ => nomatch h
theorem pctlRestore : Statement .pctlRestore := fun h _ => nomatch h
theorem resetPartition : Statement .resetPartition := fun h _ => nomatch h
theorem resetEngine : Statement .resetEngine := fun h _ => nomatch h
theorem resetLink : Statement .resetLink := fun h _ => nomatch h
theorem resetChannel : Statement .resetChannel := fun h _ => nomatch h
theorem resetComplete : Statement .resetComplete := fun h _ => nomatch h
theorem sourceLasting : Statement .sourceLasting := fun h _ => nomatch h
theorem laneRepairPause : Statement .laneRepairPause := fun h _ => nomatch h
theorem laneRepairDone : Statement .laneRepairDone := fun h _ => nomatch h
theorem dieHeartbeatLoss : Statement .dieHeartbeatLoss := fun h _ => nomatch h
theorem junctionOvertemp : Statement .junctionOvertemp := fun h _ => nomatch h
theorem mailboxGo : Statement .mailboxGo := fun h _ => nomatch h
theorem launchLoad : Statement .launchLoad := fun h _ => nomatch h
theorem streamsStart : Statement .streamsStart := fun h _ => nomatch h
theorem launchEnd : Statement .launchEnd := fun h _ => nomatch h
theorem deviceReset : Statement .deviceReset := fun h _ => nomatch h
theorem bootPhaseComplete : Statement .bootPhaseComplete := fun h _ => nomatch h
theorem hostMemoryRead : Statement .hostMemoryRead := fun h _ => nomatch h
theorem hostMemoryWrite : Statement .hostMemoryWrite := fun h _ => nomatch h
theorem hostRegisterWrite : Statement .hostRegisterWrite := fun h _ => nomatch h
theorem ctxrootWrite : Statement .ctxrootWrite := fun h _ => nomatch h
theorem tuInvGo : Statement .tuInvGo := fun h _ => nomatch h
theorem tuInvDone : Statement .tuInvDone := fun h _ => nomatch h
theorem negwinWrite : Statement .negwinWrite := fun h _ => nomatch h
theorem jrouteWrite : Statement .jrouteWrite := fun h _ => nomatch h
theorem hnqReadIndexWrite : Statement .hnqReadIndexWrite := fun h _ => nomatch h
theorem attnGo : Statement .attnGo := fun h _ => nomatch h
theorem ksOpen : Statement .ksOpen := fun h _ => nomatch h
theorem ksAgree : Statement .ksAgree := fun h _ => nomatch h
theorem ksInstall : Statement .ksInstall := fun h _ => nomatch h
theorem ksClose : Statement .ksClose := fun h _ => nomatch h
theorem cringEnable : Statement .cringEnable := fun h _ => nomatch h
theorem ringVisit : Statement .ringVisit := fun h _ => nomatch h
theorem workRequestFinish : Statement .workRequestFinish := fun h _ => nomatch h
theorem switchHop : Statement .switchHop := fun h _ => nomatch h
theorem redTimeout : Statement .redTimeout := fun h _ => nomatch h
theorem apertureDelivery : Statement .apertureDelivery := fun h _ => nomatch h
theorem pullReply : Statement .pullReply := fun h _ => nomatch h
theorem pullReplyReceive : Statement .pullReplyReceive := fun h _ => nomatch h
theorem remoteAccessRequest : Statement .remoteAccessRequest := fun h _ => nomatch h
theorem flitReceive : Statement .flitReceive := fun h _ => nomatch h
theorem linkDown : Statement .linkDown := fun h _ => nomatch h
theorem restoreComplete : Statement .restoreComplete := fun h _ => nomatch h
theorem hbmScrub : Statement .hbmScrub := fun h _ => nomatch h
theorem packetStatusReturn : Statement .packetStatusReturn := fun h _ => nomatch h
theorem attnReportComplete : Statement .attnReportComplete := fun h _ => nomatch h
theorem keySessionCommandDone : Statement .keySessionCommandDone := fun h _ => nomatch h

end Sys2Proof.Laws.RoundTrip
end

