-- ==== Sys2Proof/Laws/Queue.lean ====
section
/-! SUPPORT. Laws/Queue.lean: what entering an engine queue or the access queue does to the issuing stream and leaves alone. -/
namespace Sys2Proof.Machine

/-! ## A stream whose queue takes an entry -/

@[simp] theorem Stream.setQueue_s (t : Stream) (q : Nat) (l : List QEntry) : (t.setQueue q l).s = t.s := by
  unfold Stream.setQueue; split <;> rfl
@[simp] theorem Stream.enter_s (t : Stream) (q : Nat) (e : QEntry) : (t.enter q e).s = t.s := Stream.setQueue_s _ _ _
@[simp] theorem Stream.setQueue_q (t : Stream) (q : Nat) (l : List QEntry) : (t.setQueue q l).q = t.q := by
  unfold Stream.setQueue; split <;> rfl
@[simp] theorem Stream.enter_q (t : Stream) (q : Nat) (e : QEntry) : (t.enter q e).q = t.q := Stream.setQueue_q _ _ _
@[simp] theorem Stream.setQueue_m (t : Stream) (q : Nat) (l : List QEntry) : (t.setQueue q l).m = t.m := by
  unfold Stream.setQueue; split <;> rfl
@[simp] theorem Stream.enter_m (t : Stream) (q : Nat) (e : QEntry) : (t.enter q e).m = t.m := Stream.setQueue_m _ _ _
@[simp] theorem Stream.setQueue_j (t : Stream) (q : Nat) (l : List QEntry) : (t.setQueue q l).j = t.j := by
  unfold Stream.setQueue; split <;> rfl
@[simp] theorem Stream.enter_j (t : Stream) (q : Nat) (e : QEntry) : (t.enter q e).j = t.j := Stream.setQueue_j _ _ _
@[simp] theorem Stream.setQueue_latents (t : Stream) (q : Nat) (l : List QEntry) : (t.setQueue q l).latents = t.latents := by
  unfold Stream.setQueue; split <;> rfl
@[simp] theorem Stream.enter_latents (t : Stream) (q : Nat) (e : QEntry) : (t.enter q e).latents = t.latents := Stream.setQueue_latents _ _ _
@[simp] theorem Stream.setQueue_pc (t : Stream) (q : Nat) (l : List QEntry) : (t.setQueue q l).pc = t.pc := by
  unfold Stream.setQueue; split <;> rfl
@[simp] theorem Stream.enter_pc (t : Stream) (q : Nat) (e : QEntry) : (t.enter q e).pc = t.pc := Stream.setQueue_pc _ _ _
@[simp] theorem Stream.setQueue_status (t : Stream) (q : Nat) (l : List QEntry) : (t.setQueue q l).status = t.status := by
  unfold Stream.setQueue; split <;> rfl
@[simp] theorem Stream.enter_status (t : Stream) (q : Nat) (e : QEntry) : (t.enter q e).status = t.status := Stream.setQueue_status _ _ _
@[simp] theorem Stream.setQueue_task (t : Stream) (q : Nat) (l : List QEntry) : (t.setQueue q l).task = t.task := by
  unfold Stream.setQueue; split <;> rfl
@[simp] theorem Stream.enter_task (t : Stream) (q : Nat) (e : QEntry) : (t.enter q e).task = t.task := Stream.setQueue_task _ _ _
@[simp] theorem Stream.setQueue_seg (t : Stream) (q : Nat) (l : List QEntry) : (t.setQueue q l).seg = t.seg := by
  unfold Stream.setQueue; split <;> rfl
@[simp] theorem Stream.enter_seg (t : Stream) (q : Nat) (e : QEntry) : (t.enter q e).seg = t.seg := Stream.setQueue_seg _ _ _
@[simp] theorem Stream.setQueue_region (t : Stream) (q : Nat) (l : List QEntry) : (t.setQueue q l).region = t.region := by
  unfold Stream.setQueue; split <;> rfl
@[simp] theorem Stream.enter_region (t : Stream) (q : Nat) (e : QEntry) : (t.enter q e).region = t.region := Stream.setQueue_region _ _ _
@[simp] theorem Stream.setQueue_charge (t : Stream) (q : Nat) (l : List QEntry) : (t.setQueue q l).charge = t.charge := by
  unfold Stream.setQueue; split <;> rfl
@[simp] theorem Stream.enter_charge (t : Stream) (q : Nat) (e : QEntry) : (t.enter q e).charge = t.charge := Stream.setQueue_charge _ _ _
@[simp] theorem Stream.setQueue_expchk (t : Stream) (q : Nat) (l : List QEntry) : (t.setQueue q l).expchk = t.expchk := by
  unfold Stream.setQueue; split <;> rfl
@[simp] theorem Stream.enter_expchk (t : Stream) (q : Nat) (e : QEntry) : (t.enter q e).expchk = t.expchk := Stream.setQueue_expchk _ _ _
@[simp] theorem Stream.setQueue_replies (t : Stream) (q : Nat) (l : List QEntry) : (t.setQueue q l).replies = t.replies := by
  unfold Stream.setQueue; split <;> rfl
@[simp] theorem Stream.enter_replies (t : Stream) (q : Nat) (e : QEntry) : (t.enter q e).replies = t.replies := Stream.setQueue_replies _ _ _
@[simp] theorem Stream.setQueue_tokens (t : Stream) (q : Nat) (l : List QEntry) : (t.setQueue q l).tokens = t.tokens := by
  unfold Stream.setQueue; split <;> rfl
@[simp] theorem Stream.enter_tokens (t : Stream) (q : Nat) (e : QEntry) : (t.enter q e).tokens = t.tokens := Stream.setQueue_tokens _ _ _
@[simp] theorem Stream.setQueue_clocks (t : Stream) (q : Nat) (l : List QEntry) : (t.setQueue q l).clocks = t.clocks := by
  unfold Stream.setQueue; split <;> rfl
@[simp] theorem Stream.enter_clocks (t : Stream) (q : Nat) (e : QEntry) : (t.enter q e).clocks = t.clocks := Stream.setQueue_clocks _ _ _
@[simp] theorem Stream.setQueue_ldChain (t : Stream) (q : Nat) (l : List QEntry) : (t.setQueue q l).ldChain = t.ldChain := by
  unfold Stream.setQueue; split <;> rfl
@[simp] theorem Stream.enter_ldChain (t : Stream) (q : Nat) (e : QEntry) : (t.enter q e).ldChain = t.ldChain := Stream.setQueue_ldChain _ _ _
@[simp] theorem Stream.setQueue_stChain (t : Stream) (q : Nat) (l : List QEntry) : (t.setQueue q l).stChain = t.stChain := by
  unfold Stream.setQueue; split <;> rfl
@[simp] theorem Stream.enter_stChain (t : Stream) (q : Nat) (e : QEntry) : (t.enter q e).stChain = t.stChain := Stream.setQueue_stChain _ _ _
@[simp] theorem Stream.setQueue_gate (t : Stream) (q : Nat) (l : List QEntry) : (t.setQueue q l).gate = t.gate := by
  unfold Stream.setQueue; split <;> rfl
@[simp] theorem Stream.enter_gate (t : Stream) (q : Nat) (e : QEntry) : (t.enter q e).gate = t.gate := Stream.setQueue_gate _ _ _
@[simp] theorem Stream.setQueue_xfer (t : Stream) (q : Nat) (l : List QEntry) : (t.setQueue q l).xfer = t.xfer := by
  unfold Stream.setQueue; split <;> rfl
@[simp] theorem Stream.enter_xfer (t : Stream) (q : Nat) (e : QEntry) : (t.enter q e).xfer = t.xfer := Stream.setQueue_xfer _ _ _
@[simp] theorem Stream.setQueue_rotb (t : Stream) (q : Nat) (l : List QEntry) : (t.setQueue q l).rotb = t.rotb := by
  unfold Stream.setQueue; split <;> rfl
@[simp] theorem Stream.enter_rotb (t : Stream) (q : Nat) (e : QEntry) : (t.enter q e).rotb = t.rotb := Stream.setQueue_rotb _ _ _
@[simp] theorem Stream.setQueue_foot (t : Stream) (q : Nat) (l : List QEntry) : (t.setQueue q l).foot = t.foot := by
  unfold Stream.setQueue; split <;> rfl
@[simp] theorem Stream.enter_foot (t : Stream) (q : Nat) (e : QEntry) : (t.enter q e).foot = t.foot := Stream.setQueue_foot _ _ _
@[simp] theorem Stream.setQueue_cpid (t : Stream) (q : Nat) (l : List QEntry) : (t.setQueue q l).cpid = t.cpid := by
  unfold Stream.setQueue; split <;> rfl
@[simp] theorem Stream.enter_cpid (t : Stream) (q : Nat) (e : QEntry) : (t.enter q e).cpid = t.cpid := Stream.setQueue_cpid _ _ _

/-- The entry as its queue holds it. -/
def Stream.entryOf (t : Stream) (q : Nat) (e : QEntry) : QEntry :=
  { e with number := t.counts.count q + 1, region := t.region, clock := t.clock 4 }

/-- The queue ends with the new entry. -/
theorem Stream.enter_queue (t : Stream) (q : Nat) (e : QEntry) (hq : q < 4) : (t.enter q e).queue q = t.queue q ++ [t.entryOf q e] := by
  obtain rfl | rfl | rfl | rfl : q = 0 ∨ q = 1 ∨ q = 2 ∨ q = 3 := by omega
  all_goals rfl
/-- The other queues stay. -/
theorem Stream.enter_queue_ne (t : Stream) (q p : Nat) (e : QEntry) (hq : q < 4) (hp : p < 4) (h : p ≠ q) :
    (t.enter q e).queue p = t.queue p := by
  obtain rfl | rfl | rfl | rfl : q = 0 ∨ q = 1 ∨ q = 2 ∨ q = 3 := by omega
  all_goals
    obtain rfl | rfl | rfl | rfl : p = 0 ∨ p = 1 ∨ p = 2 ∨ p = 3 := by omega
    all_goals first | rfl | exact absurd rfl h

/-! ## The verdict -/

@[simp] theorem State.verdict_me (s : State) (v : Verdict) : ({ s with verdict := v } : State).me = s.me := rfl
@[simp] theorem State.verdict_myCore (s : State) (v : Verdict) : ({ s with verdict := v } : State).myCore = s.myCore := rfl
@[simp] theorem State.verdict_stream (s : State) (v : Verdict) (g : Nat) : ({ s with verdict := v } : State).stream g = s.stream g := rfl
@[simp] theorem State.verdict_core (s : State) (v : Verdict) (c : Nat) : ({ s with verdict := v } : State).core c = s.core c := rfl
@[simp] theorem State.verdict_mem (s : State) (v : Verdict) : ({ s with verdict := v } : State).mem = s.mem := rfl
@[simp] theorem State.verdict_verdict (s : State) (v : Verdict) : ({ s with verdict := v } : State).verdict = v := rfl

/-- A change of the issuing stream leaves its core's other parts. -/
theorem State.modMe_myCore (s : State) (f : Stream → Stream) :
    (s.modMe f).myCore = { s.myCore with streams := s.myCore.streams.mod {} (s.cur % 4) f } := by
  show (s.modCore (s.cur / 4) _).core (s.cur / 4) = _
  rw [State.core_modCore_same]; rfl

/-! ## Entering -/

/-- Beside its queue and the count of its entries, a stream that takes an entry stays. -/
theorem Stream.enter_frame (t : Stream) (q : Nat) (e : QEntry) (hq : q < 4) (r : Nat) :
    ({ t.enter q e with region := r } : Stream) = { t with
      ldq := (t.enter q e).ldq, mxq := (t.enter q e).mxq, stq := (t.enter q e).stq, aq := (t.enter q e).aq,
      counts := (t.enter q e).counts, region := r } := by
  obtain rfl | rfl | rfl | rfl : q = 0 ∨ q = 1 ∨ q = 2 ∨ q = 3 := by omega
  all_goals rfl

/-- From `s` to `u` nothing differs but the count of the issue order of the issuing core. -/
def OnlyOrders (s u : State) : Prop :=
  u.me = s.me ∧ (∀ g, u.stream g = s.stream g) ∧ (∀ c, c ≠ s.cur / 4 → u.core c = s.core c)
    ∧ { u.myCore with orders := 0 } = { s.myCore with orders := 0 } ∧ { u with cores := .empty } = { s with cores := .empty }

theorem onlyOrders_refl (s : State) : OnlyOrders s s := ⟨rfl, fun _ => rfl, fun _ _ => rfl, rfl, rfl⟩
theorem onlyOrders_mod (s : State) (f : Nat → Nat) : OnlyOrders s (s.modMyCore (fun k => { k with orders := f k.orders })) := by
  refine ⟨State.stream_modCore s _ _ _ (fun _ => rfl), fun g => State.stream_modCore s _ _ _ (fun _ => rfl),
    fun c h => State.core_modCore_ne _ _ _ _ h, ?_, rfl⟩
  rw [State.myCore_modMyCore]

/-- A word that enters its queue, from a state that differs from `s` in the issue order only, enters it as `Enters` says; the form may set its
stream's region besides. -/
theorem enters_of {s u : State} {i : Instr} {q : Nat} {skip : Bool} {x y z : Word} (f : Stream → Stream) (n : Stream → Nat) (e : QEntry)
    (hq : q < 4) (he : exec i s = .next { u.modMe (fun t => f (t.enter q e)) with verdict := .issued })
    (h1 : e.instr = i ∧ e.va = s.word ∧ e.x = x ∧ e.y = y ∧ e.z = z ∧ e.skip = skip ∧ e.started = false ∧ e.done = false
      ∧ e.cancel = false ∧ e.fault = none ∧ e.entered = s.cycle)
    (hu : OnlyOrders s u) (hf : ∀ t, f t = { t with region := n t }) : Enters i s q x y z skip := by
  obtain ⟨a1, a2, a3, a4, a5, a6, a7, a8, a9, a10, a11⟩ := h1
  obtain ⟨u1, u2, u3, u4, u5⟩ := hu
  have hc : u.cur = s.cur := by injection u5
  have hm : (u.modMe (fun t => f (t.enter q e))).me = { s.me.enter q e with region := n (s.me.enter q e) } := by
    rw [State.me_modMe, u1, hf]
  refine ⟨_, s.me.entryOf q e, he, rfl, ?_⟩
  rw [State.verdict_me, hm]
  refine ⟨Stream.enter_queue _ _ _ hq, a1, a2, a3, a4, a5, a6, a7, a8, a9, a10, rfl, a11,
    fun p hp hn => Stream.enter_queue_ne _ _ _ _ hq hp hn, Stream.enter_frame _ _ _ hq _, ?_, ?_, ?_, ?_⟩
  · intro g hg
    rw [State.verdict_stream, ← u2 g]
    rw [← hc] at hg
    exact State.stream_modStream_ne _ _ _ _ hg
  · intro c h
    rw [State.verdict_core, ← u3 c h]
    rw [← hc] at h
    exact State.core_modCore_ne _ _ _ _ h
  · rw [State.verdict_myCore, State.modMe_myCore]
    injection u4; simp only [Core.mk.injEq]; simp_all
  · injection u5; simp only [State.modMe, State.modStream, State.modCore, State.mk.injEq]; simp_all

/-- A form that finds room in the access queue enters it. -/
theorem enters_aq {s : State} {i : Instr} {a : Aq} {skip : Bool} (hl : s.me.aq.length < 16)
    (he : exec i s = (s.aqEnter i a skip).done s) : Enters i s 3 (s.S a.sa) (s.S a.sb) (s.S a.sd) skip := by
  have hn : ¬ queueSize ≤ s.me.aq.length := by simp only [queueSize]; omega
  unfold State.aqEnter at he
  simp only [if_neg hn] at he
  by_cases hs : (aqSyncs i && !skip) = true
  · simp only [if_pos hs, State.endRegion, Act.done_go] at he
    simp only [State.modMe, State.modStream_modStream] at he
    exact enters_of (u := s) (fun t => { t with region := t.region + 1 }) (fun t => t.region + 1) _ (by decide) he (by simp [State.S])
      (onlyOrders_refl s) (fun _ => rfl)
  · simp only [if_neg hs, Act.done_go] at he
    exact enters_of (u := s) id (fun t => t.region) _ (by decide) he (by simp [State.S]) (onlyOrders_refl s) (fun _ => rfl)

/-- An engine command that finds room in its queue enters it. -/
theorem enters_engine {s : State} {i : Instr} {q : Nat} {x y z : Word} {skip : Bool} (hq : q < 3) (hl : (s.me.queue q).length < 16)
    (he : exec i s = (s.enqueue q i x y z skip).done s) : Enters i s q x y z skip := by
  have hn : ¬ queueSize ≤ (s.me.queue q).length := by simp only [queueSize]; omega
  unfold State.enqueue at he
  simp only [if_neg hn, Act.done_go] at he
  exact enters_of (u := s.modMyCore (fun k => { k with orders := k.orders + 1 })) id (fun t => t.region) _ (by omega) he (by simp)
    (onlyOrders_mod s (fun n => n + 1)) (fun _ => rfl)

/-- An engine command that executes. -/
theorem State.engine_ready {s : State} {h : Hdr} {q : Nat} {i : Instr} {rs : List (BitVec 5)} {x y z : BitVec 5}
    (hr : s.ready h (rs.map s.me.sp) []) :
    s.engine h q i rs x y z = s.enqueue q i (s.me.sreg x) (s.me.sreg y) (s.me.sreg z) false := by
  simp only [State.engine]; exact State.slot_ready hr _ _
/-- An engine command that is predicated off. -/
theorem State.engine_off {s : State} {h : Hdr} {q : Nat} {i : Instr} {rs : List (BitVec 5)} {x y z : BitVec 5} (hr : s.off h) :
    s.engine h q i rs x y z = s.enqueue q i (s.me.sreg x) (s.me.sreg y) (s.me.sreg z) true := by
  simp only [State.engine]; exact State.slot_off hr _ _ _ _
/-- A full queue holds an engine command. -/
theorem State.enqueue_full {s : State} {q : Nat} (hl : 16 ≤ (s.me.queue q).length) (i : Instr) (x y z : Word) (skip : Bool) :
    s.enqueue q i x y z skip = .wait s false := by
  unfold State.enqueue; simp only [if_pos (show queueSize ≤ (s.me.queue q).length from hl)]
/-- A form of the access queue that executes. -/
theorem State.aqForm_ready {s : State} {h : Hdr} {i : Instr} {a : Aq} {rs : List (BitVec 5)} (hr : s.ready h (rs.map s.me.sp) []) :
    s.aqForm h i a rs
      = (match aqCheck i (s.me.sreg a.sa) (s.me.sreg a.sb) with | some f => .fault f | none => s.aqEnter i a false) := by
  simp only [State.aqForm]; exact State.slot_ready hr _ _
/-- A form of the access queue that is predicated off. -/
theorem State.aqForm_off {s : State} {h : Hdr} {i : Instr} {a : Aq} {rs : List (BitVec 5)} (hr : s.off h) :
    s.aqForm h i a rs = s.aqEnter i a true := by
  simp only [State.aqForm]; exact State.slot_off hr _ _ _ _
/-- A form of the access queue that ignores its predicate. -/
theorem State.aqAlways_heedless {s : State} {h : Hdr} {i : Instr} {a : Aq} {rs : List (BitVec 5)} (hr : s.heedless h (rs.map s.me.sp)) :
    s.aqAlways h i a rs
      = (match aqCheck i (s.me.sreg a.sa) (s.me.sreg a.sb) with | some f => .fault f | none => s.aqEnter i a false) := by
  simp only [State.aqAlways]; exact State.always_heedless hr _
/-- The issue check of an address comes to nothing where it is in range and aligned. -/
theorem addrCheck_ok {va : Word} {n : Nat} {k : AccKind} (h : va.toNat < 2 ^ 48) (ha : va.toNat % n = 0) : addrCheck va n k = none := by
  simp [addrCheck, (high_eq_zero_iff va).2 h, ha]

end Sys2Proof.Machine
end

