-- ==== Sys2Proof/Tests/Slice0.lean ====
section
/-! SUPPORT. The model's own tests: every opcode's word decodes to its instruction, every check of WellFormed.lean refuses an ill-formed term,
witnesses that meet the hypotheses of each statement, and single steps whose results are read off the rules. -/

open Sys2Proof Sys2Proof.Machine

namespace Sys2Proof.Tests

set_option Elab.async false

/-! ## Decoding

Every primary opcode, with operands that no two fields share, written out bit by bit from the tables of R45, R54 and R57 to R74. -/

/-- The header of a word with G = 1, under !Q5. -/
def h0 : Hdr := ⟨1, 5, 1⟩
/-- A TV body of zeros. -/
def tv0 : Tv := ⟨0, 0, 0, 0, 0, 0, 0, 0, 0, 0, 0, 0, 0, 0, 0⟩
/-- An AQ body of zeros. -/
def aq0 : Aq := ⟨0, 0, 0, 0, 0, 0, 0, 0, 0, 0, 0, 0, 0⟩

/-- Each word decodes to the instruction beside it. -/
def reads (l : List (Nat × Instr)) : Bool := l.all (fun p => decodeTableWord 64 p.1 == some p.2)

theorem test_decode_row0 : reads
    [(0x00D8_0000_0000_0000, .nop h0),
     (0x01DD_5530_0000_0000, .add h0 21 10 19),
     (0x02DD_5530_0000_0000, .sub h0 21 10 19),
     (0x03DD_540A_BCDE_F123, .addi h0 21 10 0xABCDEF123),
     (0x04DD_5530_0000_0000, .mul h0 21 10 19),
     (0x05DD_5530_0000_0000, .mulh h0 21 10 19),
     (0x06DD_5530_0000_0000, .mulhn h0 21 10 19),
     (0x07DD_5530_0000_0000, .divs h0 21 10 19),
     (0x08DD_5530_0000_0000, .divn h0 21 10 19),
     (0x09DD_5530_0000_0000, .and h0 21 10 19),
     (0x0ADD_5530_0000_0000, .or h0 21 10 19),
     (0x0BDD_5530_0000_0000, .xor h0 21 10 19),
     (0x0CDD_5530_0000_0000, .andn h0 21 10 19),
     (0x0DDD_5530_0000_0000, .shl h0 21 10 19),
     (0x0EDD_5530_0000_0000, .shrl h0 21 10 19),
     (0x0FDD_5530_0000_0000, .shra h0 21 10 19)] = true := by decide +kernel

theorem test_decode_row1 : reads
    [(0x10DD_5530_0000_0000, .mins h0 21 10 19),
     (0x11DD_5530_0000_0000, .maxs h0 21 10 19),
     (0x12DD_5530_0000_0000, .minn h0 21 10 19),
     (0x13DD_5530_0000_0000, .maxn h0 21 10 19),
     (0x14DD_5530_0000_0006, .sel h0 21 10 19 6),
     (0x15DD_5400_0000_0000, .clz h0 21 10),
     (0x16DD_5400_0000_0000, .popc h0 21 10),
     (0x17DD_5400_0000_095B, .bfxI h0 21 10 37 27),
     (0x18DD_5400_0000_095B, .bfxN h0 21 10 37 27),
     (0x19DD_5400_0000_095B, .bfi h0 21 10 37 27),
     (0x1ADD_400A_BCDE_F123, .movi h0 21 0xABCDEF123),
     (0x1BDD_4000_0ABC_DEF1, .movh h0 21 0xABCDEF1),
     (0x1CDD_553A_BCDE_F123, .lea h0 21 10 19 2 0x2BCDEF123),
     (0x1DD9_5530_0000_0009, .cmpReg h0 5 10 19 9),
     (0x1ED9_5409_BCDE_F126, .cmpImm h0 5 10 0x9BCDEF12 6),
     (0x1FD9_4C30_0000_0002, .qop h0 5 6 3 2)] = true := by decide +kernel

theorem test_decode_row2 : reads
    [(0x20DD_5406_9BCD_EF12, .lds h0 21 10 6 0x9BCDEF12),
     (0x21D8_1533_9BCD_EF12, .sts h0 10 19 3 0x9BCDEF12),
     (0x22DD_01AB_CDEF_1234, .pbr h0 5 0x1ABCDEF1234),
     (0x23DD_C000_0000_0000, .brq h0 5 6),
     (0x24DD_0000_0000_0000, .br h0 5),
     (0x25DD_0000_0000_0000, .call h0 5),
     (0x26DD_0000_0000_0000, .ret h0 5),
     (0x27DD_0000_0000_0000, .loop h0 5),
     (0x28D8_0000_0000_0000, .rotz h0),
     (0x29D9_4600_0000_0000, .anym h0 5 3),
     (0x2AD9_4600_0000_0000, .allm h0 5 3),
     (0x2BD8_D600_0000_0000, .osend h0 6 11),
     (0x2CDD_1600_0000_0000, .bro h0 5 11),
     (0x2DD8_0000_0000_0A56, .qcut h0 41 22),
     (0x2ED8_0000_0000_BCDE, .wait h0 0xBCDE),
     (0x2FD8_0000_0000_0000, .yield h0)] = true := by decide +kernel

theorem test_decode_row3 : reads
    [(0x30D8_0000_0000_0000, .halt h0),
     (0x31D8_0000_0000_BCDE, .trap h0 0xBCDE),
     (0x32DD_4000_0000_15FF, .sysrd h0 21 0x15FF),
     (0x33D8_1400_0000_0102, .syswr h0 10 0x102),
     (0x33D8_1400_0000_0020, .syswrHomemap h0 10),
     (0x33D8_1400_0000_003D, .syswrFmtScale h0 10 5),
     (0x33D8_1400_0000_0035, .syswrFmtBase h0 10 5),
     (0x33D8_1400_0000_001D, .syswrWaymask h0 10 5),
     (0x33D8_1400_0000_005B, .syswrInccfg h0 10 11),
     (0x33D8_1400_0000_0040, .syswrJpair h0 10),
     (0x34D8_1400_0000_020F, .conf h0 10 0x20F),
     (0x35DD_4000_0000_ABCD, .snap h0 21 0xABCD),
     (0x36DD_4000_0000_0000, .rdcyc h0 21),
     (0x37D8_1400_0000_0001, .icinv h0 10 1)] = true := by decide +kernel

theorem test_decode_row4 : reads
    [(0x40DD_72B9_365C_8BC8, .vaddF h0 { tv0 with td := 43, tdv := 9, rdn := 5, ta := 50, tav := 6, tap := 1, tb := 37, tbv := 12, tbp := 1, msk := 5, men := 1, sat := 1, rnd := 2, ty := 8 }),
     (0x41DD_72B9_365C_8B84, .vaddI h0 { tv0 with td := 43, tdv := 9, rdn := 5, ta := 50, tav := 6, tap := 1, tb := 37, tbv := 12, tbp := 1, msk := 5, men := 1, sat := 1, ty := 4 }),
     (0x42DD_72B9_365C_8BC8, .vsubF h0 { tv0 with td := 43, tdv := 9, rdn := 5, ta := 50, tav := 6, tap := 1, tb := 37, tbv := 12, tbp := 1, msk := 5, men := 1, sat := 1, rnd := 2, ty := 8 }),
     (0x43DD_72B9_365C_8B84, .vsubI h0 { tv0 with td := 43, tdv := 9, rdn := 5, ta := 50, tav := 6, tap := 1, tb := 37, tbv := 12, tbp := 1, msk := 5, men := 1, sat := 1, ty := 4 }),
     (0x44DD_72B9_365C_8BC8, .vmulF h0 { tv0 with td := 43, tdv := 9, rdn := 5, ta := 50, tav := 6, tap := 1, tb := 37, tbv := 12, tbp := 1, msk := 5, men := 1, sat := 1, rnd := 2, ty := 8 }),
     (0x45DD_72B9_365C_8B84, .vmulI h0 { tv0 with td := 43, tdv := 9, rdn := 5, ta := 50, tav := 6, tap := 1, tb := 37, tbv := 12, tbp := 1, msk := 5, men := 1, sat := 1, ty := 4 }),
     (0x46DD_72B9_365C_CBA7, .vfma h0 { tv0 with td := 43, tdv := 9, rdn := 5, ta := 50, tav := 6, tap := 1, tb := 37, tbv := 12, tbp := 1, msk := 5, men := 1, rail := 4, sat := 1, rnd := 1, ty := 7 }),
     (0x47DD_72B9_365C_8B06, .vminF h0 { tv0 with td := 43, tdv := 9, rdn := 5, ta := 50, tav := 6, tap := 1, tb := 37, tbv := 12, tbp := 1, msk := 5, men := 1, ty := 6 }),
     (0x48DD_72B9_365C_8B03, .vminI h0 { tv0 with td := 43, tdv := 9, rdn := 5, ta := 50, tav := 6, tap := 1, tb := 37, tbv := 12, tbp := 1, msk := 5, men := 1, ty := 3 }),
     (0x49DD_72B9_365C_8B06, .vmaxF h0 { tv0 with td := 43, tdv := 9, rdn := 5, ta := 50, tav := 6, tap := 1, tb := 37, tbv := 12, tbp := 1, msk := 5, men := 1, ty := 6 }),
     (0x4ADD_72B9_365C_8B03, .vmaxI h0 { tv0 with td := 43, tdv := 9, rdn := 5, ta := 50, tav := 6, tap := 1, tb := 37, tbv := 12, tbp := 1, msk := 5, men := 1, ty := 3 }),
     (0x4BDD_72B9_3400_0BC8, .vabs h0 { tv0 with td := 43, tdv := 9, rdn := 5, ta := 50, tav := 6, tap := 1, msk := 5, men := 1, sat := 1, rnd := 2, ty := 8 }),
     (0x4CDD_72B9_3400_0B82, .vneg h0 { tv0 with td := 43, tdv := 9, rdn := 5, ta := 50, tav := 6, tap := 1, msk := 5, men := 1, sat := 1, ty := 2 }),
     (0x4DD8_C019_365C_8BC6, .vcmpF h0 { tv0 with td := 6, ta := 50, tav := 6, tap := 1, tb := 37, tbv := 12, tbp := 1, msk := 5, men := 1, sat := 1, rnd := 2, ty := 6 }),
     (0x4ED8_C019_365C_8BA5, .vcmpI h0 { tv0 with td := 6, ta := 50, tav := 6, tap := 1, tb := 37, tbv := 12, tbp := 1, msk := 5, men := 1, sat := 1, rnd := 1, ty := 5 }),
     (0x4FDD_72B9_365C_8B00, .vsel h0 { tv0 with td := 43, tdv := 9, rdn := 5, ta := 50, tav := 6, tap := 1, tb := 37, tbv := 12, tbp := 1, msk := 5, men := 1 })] = true := by decide +kernel

theorem test_decode_row5 : reads
    [(0x50DD_72B9_365C_8B00, .vand h0 { tv0 with td := 43, tdv := 9, rdn := 5, ta := 50, tav := 6, tap := 1, tb := 37, tbv := 12, tbp := 1, msk := 5, men := 1 }),
     (0x51DD_72B9_365C_8B00, .vor h0 { tv0 with td := 43, tdv := 9, rdn := 5, ta := 50, tav := 6, tap := 1, tb := 37, tbv := 12, tbp := 1, msk := 5, men := 1 }),
     (0x52DD_72B9_365C_8B00, .vxor h0 { tv0 with td := 43, tdv := 9, rdn := 5, ta := 50, tav := 6, tap := 1, tb := 37, tbv := 12, tbp := 1, msk := 5, men := 1 }),
     (0x53DD_72B9_365C_8B04, .vshl h0 { tv0 with td := 43, tdv := 9, rdn := 5, ta := 50, tav := 6, tap := 1, tb := 37, tbv := 12, tbp := 1, msk := 5, men := 1, sat := 0, ty := 4 }),
     (0x54DD_72B9_365C_8B03, .vshrN h0 { tv0 with td := 43, tdv := 9, rdn := 5, ta := 50, tav := 6, tap := 1, tb := 37, tbv := 12, tbp := 1, msk := 5, men := 1, ty := 3 }),
     (0x55DD_72B9_365C_8B01, .vshrI h0 { tv0 with td := 43, tdv := 9, rdn := 5, ta := 50, tav := 6, tap := 1, tb := 37, tbv := 12, tbp := 1, msk := 5, men := 1, ty := 1 }),
     (0x56DD_72B9_3540_0BC8, .vcvtF h0 { tv0 with td := 43, tdv := 9, rdn := 5, ta := 50, tav := 6, tap := 1, msk := 5, men := 1, sat := 1, rnd := 2, ty := 8, tb := 20 }),
     (0x57DD_72B9_3520_0BE2, .vcvtI h0 { tv0 with td := 43, tdv := 9, rdn := 5, ta := 50, tav := 6, tap := 1, msk := 5, men := 1, sat := 1, rnd := 3, ty := 2, tb := 18 }),
     (0x58DD_72B9_3500_0029, .vqntDb8 h0 { tv0 with td := 43, tdv := 9, rdn := 5, ta := 50, tav := 6, tap := 1, tb := 16, rnd := 1, ty := 9 }),
     (0x59DD_72B9_34E0_004A, .vqntDb4 h0 { tv0 with td := 43, tdv := 9, rdn := 5, ta := 50, tav := 6, tap := 1, tb := 14, rnd := 2, ty := 10 }),
     (0x5ADD_72B9_3600_0BC8, .vredF h0 { tv0 with td := 43, tdv := 9, rdn := 5, ta := 50, tav := 6, tap := 1, msk := 5, men := 1, sat := 1, rnd := 2, ty := 8, tb := 32 }),
     (0x5BDD_72B9_3500_0B84, .vredI h0 { tv0 with td := 43, tdv := 9, rdn := 5, ta := 50, tav := 6, tap := 1, msk := 5, men := 1, sat := 1, ty := 4, tb := 16 }),
     (0x5CDD_72B9_3400_0BC8, .vscanF h0 { tv0 with td := 43, tdv := 9, rdn := 5, ta := 50, tav := 6, tap := 1, msk := 5, men := 1, sat := 1, rnd := 2, ty := 8, tb := 0 }),
     (0x5DDD_72B9_3600_0B84, .vscanI h0 { tv0 with td := 43, tdv := 9, rdn := 5, ta := 50, tav := 6, tap := 1, msk := 5, men := 1, sat := 1, ty := 4, tb := 32 }),
     (0x5EDD_72B9_365C_8B06, .vpermT h0 { tv0 with td := 43, tdv := 9, rdn := 5, ta := 50, tav := 6, tap := 1, tb := 37, tbv := 12, tbp := 1, msk := 5, men := 1, ty := 6 }),
     (0x5FDD_72B9_3406_8B03, .vpermImm h0 { tv0 with td := 43, tdv := 9, rdn := 5, ta := 50, tav := 6, tap := 1, msk := 5, men := 1, ty := 3, tb := 0, tbv := 6, tbp := 1 })] = true := by decide +kernel

theorem test_decode_row6 : reads
    [(0x60DD_72B9_365C_8B00, .vxrow h0 { tv0 with td := 43, tdv := 9, rdn := 5, ta := 50, tav := 6, tap := 1, tb := 37, tbv := 12, tbp := 1, msk := 5, men := 1 }),
     (0x61DD_72AD_8000_0B07, .vbcastS h0 { tv0 with td := 43, tdv := 9, rdn := 5, ta := 27, msk := 5, men := 1, ty := 7 }),
     (0x62DD_72B9_3400_0B00, .vbcastRow h0 { tv0 with td := 43, tdv := 9, rdn := 5, ta := 50, tav := 6, tap := 1, msk := 5, men := 1 }),
     (0x63DD_72B9_3408_0006, .vtopk h0 { tv0 with td := 43, tdv := 9, rdn := 5, ta := 50, tav := 6, tap := 1, tb := 0, tbv := 8, tbp := 0, ty := 6 }),
     (0x64DD_72B9_3400_0B05, .vrng h0 { tv0 with td := 43, tdv := 9, rdn := 5, ta := 50, tav := 6, tap := 1, msk := 5, men := 1, ty := 5 }),
     (0x65DD_72B9_3400_0B00, .vmovt h0 { tv0 with td := 43, tdv := 9, rdn := 5, ta := 50, tav := 6, tap := 1, msk := 5, men := 1 }),
     (0x66DD_72A0_0376_CBA5, .vlds h0 43 9 5 27 0b101101 1 5 0x1A5),
     (0x67D8_0019_3776_CBA5, .vsts h0 50 6 1 27 0b101101 1 5 0x1A5),
     (0x68DD_72B9_3400_0B06, .vexp h0 { tv0 with td := 43, tdv := 9, rdn := 5, ta := 50, tav := 6, tap := 1, msk := 5, men := 1, ty := 6 }),
     (0x69DD_72B9_3400_0B06, .vlog h0 { tv0 with td := 43, tdv := 9, rdn := 5, ta := 50, tav := 6, tap := 1, msk := 5, men := 1, ty := 6 }),
     (0x6ADD_72B9_3400_0B06, .vsin h0 { tv0 with td := 43, tdv := 9, rdn := 5, ta := 50, tav := 6, tap := 1, msk := 5, men := 1, ty := 6 }),
     (0x6BDD_72B9_3400_0B06, .vcos h0 { tv0 with td := 43, tdv := 9, rdn := 5, ta := 50, tav := 6, tap := 1, msk := 5, men := 1, ty := 6 }),
     (0x6CDD_72B9_3400_0B06, .vtanh h0 { tv0 with td := 43, tdv := 9, rdn := 5, ta := 50, tav := 6, tap := 1, msk := 5, men := 1, ty := 6 }),
     (0x6DDD_72B9_3400_0B06, .vrsq h0 { tv0 with td := 43, tdv := 9, rdn := 5, ta := 50, tav := 6, tap := 1, msk := 5, men := 1, ty := 6 }),
     (0x6EDD_72B9_3400_0B06, .vrcp h0 { tv0 with td := 43, tdv := 9, rdn := 5, ta := 50, tav := 6, tap := 1, msk := 5, men := 1, ty := 6 }),
     (0x6FDD_72B9_3400_0B06, .vsig h0 { tv0 with td := 43, tdv := 9, rdn := 5, ta := 50, tav := 6, tap := 1, msk := 5, men := 1, ty := 6 })] = true := by decide +kernel

theorem test_decode_row8 : reads
    [(0x80DD_5B6D_8014_B5CC, .mmaDb8 h0 ⟨1, 0, 1, 0, 45, 22⟩ 27 5 2 1 43 9 1),
     (0x81DD_5B6D_8014_B5CC, .mmaDb4 h0 ⟨1, 0, 1, 0, 45, 22⟩ 27 5 2 1 43 9 1),
     (0x82DD_5B6D_8014_B5CC, .mmaI8 h0 ⟨1, 0, 1, 0, 45, 22⟩ 27 5 2 1 43 9 1),
     (0x83DD_5B6D_8014_B94C, .mma2 h0 ⟨1, 0, 1, 0, 45, 22⟩ 27 5 2 1 50 9 1),
     (0x84DD_5B60_4C14_0000, .sldDb8 h0 ⟨1, 0, 1, 0, 45, 22⟩ 19 5),
     (0x85DD_5B60_4C14_0000, .sldDb4 h0 ⟨1, 0, 1, 0, 45, 22⟩ 19 5),
     (0x86DD_5B60_4C14_0000, .sldI8 h0 ⟨1, 0, 1, 0, 45, 22⟩ 19 5),
     (0x87DD_5B60_4C14_0000, .sldB16 h0 ⟨1, 0, 1, 0, 45, 22⟩ 19 5),
     (0x88DD_5B60_0014_0000, .sswap h0 ⟨1, 0, 1, 0, 45, 22⟩ 5),
     (0x89DD_5B60_0014_0000, .mrot h0 ⟨1, 0, 1, 0, 45, 22⟩ 5),
     (0x8ADD_5B60_0015_B5C8, .mfixF32 h0 ⟨1, 0, 1, 0, 45, 22⟩ 0 5 6 1 43 9),
     (0x8BDD_5B60_0015_B5C8, .mfixB16 h0 ⟨1, 0, 1, 0, 45, 22⟩ 0 5 6 1 43 9),
     (0x8CDD_5B60_0015_B5C8, .mfixI8 h0 ⟨1, 0, 1, 0, 45, 22⟩ 0 5 6 1 43 9),
     (0x8DDD_5B60_0015_B5C8, .mfixDb8 h0 ⟨1, 0, 1, 0, 45, 22⟩ 0 5 6 1 43 9),
     (0x8EDD_5B60_0015_B5C8, .mfixDb4 h0 ⟨1, 0, 1, 0, 45, 22⟩ 0 5 6 1 43 9),
     (0x8FDD_5B60_0014_0000, .mzero h0 ⟨1, 0, 1, 0, 45, 22⟩ 5)] = true := by decide +kernel

theorem test_decode_row9 : reads
    [(0x90DD_5B6D_CD56_0000, .cpyLd h0 ⟨1, 0, 1, 0, 45, 22⟩ 27 19 10 5 2),
     (0x91DD_5B6D_CD56_0000, .cpySt h0 ⟨1, 0, 1, 0, 45, 22⟩ 27 19 10 5 2),
     (0x94DD_5B6D_CD56_0000, .fillLd h0 ⟨1, 0, 1, 0, 45, 22⟩ 27 19 10 5 2),
     (0x95DD_5B6D_CD56_0000, .fillSt h0 ⟨1, 0, 1, 0, 45, 22⟩ 27 19 10 5 2),
     (0x92DD_5B6D_CD56_B400, .gath h0 ⟨1, 0, 1, 0, 45, 22⟩ 27 19 10 5 2 45),
     (0x93DD_5B6D_CD56_B400, .scat h0 ⟨1, 0, 1, 0, 45, 22⟩ 27 19 10 5 2 45),
     (0x96D8_0000_4C00_0000, .clinkLd h0 19),
     (0x97D8_0000_4C00_0000, .clinkSt h0 19),
     (0x98D8_0000_0000_0001, .ckick h0 1),
     (0x99D8_000D_CD40_002B, .hconf h0 27 19 10 2 11),
     (0x9AD8_0000_000B_CDEB, .radvp h0 0xBCDE 11),
     (0x9BD8_0000_000B_CDEB, .radvc h0 0xBCDE 11),
     (0x9CD8_0000_000B_CDEB, .rwaitf h0 0xBCDE 11),
     (0x9DD8_0000_000B_CDEB, .rwaite h0 0xBCDE 11),
     (0x9ED8_0000_0000_0002, .tksend h0 2),
     (0x9FD8_0000_0000_0003, .tkwait h0 3)] = true := by decide +kernel

theorem test_decode_rowA : reads
    [(0xA0DD_5409_632D_ABCD, .gld h0 { aq0 with sd := 21, sa := 10, pbl := 1, par := 1, wk := 6, ord := 1, scp := 4, rd := 5, hint := 2, off := 109517 }),
     (0xA1D8_1539_352D_ABCD, .gst h0 { aq0 with sa := 10, sb := 19, pbl := 1, par := 1, wk := 3, ord := 2, scp := 4, rd := 5, hint := 2, off := 109517 }),
     (0xA2DD_9746_0028_1A00, .aaddN32 h0 { aq0 with sd := 22, sa := 11, sb := 20, pbr := 1, pal := 1, ord := 0, scp := 0, rd := 5, hint := 0, off := 6656 }),
     (0xA3DD_9746_026A_1A01, .aaddN64 h0 { aq0 with sd := 22, sa := 11, sb := 20, pbr := 1, pal := 1, ord := 1, scp := 1, rd := 5, hint := 1, off := 6657 }),
     (0xA4DD_9746_04AC_1A02, .afaddF32 h0 { aq0 with sd := 22, sa := 11, sb := 20, pbr := 1, pal := 1, ord := 2, scp := 2, rd := 5, hint := 2, off := 6658 }),
     (0xA5DD_9746_06E8_1A03, .afaddB16 h0 { aq0 with sd := 22, sa := 11, sb := 20, pbr := 1, pal := 1, ord := 3, scp := 3, rd := 5, hint := 0, off := 6659 }),
     (0xA6DD_9746_012A_1A04, .aminI32 h0 { aq0 with sd := 22, sa := 11, sb := 20, pbr := 1, pal := 1, ord := 0, scp := 4, rd := 5, hint := 1, off := 6660 }),
     (0xA7DD_9746_022C_1A05, .aminI64 h0 { aq0 with sd := 22, sa := 11, sb := 20, pbr := 1, pal := 1, ord := 1, scp := 0, rd := 5, hint := 2, off := 6661 }),
     (0xA8DD_9746_0468_1A06, .aminN32 h0 { aq0 with sd := 22, sa := 11, sb := 20, pbr := 1, pal := 1, ord := 2, scp := 1, rd := 5, hint := 0, off := 6662 }),
     (0xA9DD_9746_06AA_1A07, .aminN64 h0 { aq0 with sd := 22, sa := 11, sb := 20, pbr := 1, pal := 1, ord := 3, scp := 2, rd := 5, hint := 1, off := 6663 }),
     (0xAADD_9746_00EC_1A08, .amaxI32 h0 { aq0 with sd := 22, sa := 11, sb := 20, pbr := 1, pal := 1, ord := 0, scp := 3, rd := 5, hint := 2, off := 6664 }),
     (0xABDD_9746_0328_1A09, .amaxI64 h0 { aq0 with sd := 22, sa := 11, sb := 20, pbr := 1, pal := 1, ord := 1, scp := 4, rd := 5, hint := 0, off := 6665 }),
     (0xACDD_9746_042A_1A0A, .amaxN32 h0 { aq0 with sd := 22, sa := 11, sb := 20, pbr := 1, pal := 1, ord := 2, scp := 0, rd := 5, hint := 1, off := 6666 }),
     (0xADDD_9746_066C_1A0B, .amaxN64 h0 { aq0 with sd := 22, sa := 11, sb := 20, pbr := 1, pal := 1, ord := 3, scp := 1, rd := 5, hint := 2, off := 6667 }),
     (0xAEDD_9746_00A8_1A0C, .aandN32 h0 { aq0 with sd := 22, sa := 11, sb := 20, pbr := 1, pal := 1, ord := 0, scp := 2, rd := 5, hint := 0, off := 6668 }),
     (0xAFDD_9746_02EA_1A0D, .aandN64 h0 { aq0 with sd := 22, sa := 11, sb := 20, pbr := 1, pal := 1, ord := 1, scp := 3, rd := 5, hint := 1, off := 6669 })] = true := by decide +kernel

theorem test_decode_rowB : reads
    [(0xB0DD_9746_052C_1A0E, .aorN32 h0 { aq0 with sd := 22, sa := 11, sb := 20, pbr := 1, pal := 1, ord := 2, scp := 4, rd := 5, hint := 2, off := 6670 }),
     (0xB1DD_9746_0628_1A0F, .aorN64 h0 { aq0 with sd := 22, sa := 11, sb := 20, pbr := 1, pal := 1, ord := 3, scp := 0, rd := 5, hint := 0, off := 6671 }),
     (0xB2DD_9746_006A_1A10, .axorN32 h0 { aq0 with sd := 22, sa := 11, sb := 20, pbr := 1, pal := 1, ord := 0, scp := 1, rd := 5, hint := 1, off := 6672 }),
     (0xB3DD_9746_02AC_1A11, .axorN64 h0 { aq0 with sd := 22, sa := 11, sb := 20, pbr := 1, pal := 1, ord := 1, scp := 2, rd := 5, hint := 2, off := 6673 }),
     (0xB4DD_9746_04E8_1A12, .axchgN32 h0 { aq0 with sd := 22, sa := 11, sb := 20, pbr := 1, pal := 1, ord := 2, scp := 3, rd := 5, hint := 0, off := 6674 }),
     (0xB5DD_9746_072A_1A13, .axchgN64 h0 { aq0 with sd := 22, sa := 11, sb := 20, pbr := 1, pal := 1, ord := 3, scp := 4, rd := 5, hint := 1, off := 6675 }),
     (0xB6DD_9746_002C_1A14, .axchgN128 h0 { aq0 with sd := 22, sa := 11, sb := 20, pbr := 1, pal := 1, ord := 0, scp := 0, rd := 5, hint := 2, off := 6676 }),
     (0xB7DD_9746_0268_1A15, .acasN32 h0 { aq0 with sd := 22, sa := 11, sb := 20, pbr := 1, pal := 1, ord := 1, scp := 1, rd := 5, hint := 0, off := 6677 }),
     (0xB8DD_9746_04AA_1A16, .acasN64 h0 { aq0 with sd := 22, sa := 11, sb := 20, pbr := 1, pal := 1, ord := 2, scp := 2, rd := 5, hint := 1, off := 6678 }),
     (0xB9DD_9746_06EC_1A17, .acasN128 h0 { aq0 with sd := 22, sa := 11, sb := 20, pbr := 1, pal := 1, ord := 3, scp := 3, rd := 5, hint := 2, off := 6679 }),
     (0xBAD8_1409_0101_ABCD, .aprom h0 { aq0 with sa := 10, pbl := 1, par := 1, scp := 4, off := 109517 }),
     (0xBBD8_0009_0680_0000, .fence h0 { aq0 with pbl := 1, par := 1, ord := 3, scp := 2 }),
     (0xBCD8_1400_002B_ABCD, .pf h0 { aq0 with sa := 10, rd := 5, hint := 1, off := 109517 }),
     (0xBDD8_1409_00C1_ABCD, .linv h0 { aq0 with sa := 10, pbl := 1, par := 1, scp := 3, off := 109517 }),
     (0xBED8_1409_00C1_ABCD, .lwb h0 { aq0 with sa := 10, pbl := 1, par := 1, scp := 3, off := 109517 }),
     (0xBFD8_1409_0000_0000, .dvred h0 { aq0 with sa := 10, pbl := 1, par := 1 })] = true := by decide +kernel

theorem test_decode_rowC : reads
    [(0xC0D8_1400_0000_000D, .tspawn h0 { aq0 with sa := 10, off := 13 }),
     (0xC1D8_1530_0000_0000, .tstageReg h0 { aq0 with sa := 10, sb := 19 }),
     (0xC2D8_1400_0000_000D, .tstageImm h0 { aq0 with sa := 10, off := 13 }),
     (0xC3D8_0000_0000_0000, .tend h0),
     (0xC4D8_1400_0000_0000, .tjoin h0 { aq0 with sa := 10 }),
     (0xC5D8_0130_0000_0000, .joinReg h0 { aq0 with sb := 19 }),
     (0xC7D8_0130_0000_0000, .leaveReg h0 { aq0 with sb := 19 }),
     (0xC9D8_0130_0000_0000, .bargReg h0 { aq0 with sb := 19 }),
     (0xC6D8_0000_0000_BCDE, .joinImm h0 { aq0 with off := 48350 }),
     (0xC8D8_0000_0000_BCDE, .leaveImm h0 { aq0 with off := 48350 }),
     (0xCAD8_0000_0000_BCDE, .bargImm h0 { aq0 with off := 48350 }),
     (0xCBDD_4130_0000_0000, .gcountReg h0 { aq0 with sd := 21, sb := 19 }),
     (0xCCDD_4000_0000_BCDE, .gcountImm h0 { aq0 with sd := 21, off := 48350 }),
     (0xCDD8_1530_04C0_000D, .imprv h0 { aq0 with sa := 10, sb := 19, ord := 2, scp := 3, off := 13 }),
     (0xCEDD_4000_02C0_000D, .iread h0 { aq0 with sd := 21, ord := 1, scp := 3, off := 13 }),
     (0xCFD8_1400_0000_000D, .kchk h0 { aq0 with sa := 10, off := 13 })] = true := by decide +kernel

theorem test_decode_rowD : reads
    [(0xD0DD_5530_0000_0000, .jrec h0 { aq0 with sd := 21, sa := 10, sb := 19 }),
     (0xD1D8_1400_0000_0000, .jwait h0 { aq0 with sa := 10 }),
     (0xD2D8_1530_04C1_ABCC, .emitN32 h0 { aq0 with sa := 10, sb := 19, ord := 2, scp := 3, off := 109516 }),
     (0xD3D8_1530_04C1_ABC8, .emitN64 h0 { aq0 with sa := 10, sb := 19, ord := 2, scp := 3, off := 109512 }),
     (0xD4D8_1530_0000_0000, .jtrunc h0 { aq0 with sa := 10, sb := 19 }),
     (0xD5D8_1400_0000_0000, .jreseat h0 { aq0 with sa := 10 }),
     (0xD686_ABCD_9BCD_EF12, .seg ⟨1, 0, 0⟩ 0x6ABCD 0x9BCDEF12),
     (0xD780_0000_0000_0000, .segend ⟨1, 0, 0⟩),
     (0x7A80_0000_0000_0000, .unassignedOpcode 0x7A80000000000000)] = true := by decide +kernel

/-! ## Ill-formed terms: each check of WellFormed.lean refuses one, and so does the decoder -/

/-- Every instruction of the list is ill formed, and the word that would hold it does not decode. -/
def refused (l : List Instr) : Bool := l.all (fun i => !i.wf && decodeTableWord 64 (encode i).toNat == none)

/-- R58, R59 and R47: bit fields outside 64 bits, conditions, widths, an empty WAIT, a QCUT with lo above hi, a predicated SEG. -/
theorem test_illformed_scalar : refused
    [.bfxI h0 1 2 0 3, .bfxN h0 1 2 2 63, .bfi h0 1 2 64 1, .cmpReg h0 1 2 3 10, .cmpImm h0 1 2 3 15,
     .lds h0 1 2 7 0, .sts h0 1 2 4 0, .qcut h0 3 4, .wait h0 0, .seg ⟨1, 1, 0⟩ 0 0, .segend ⟨1, 0, 1⟩] = true := by decide +kernel
/-- R62 and R61: control registers that are not there, OCC for SYSWR, CONF outside MX, SNAP above 0xEEFF, an ICINV scope. -/
theorem test_illformed_system : refused
    [.sysrd h0 1 0, .sysrd h0 1 0x21, .sysrd h0 1 0x103, .sysrd h0 1 0x1600, .syswr h0 1 0x1000, .syswr h0 1 0, .conf h0 1 0x1FF, .conf h0 1 0x210,
     .snap h0 1 0xEF00, .icinv h0 0 5, .icinv h0 1 2] = true := by decide +kernel
/-- R64 and R204: what TYPE, RND, SAT and MEN may hold. -/
theorem test_illformed_vector_sub : refused
    [.vaddF h0 tv0, .vaddI h0 { tv0 with ty := 6 }, .vmulI h0 { tv0 with rnd := 1 }, .vminF h0 { tv0 with ty := 6, sat := 1 }, .vminI h0 { tv0 with rnd := 1 },
     .vabs h0 { tv0 with ty := 3 }, .vcmpF h0 { tv0 with ty := 6, sat := 1, rnd := 3 }, .vcmpI h0 { tv0 with sat := 1, rnd := 2 }, .vsel h0 tv0,
     .vand h0 { tv0 with ty := 1 }, .vshrN h0 tv0, .vshrI h0 { tv0 with ty := 3 }, .vcvtF h0 { tv0 with ty := 6, tb := 12 },
     .vcvtI h0 { tv0 with tb := 22 }, .vqntDb8 h0 { tv0 with ty := 10 }, .vqntDb4 h0 { tv0 with ty := 10, tb := 18 }, .vpermT h0 { tv0 with ty := 9 },
     .vtopk h0 { tv0 with ty := 7, tbp := 1 }, .vrng h0 { tv0 with ty := 2 }, .vexp h0 tv0, .vaddI h0 { tv0 with msk := 1 }] = true := by decide +kernel
/-- R65 and R198: what RAIL may hold, and the fields that a tap or a drive replaces. -/
theorem test_illformed_vector_rail : refused
    [.vaddI h0 { tv0 with rail := 1 }, .vcvtI h0 { tv0 with rail := 2, tb := 4 }, .vfma h0 { tv0 with ty := 6 }, .vmovt h0 { tv0 with rail := 3 },
     .vcmpI h0 { tv0 with rail := 2 }, .vaddI h0 { tv0 with rail := 3, rdn := 1 }, .vaddI h0 { tv0 with rail := 2, ta := 1 }] = true := by decide +kernel
/-- R66: what the source fields may hold. -/
theorem test_illformed_vector_sources : refused
    [.vabs h0 { tv0 with tbv := 1 }, .vqntDb8 h0 { tv0 with ty := 9, tb := 1 }, .vredI h0 { tv0 with tb := 48 }, .vcmpI h0 { tv0 with td := 8 },
     .vbcastS h0 { tv0 with ta := 32 }, .vpermImm h0 { tv0 with tb := 2 }, .vpermImm h0 { tv0 with tb := 32 }, .vtopk h0 { tv0 with ty := 6, tb := 1 },
     .vlds h0 0 0 0 0 0 0 1 0, .vsts h0 0 0 0 0 0 0 1 0] = true := by decide +kernel
/-- R69 and R70: PROF, the even A register of MMA2, MFIX's two destinations, HINT, ring kinds and counts. -/
theorem test_illformed_engines : refused
    [.mmaDb8 h0 ⟨0, 0, 0, 0, 0, 0⟩ 0 0 0 0 0 0 0, .mmaI8 h0 ⟨0, 0, 0, 0, 0, 0⟩ 0 0 3 0 0 0 0, .mma2 h0 ⟨0, 0, 0, 0, 0, 0⟩ 0 0 1 0 1 0 0,
     .mfixF32 h0 ⟨0, 0, 0, 0, 0, 0⟩ 1 0 0 1 0 0, .mfixDb4 h0 ⟨0, 0, 0, 0, 0, 0⟩ 1 0 0 0 1 0, .cpyLd h0 ⟨0, 0, 0, 0, 0, 0⟩ 0 0 0 0 3,
     .scat h0 ⟨0, 0, 0, 0, 0, 0⟩ 0 0 0 0 3 0, .hconf h0 0 0 0 3 0, .radvp h0 0 0, .radvc h0 0 0, .rwaitf h0 0 0, .rwaite h0 0 0] = true := by decide +kernel
/-- R71 to R74: registers, tokens, WK, ORD, SCP, HINT and OFF of the access-queue forms. -/
theorem test_illformed_accesses : refused
    [.gld h0 { aq0 with sb := 1 }, .gld h0 { aq0 with wk := 7 }, .gld h0 { aq0 with ord := 2 }, .gld h0 { aq0 with scp := 5 }, .gld h0 { aq0 with hint := 3 },
     .gst h0 { aq0 with sd := 1 }, .gst h0 { aq0 with wk := 4 }, .gst h0 { aq0 with ord := 1 }, .aaddN32 h0 { aq0 with wk := 1 },
     .aaddN64 h0 { aq0 with ord := 4 }, .axchgN128 h0 { aq0 with sb := 1 }, .acasN128 h0 { aq0 with sd := 1 }, .aprom h0 { aq0 with scp := 1 },
     .fence h0 aq0, .fence h0 { aq0 with ord := 1, off := 1 }, .pf h0 { aq0 with hint := 2 }, .pf h0 { aq0 with par := 1 }, .linv h0 { aq0 with ord := 1 },
     .lwb h0 { aq0 with rd := 1 }, .dvred h0 { aq0 with off := 1 }, .tspawn h0 { aq0 with off := 16 }, .tspawn h0 { aq0 with pbl := 1 },
     .tstageReg h0 { aq0 with sd := 1 }, .tjoin h0 { aq0 with scp := 1 }, .joinReg h0 { aq0 with sa := 1 }, .bargImm h0 { aq0 with off := 65536 },
     .gcountReg h0 { aq0 with sa := 1 }, .gcountImm h0 { aq0 with sb := 1 }, .imprv h0 { aq0 with scp := 3 }, .iread h0 { aq0 with ord := 2, scp := 3 },
     .kchk h0 { aq0 with off := 16 }, .jrec h0 { aq0 with off := 1 }, .jwait h0 { aq0 with sb := 1 }, .emitN32 h0 { aq0 with ord := 2 },
     .jtrunc h0 { aq0 with sd := 1 }, .jreseat h0 { aq0 with wk := 1 }] = true := by decide +kernel
/-- R9: a reserved bit set, and bytes that run out. -/
theorem test_reserved_bits : decodeTableWord 64 0x0080_0000_0000_0001 = none ∧ decodeTableWord 64 0x3680_0000_0000_0001 = none
    ∧ (decodeBytes [0, 0, 0, 0, 0, 0, 0x80]).toOption = none := by decide +kernel

/-! ## Words printed in the manual -/

theorem test_printed_engine_words : reads
    [(0x9081_0003_910C_0000, .cpyLd ⟨1, 0, 0⟩ ⟨0, 0, 1, 0, 0, 0⟩ 7 4 8 3 0), (0x9184_8A14_9D1D_0000, .cpySt ⟨1, 0, 0⟩ ⟨1, 0, 0, 1, 5, 1⟩ 9 7 8 7 1),
     (0x9281_0023_912C_0400, .gath ⟨1, 0, 0⟩ ⟨0, 0, 1, 0, 0, 2⟩ 7 4 9 3 0 1), (0x9980_0002_98E0_0002, .hconf ⟨1, 0, 0⟩ 5 6 7 0 2),
     (0x9C80_0000_0000_0012, .rwaitf ⟨1, 0, 0⟩ 1 2), (0x9B00_0000_0000_0012, .radvc ⟨0, 0, 0⟩ 1 2), (0x9F80_0000_0000_0003, .tkwait ⟨1, 0, 0⟩ 3),
     (0x8084_8622_8008_63A0, .mmaDb8 ⟨1, 0, 0⟩ ⟨1, 0, 0, 1, 3, 2⟩ 5 2 1 1 7 4 0), (0x8480_0010_1808_0000, .sldDb8 ⟨1, 0, 0⟩ ⟨0, 0, 0, 0, 0, 1⟩ 6 2),
     (0x8880_0010_0000_0000, .sswap ⟨1, 0, 0⟩ ⟨0, 0, 0, 0, 0, 1⟩ 0), (0x8E80_0020_0008_6608, .mfixDb4 ⟨1, 0, 0⟩ ⟨0, 0, 0, 0, 0, 2⟩ 0 2 1 1 12 1),
     (0x8E80_8024_0000_0000, .mfixDb4 ⟨1, 0, 0⟩ ⟨0, 0, 0, 1, 0, 2⟩ 8 0 0 0 0 0)] = true := by decide +kernel
theorem test_printed_vector_words : reads
    [(0x4480_6220_0051_2006, .vmulF ⟨1, 0, 0⟩ { tv0 with td := 3, tdv := 1, rdn := 1, tb := 5, tbv := 1, rail := 2, ty := 6 }),
     (0x4680_8221_0861_4006, .vfma ⟨1, 0, 0⟩ { tv0 with td := 4, tdv := 1, rdn := 1, ta := 2, tav := 1, tb := 6, tbv := 1, rail := 4, ty := 6 }),
     (0x5A80_E221_0900_0006, .vredF ⟨1, 0, 0⟩ { tv0 with td := 7, tdv := 1, rdn := 1, ta := 2, tav := 1, tb := 16, ty := 6 }),
     (0x4D80_6001_0861_0046, .vcmpF ⟨1, 0, 0⟩ { tv0 with td := 3, ta := 2, tav := 1, tb := 6, tbv := 1, rnd := 2, ty := 6 }),
     (0x6680_4220_00E0_0000, .vlds ⟨1, 0, 0⟩ 2 1 1 7 0 0 0 0), (0x6780_0001_8920_0000, .vsts ⟨1, 0, 0⟩ 3 1 0 9 0 0 0 0),
     (0x6380_8221_8804_0006, .vtopk ⟨1, 0, 0⟩ { tv0 with td := 4, tdv := 1, rdn := 1, ta := 3, tav := 1, tbv := 4, ty := 6 }),
     (0x5880_4220_8800_0009, .vqntDb8 ⟨1, 0, 0⟩ { tv0 with td := 2, tdv := 1, rdn := 1, ta := 1, tav := 1, ty := 9 })] = true := by decide +kernel
theorem test_printed_access_words : reads
    [(0xA083_0C00_32D8_0008, .gld ⟨1, 0, 0⟩ { aq0 with sd := 12, sa := 6, wk := 3, ord := 1, scp := 3, rd := 3, off := 8 }),
     (0xA180_0CA8_24D8_0000, .gst ⟨1, 0, 0⟩ { aq0 with sa := 6, sb := 10, pbl := 1, wk := 2, ord := 2, scp := 3, rd := 3 }),
     (0xA380_0CA0_04FA_0000, .aaddN64 ⟨1, 0, 0⟩ { aq0 with sa := 6, sb := 10, ord := 2, scp := 3, rd := 7, hint := 1 }),
     (0xBB80_0008_04C0_0000, .fence ⟨1, 0, 0⟩ { aq0 with pbl := 1, ord := 2, scp := 3 }), (0xBD80_0800_0080_0040, .linv ⟨1, 0, 0⟩ { aq0 with sa := 4, scp := 2, off := 64 }),
     (0xCC82_4000_0000_0007, .gcountImm ⟨1, 0, 0⟩ { aq0 with sd := 9, off := 7 }), (0xC180_0A70_0000_0000, .tstageReg ⟨1, 0, 0⟩ { aq0 with sa := 5, sb := 7 }),
     (0xCD80_0850_04C0_0003, .imprv ⟨1, 0, 0⟩ { aq0 with sa := 4, sb := 5, ord := 2, scp := 3, off := 3 }),
     (0xD084_7DF0_0000_0000, .jrec ⟨1, 0, 0⟩ { aq0 with sd := 17, sa := 30, sb := 31 }), (0xD680_0003_1A2B_3C4D, .seg ⟨1, 0, 0⟩ 3 0x1A2B3C4D)] = true := by decide +kernel
theorem test_printed_scalar_words : reads
    [(0x2003_1A02_0000_0000, .lds ⟨0, 0, 0⟩ 12 13 2 0), (0x21D0_0912_0000_0FFC, .sts ⟨1, 5, 0⟩ 4 17 2 0xFFC), (0x2281_0000_0000_000A, .pbr ⟨1, 0, 0⟩ 1 10),
     (0x1D80_58E0_0000_0000, .cmpReg ⟨1, 0, 0⟩ 1 12 14 0), (0x1A93_C000_0000_0001, .movi ⟨1, 1, 0⟩ 15 1), (0x1E80_9A00_0000_0079, .cmpImm ⟨1, 0, 0⟩ 2 13 7 9),
     (0xC0A8_2800_0000_0000, .tspawn ⟨1, 2, 1⟩ { aq0 with sa := 20 }), (0x3380_2800_0000_0019, .syswrWaymask ⟨1, 0, 0⟩ 20 1),
     (0x3480_0800_0000_0202, .conf ⟨1, 0, 0⟩ 4 0x202), (0x3780_0800_0000_0001, .icinv ⟨1, 0, 0⟩ 4 1)] = true := by decide +kernel

/-! ## Small states -/

/-- A header that executes: G = 1, Q0. -/
def hx : Hdr := ⟨1, 0, 0⟩
/-- A header that does not: G = 1, !Q0. -/
def hoff : Hdr := ⟨1, 0, 1⟩
/-- A running stream whose S registers hold the values listed. -/
def strm (l : List (Nat × Word)) : Stream := { status := .running, s := l.foldl (fun t p => t.put p.1 p.2) .empty }
/-- Cycle 100 of a device whose core 0 is in a launch, with `k` besides, and whose stream 0 is `t`. -/
def mach (t : Stream) (k : Core := {}) : State :=
  { cores := Tbl.empty.put 0 { k with launch := some 0, mbState := 3, streams := Tbl.empty.put 0 t }, cycle := 100, word := 0x1000 }
/-- The same for a privileged launch. -/
def privileged (t : Stream) (k : Core := {}) : State := { mach t k with launches := Tbl.empty.put 0 { priv := true, running := true } }

theorem ready_of {s : State} (h : Hdr) (rs : List PReg) (ws : List (PReg × Nat)) (a : s.me.executes h = true) (b : s.me.expchk = false) :
    s.ready h rs ws := ⟨a, fun c => by simp [b] at c⟩
theorem off_of {s : State} (h : Hdr) (a : s.me.executes h = false) (b : s.me.expchk = false) : s.off h := ⟨a, fun c => by simp [b] at c⟩
theorem heedless_of {s : State} (h : Hdr) (rs : List PReg) (b : s.me.expchk = false) : s.heedless h rs := fun c => by simp [b] at c
theorem mach_expchk (l : List (Nat × Word)) (k : Core) : (mach (strm l) k).me.expchk = false := by
  simp [mach, strm, State.me, State.stream, State.core, Core.stream, Tbl.get, Tbl.find?, Tbl.findIn, Tbl.put, Tbl.putIn, Tbl.empty]
/-- Every such state is ready for an executing word, whatever the word reads and writes, and off for one whose predicate is false. -/
theorem mach_ready (l : List (Nat × Word)) (k : Core) (rs : List PReg) (ws : List (PReg × Nat)) : (mach (strm l) k).ready hx rs ws :=
  ready_of hx rs ws (by simp [Stream.executes, Stream.qreg, hx]) (mach_expchk l k)
theorem mach_off (l : List (Nat × Word)) (k : Core) : (mach (strm l) k).off hoff := off_of hoff (by simp [Stream.executes, Stream.qreg, hoff]) (mach_expchk l k)
theorem mach_heedless (l : List (Nat × Word)) (k : Core) (rs : List PReg) : (mach (strm l) k).heedless hoff rs := heedless_of hoff rs (mach_expchk l k)

/-! ## Witnesses of the statements' hypotheses -/

theorem witness_DecodeEncodeAgree : (Instr.addi h0 31 31 0xFFFFFFFFF).isEvent = false ∧ (Instr.addi h0 31 31 0xFFFFFFFFF).wf = true := by decide
theorem witness_EncodeDecodedWord : decode 0xD7FF_0000_0000_0000#64 ≠ .ok .syswrRetire ∧ decode 0x0080_0000_0000_0000#64 = .ok (.nop hx) := by
  exact ⟨nofun, rfl⟩
/-- A stream about to issue the word `w` at its program counter. -/
def about (w : Nat) : State := State.reset.withFetchWord 64 w
/-- The line that `about` puts before the stream. -/
def aboutLine (w : Nat) : ILine := { ctx := 0, va := 0, data := wordRow (BitVec.ofNat 64 w) 0, poison := false, pin := false }
theorem about_fetches (w : Nat) (i : Instr) (n : Word) (hn : (aboutLine w).word 0 = n) (hd : decode n = .ok i) (hg : n.getLsbD 55 = true)
    (a : ({ about w with agenda := [] } : State).runs 0 = true ∧ ((about w).stream 0).status = .running ∧ ({ about w with agenda := [] } : State).gateOpen 0 = true
      ∧ ((about w).stream 0).task.killed = false ∧ ((about w).stream 0).pc = 0
      ∧ (match ({ about w with agenda := [] } : State).homeFor (({ about w with agenda := [] } : State).ctxOf 0) 0 .fetch with | .ok d => d == 0 | .error _ => false) = true
      ∧ ((about w).core 0).iline (({ about w with agenda := [] } : State).ctxOf 0) 0 = some (aboutLine w)) :
    ({ about w with agenda := [] } : State).fetches 0 i := by
  obtain ⟨a1, a2, a3, a4, a5, a7, a6⟩ := a
  have a5' : (({ about w with agenda := [] } : State).stream 0).pc = 0 := a5
  refine ⟨a1, Or.inl a2, a3, a4, ⟨0, ?_⟩, aboutLine w, ?_, rfl, ?_, ?_⟩ <;> rw [a5']
  · revert a7
    cases State.homeFor _ _ _ _ with
    | error f => simp
    | ok d => simp
  · exact a6
  · rw [hn]; exact hg
  · rw [hn]; exact hd
theorem witness_StepRuns_fetches : (about 0x0080_0000_0000_0000).agenda = [.issue 0]
    ∧ ({ about 0x0080_0000_0000_0000 with agenda := [] } : State).fetches 0 (.nop hx)
    ∧ ((about 0x0080_0000_0000_0000).stream 0).seg.isOpen = false := by
  refine ⟨by decide +kernel, about_fetches _ _ 0x0080_0000_0000_0000#64 (by decide +kernel) rfl (by decide +kernel) (by decide +kernel), by decide +kernel⟩

theorem witness_StepRuns_ends : (State.reset.agenda = [] ∧ State.reset.dead = false)
    ∧ ({ State.reset with host := { phase := 5 } } : State).agenda = [] ∧ ({ State.reset with host := { phase := 5 } } : State).dead = true := by decide +kernel
/-- Verdicts of words about to issue: NOP issues, an unassigned opcode faults, a TKWAIT without a token is held. -/
theorem witness_StepRuns_verdicts :
    (match exec (.nop hx) (({ about 0x0080_0000_0000_0000 with agenda := [] } : State).atWord 0) with | .next t => t.verdict | _ => .none) = .issued
    ∧ (match exec (.nop hx) ((({ about 0x0080_0000_0000_0000 with agenda := [] } : State).atWord 0).modMe (fun x => x.advance 0 1)) with
        | .next t => t.verdict | _ => .none) = .issued
    ∧ (match exec (.unassignedOpcode 0x7A80_0000_0000_0000) (({ about 0x7A80_0000_0000_0000 with agenda := [] } : State).atWord 0) with
        | .next t => t.verdict | _ => .none) = .faulted
    ∧ (match exec (.tkwait hx 0) (({ about 0x9F80_0000_0000_0000 with agenda := [] } : State).atWord 0) with | .next t => t.verdict | _ => .none) = .held := by
  decide +kernel
/-- Core 0 with its I-cache lines poisoned. -/
def poisonedLines (s : State) : State := s.modCore 0 (fun k => { k with icache := k.icache.map (fun _ l => { l with poison := true }) })
theorem witness_LegalGroups :
    (let s := about 0x0080_0000_0000_0001
     s.runs 0 = true ∧ (s.stream 0).status = .running ∧ s.gateOpen 0 = true ∧ (s.stream 0).task.killed = false
      ∧ (match ({ s with cur := 0, verdict := .none } : State).gather 0 4 (s.stream 0).pc [] with
         | .words ws _ => (illegalIn (decide (1 < ws.length)) (decide (0 < (s.stream 0).xfer.left)) ws [] []).isSome | _ => false) = true)
    ∧ (let s := poisonedLines (about 0x0080_0000_0000_0000)
       s.runs 0 = true ∧ (s.stream 0).status = .running ∧ s.gateOpen 0 = true ∧ (s.stream 0).task.killed = false
        ∧ (match ({ s with cur := 0, verdict := .none } : State).gather 0 4 (s.stream 0).pc [] with | .bad _ _ => true | _ => false) = true) := by
  decide +kernel
/-- A stream whose next four words are NOPs, none of which ends its group. -/
def fourWords : State := (about 0x0080_0000_0000_0000).modCore 0 (fun k => { k with icache := k.icache.map (fun _ l => { l with data := 0 }) })
theorem witness_LegalGroups_four :
    let s : State := { fourWords with cur := 0, verdict := .none }
    fourWords.runs 0 = true ∧ (fourWords.stream 0).status = .running ∧ fourWords.gateOpen 0 = true ∧ (fourWords.stream 0).task.killed = false
      ∧ (match s.fetchWord 0 0 with
         | .ok (a, u) => a == 0 && (match u.fetchWord 0 8 with
           | .ok (b, u) => b == 0 && (match u.fetchWord 0 16 with
             | .ok (c, u) => c == 0 && (match u.fetchWord 0 24 with | .ok (d, _) => d == 0 | .error _ => false)
             | .error _ => false)
           | .error _ => false)
         | .error _ => false) = true := by decide +kernel
theorem witness_DelayGroups : ({ pbr := some (0x40, 200) } : Stream).pbr = some (0x40, 200) ∧ (∀ c, ({ pbr := some (0x40, 200) } : Stream).ret ≠ some (0x40, c))
    ∧ ({ ret := some (0x40, 7) } : Stream).ret = some (0x40, 7) ∧ (∀ c, ({ ret := some (0x40, 7) } : Stream).pbr ≠ some (0x40, c))
    ∧ ({ xfer := { left := 1, target := some 0x40, call := true } } : Stream).xfer.left = 1 ∧ ({} : Stream).xfer.left = 0
    ∧ ({ xfer := { left := 2 } } : Stream).xfer.left = 2 := by simp
theorem witness_ScalarResults : (mach (strm [(1, 5), (2, 7)])).ready hx [(mach (strm [(1, 5), (2, 7)])).me.sp 1, (mach (strm [(1, 5), (2, 7)])).me.sp 2]
    [((mach (strm [(1, 5), (2, 7)])).me.sp 0, 1)] := mach_ready ..
theorem witness_BitFieldAndDivision : (0 < (64 : BitVec 7).toNat ∧ (0 : BitVec 6).toNat + (64 : BitVec 7).toNat ≤ 64)
    ∧ (mach (strm [(1, 5), (2, 7)])).S 2 ≠ 0 ∧ (mach (strm [(1, 5)])).S 2 = 0 := by decide +kernel
/-- A stream with EXPCHK set and a latent write of `r` that lands in cycle 103. -/
def pendingWrite (r : PReg) : State := mach { strm [] with expchk := true, latents := [⟨r, some 0, 99, 103⟩] }
theorem pendingWrite_open (r : PReg) (hr : r ≠ .q 0) : (pendingWrite r).windowsOpen [.q 0] [] := by
  intro l hl
  simp [pendingWrite, mach, State.me, State.stream, State.core, Core.stream, Tbl.get, Tbl.find?, Tbl.findIn, Tbl.put, Tbl.putIn, Tbl.empty] at hl
  subst hl
  simp [hr]
theorem witness_LatencyFaults : (pendingWrite (.m 3)).me.executes hx = true ∧ (pendingWrite (.m 3)).me.expchk = true
    ∧ (pendingWrite (.m 3)).windowsOpen [(pendingWrite (.m 3)).me.qp hx.qs] [] ∧ (⟨.m 3, some 0, 99, 103⟩ : Latent) ∈ (pendingWrite (.m 3)).me.latents
    ∧ 99 < (pendingWrite (.m 3)).cycle ∧ (pendingWrite (.m 3)).cycle < 103 :=
  ⟨by decide +kernel, by decide +kernel, pendingWrite_open (.m 3) (by decide), by decide +kernel, by decide, by decide⟩
theorem witness_WindowReads : (pendingWrite (.s 5)).me.executes hx = true ∧ (pendingWrite (.s 5)).me.expchk = true
    ∧ (pendingWrite (.s 5)).windowsOpen [(pendingWrite (.s 5)).me.qp hx.qs] [] ∧ (⟨.s 5, some 0, 99, 103⟩ : Latent) ∈ (pendingWrite (.s 5)).me.latents
    ∧ 99 < (pendingWrite (.s 5)).cycle ∧ (pendingWrite (.s 5)).cycle < 103 ∧ PReg.s 5 = (pendingWrite (.s 5)).me.sp 5 :=
  ⟨by decide +kernel, by decide +kernel, pendingWrite_open (.s 5) (by decide), by decide +kernel, by decide, by decide, by decide +kernel⟩
theorem witness_PredicatedOff : plainForm (.add hoff 1 2 3) = some hoff ∧ (mach (strm [])).off hoff := ⟨rfl, mach_off ..⟩
theorem witness_PredicateResults : (9 : BitVec 4).toNat < 10 ∧ (mach (strm [])).ready hx [.m 7] [((mach (strm [])).me.qp 1, 1)] ∧ (mach (strm [])).off hoff :=
  ⟨by decide, mach_ready .., mach_off ..⟩
theorem witness_LatentWrites :
    (let s := mach { strm [] with latents := [⟨.s 5, some 9, 90, 100⟩] }
     (s.stream 0).latents = [] ++ [⟨.s 5, some 9, 90, 100⟩] ++ [] ∧ 100 ≤ s.cycle) ∧ (PReg.s 5).discards = false
      ∧ ∀ l ∈ ((mach { strm [] with latents := [⟨.s 5, some 9, 90, 100⟩] }).stream 0).latents, l.reg = .s 6 → 100 < l.due := by decide +kernel
theorem witness_LatentFiles : ∀ r ∈ [PReg.s 5, .q 5, .m 5, .j 5],
    (let s := mach { strm [] with latents := [⟨r, some 8, 89, 99⟩, ⟨r, some 9, 90, 100⟩] }
     (s.stream 0).latents = [⟨r, some 8, 89, 99⟩] ++ [⟨r, some 9, 90, 100⟩] ++ [] ∧ 100 ≤ s.cycle ∧ (s.core 0).mbState ≠ 2 ∧ 99 ≤ 100)
    ∧ (({ cores := Tbl.empty.put 0 { mbState := 2 } } : State).core 0).mbState = 2 := by decide +kernel
/-- An address that S1 holds. -/
abbrev s1 (v : Word) : State := mach (strm [(1, v)])
theorem witness_ScratchpadAccesses :
    (let s := s1 0x5FFF8
     ((s.S 1).toNat % 8 = 0 ∧ 0 ≤ (s.S 1).toInt ∧ (s.S 1).toInt + 8 ≤ 0x60000) ∧ s.myCore.spRes = [])
    ∧ (s1 3).S 1 = 3 ∧ ((s1 0x60000).S 1).toNat % 8 = 0 ∧ 0x60000 < ((s1 0x60000).S 1).toInt + 8
    ∧ ((s1 (-8)).S 1).toNat % 8 = 0 ∧ ((s1 (-8)).S 1).toInt < 0
    ∧ (let s := mach (strm [(1, 0x40)]) { spRes := [⟨1, 101, 3, 99⟩] }
       ∃ r ∈ s.myCore.spRes, r.bank = (s.S 1).toNat / 64 % 16 ∧ r.cycle = s.cycle + 1 ∧ r.gsid ≠ s.cur)
    ∧ (let s := mach { strm [] with latents := [⟨.s 5, none, 99, 103⟩] }
       ((s.core 0).line 1).poison = false ∧ (s.stream 0).latents = [] ++ ⟨.s 5, none, 99, 99 + 4⟩ :: []) := by decide +kernel
/-- J1 holds `v`, and LC and EC their values. -/
abbrev j1 (v : Word) (lc : BitVec 32 := 0) (ec : BitVec 8 := 0) : State := mach { strm [] with j := Tbl.empty.put 1 v, lc := lc, ec := ec }
theorem witness_Transfers :
    ((j1 0xFFFF_FFFF_FFF8).me.xfer.left = 0 ∧ ((j1 0xFFFF_FFFF_FFF8).me.jreg 1).toNat < 2 ^ 48 ∧ (j1 0x40).me.qreg 0 = true ∧ (j1 0x40).me.qreg 1 = false)
    ∧ (¬ ((j1 0x1_0000_0000_0000).me.jreg 1).toNat < 2 ^ 48) ∧ 0 < (mach { strm [] with xfer := { left := 2 } }).me.xfer.left := by decide +kernel
theorem witness_LoopCountsAndRotates : (j1 0x40 1).me.lc ≠ 0 ∧ (j1 0x40 0 2).me.lc = 0 ∧ 1 < (j1 0x40 0 2).me.ec.toNat ∧ (j1 0x40 0 1).me.ec = 1
    ∧ (j1 0x40 0 1).me.lc = 0 ∧ (j1 0x40).me.ec = 0 ∧ (¬ ((j1 0x1_0000_0000_0000 1).me.jreg 1).toNat < 2 ^ 48) ∧ (j1 0x40).me.xfer.left = 0 := by decide +kernel
/-- Handle 3 of core 0, now and at the end of the cycle before, and its streams. -/
abbrev ring3 (r : Ring) (t : Stream := strm []) : State := mach t { rings := Tbl.empty.put 3 r, ringsPrev := Tbl.empty.put 3 r }
theorem witness_OutcomeRings :
    (let s := ring3 { kind := .outcome, count := 4, filled := 3, obits := 1 }
     (s.myCore.ring 3).kind = .outcome ∧ (s.myCore.ringBefore 3).filled.toNat < (s.myCore.ringBefore 3).count.toNat
      ∧ (s.myCore.ring 3).filled.toNat < (s.myCore.ring 3).count.toNat ∧ 1 ≤ (s.myCore.ringBefore 3).filled.toNat ∧ 1 ≤ (s.myCore.ring 3).filled.toNat
      ∧ (s.myCore.ring 3).obits.getLsbD (s.myCore.ring 3).ci.toNat = true ∧ (s.me.jreg 1).toNat < 2 ^ 48)
    ∧ ¬ ((ring3 { kind := .outcome, count := 4, filled := 4 }).myCore.ring 3).filled.toNat < ((ring3 { kind := .outcome, count := 4, filled := 4 }).myCore.ring 3).count.toNat
    ∧ ¬ 1 ≤ ((ring3 { kind := .outcome, count := 4 }).myCore.ring 3).filled.toNat ∧ ((ring3 { kind := .token, count := 4 }).myCore.ring 3).kind ≠ .outcome := by
  decide +kernel
theorem witness_RingHandles :
    (let s := mach (strm [(1, 0x5FFC0), (2, 64), (3, 1)])
     s.myCore.ringLock.getLsbD 3 = false ∧ (s.S 1).toNat % 64 = 0 ∧ (s.S 2).toNat % 64 = 0 ∧ 64 ≤ (s.S 2).toNat ∧ (s.S 2).toNat ≤ 393216 ∧ 1 ≤ (s.S 3).toNat
      ∧ (s.S 1).toNat + (s.S 2).toNat * (s.S 3).toNat ≤ 0x60000 ∧ s.S 4 = 0 ∧ s.S 5 = 0)
    ∧ ((mach (strm [(3, 64)])).S 3).toNat ≤ 64 ∧ 64 < ((mach (strm [(3, 65)])).S 3).toNat ∧ ((mach (strm [(3, 65535)])).S 3).toNat ≤ 65535
    ∧ (((s1 0x20).S 1).toNat % 64 ≠ 0 ∧ ((s1 0x10000).S 1).toNat > 65535 ∧ ((s1 0x5FFC0).S 1).toNat + 64 * 2 > 0x60000 ∧ (s1 1).S 1 ≠ 0 ∧ ((s1 0).S 1).toNat < 1)
    ∧ (mach (strm []) { ringLock := 8 }).myCore.ringLock.getLsbD 3 = true
    ∧ (let s := ring3 { kind := .data, size := 64, count := 4, filled := 3 }
       let r := s.myCore.ring 3
       (r.kind ≠ .outcome ∧ r.count ≠ 0) ∧ s.me.accs = [] ∧ s.me.charge = none ∧ r.filled.toNat + 1 ≤ r.count.toNat ∧ r.count.toNat < r.filled.toNat + 2
        ∧ 3 ≤ r.filled.toNat ∧ r.filled.toNat < 4 ∧ 4 ≤ r.count.toNat ∧ r.count.toNat < 5
        ∧ 1 ≤ (s.myCore.ringBefore 3).count.toNat - (s.myCore.ringBefore 3).filled.toNat ∧ (s.myCore.ringBefore 3).count.toNat - (s.myCore.ringBefore 3).filled.toNat < 2)
    ∧ ¬ (((mach (strm [])).myCore.ring 3).kind ≠ .outcome ∧ ((mach (strm [])).myCore.ring 3).count ≠ 0) := by decide +kernel
/-- An engine command as an entry of a queue. -/
def entryOf' (i : Instr) (n : Nat) : QEntry := { instr := i, number := n, entered := 90 }
/-- An engine command with tag 5. -/
def fill5 : Instr := .fillLd hx ⟨0, 0, 0, 0, 5, 0⟩ 0 0 0 0 0
theorem witness_SystemForms :
    (1 < (4 : BitVec 3).toNat ∧ (1 : BitVec 3).toNat ≤ 1 ∧ ((s1 0xFFFF_FFFF_FFFF).S 1).toNat < 2 ^ 48 ∧ 2 ^ 48 ≤ ((s1 0x1_0000_0000_0000).S 1).toNat)
    ∧ (tagOf fill5 = some 5 ∧ (entryOf' fill5 1).entered < 100 ∧ (entryOf' fill5 1).started = false)
    ∧ ((mach (strm [])).me.task.killed = false ∧ (mach (strm [])).me.charge = none ∧ (mach (strm [])).me.aq = [] ∧ (mach (strm [])).me.status ≠ .idle) := by
  decide +kernel
theorem witness_ControlRegisters : 0x1000 ≤ (0x1000 : BitVec 16).toNat ∧ ((privileged (strm [(1, 3)])).launchOf 0).priv = true
    ∧ ((s1 1).launchOf 0).priv = false ∧ ((s1 1).S 1).getLsbD 0 ≠ (s1 1).me.expchk ∧ ((s1 1).S 1).getLsbD 0 ≠ (s1 1).myCore.detmode
    ∧ ((s1 1).S 1).extractLsb' 0 3 ≠ (s1 1).me.cpid := by decide +kernel
theorem witness_EngineQueues : (mach (strm [])).me.mxq.length < 16 ∧ 16 ≤ (mach { strm [] with mxq := List.replicate 16 (entryOf' fill5 1) }).me.mxq.length
    ∧ ((mach (strm [])).me.queue 0).length < 16 ∧ 16 ≤ ((mach { strm [] with ldq := List.replicate 16 (entryOf' fill5 1) }).me.queue 0).length
    ∧ 16 ≤ ((mach { strm [] with stq := List.replicate 16 (entryOf' fill5 1) }).me.queue 2).length := by decide +kernel
theorem witness_ChainUnits : ((s1 0xFFFF_FFFF_FFC0).S 1).toNat % 64 = 0 ∧ ((s1 0xFFFF_FFFF_FFC0).S 1).toNat < 2 ^ 48 ∧ ((s1 8).S 1).toNat % 64 ≠ 0
    ∧ 2 ^ 48 ≤ ((s1 0x1_0000_0000_0000).S 1).toNat ∧ (mach { strm [] with ldChain := { head := 64 } }).me.ldChain.run = false
    ∧ (mach { strm [] with ldChain := { head := 64 } }).me.ldChain.head ≠ 0 ∧ (mach { strm [] with stChain := { run := true } }).me.stChain.run = true := by decide +kernel
/-- A stream whose access queue holds one entry of a load. -/
abbrev oneLoad (f : QEntry → QEntry) : State := mach { strm [] with aq := [f (entryOf' (.gld hx { aq0 with sd := 5, sa := 1, wk := 3 }) 1)] }
theorem witness_Markers :
    ((mach { strm [] with replies := Tbl.empty.put 0 [{}] }).me.replies.get [] 0 = {} :: [] ∧ (mach (strm [])).me.replies.get [] 0 = [])
    ∧ (let s := oneLoad (fun e => { e with done := true, since := 99, dest := 5, reply := some 7 })
       ∃ e, s.me.aq = [e] ∧ e.fault = none ∧ e.done = true ∧ e.since < s.cycle ∧ s.me.charge = none ∧ e.idx = [] ∧ s.me.expchk = false ∧ e.reply = some 7 ∧ e.dest ≠ 0)
    ∧ (∃ e f, (oneLoad (fun e => { e with fault := some { code := .page } })).me.aq = [e] ∧ e.fault = some f) ∧ (mach (strm [])).me.aq = [] := by
  refine ⟨by decide +kernel, ⟨_, rfl, ?_⟩, ⟨_, _, rfl, rfl⟩, rfl⟩; decide +kernel
theorem witness_AccessForms :
    (let s := s1 0xFFFF_FFFF_FFF0
     (s.S 1).toNat < 2 ^ 48 ∧ (s.S 1).toNat % 16 = 0 ∧ s.me.aq.length < 16) ∧ 2 ^ 48 ≤ ((s1 0x1_0000_0000_0000).S 1).toNat ∧ ((s1 0x101).S 1).toNat % 4 ≠ 0
    ∧ (let s := mach { strm [] with aq := List.replicate 16 (entryOf' fill5 1) }
       16 ≤ s.me.aq.length ∧ ∀ e ∈ s.me.aq, e.fault = none)
    ∧ (mach { strm [] with aq := List.replicate 16 { entryOf' fill5 1 with fault := some { code := .page } } }).me.aq.findSome? (fun e => e.fault) = some { code := .page } := by
  decide +kernel
theorem witness_TaskForms : (let s := mach (strm [(1, 0x5FFE0), (2, 8)])
     s.me.aq.length < 16 ∧ (s.S 1).toNat < 2 ^ 48 ∧ (s.S 1).toNat % 32 = 0 ∧ (s.S 2).toNat < 16 ∧ (s.S 2).toNat % 8 = 0 ∧ (s.S 1).toNat + 31 ≤ 0x5FFFF)
    ∧ ((s1 0x10).S 1).toNat % 32 ≠ 0 := by decide +kernel
theorem witness_LateControlWrites : ((privileged (strm [(1, 9)])).launchOf 0).priv = true ∧ ((privileged (strm [(1, 9)])).fmtBase.get 0 7).getLsbD 63 = false
    ∧ ((privileged (strm [(1, 9)])).S 1).getLsbD 63 = false ∧ ((privileged (strm [(1, 9)])).S 1).getLsbD 0 = true
    ∧ (({ privileged (strm []) with fmtBase := Tbl.empty.put 7 0x8000_0000_0000_0000 } : State).fmtBase.get 0 7).getLsbD 63 = true
    ∧ ((s1 0xE000_0000_0000_0041).launchOf 0).priv = false
    ∧ (let v := (s1 0xE000_0000_0000_0041).S 1
       v ≠ 0xFFFFFFFFFFFFFFFF#64 ∧ v &&& 0x00003FFFFFFFF001#64 ≠ 0 ∧ v &&& 0xE0000FFFFFFFFFFF#64 ≠ 0 ∧ v &&& 0x00003FFFFFFFFFC0#64 ≠ 0 ∧ v &&& 0xCFFFFFFFFFFFFFFF#64 ≠ 0) := by
  decide +kernel
/-- A data range of one unit at 0 whose scales lie at 0x10_0000 passes every check; one without length does not. -/
theorem witness_FormatRanges :
    let v : Word := 0x8000_0000_4000_0000
    let data := fmtData (v &&& 0xCFFFFFFFFFFFFFFF#64)
    let scales := fmtScales (v &&& 0xCFFFFFFFFFFFFFFF#64) 0x10_0000
    (data.2 ≠ 0 ∧ (∃ st < 8, ∀ r ∈ [data, scales], st * 2 ^ 36 ≤ r.1 ∧ r.1 + r.2 ≤ st * 2 ^ 36 + 0xC00000000) ∧ data.1 + data.2 ≤ scales.1)
      ∧ (∀ m < 8, m ≠ 7 → ((privileged (strm [])).fmtBase.get 0 m).getLsbD 63 = false) ∧ v.getLsbD 63 = true
      ∧ (fmtData (0x8000_0000_0000_0000#64 &&& 0xCFFFFFFFFFFFFFFF#64)).2 = 0 := by decide +kernel
theorem witness_ConfigurationAndSheet : (0x207 : BitVec 16).toNat % 16 < 8 ∧ 8 ≤ (0x208 : BitVec 16).toNat % 16
    ∧ ((privileged (strm [])).launchOf 0).priv = true ∧ ((privileged (strm [])).S 1).getLsbD 63 = false
    ∧ ∀ d ∈ [0, 1, 2, 3], ((privileged (strm [])).jnOf d).lastn ≤ ((privileged (strm [])).jnOf d).dur := by decide +kernel

/-- JPAIR pairing with device 7 by quarters of a 2^30-byte negative at 0. -/
def pair7 : Word := 0x9E00_1C00_0000_0000
theorem witness_Pairing :
    let s : State := { privileged (strm [(1, pair7)]) with jn := (List.range 4).foldl (fun t d => t.put d { jroute := 0x9000_0000_0000_0001 }) .empty }
    let v := jMask (s.S 1)
    ((s.launchOf 0).priv = true ∧ (s.S 1).getLsbD 63 = true)
      ∧ (jEn s.jpair = false ∧ 20 ≤ jLogsz v ∧ jLogsz v ≤ 36 ∧ jNegbase v % 2 ^ jLogsz v = 0 ∧ jPdev v ≠ s.devnum
          ∧ ∀ d ∈ [0, 1, 2, 3], jrouteOk (s.jnOf d).jroute = true)
      ∧ ¬ jPdev (jMask 0x9E00_0000_0000_0000) ≠ s.devnum := by decide +kernel
theorem witness_TaskAndSegment :
    ((mach (strm [])).me.task.killed = false ∧ (mach (strm [])).me.charge = none ∧ (mach (strm [])).me.task.active = false ∧ (mach (strm [])).me.seg.isOpen = false)
    ∧ (mach { strm [] with task := { active := true } }).me.task.active = true
    ∧ (let s := mach { strm [] with seg := ⟨true, 3, 0xFFFFFFFF#32, 3, 0⟩ }
       s.me.seg.isOpen = true ∧ s.me.seg.n = s.me.seg.count.toNat ∧ (s.me.seg.crc ^^^ 0xFFFFFFFF#32) = s.me.seg.sig)
    ∧ (let s := mach { strm [] with seg := ⟨true, 2, 0xFFFFFFFF#32, 3, 0⟩ }
       s.me.seg.n ≠ s.me.seg.count.toNat)
    ∧ (let s : State := { privileged (strm [(1, pair7)]) with
         jpair := pair7, jn := (List.range 4).foldl (fun t d => t.put d { jroute := 0x9000_0000_0000_0001 }) .empty }
       (s.launchOf 0).priv = true ∧ jEn s.jpair = true ∧ jEn (s.S 1) = true ∧ jLogsz (s.S 1) = jLogsz s.jpair
        ∧ jNegbase (s.S 1) % 2 ^ jLogsz (s.S 1) = 0 ∧ jPdev (s.S 1) ≠ s.devnum
        ∧ ∀ d ∈ [0, 1, 2, 3], jrouteOk (s.jnOf d).jroute = true ∧ (s.jnOf d).reseat = false) := by decide +kernel
theorem witness_Memory : Memory.wf [] = true ∧ Memory.wf (Memory.setNat [] 0x3FFFF_FFFF_FFFF 2 0x1FF) = true := by decide +kernel
theorem witness_StepKeeps : State.reset.memOk ∧ (match step (about 0x0080_0000_0000_0000) with | .next _ => true | _ => false) = true := by
  refine ⟨⟨rfl, rfl⟩, by decide +kernel⟩
theorem witness_IssueLeavesMemory : (Instr.nop hx).isEvent = false ∧ (∀ h sa n, Instr.nop hx ≠ .syswrFmtBase h sa n)
    ∧ (match exec (.nop hx) (mach (strm [])) with | .next _ => true | _ => false) = true := ⟨rfl, nofun, by decide +kernel⟩
/-- Context 0's first 64 KiB, a memory-side page at PA 0 homed on die 0. -/
def paged (s : State) : State :=
  { s with homemaps := Tbl.empty.put 0 1, hmArrays := Tbl.empty.put 0 (Tbl.empty.put 0 0x80), ctxroots := Tbl.empty.put 0 0x8000000000000000,
           trans := Tbl.empty.put 0 [{ ctx := 0, va := 0, pa := 0, size := 2 ^ 16, ms := true, x := false, w := true, rp := true }] }
/-- The only entry of the access queue of stream 0, entered in cycle 90. -/
def aqOne (i : Instr) (f : QEntry → QEntry := id) : QEntry := f { entryOf' i 1 with x := 0x1F8, y := 9 }
/-- A paged machine with that entry. -/
def aqMach (i : Instr) (f : QEntry → QEntry := id) : State := paged (mach { strm [] with aq := [aqOne i f] })
/-- A place of plain memory. -/
def plainPlace (r : Except FaultInfo Place) : Bool := match r with | .ok p => !p.isDevice && !p.isRemote | .error _ => false
/-- The place, for an access that the paged state lets be. -/
def placed : Place := { pa := 0x1F8, die := 0, leaf := { ctx := 0, va := 0, pa := 0, size := 2 ^ 16, ms := true, x := false, w := true, rp := true }, ctx := 0, va := 0x1F8 }
/-- Sa + 0, eight bytes. -/
def a8 : Aq := { aq0 with sa := 1, sb := 2, wk := 3 }
/-- What a plain access by `w` of the only entry meets: memory, no race, room for tracking state. -/
def accessClear (s : State) (i : Instr) (k : AccKind) (write : Bool) : Bool :=
  let w := s.aqWho 0 (aqOne i) a8
  match s.look 0 (0x1F8 + a8.off.signExtend 64) k with
  | .ok (p, u) => !p.isDevice && !p.isRemote && p.pa == 0x1F8 && !s.poisoned p.pa && (s.raceRange w p 0x1F8 8 write true).isNone
      && !s.noShadow w (if write then (u.touchWrite 0 w p 8).1 else u.touchRead 0 w p 8)
  | .error _ => false
theorem witness_AccessesPerform : accessClear (aqMach (.gld hx a8)) (.gld hx a8) .read false = true
    ∧ accessClear (aqMach (.gst hx a8)) (.gst hx a8) .write true = true
    ∧ (let s := aqMach (.gld hx a8)
       (∀ k < 8, (s.fmtBase.get 0 k).getLsbD 63 = false) ∧ (s.stream 0).aq = [aqOne (.gld hx a8)]
        ∧ (aqOne (.gld hx a8)).skip = false ∧ (aqOne (.gld hx a8)).cancel = false ∧ a8.ord = 0 ∧ Memory.wf s.mem = true)
    ∧ (let s := aqMach (.aaddN64 hx a8)
       let w := s.aqWho 0 (aqOne (.aaddN64 hx a8)) a8
       match s.place (s.ctxOf 0) (0x1F8 + a8.off.signExtend 64) .atomic with
       | .ok p => !p.isDevice && (s.raceRange w p 0x1F8 8 true false).isNone && !s.noShadow w ((s.holdTrans p.die 0x1F8 p.leaf).recallFor p 8)
           && !s.poisoned p.pa
       | .error _ => false) = true
    ∧ atomicOf (.aaddN64 hx a8) = some (.add, 8, false) ∧ Sys2Proof.Machine.aqBody (.aaddN64 hx a8) = some a8 := by decide +kernel
theorem witness_AtomicValues : 0xFFFFFFFF < 2 ^ (8 * 4) ∧ (4 ∈ [4, 8, 16]) ∧ (8 ∈ [4, 8]) ∧ 2 ^ 128 - 1 < 2 ^ 128 ∧ (7 : Nat) ≠ 8 := by decide
theorem witness_AtomicSums : f32.decode 0x7FC00000 = .nan ∧ f32.decode 0x7F800000 = .inf false ∧ f32.decode 0xFF800000 = .inf (!false)
    ∧ (∃ i j k l, f32.decode 0x3F800000 = .num i j ∧ f32.decode 0xBF800000 = .num k l) ∧ 0xFF800000 < 2 ^ 32 :=
  ⟨by decide +kernel, by decide +kernel, by decide +kernel, ⟨_, _, _, _, rfl, rfl⟩, by decide⟩
/-- A FENCE of order `o`. -/
def fence (o : BitVec 3) : Instr := .fence hx { aq0 with ord := o, scp := 2 }
/-- Sa + 0, eight bytes, of order `o` at .C. -/
def ordered (o : BitVec 3) : Aq := { a8 with ord := o, scp := 2 }
theorem witness_QueueHead :
    (∀ i ∈ [fence 1, .gld hx a8], (aqMach i).nextAq 0 = some (aqOne i) ∧ (aqOne i).entered < (aqMach i).cycle ∧ (aqOne i).fault = none
      ∧ (aqOne i).faultAt = 0 ∧ tokenBits i = (false, false, false, false) ∧ ((aqMach i).stream 0).charge = none)
    ∧ (aqOne (fence 1) (fun e => { e with skip := true })).skip = true ∧ keepsWork (fence 1) = false
    ∧ (∀ k ∈ [AccKind.read, .write], (match (mach (strm [])).look 0 (0x1F8 + a8.off.signExtend 64) k with | .error f => f.src != 4 | _ => false) = true)
    ∧ (∀ k ∈ [AccKind.read, .write, .atomic], (match (mach (strm [])).place 0 (0x1F8 + a8.off.signExtend 64) k with | .error f => f.src != 4 | _ => false) = true)
    ∧ Sys2Proof.Machine.aqBody (.gld hx (ordered 1)) = some (ordered 1) ∧ Sys2Proof.Machine.aqBody (.gst hx (ordered 2)) = some (ordered 2)
    ∧ (ordered 1).ord = 1 ∧ ((aqMach (.gld hx a8)).stream 0).mark = false ∧ (atomicOf (.aaddN64 hx a8)).isSome = true
    ∧ ((aqMach (.gld hx a8)).stream 0).aqAt ≠ (aqMach (.gld hx a8)).cycle + 1
    ∧ (let s := mach { strm [] with mark := true, aq := [aqOne (fence 2)] }
       s.nextAq 0 = some (aqOne (fence 2)) ∧ (s.stream 0).mark = true ∧ aqMarks (fence 2) = true) := by decide +kernel
/-- What a release of stream 0 that was sent with a marker meets in its own event: its place, no race, and room for tracking state. -/
def releaseClear (i : Instr) (k : AccKind) : Bool :=
  let e := aqOne i (fun e => { e with started := true })
  let s := aqMach i (fun e => { e with started := true })
  let w := s.aqWho 0 e (ordered 2)
  let r := s.release w 2
  match s.place (s.ctxOf 0) (0x1F8 + a8.off.signExtend 64) k with
  | .ok p => !p.isDevice && (r.raceRange w p 0x1F8 8 true false).isNone && !r.noShadow w ((r.holdTrans p.die 0x1F8 p.leaf).recallFor p 8) && !s.poisoned p.pa
      && (s.stream 0).aq.find? (fun e => e.started && !e.done) == some e && (s.stream 0).charge.isNone && Memory.wf s.mem
  | .error _ => false
theorem witness_ReleaseMarkers : releaseClear (.gst hx (ordered 2)) .write = true ∧ releaseClear (.aaddN64 hx (ordered 2)) .atomic = true
    ∧ (ordered 2).ord = 2 ∧ widthOf (ordered 2).wk = 8 ∧ atomicOf (.aaddN64 hx (ordered 2)) = some (.add, 8, false)
    ∧ (let s := mach { strm [] with aq := [aqOne (fence 2) (fun e => { e with started := true })] }
       (s.stream 0).aq.find? (fun e => e.started && !e.done) = some (aqOne (fence 2) (fun e => { e with started := true }))) := by decide +kernel
/-- A write of stream 4's open region to the word at 0x1F8. -/
def write4 : Track := { word := 0x3F, ctx := 0, va := 0x1F8, name := 0x1F8, bytes := 0xFF, write := true, plain := true, gsid := 4, region := 0, queue := 3, number := 1, level := 1 }
theorem witness_Races : (let s : State := { aqMach (.gst hx a8) with tracks := [write4] }
     plainPlace ((s.look 0 (0x1F8 + a8.off.signExtend 64) .write).map Prod.fst) = true ∧ s.meetsEngine placed.pa 8 true true = none
      ∧ s.guarded (s.aqWho 0 (aqOne (.gst hx a8)) a8) placed.pa 8 true = none ∧ write4 ∈ s.tracks
      ∧ write4.word = placed.pa / 8 ∧ (write4.bytes &&& byteMask placed.pa 8) ≠ 0 ∧ write4.gsid ≠ 0 ∧ write4.gsid / 4 ≠ 0 / 4
      ∧ s.regionOpen write4.gsid write4.region (reach write4.gsid 0) = true) := by decide +kernel
/-- An entry of the transcendental unit that writes T5. -/
def xentry (start : Option Nat) : XEntry := { instr := .vexp hx { tv0 with td := 5, tdv := 1, rdn := 1, ty := 6 }, exec := true, gsid := 0, src := .empty, mask := 0, start := start }
/-- T5 reserved for cycle 100. -/
def reserved5 (rdn : BitVec 4) (exec : Bool) : Core := { twrites := Tbl.empty.put 5 { rdn := rdn, exec := exec, rows := Tbl.empty.put 31 { data := 7 }, due := some 100 } }
theorem witness_Retirements :
    ((mach (strm [])).stream 0).gate.icinv = none ∧ ((mach { strm [] with gate := { icinv := some (2, 0) } }).stream 0).gate.icinv = some (2, 0)
    ∧ ((mach (strm []) { xt := [xentry none] }).core 0).xt = [xentry none] ∧ (xentry none).start = none
    ∧ (let s := mach (strm []) { xt := [xentry (some 10)] }
       (xentry (some 10)).start = some 10 ∧ 10 + (xentry (some 10)).cycles ≤ s.cycle ∧ (s.core 0).twrites.find? 5 = none ∧ (xentry (some 10)).exec = true
        ∧ ((s.core 0).bank 5).power = .awake ∧ ((s.core 0).bank 5).wake ≤ s.cycle ∧ (s.core 0).readOn 5 = false ∧ (s.core 0).stopped = false)
    ∧ (∀ rdn ∈ [0, 15], ∀ x ∈ [true, false], let s := mach (strm []) (reserved5 rdn x)
       ∃ w, (s.core 0).twrites.find? 5 = some w ∧ w.due = some 100 ∧ w.rdn = rdn ∧ w.exec = x ∧ 100 ≤ s.cycle ∧ w.rows.keys.Nodup ∧ 31 ∈ w.rows.keys
        ∧ ((s.core 0).bank (5 % 16)).power = .awake ∧ ((s.core 0).bank (5 % 16)).wake ≤ s.cycle ∧ (s.core 0).readOn 5 = false) := by
  and_intros
  all_goals decide +kernel
theorem witness_VersionChecks : ((mach (strm [])).core 0 |>.tile 5).resAt < 100 := by decide +kernel
/-- A core whose stream 0 has `e` in its MX queue and footprint slot 0 declared. -/
def mxMach (i : Instr) (f : QEntry → QEntry := id) (declared : Bool := true) : State :=
  mach { strm [] with mxq := [f (entryOf' i 1)], foot := Tbl.empty.put 0 { declared := declared } }
/-- No tokens, tag 0, footprint slot 0. -/
def ec0 : Ec := ⟨0, 0, 0, 0, 0, 0⟩
/-- A command in execution on slab 0. -/
def running (i : Instr) : MExec :=
  { entry := { entryOf' i 1 with started := true }, gsid := 0, slab := 0, load := false, start := 90, retire := 100, got := true }
theorem witness_MatrixEngine :
    (∀ i ∈ [Instr.sswap hx ec0 0, .mzero hx ec0 0], ∃ e, ((mxMach i).stream (4 * 0 + 0)).mxq.find? (fun e => !e.started) = some e ∧ e.fault = none ∧ e.entered < (mxMach i).cycle
      ∧ e.faultAt = 0 ∧ e.instr = i ∧ e.skip = false ∧ e.cancel = false ∧ ((mxMach i).core 0).busy 0 (fun _ => true) = false
      ∧ (((mxMach i).stream 0).slotOf 0).declared = true ∧ (((mxMach i).core 0).slab 0).tile = .closed
      ∧ ((mxMach i).core 0).tracked e.order (((mxMach i).stream 0).slotOf 0) = false ∧ ((mxMach i).tryMx 0 0).1 = true)
    ∧ (((mxMach (.sswap hx ec0 0) id false).stream 0).slotOf 0).declared = false
    ∧ (∃ x, ((mach (strm []) { mexec := [running (.sswap hx ec0 0)] }).core 0).mexec.find? (fun x => 2 * x.slab + (if x.load then 1 else 0) == 0) = some x ∧ x.failed = false
      ∧ x.retire ≤ 100 ∧ x.got = true ∧ x.todo = [] ∧ x.entry.instr = .sswap hx ec0 0)
    ∧ (∃ x, ((mach (strm []) { mexec := [running (.mrot hx ec0 0)] }).core 0).mexec.find? (fun x => x.slab == 0 && !x.load && !x.failed) = some x
      ∧ x.skipped = false ∧ mxOf x.entry.instr = some (0, .mrot) ∧ (((mach (strm [])).core 0).slab x.slab).tile ≠ .anchored)
    ∧ (let k : Core := { slabs := Tbl.empty.put 0 { tile := .anchored } }
       (k.slab 0).tile = .anchored ∧ (k.slab 0).cfg.getLsbD 0 = true ∧ (k.slab 0).replayed = false) := by decide +kernel
/-- One command of every kind on slab 0. -/
def mxKinds : List Instr :=
  [.mmaDb8 hx ec0 1 0 1 0 5 1 0, .sldDb8 hx ec0 1 0, .sldB16 hx ec0 1 0, .sswap hx ec0 0, .mzero hx ec0 0, .mrot hx ec0 0, .mfixF32 hx ec0 1 0 1 0 5 1]
/-- The same, run to its end. -/
def ended (i : Instr) : MExec := { running i with groups := 8, steps := mxSteps i 8 }
theorem witness_MatrixRetire : ∀ i ∈ mxKinds, (ended i).complete = true ∧ (ended i).failed = false ∧ (ended i).skipped = false ∧ (ended i).retire ≤ 100
    ∧ (mxOf i).isSome = true ∧ (tokenBits i).2.2 = (false, false) ∧ ({ mexec := [ended i] } : Core).unpublished (ended i) = false
    ∧ ({ mexec := [ended i] } : Core).mexec.find? (fun x => 2 * x.slab + (if x.load then 1 else 0) == 0) = some (ended i)
    ∧ (({ curs := 512 } : Slab).curn ≤ ({ curs := 512 } : Slab).curs ∧ ¬ ({} : Slab).curn ≤ ({} : Slab).curs) := by decide +kernel
theorem witness_MatrixSums : (∃ p ∈ ([(1, 0), (0, 5), (-2, -41)] : List ClassSum), p.1 ≠ 0 ∧ p.2 = 0) ∧ (∀ p ∈ ([(1, 0), (0, 5), (-2, -41)] : List ClassSum), p.1 ≠ 0 → p.2 ≤ 0)
    ∧ f32.decode 0x3F800000 ≠ .nan ∧ (∀ p ∈ ([(0, 0), (0, 5)] : List ClassSum), p.1 = 0) := by decide +kernel
/-- A window entry over 64 columns and plane 0. -/
def winOf (i : Instr) : WinEntry := { instr := i, n := 64, planes := [0], tiles := [5], ver := 0, held := [], skip := false, gsid := 0 }
theorem witness_MatrixSteps :
    mxOf (winOf (.mmaDb8 hx ec0 1 0 1 0 5 1 0)).instr = some (0, .mma .db8 1 false 5 1 false) ∧ mxOf (winOf (.mma2 hx ec0 1 0 1 0 5 1 0)).instr = some (0, .mma .b16 1 false 5 1 false)
    ∧ (winOf (.mrot hx ec0 0)).n.toNat % 64 = 0 ∧ mxOf (winOf (.mrot hx ec0 0)).instr = some (0, .mrot) ∧ (winOf (.mrot hx ec0 0)).n.toNat = 64
    ∧ (∀ m < 32, (6 * m + 5) / 6 = m) ∧ f32.decode 0x7F800000 = .inf false ∧ rowExp ((List.range 64).map (fun _ => f32.decode 0)) = none
    ∧ (rowExp ((List.range 64).map (fun _ => f32.decode 0x3F800000))).isSome = true := by
  refine ⟨rfl, rfl, by decide +kernel, rfl, rfl, by omega, ?_⟩
  decide +kernel
theorem witness_MatrixStep : ∀ i ∈ mxKinds, i ≠ .sswap hx ec0 0 → i ≠ .mzero hx ec0 0 →
    let x := { running i with groups := 8 }
    x.todo = [] ∧ x.failed = false ∧ x.skipped = false ∧ x.rerun = false ∧ x.steps < mxSteps i 8 ∧ ((mach (strm [])).core 0).bankFree .matrix x.spLines 100 = true
    ∧ (((mach (strm [])).core 0).slab 0).bad = [] := by decide +kernel
theorem witness_MatrixToTile : (entryOf' (.mfixF32 hx ec0 1 0 1 1 5 1) 1).skip = false ∧ ({ declared := true } : Foot).declared = true
    ∧ ({} : Core).busy 0 (fun x => !x.load) = false ∧ ({} : Core).checkDst ⟨5, 1, 1⟩ 0 = .pass := by decide +kernel
/-- FILL.LD of 64 bytes at scratchpad 0, as the head of the LD queue. -/
def fillHead (f : QEntry → QEntry := id) : QEntry := f { entryOf' (.fillLd hx ec0 1 2 3 0 0) 1 with z := 64 }
/-- A stream with that head, and slot 0 declared to write the first 64 bytes of scratchpad. -/
def fillMach (f : QEntry → QEntry := id) (declared : Bool := true) : State :=
  mach { strm [] with ldq := [fillHead f], foot := Tbl.empty.put 0 { declared := declared, wr := .sp 0 64 } }
theorem witness_CopyEngine :
    (∃ j, (fillHead).job = some j ∧ ((fillMach).stream 0).queue 0 = [fillHead] ∧ fillHead.fault = none ∧ fillHead.faultAt = 0 ∧ fillHead.started = false
      ∧ fillHead.entered < (fillMach).cycle ∧ tokenBits fillHead.instr = (false, false, false, false) ∧ fillHead.skip = false ∧ fillHead.cancel = false
      ∧ ((fillMach).core 0).tracked fillHead.order (((fillMach).stream 0).slotOf j.fp) = false ∧ ((fillMach).stream 0).landedBy fillHead.entered = true
      ∧ ((fillMach).core 0).copyChecks j (((fillMach).stream 0).slotOf j.fp) = none
      ∧ (∃ f, ((fillMach id false).core 0).copyChecks j (((fillMach id false).stream 0).slotOf j.fp) = some f ∧ f.src = 0) ∧ fillHead.cutAt ≠ (fillMach).cycle ∧ ((fillMach).stream 0).status = .running
      ∧ j.lines ≤ (fillHead (fun e => { e with started := true, prog := 1 })).prog)
    ∧ isMarker (.tksend hx 0) = true ∧ (((fillMach).stream 0).replies.get [] 0).length < 16 := by decide +kernel
/-- A started command that has moved no line yet. -/
def mover (i : Instr) (x y : Word) : QEntry := { entryOf' i 1 with x := x, y := y, z := 64, started := true }
/-- A stream with that command at the head of an engine queue, which may read and write VAs 0 to 2^16. -/
def moverMach (e : QEntry) : State :=
  let ld := match e.job with | some j => j.ld | none => false
  paged (mach { strm [] with ldq := if ld then [e] else [], stq := if ld then [] else [e], foot := Tbl.empty.put 0 { declared := true, rd := .va 0 (2 ^ 16), wr := .va 0 (2 ^ 16) } })
/-- What a move of the next line asks: the bank, the footprint, and a plain access of each piece that can be made. -/
def movesLine (e : QEntry) : Bool :=
  let s := moverMach e
  match e.job with
  | none => false
  | some j =>
    let p := j.piece e.idx 0
    let w := (s.stream 0).copyWho 0 (if j.ld then 0 else 2) e j
    let foot := (s.stream 0).slotOf j.fp
    let u := s.modCore 0 (fun k => k.useBanks (copyEngine j.ld) (j.spLines e.idx 0) s.cycle)
    let n1 := min p.n (64 - p.src % 64)
    decide (e.prog < j.lines) && (s.core 0).bankFree (copyEngine j.ld) (j.spLines e.idx 0) s.cycle && decide (p.dst % 64 + p.n ≤ 64)
      && (s.stream 0).queue (if j.ld then 0 else 2) == [e]
      && if j.ld then
          j.kind == .fill || ((vaCheck foot j.fp p.src n1 false).isNone && match u.plainRead w (BitVec.ofNat 64 p.src) n1 with
            | .error _ => false
            | .ok (_, u) => n1 == p.n || ((vaCheck foot j.fp (p.src + n1) (p.n - n1) false).isNone
                && match u.plainRead w (BitVec.ofNat 64 (p.src + n1)) (p.n - n1) with | .ok _ => true | .error _ => false))
        else (vaCheck foot j.fp p.dst p.n true).isNone && match u.plainWrite w (BitVec.ofNat 64 p.dst) p.n with | .ok _ => true | .error _ => false
theorem witness_LinesMove : movesLine (mover (.fillLd hx ec0 1 2 3 0 0) 0 7) = true ∧ movesLine (mover (.fillSt hx ec0 1 2 3 0 0) 0x100 7) = true
    ∧ movesLine (mover (.cpyLd hx ec0 1 2 3 0 0) 0 0x100) = true ∧ movesLine (mover (.cpyLd hx ec0 1 2 3 0 0) 0 0x120) = true
    ∧ movesLine (mover (.cpySt hx ec0 1 2 3 0 0) 0x100 0) = true ∧ movesLine (mover (.cpySt hx ec0 1 2 3 0 0) 0x120 8) = true := by decide +kernel
theorem witness_LinesMove_pieces : (⟨.cpy, true, 8, 0x100, 64, 0, 0, 0, 0⟩ : CopyJob).lines = 2 ∧ (64 - 0x120 % 64 < 64 ∧ 0x100 % 64 = 0) := by decide +kernel
/-- A running LD unit. -/
def unit (f : Chain → Chain) : Chain := f { head := 0x40, cur := 0x40, run := true, kicked := 90 }
/-- An entry that fills 64 bytes of scratchpad, advances nothing, and one that advances handle 3 by 1. -/
def fillEntry (post : Bool) : Row := BitVec.ofNat 512 (2 * 2 ^ 64 + (if post then 4 * 2 ^ 88 + 3 * 2 ^ 104 + 2 ^ 128 else 0) + 64 * 2 ^ 320)
theorem witness_ChainUnits' :
    (let s := paged (mach { strm [] with ldChain := unit id })
     (s.stream 0).chain true = unit id ∧ (unit id).run = true ∧ (unit id).entry = none ∧ (unit id).skip = false ∧ (unit id).waited = false ∧ (s.stream 0).landedBy (unit id).kicked = true
      ∧ (match s.plainRead ((s.stream 0).chainWho 0 fetchQ (unit id) 3 0) (unit id).cur 64 with
          | .ok (p, u) => !(u.lineAt p.pa).poison && !chainBad (u.lineAt p.pa).data | _ => false) = true)
    ∧ (let s := mach { strm [] with ldChain := unit id }
       (s.stream 0).status = .running
        ∧ (match s.plainRead ((s.stream 0).chainWho 0 fetchQ (unit id) 3 0) (unit id).cur 64 with | .error f => f.src == 0 | _ => false) = true)
    ∧ (let s := mach { strm [] with ldChain := unit (fun c => { c with entry := some (fillEntry false) }), foot := Tbl.empty.put 0 { declared := true, wr := .sp 0 64 } }
       (s.stream 0).charge = none ∧ (s.core 0).chainReady (fillEntry false) = true ∧ (s.core 0).tracked 0 ((s.stream 0).slotOf (chainJob true (fillEntry false)).fp) = false
        ∧ (s.core 0).copyChecks (chainJob true (fillEntry false)) ((s.stream 0).slotOf (chainJob true (fillEntry false)).fp) = none
        ∧ (chainJob true (fillEntry false)).lines ≤ 1 ∧ entryByte (fillEntry false) 11 / 4 % 2 = 0 ∧ entryByte (fillEntry true) 11 / 4 % 2 = 1
        ∧ chainBad (fillEntry true) = false)
    ∧ (match ((ring3 { kind := .token, count := 4 }).myCore.ring (entryByte (fillEntry true) 13)).advance (entryByte (fillEntry true) 13)
        (entryHalf (fillEntry true) 16) (entryByte (fillEntry true) 11 / 8 % 2 == 0) with | .ok _ => true | .error _ => false) = true := by decide +kernel
/-- What a running unit reads at 0x40 where memory holds `m` and the lines of `p` are poisoned. -/
def fetched (m : List Host.Cell) (p : List Nat) : Option Line :=
  let s : State := { paged (mach { strm [] with ldChain := unit id }) with mem := m, poison := p }
  match s.plainRead ((s.stream 0).chainWho 0 fetchQ (unit id) 3 0) (unit id).cur 64 with
  | .ok (p, u) => some (u.lineAt p.pa)
  | .error _ => none
theorem witness_ChainEntries : ((fetched [] [1]).map Line.poison = some true)
    ∧ ((fetched (Memory.setNat [] 0x48 1 5) []).map (fun l => (l.poison, chainBad l.data)) = some (false, true)) := by decide +kernel
/-- A developer block with its flag at PA 0x200. -/
def block (begun : Bool) : DevBlock :=
  { gsid := 0, region := 0, clock := {}, ctx := 0, srcs := [], srcVas := [], dst := [], dstVa := 0, flag := 0x200, flagVa := 0x200, fval := 9, len := 0, ty := 2,
    begun := begun }
theorem witness_Developer : (∀ b ∈ [true, false], ({ mach (strm []) with devq := Tbl.empty.put 0 [block b] } : State).devq.get [] 0 = block b :: [] ∧ (block b).begun = b)
    ∧ ∀ k < 8, ((mach (strm [])).fmtBase.get 0 k).getLsbD 63 = false := by decide +kernel
/-- A block that sums the line at PA 0x1000 and that at 0x1040 into the one at 0x2000. -/
def sumBlock : DevBlock :=
  { block false with srcs := [[(0x1000, 64)], [(0x1040, 64)]], srcVas := [0x1000, 0x1040], dst := [(0x2000, 64)], dstVa := 0x2000, len := 64 }
theorem witness_DeveloperSums : sumBlock.srcVas.length = sumBlock.srcs.length ∧ sumBlock.len % 64 = 0 ∧ sumBlock.begun = false
    ∧ (∀ i < sumBlock.len / 64, pieceAt sumBlock.dst (64 * i) = 0x2000 ∧ ∀ l ∈ sumBlock.srcs, pieceAt l (64 * i) / 64 ≠ 0x2000 / 64 ∧ pieceAt l (64 * i) % 64 = 0)
    ∧ (15 < 64 / devWidth 0 ∧ 31 < 64 / devWidth 1 ∧ 7 < 64 / devWidth 3) ∧ f32.decode 0x7FC00000 = .nan ∧ f32.decode 0x7F800000 = .inf false
    ∧ f32.decode 0xFF800000 = .inf true ∧ b16.decode 0x7FC0 = .nan ∧ b16.decode 0x7F80 = .inf false ∧ b16.decode 0xFF80 = .inf true
    ∧ devTree (fun a b => f32.round 0 false ((f32.decode a).add 0 (f32.decode b))) [0x3F800000, 0x3F800000] = some 0x40000000
    ∧ (f32.decode 0x3F800000 ≠ .nan ∧ (match f32.decode 0x3F800000 with | .inf _ => false | _ => true) = true) := by decide +kernel
/-- An item that waits for its start. -/
def item : Taken := { code := 0x40, s1 := 1, s2 := 2, task := { active := true } }
/-- Stage queue 0 of launch 0 holds one item at VA 0x100. -/
def staged : State := paged { mach { strm [] with status := .idle } with
  launches := Tbl.empty.put 0 { running := true, pmask := 1, stages := Tbl.empty.put 0 0x80, queues := Tbl.empty.put 16 { base := 0x100, logcap := 4, pri := 1, smask := 15, tail := 1 } } }
theorem witness_TaskEvents :
    (let s := mach { strm [] with status := .atTend }
     (s.stream 0).status = .atTend ∧ (s.stream 0).aq = [] ∧ s.drained 0 = true ∧ (s.stream 0).task.active = false)
    ∧ (mach { strm [] with status := .atTend, ldq := [fillHead] }).drained 0 = false
    ∧ (let s := mach { strm [] with status := .idle, taken := some item }
       (s.stream 0).status = .idle ∧ (s.stream 0).taken = some item ∧ (s.stream 0).charge = none)
    ∧ (staged.firstIdle 0 = some 0 ∧ (staged.launches.get {} 0).pick 0 = some 16 ∧ (staged.core 0).launch = some 0
      ∧ (match staged.marked (staged.ownWho 0) (((staged.launches.get {} 0).queue 16).slot 16 ((staged.launches.get {} 0).queue 16).head) (slotSize 16) .read with
          | .ok _ => true | _ => false) = true)
    ∧ (let s : State := { mach (strm []) with launches := Tbl.empty.put 0 { groups := Tbl.empty.put 2 { members := [0], arrived := [0], waits := [{ gsid := 0, region := 0, chain := none }] } } }
       let x := (s.launches.get {} 0).group 2
       x.members ≠ [] ∧ (∀ m ∈ x.members, m ∈ x.arrived) ∧ s.groupPend x = 0)
    ∧ Inc.better 0x8000_0000_0000_0000 3 5 ≠ Inc.better 0x8000_0000_0000_0000 5 3 := by decide +kernel

/-- Version 1 of T1 with a declared reader, T3 fresh. -/
def tiles1 : Core := { tiles := Tbl.empty.put 1 { wcnt := 1, rdrem := 1 } }
/-- T3:1 from T1:1 and T1:1, of TYPE I32. -/
def tv31 : Tv := { tv0 with td := 3, tdv := 1, rdn := 1, ta := 1, tav := 1, ty := 2 }
theorem witness_VectorForms :
    (let s := mach (strm []) tiles1
     railBound tv31 = false ∧ s.me.charge = none ∧ (Instr.vmovt hx tv31, 16) ∈ tileForms hx tv31
      ∧ (s.myCore.checkAll s.cycle (some ⟨3, 1, 1⟩) (vsrcs (.vmovt hx tv31) tv31)).1 = .pass ∧ s.myCore.poisonRow (vsrcs (.vmovt hx tv31) tv31) = none
      ∧ (∀ o ∈ vsrcs (.vmovt hx tv31) tv31, (s.myCore.bank (o.t % 16)).power = .awake ∧ (s.myCore.bank (o.t % 16)).wake ≤ s.cycle)
      ∧ (s.myCore.checkAll s.cycle none (vsrcs (.vcmpI hx { tv31 with tb := 1, tbv := 1, tap := 1, tbp := 1 }) { tv31 with tb := 1, tbv := 1, tap := 1, tbp := 1 })).1 = .pass
      ∧ (let v := { tv31 with rail := 2, ta := 0, tav := 0, tb := 1, tbv := 1 }
         railBound v = true ∧ v.drives = false ∧ vdst (.vaddI hx v) v ≠ none ∧ (s.myCore.checkAll s.cycle (vdst (.vaddI hx v) v) (vsrcs (.vaddI hx v) v)).1 = .pass))
    ∧ ((mach (strm [])).myCore.checkAll 100 (some ⟨3, 1, 1⟩) (vsrcs (.vmovt hx tv31) tv31)).1 = .wait
    ∧ (match ((mach (strm []) tiles1).myCore.checkAll 100 (some ⟨3, 0, 1⟩) (vsrcs (.vmovt hx tv31) tv31)).1 with | .fault _ => true | _ => false) = true := by decide +kernel
theorem witness_Transcendental :
    (let s := mach (strm [(1, 0x5F800)]) tiles1
     let v := { tv31 with ty := 6 }
     .vexp hx v ∈ unitForms hx v ∧ s.myCore.xt.length < 8 ∧ (s.myCore.checkAll s.cycle (some ⟨3, 1, 1⟩) (vsrcs (.vexp hx v) v)).1 = .pass
      ∧ (let a := s.S 1 + ((0 : BitVec 6) ++ (0 : BitVec 9)).signExtend 64 * 64
         a.toNat % 64 = 0 ∧ 0 ≤ a.toInt ∧ a.toInt + 2048 ≤ 0x60000 ∧ s.myCore.spRes = [])
      ∧ (s.myCore.checkAll s.cycle (some ⟨3, 1, 1⟩) []).1 = .pass ∧ (s.myCore.checkAll s.cycle none [⟨1, 1, false⟩]).1 = .pass)
    ∧ 8 ≤ (mach (strm []) { xt := List.replicate 8 (xentry none) }).myCore.xt.length
    ∧ (match ((mach (strm []) tiles1).myCore.checkAll 100 (some ⟨3, 1, 1⟩) [⟨1, 1, false⟩]).1 with | .fault _ => false | _ => true) = true
    ∧ ((s1 8).S 1).toNat % 64 ≠ 0 ∧ ({ tv31 with rail := 2 } : Tv).taps = true := by decide +kernel
theorem witness_Transcendental_align :
    (let s := mach (strm [(1, 8)]) tiles1
     (s.myCore.checkAll s.cycle (some ⟨3, 1, 1⟩) []).1 = .pass ∧ s.myCore.poisonRow [] = none ∧ s.me.charge = none
      ∧ (s.myCore.checkAll s.cycle none [⟨1, 1, false⟩]).1 = .pass ∧ s.myCore.poisonRow [⟨1, 1, false⟩] = none
      ∧ (s.myCore.bank 1).power = .awake ∧ (s.myCore.bank 1).wake ≤ s.cycle)
    ∧ (let s := mach (strm [(1, 8)]) { tiles := Tbl.empty.put 3 { wcnt := 1, rdrem := 1 } }
       (s.myCore.checkAll s.cycle (some ⟨3, 2, 1⟩) []).1 = .wait) := by decide +kernel
theorem witness_VectorValues : (tv31.ty.toNat ≤ 5 ∧ 15 < tyEpr 2 ∧ tv31.sat = 0 ∧ ({ tv31 with sat := 1 } : Tv).sat = 1) ∧ 6 ≤ 8 ∧ 31 < tyEpr 8 ∧ tv31.men = 0 := by decide
theorem witness_VectorSpecials : f32.decode 0x7FC00000 = .nan ∧ f32.decode 0xFF800000 = .inf true ∧ f32.decode 0x80000000 = .zero true
    ∧ (∃ m k, f32.decode 0xBF800000 = .num m k ∧ m < 0) ∧ (∃ m k, f32.decode 0x3F800000 = .num m k ∧ 2 ^ 64 % m.natAbs = 0)
    ∧ f32.decode 0x3F800000 = .num (2 ^ 23) (-23) ∧ (tyEpr 8 = 32 ∧ tyEpr 10 = 128) :=
  ⟨by decide +kernel, by decide +kernel, by decide +kernel, ⟨_, _, rfl, by decide⟩, ⟨_, _, rfl, by decide +kernel⟩, by decide +kernel, by decide⟩
theorem witness_VectorReductions : ((List.range (tyEpr 2)).filter (fun j => tv31.men = 0 ∨ maskBit 0 32 0 j)).map (fun _ => (0 : Nat)) ≠ []
    ∧ (1 ≤ (16 : Nat) ∧ ({ tv31 with tbv := 8 } : Tv).imm.toNat = 16) ∧ 511 < 512 ∧ (tv31.cond.toNat < 6 ∧ ({ tv31 with ty := 10 } : Tv).srcTy.toNat ≤ 8)
    ∧ (7 * tyEpr 0 + 63 < 16384 / max (tyBits 2) (tyBits 0) ∧ 16384 / max (tyBits 2) (tyBits 0) ≤ 8 * tyEpr 0 + 0) ∧ (({ tv31 with ty := 5 } : Tv).ty.toNat = 5 ∧ ({ tv31 with men := 1 } : Tv).men = 1) := by decide +kernel
theorem witness_Sat : f16 ∈ [f32, f16, b16] ∧ (3 : Nat) < 4 ∧ f16.decode (f16.round 0 false (.inf true)) = .inf true ∧ (∀ neg, f16.decode (f16.round 0 false .nan) ≠ .inf neg)
    ∧ 1 < f16.signBit ∧ (match f16.decode 1 with | .num _ _ => true | _ => false) = true := by decide +kernel
theorem witness_Block : (63 < (if false then 4 else 64) ∧ 3 < (if true then 4 else 64)) ∧ (255 : Nat) < 256 ∧ (254 : Nat) ≠ 255 := by decide
/-- An event at unit `u`, place `n`, with value `v` and input `i`. -/
def at' (s : State) (u n : Nat) (v : Word := 0) (i : Input := .none) : State := { s with site := ⟨u, n, v, i⟩ }
/-- Entry `k` of die 0 of device 7, one line, to the negative at 0. -/
def jentry (k : Word) : JEntry := { die := 0, offset := 0, src := 7, number := k, pa := 0, lines := [5] }
/-- A negative window for device 7 at 0. -/
def negative (acked : Nat) : State := { mach (strm []) with host := { negwin := pair7 }, negs := Tbl.empty.put 0 { acked := acked } }
theorem witness_Journal :
    (let s : State := { at' (mach (strm [])) 0 7 5 with jpair := pair7 }
     s.site.sub = jPdev s.jpair ∧ jEn s.jpair = true ∧ (s.jnOf 0).dur < s.site.val.toNat % 2 ^ 62)
    ∧ (let s : State := { mach (strm []) with jn := Tbl.empty.put 0 { since := 1048576, reseat := true } }
       1048576 ≤ (s.jnOf 0).since ∧ (s.jnOf 0).silent = false ∧ (s.jnOf 0).reseat = true ∧ (s.linkOf ((s.jnOf 0).route.extractLsb' 56 4).toNat).down = false)
    ∧ ((negative 0).negAccepts (jentry 1) = true ∧ ((negative 0).negs.get {} 0).acked = 0 ∧ ((negative 0).negs.get {} 0).wait = [] ∧ (negative 0).host.negHeld = [])
    ∧ ((entryRecord (jentry 2)).k = ((negative 1).negs.get {} 0).acked + 1 ∧ (entryRecord (jentry 1)).k ≤ (jentry 1).first ∧ (jentry 1).first < (entryRecord (jentry 2)).k ∧ ((negative 1).negs.get {} 0).acked + 1 < (entryRecord (jentry 3)).k)
    ∧ (mach (strm [])).negAccepts (jentry 1) = false ∧ (∀ g ∈ (negative 0).negs.entries, g.2.wait = [])
    ∧ ∃ g ∈ ({ mach (strm []) with negs := Tbl.empty.put 0 { wait := [jentry 3] } } : State).negs.entries, g.2.wait ≠ [] := by decide +kernel
/-- Bank 3 of core 0. -/
def bank3 (b : Bank) (now : Nat) : State := { mach (strm []) { banks := Tbl.empty.put 3 b } with cycle := now }
/-- A filling command that has done its work and pushes to the right, blocked from cycle `since`. -/
def blocked (since : Nat) : QEntry := { entryOf' (.fillLd hx ⟨0, 0, 0, 1, 0, 0⟩ 0 0 0 0 0) 1 with started := true, prog := 1, since := since }
/-- A stream whose LD head is blocked at its full right FIFO. -/
def blockedMach (since : Nat) (k : Core := {}) : State := mach { strm [] with ldq := [blocked since], tokens := Tbl.empty.put 0 (List.replicate 16 {}) } k
theorem witness_Probes :
    (let s := bank3 { power := .awake } 256
     (s.core 0).trsaw = false ∧ ((s.core 0).bank 3).power = .awake ∧ ((s.core 0).bank 3).last + 256 ≤ s.cycle)
    ∧ ((((bank3 { power := .drowsy } 16384).core 0).bank 3).power = .drowsy ∧ (((bank3 { power := .drowsy } 16384).core 0).bank 3).last + 16384 ≤ 16384
      ∧ (((bank3 { power := .waking, wake := 101 } 100).core 0).bank 3).power = .waking ∧ (((bank3 { power := .waking, wake := 101 } 100).core 0).bank 3).wake ≤ 100 + 1)
    ∧ ((383 + 1) % 2048 = 128 * 3 ∧ ((mach (strm []) { trsaw := true }).core 0).trsaw = true)
    ∧ (((blockedMach 0).core 0).blockedAt 0 0 100 = [0] ∧ ((blockedMach 1).core 0).probesNow 0 0 256 = true ∧ ((blockedMach 0).core 0).probesNow 0 0 100 = false)
    ∧ (let s := blockedMach 0 { probes := [(0, 0, 0, 1)] }
       (s.core 0).probes = [(0, 0, 0, 1)] ∧ (s.core 0).blockedAt 0 1 100 = [])
    ∧ (let s := blockedMach 0 { probes := [(0, 1, 2, 0)] }
       (s.core 0).probes = [(0, 1, 2, 0)] ∧ (s.core 0).blockedAt 0 0 100 = [0])
    ∧ (∀ p ∈ [0, 1], let s : State := { blockedMach p { probes := [(0, 0, 0, 0)] } with cycle := 256 }
       ∃ e, (s.core 0).finished 0 0 256 = some e ∧ 0 ∈ (s.core 0).blockedAt 0 0 256 ∧ (s.core 0).granted = none ∧ (s.core 0).lent = none
        ∧ (p = 1 → e.since ≠ 0 ∧ e.since + 256 ≤ 256 + 1) ∧ (p = 0 → e.since = 0))
    ∧ (let s : State := { blockedMach 1 { probes := [(0, 0, 0, 0)], granted := some (0, 0, [0, 0, 0, 0]), lent := some (1, 0) } with cycle := 256 }
       (s.core 0).lent ≠ none ∧ (∀ p ∈ (s.core 0).holds 0 0 0 256, ([0, 0, 0, 0] : List Nat).getD p 0 = ((s.core 0).stream 0).progress p)
        ∧ ((s.core 0).stream 0).status = .running) := by decide +kernel
/-- A record. -/
def rec0 (kind : Nat := 0) : FRec := { code := .page, kind := kind, pc := 0x40 }
/-- A machine with a fault ring of 16 records at VA 0x100, and stream 0 parked with record `r`. -/
def ringed (t : Stream) : State := paged { mach t with mem := Memory.setNat [] 0x100 4 16, launches := Tbl.empty.put 0 { running := true, fring := 0x100 } }
/-- The same with HENTRY 0x80, and queue 0 for handlers. -/
def handled : State :=
  paged { mach { strm [] with pend := some (rec0) } with
    mem := Memory.setNat (Memory.setNat [] 0x100 4 16) 0x110 8 0x80,
    launches := Tbl.empty.put 0 { running := true, fring := 0x100, hqen := true, queues := Tbl.empty.put 0 { base := 0x4000, logcap := 4 } } }
theorem witness_FaultRecords :
    ({ code := .page } : FaultInfo).src ≠ 4
    ∧ (let s := ringed { strm [] with pend := some (rec0), status := .parked, parkedBy := some (rec0) }
       (s.stream 0).pend = some (rec0) ∧ (s.writeRecord 0 (rec0)).isSome = true ∧ (s.stream 0).waitRing = false ∧ (s.stream 0).coreRec = none
        ∧ (s.stream 0).status = .parked ∧ (s.stream 0).parkedBy = some (rec0) ∧ (rec0).kind ≠ 2)
    ∧ ((mach { strm [] with pend := some (rec0) }).writeRecord 0 (rec0)).isSome = false
    ∧ ((ringed (strm [])).launchOf 0).hqen = false
    ∧ (match handled.writeRecord 0 (rec0) with
       | some (u, _, e) => decide (e ≠ 0) && (handled.launchOf 0).hqen && ((handled.launchOf 0).queue 0).enabled && !((handled.launchOf 0).queue 0).full
           && plainPlace ((u.modStream 0 (fun t => { t with pend := none, waitRing := t.coreRec.isSome && t.waitRing })).place 0
               (((handled.launchOf 0).queue 0).slot 0 ((handled.launchOf 0).queue 0).tail) .write)
       | none => false) = true
    ∧ (let s := mach { strm [] with pend := some (rec0), waitRing := true }
       (s.stream 0).waitRing = true ∧ (s.stream 0).coreRec = none ∧ (s.writeRecord 0 (rec0)).isSome = false)
    ∧ (∀ i < 4, ((mach (strm [])).stream (4 * 0 + i)).coreRec = none) ∧ Memory.wf (ringed (strm [])).mem = true
    ∧ plainPlace ((ringed (strm [])).place 0 0x100 .atomic) = true
    ∧ (∀ r, ((mach { strm [] with parkedBy := some (rec0 2) }).stream 0).parkedBy = some r → r.kind = 2)
    ∧ (let s := ringed { strm [] with coreRec := some (rec0 2) }
       (s.stream 0).coreRec = some (rec0 2) ∧ (s.writeRecord 0 (rec0 2)).isSome = true ∧ ∀ i < 4, i ≠ 0 → (s.stream (4 * 0 + i)).coreRec = none)
    ∧ ((mach (strm [])).stream 0).status ≠ .parked ∧ (rec0).kind < 256 ∧ (rec0).src < 256 := by decide +kernel
theorem witness_FaultRecords_stopped : ((mach { strm [] with pend := some (rec0) } { stopped := true }).core (0 / 4)).stopped = true
    ∧ (let s := mach (strm []) { ctxNote := true }
       (s.core 0).ctxNote = true ∧ (s.core 0).stopped = false ∧ (∀ i < 4, (s.stream (4 * 0 + i)).coreRec = none)) := by decide +kernel
/-- A context stopped, or asked to stop, with PCTL naming area 0. -/
def pctl (f : Core → Core) : State := mach (strm []) (f {})
/-- The marks of a whole image of core 0 at PA 0. -/
def imageMem : List Host.Cell := Memory.setNat (Memory.setNat [] 0 8 1) 8 8 3
theorem witness_Preemption :
    (areaOk 0 = true ∧ areaOk (2 ^ 34 - 1) = false)
    ∧ (let k := (pctl id).core 0
       k.pctlBusy = false ∧ k.launch.isSome = true ∧ k.mbState = 3 ∧ k.stopped = false)
    ∧ (let s := pctl (fun k => { k with stopped := true })
       (s.core 0).stopped = true ∧ (∀ i < 4, ((s.core 0).stream i).pend = none ∧ ((s.core 0).stream i).coreRec = none)
        ∧ (s.modCore 0 (fun k => { k with pctlArea := 0 })).restorable 0 = false
        ∧ (({ s with mem := imageMem } : State).modCore 0 (fun k => { k with pctlArea := 0 })).restorable 0 = true)
    ∧ (let s := pctl (fun k => { k with pctlBusy := true, pctlCmd := 1, saveAt := 1 })
       (s.core 0).pctlBusy = true ∧ (s.core 0).pctlCmd = 1 ∧ (s.core 0).stopped = false ∧ (s.core 0).saveAt + 100 ≤ s.cycle + 1)
    ∧ (State.reset.core 0).launch = none ∧ ((pctl (fun k => { k with stopped := true })).core 0).settled = true
    ∧ ((pctl (fun k => { k with xt := [xentry none] })).core 0).settled = false := by decide +kernel
theorem witness_Restore :
    let s := pctl (fun k => { k with pctlBusy := true, pctlCmd := 3, stopped := true })
    let u := ((s.core 0).touchAll s.cycle (List.range 16)).2.restored (s.images.get [] 0) 0 (s.cellsAt (4096 * (s.core 0).pctlArea.toNat) areaSize)
    (s.core 0).pctlBusy = true ∧ (s.core 0).pctlCmd = 3 ∧ (s.core 0).stopped = true
      ∧ (∀ b < 16, ((s.core 0).bank b).power = .awake ∧ ((s.core 0).bank b).wake ≤ s.cycle)
      ∧ (∀ i < 4, (u.stream i).pend = none ∧ (u.stream i).coreRec = none) := by
  decide +kernel
theorem witness_Restore_asleep : ((bank3 { power := .gated } 256).core 0 |>.bank 3).power ≠ .awake := by decide +kernel
theorem witness_ErrorsAndResets :
    (let s : State := { mach (strm []) with ras := { errs := [{ cls := 0, src := 0x500, times := [98, 99, 100], last := false }] } }
     ∃ e, s.ras.errs.find? (fun e => e.cls == 0 && e.src == 0x500) = some e ∧ e.last = false ∧ s.site.val.getLsbD 63 = false
      ∧ ((s.ectl 0).extractLsb' 32 4).toNat ≠ 0
      ∧ ((s.ectl 0).extractLsb' 32 4).toNat ≤ (e.times.filter (fun t => decide (s.cycle < t + max 1 ((s.ectl 0).extractLsb' 0 16).toNat * 2 ^ 20))).length
      ∧ (([98] : List Nat).filter (fun t => decide (s.cycle < t + max 1 ((s.ectl 0).extractLsb' 0 16).toNat * 2 ^ 20))).length < ((s.ectl 0).extractLsb' 32 4).toNat)
    ∧ (at' (mach (strm [])) 0 5 0x8000_0000_0000_0000).site.val.getLsbD 63 = true ∧ ((mach (strm [])).core 0).spares.get 0 5 < 4
    ∧ (let k : Core := { spares := Tbl.empty.put 5 4 }
       4 ≤ k.spares.get 0 5 ∧ k.launch = none)
    ∧ (({ mach (strm []) with ras := { ectl := Tbl.empty.put 0 0 } } : State).ectl 0).extractLsb' 32 4 = 0
    ∧ (let s : State := { mach (strm []) with ras := { repairs := [(31, 5)] } }
       (∃ r ∈ s.ras.repairs, r.1 = 31) ∧ 31 ∉ s.ras.paused)
    ∧ 31 ∈ ({ mach (strm []) with ras := { paused := [31] } } : State).ras.paused
    ∧ populated 0xBFFFFFFC0 = true ∧ (∀ e ∈ (mach (strm [])).l2.entries, e.2.pa ≠ 0xBFFFFFFC0) ∧ ((0xBFFFFFFFF : Word).toNat / 64 * 64 = 0xBFFFFFFC0)
    ∧ (mach (strm [])).ras.rstctl.getLsbD 63 = false ∧ ((mach (strm [])).core 0).launch = some 0
    ∧ ((mach { strm [] with started := true }).stream (4 * 0 + 0)).faultable = true ∧ ((0x0200_0000_0000_0000 : Word).extractLsb' 56 4).toNat = 2 := by
  refine ⟨⟨_, rfl, rfl, by decide +kernel⟩, by decide +kernel⟩
/-- A READY device with packet `p` in the mailbox of core 0. -/
def mailed (p : LPacket) (mem : List Host.Cell := []) : State :=
  { cores := Tbl.empty.put 0 { mailbox := p.setWidth 512, mailbox2 := (p >>> 512).setWidth 512 }, host := { phase := 4 }, mem := mem }
/-- IMAGE 0x2000, RIMG 0x4000, PMASK core 0, HMAP 0x1001. -/
def goodPacket : LPacket := BitVec.ofNat 1024 (0x2000 + 0x4000 * 2 ^ 128 + 2 ^ 192 + 0x1001 * 2 ^ 768)
/-- A home map of die 0, an image header without regions, and a register image. -/
def goodMem : List Host.Cell := Memory.setNat (Memory.setNat (Memory.setNat [] 0x1000 1 0x80) 0x2000 8 (0x31495A49 + 2 ^ 32)) 0x4000 8 1
/-- The first 2^30 bytes of context 0, mapped to themselves. -/
def wide : Trans := { ctx := 0, va := 0, pa := 0, size := 2 ^ 30, ms := true, x := false, w := true, rp := true }
/-- A state in which that packet passes every check. -/
def mailedGood : State := { mailed goodPacket goodMem with ctxroots := Tbl.empty.put 0 0x8000000000000000, trans := (Tbl.empty.put 0 [wide]).put 1 [wide] }
theorem witness_Launch_packets :
    ((mailed 0).host.phase = 4 ∧ ((mailed 0).core 0).mbState = 0 ∧ ((mailed 0).core 0).packet.malformed = true ∧ (mailed 0).checkFirst 0 ((mailed 0).core 0).packet = some 1)
    ∧ ((mailed goodPacket).core 0).packet = goodPacket ∧ goodPacket.malformed = false ∧ (coresOf goodPacket.pmask).head? = some 0
    ∧ (mailed goodPacket).checkFirst 0 goodPacket = none
    ∧ (match ((mailed goodPacket).setHomemap 0 goodPacket.hmap).checkLast goodPacket with | .error _ => true | .ok _ => false) = true
    ∧ (coresOf goodPacket.pmask).head? ≠ some 1 ∧ (({} : State).host.phase ≠ 4)
    ∧ (∃ x ∈ coresOf goodPacket.pmask, ((mach (strm [])).core x).launch.isSome = true) := by decide +kernel
theorem witness_Launch_accepted : mailedGood.checkFirst 0 goodPacket = none
    ∧ (match (mailedGood.setHomemap 0 goodPacket.hmap).checkLast goodPacket with | .ok _ => true | .error _ => false) = true := by decide +kernel
/-- A launch of core 0 in LOAD, or over. -/
def launched (l : Launch) (mb : BitVec 4) (t : Stream) : State :=
  { cores := Tbl.empty.put 0 { launch := some 0, mbState := mb, streams := Tbl.empty.put 0 t }, launches := Tbl.empty.put 0 { l with pmask := 1 } }
theorem witness_LaunchLife :
    (let s := launched {} 2 { started := true }
     (s.core 0).launch = some 0 ∧ (s.core 0).mbState = 2 ∧ (s.launches.get {} 0).loaded = false ∧ ((s.core 0).stream 0).started = true ∧ ((s.core 0).stream 0).status = .never)
    ∧ ((launched { loaded := true } 2 {}).launches.get {} 0).loaded = true
    ∧ (let s := launched { running := true } 3 { status := .halted }
       s.launchOver 0 = true ∧ (s.launches.get {} 0).regions = [] ∧ (s.launches.get {} 0).done = 0)
    ∧ (let s := paged (launched { running := true, done := 0x100 } 3 { status := .halted })
       (s.launches.get {} 0).done ≠ 0 ∧ (s.ownWrite 0 0x100 8 0 .write).isSome = true)
    ∧ (launched { running := true } 3 { status := .running }).launchOver 0 = false := by decide +kernel
theorem witness_LaunchLife_asleep :
    ((bank3 { power := .awake } 100).core 0 |>.bank 3).power = .awake ∧ ((bank3 { power := .gated } 100).core 0 |>.bank 3).power ≠ .awake
    ∧ 0 ∈ coresOf 1 := by decide +kernel
/-- The boot state at phase `n`. -/
def booting (n : BitVec 4) : State := { host := { phase := n, epoch := 5 } }
theorem witness_HostAccesses :
    ((booting 3).host.phase = 3 ∧ (4 : BitVec 16).toNat < (booting 1).host.epoch.toNat ∧ ¬ (5 : BitVec 16).toNat < (booting 1).host.epoch.toNat)
    ∧ (populated 0xBFFFFFFF8 = true ∧ populated (0xBFFFFFFF8 + 8 - 1) = true ∧ populated 0xC00000000 = false ∧ (8 : Nat) ≤ 8
      ∧ (mach (strm [])).scaleAt 0xBFFFFFFF8 = none)
    ∧ ((mach (strm [])).regTouch (.sheet 0 0)).1 = true
    ∧ (devReg 0x0800_0000_0000 = some .bootst ∧ populated 0x0800_0000_0000 = false ∧ devReg 0x0800_0000_0001 = none)
    ∧ (State.reset.tuInv.getLsbD 63 = false ∧ ({ State.reset with tuInv := 0xC000_0000_0000_0000 } : State).tuInv.getLsbD 63 = true
      ∧ ({ State.reset with tuInv := 0xC000_0000_0000_0000 } : State).tuInv.getLsbD 62 = true ∧ State.reset.host.pending = 0)
    ∧ (let h : HostPort := { hnq := 0x8000_0000_0000_1000, hnqW := 255, hnqR := 0 }
       h.hnq.getLsbD 63 = true ∧ (h.hnqW - h.hnqR).toNat ≠ 256 ∧ h.pending.getLsbD 15 = false)
    ∧ (({ hnqW := 256 } : HostPort).hnqW - ({ hnqW := 256 } : HostPort).hnqR).toNat = 256 ∧ ({} : HostPort).hnq.getLsbD 63 = false := by decide +kernel
theorem witness_AttestationAndKeys : ({ go := true } : HostPort).go = true ∧ ({ go := true } : KeySession).go = true ∧ ({} : KeySession).priv = none
    ∧ ({ priv := some 3, kek := some 5 } : KeySession).priv = some 3 ∧ ({ priv := some 3, kek := some 5 } : KeySession).kek = some 5
    ∧ (Config.ecdh 3 0 = none ∨ ∃ z, Config.ecdh 3 0 = some z) ∧ ((0xF0 : Word).extractLsb' 4 4).toNat = 15 ∧ ((0xF_0000_0010 : Word).extractLsb' 32 8).toNat ≤ 15
    ∧ (0xF_0000_0010 : Word).extractLsb' 4 4 = 1#4 := by
  refine ⟨rfl, rfl, rfl, rfl, rfl, ?_, by decide, by decide, by decide⟩
  cases Config.ecdh 3 0 with
  | none => exact .inl rfl
  | some z => exact .inr ⟨z, rfl⟩
/-- A flit of zeros with sequence number 0 and its CRC. -/
def flit : List Byte := List.replicate 68 0 ++ bytesOf 4 (crcOf [(68, 0)]).toNat
/-- Ring 0 of slot 0 at VA 0, 16 entries, context 0; its first entry is owned by the engine or not. -/
def ring0 (own : Bool) : State :=
  paged { mach (strm []) with fab := { cring := Tbl.empty.put 0 0x8000_0000_0000_0400 }, mem := if own then Memory.setNat [] 63 1 0x80 else [] }
/-- A work request that waits for `l`. -/
def work (l : List Nat) : Work := { number := 0, va := 0, entry := 2, ctx := 0, key := 0, status := 1, await := l }
theorem witness_CollectiveRings :
    (flit.length = 72 ∧ bytesNat (flit.drop 68) = (crcOf [(68, bytesNat (flit.take 68))]).toNat ∧ BitVec.ofNat 16 (bytesNat ((flit.drop 64).take 2)) = ((mach (strm [])).linkOf 0).seq)
    ∧ (List.replicate 72 (0 : Byte)).length = 72
    ∧ ¬ bytesNat ((List.replicate 72 (0 : Byte)).drop 68) = (crcOf [(68, bytesNat ((List.replicate 72 (0 : Byte)).take 68))]).toNat
    ∧ ((mach (strm [])).linkOf 0).tries < 8
    ∧ (let s : State := { mach (strm []) with fab := { links := Tbl.empty.put 0 { lanes := 3, seq := 1, tries := 8 } } }
       (s.linkOf 0).lanes < 4 ∧ (s.linkOf 0).down = false ∧ 8 ≤ (s.linkOf 0).tries ∧ BitVec.ofNat 16 (bytesNat ((flit.drop 64).take 2)) ≠ (s.linkOf 0).seq)
    ∧ (∀ own ∈ [true, false], let s := ring0 own
       (s.fab.cring.get 0 0).getLsbD 63 = true ∧ 4 ≤ ((s.fab.cring.get 0 0).extractLsb' 8 4).toNat ∧ (s.fab.works.get [] 0).length < 4
        ∧ (match s.linePlaces 0 0 64 .read with | some [p] => (((s.holdRange 0 0 64 .read).readFor p).prow p.pa).getLsbD 511 == own | _ => false) = true)
    ∧ 4 ≤ (({ works := Tbl.empty.put 0 [work [], work [], work [], work []] } : Fabric).works.get [] 0).length
    ∧ ({ works := Tbl.empty.put 0 [work []] } : Fabric).works.get [] 0 = work [] :: [] ∧ (work []).await = []
    ∧ (let s : State := { mach (strm []) with fab := { works := Tbl.empty.put 0 [work [5]] } }
       s.awaiting 5 (fun _ => true) = some (work [5]) ∧ s.awaiting 6 (fun _ => true) = none) := by decide +kernel
/-- A packet to aperture window 0 at offset 64, with ops and hops. -/
def packet (route : List Nat) (op : Word) (n : Nat) : Packet :=
  { route := route, ret := [], sealed := false, key := 0, len := 64 * n, ap := 2 ^ 44 + 64, tag := 0, rlo := 0, src := 3, seq := 5, pull := false, wide := false,
    ops := [op], payload := List.replicate n (0, false) }
/-- A window of 64 KiB at VA 0 of context 0. -/
def windowed : State := paged { mach (strm []) with fab := { apwin := Tbl.empty.put 0 0x8000_0000_0000_0010 } }
/-- A remote access of 8 bytes. -/
def remote (w : Option (BitVec 512)) : RemoteReq := { pa := 0x1F8, width := 8, write := w, atomic := none, cmp := 0, plain := true, src := 3 }
/-- An APROM.F of another device. -/
def remoteAprom : RemoteReq := { remote none with aprom := some 4 }
/-- A PULL in work that waits for its reply: 64 bytes from the first line of aperture window 0 that `packet` names, to VA 0x100. -/
def pulling : Work := { work [5] with entry := BitVec.ofNat 512 (2 + 64 * 2 ^ 32 + 0x100 * 2 ^ 64 + (2 ^ 44 + 64) * 2 ^ 128) }
theorem witness_FabricDeliveries :
    ((packet [55] 0 1).route = 55 :: [] ∧ 55 ≠ 0xFF ∧ opKind ((packet [55] 0 1).ops.headD 0) = 0 ∧ opKind ((packet [55] 0x302 1).ops.headD 0) = 2
      ∧ opKind ((packet [55] 0x2_0001 1).ops.headD 0) = 1 ∧ ({} : Switch).keys = [] ∧ (packet [] 0 1).route = [])
    ∧ (windowed.windowTakes 0 64 (64 * (packet [] 0 1).payload.length) = true ∧ windowed.windowTakes 0 64 (packet [] 0 1).len = true
      ∧ (windowed.linePlaces (windowed.windowBase 0).2 ((windowed.windowBase 0).1 + 64) 64 .write).isSome = true
      ∧ (windowed.linePlaces (windowed.windowBase 0).2 ((windowed.windowBase 0).1 + 64) 64 .read).isSome = true
      ∧ plainPlace (windowed.place 0 0 .atomic) = true ∧ (windowed.linkOf 0).down = false
      ∧ (({ fab := { links := Tbl.empty.put 0 { down := true } } } : State).linkOf 0).down = true ∧ (mach (strm [])).windowTakes 0 64 64 = false)
    ∧ ((packet [55] 0 1).route ≠ [] ∧ (mach (strm [])).awaiting (packet [] 0 1).seq (Work.asks (packet [] 0 1)) = none)
    ∧ (∀ s ∈ [mach (strm []), windowed], pulling.await = [(packet [] 0 1).seq]
        ∧ ({ s with fab := { s.fab with works := Tbl.empty.put 0 [pulling] } } : State).awaiting (packet [] 0 1).seq (Work.asks (packet [] 0 1)) = some pulling)
    ∧ ((mach (strm [])).linePlaces pulling.ctx (ef pulling.entry 8 8 + ((packet [] 0 1).ap - ef pulling.entry 16 8)) 64 .write = none
      ∧ (windowed.linePlaces pulling.ctx (ef pulling.entry 8 8 + ((packet [] 0 1).ap - ef pulling.entry 16 8)) 64 .write).map List.length = some 1)
    ∧ ((windowed.linePlaces (windowed.windowBase 0).2 ((windowed.windowBase 0).1 + 64) 64 .write).map (fun l => l.map (fun q => q.pa / 64)) = some [1] ∧ 0x800 / 64 ≠ 1
      ∧ 0x800 % 64 + 8 ≤ 64)
    ∧ (populated (remote none).pa = true ∧ (remote none).pa % 64 + (remote none).width ≤ 64 ∧ (mach (strm [])).remoteRace (remote none) = none
      ∧ (mach (strm [])).remoteRace (remote (some 7)) = none ∧ (remote none).aprom = none
      ∧ remoteAprom.aprom = some 4 ∧ (mach (strm [])).remoteRace remoteAprom = none ∧ ((({ mach (strm []) with tracks := [write4] } : State).remoteRace (remote (some 7))).isSome = true)) := by
  decide +kernel

/-! ## The invariant at reset, and single steps -/

theorem reset_memOk : State.reset.memOk := ⟨rfl, rfl⟩

/-! ## Single steps

Each test runs one step: the word, written from its encoding, placed where stream 0 fetches next in a machine whose S registers hold the values
listed. What is expected is read off the rule named. -/

/-- The state after one step of the word `w`. -/
def after (w : Nat) (l : List (Nat × Word)) (f : Stream → Stream := id) (k : Core := {}) : State :=
  match step ((mach (f (strm l)) k).withFetchWord 64 w) with
  | .next t => t
  | _ => State.reset
/-- The latent writes of stream 0: register, value, cycles to the landing. -/
def writes (s : State) : List (PReg × Option Nat × Nat) := (s.stream 0).latents.map (fun l => (l.reg, l.val.map BitVec.toNat, l.due - l.issued))
/-- Code, ADDR and INFO of the record that parks stream 0. -/
def taken (s : State) : Option (FCode × Nat × Nat) := (s.stream 0).pend.map (fun r => (r.code, r.addr.toNat, r.info.toNat))

/-- R244: ADDI S4, S4, 4 wraps at 64 bits, and lands after one cycle. The program counter is past the word. -/
theorem test_addi_wraps : writes (after 0x0381_0800_0000_0004 [(4, 0xFFFF_FFFF_FFFF_FFFF)]) = [(.s 4, some 3, 1)]
    ∧ ((after 0x0381_0800_0000_0004 [(4, 0xFFFF_FFFF_FFFF_FFFF)]).stream 0).pc = 8 := by decide +kernel
/-- R244: SUB S1, S2, S3 below zero; MULH S1, S2, S3 of -1 and 1 is the high half of -1, after three cycles. -/
theorem test_sub_mulh : writes (after 0x0280_4430_0000_0000 [(2, 3), (3, 5)]) = [(.s 1, some 0xFFFF_FFFF_FFFF_FFFE, 1)]
    ∧ writes (after 0x0580_4430_0000_0000 [(2, 0xFFFF_FFFF_FFFF_FFFF), (3, 1)]) = [(.s 1, some 0xFFFF_FFFF_FFFF_FFFF, 3)] := by decide +kernel
/-- R244 and R245: DIVS S1, S2, S3 of -2^63 by -1 is -2^63, of -7 by 2 is -3; by 0 it takes ARITH with INFO 1. -/
theorem test_divs : writes (after 0x0780_4430_0000_0000 [(2, 0x8000_0000_0000_0000), (3, 0xFFFF_FFFF_FFFF_FFFF)]) = [(.s 1, some 0x8000_0000_0000_0000, 34)]
    ∧ writes (after 0x0780_4430_0000_0000 [(2, 0xFFFF_FFFF_FFFF_FFF9), (3, 2)]) = [(.s 1, some 0xFFFF_FFFF_FFFF_FFFD, 34)]
    ∧ taken (after 0x0780_4430_0000_0000 [(2, 5)]) = some (.arith, 0, 1) := by decide +kernel
/-- R244: SHRA S1, S2, S3 uses bits 5:0 of the count, and its source may be its destination. -/
theorem test_shra : writes (after 0x0F80_4430_0000_0000 [(2, 0x8000_0000_0000_0000), (3, 65)]) = [(.s 1, some 0xC000_0000_0000_0000, 1)]
    ∧ writes (after 0x0F80_8430_0000_0000 [(2, 16), (3, 4)]) = [(.s 2, some 1, 1)] := by decide +kernel
/-- R160: a write to S0 is discarded: ADD S0, S2, S3 leaves no latent write. -/
theorem test_s0_discards : writes (after 0x0180_0430_0000_0000 [(2, 3), (3, 5)]) = [] := by decide +kernel
/-- R246: CMP.GTN Q2, S13, 7 is unsigned. -/
theorem test_cmp_unsigned : writes (after 0x1E80_9A00_0000_0079 [(13, 0xFFFF_FFFF_FFFF_FFFF)]) = [(.q 2, some 1, 1)]
    ∧ writes (after 0x1E80_9A00_0000_0079 [(13, 7)]) = [(.q 2, some 0, 1)] := by decide +kernel
/-- R47: (Q1) MOVI S15, 1 with Q1 false does nothing but pass. -/
theorem test_predicated_off : writes (after 0x1A93_C000_0000_0001 []) = [] ∧ ((after 0x1A93_C000_0000_0001 []).stream 0).pc = 8 := by decide +kernel
/-- R251: PBR J1 to the tenth word after it. -/
theorem test_pbr : writes (after 0x2281_0000_0000_000A []) = [(.j 1, some 80, 1)] := by decide +kernel
/-- R252: BR J1 leaves a transfer after two delay groups; a target of 2^48 takes PERM. -/
theorem test_br : ((after 0x2481_0000_0000_0000 [] (fun t => { t with j := Tbl.empty.put 1 0x80 })).stream 0).xfer.target = some 0x80
    ∧ ((after 0x2481_0000_0000_0000 [] (fun t => { t with j := Tbl.empty.put 1 0x80 })).stream 0).xfer.left = 2
    ∧ (taken (after 0x2481_0000_0000_0000 [] (fun t => { t with j := Tbl.empty.put 1 0x1_0000_0000_0000 }))).map (·.1) = some .perm := by decide +kernel
/-- R256: LOOP J1 with LC = 1 counts down, rotates with ROTB 0 to 15 and sets Q4's stage, which is physical q7. -/
theorem test_loop : (let t := (after 0x2781_0000_0000_0000 [] (fun t => { t with lc := 1 })).stream 0
    (t.lc, t.rotb, t.q.get false 7, t.xfer.left)) = (0, 15, true, 2) := by decide +kernel
/-- R7: with ROTB = 15, S17 names physical register 16 (the manual's example of R162). -/
theorem test_rotating_name : physS 15 17 = 16 ∧ physS 0 16 = 16 ∧ physQ 0 4 = 4 := by decide
/-- R262: TRAP 9 parks the stream with a record whose ADDR is 9; WAIT 100 holds the next group until cycle c + 101; HALT halts. -/
theorem test_trap_wait_halt : (taken (after 0x3180_0000_0000_0009 [])).map (fun r => (r.1, r.2.1)) = some (.trap, 9)
    ∧ ((after 0x2E80_0000_0000_0064 []).stream 0).gate.cycle = 201 ∧ ((after 0x3080_0000_0000_0000 []).stream 0).status = .halted := by decide +kernel
/-- R248: LDS.N32 S12, [S13+0] at 0x5FFFC reads the last word of scratchpad; at 0x60000 it takes PERM, at 2 ALIGN. -/
theorem test_lds : ((after 0x2083_1A02_0000_0000 [(13, 0x5FFFC)]).stream 0).accs.map (fun a => a.addr) = [0x5FFFC]
    ∧ (taken (after 0x2083_1A02_0000_0000 [(13, 0x60000)])).map (·.1) = some .perm
    ∧ taken (after 0x2083_1A02_0000_0000 [(13, 2)]) = some (.align, 2, 4) := by decide +kernel
/-- R139: HCONF H2, S5, S6, S7, data sets the handle. -/
theorem test_hconf : ((after 0x9980_0002_98E0_0002 [(5, 0x1000), (6, 128), (7, 3)]).core 0).ring 2 = { kind := .data, base := 0x1000, size := 128, count := 3 } := by
  decide +kernel
/-- R138: RADVC H2, 1 with nothing filled takes RING. -/
theorem test_radvc_empty : (taken (after 0x9B80_0000_0000_0012 [] id { rings := Tbl.empty.put 2 { kind := .token, count := 3 } })).map (·.1) = some .ring := by
  decide +kernel
/-- R284: GLD.N64.ACQ.V S12, [S6+8] enters the access queue; at a misaligned address it takes ALIGN with that address. -/
theorem test_gld : ((after 0xA083_0C00_32D8_0008 [(6, 0x100)]).stream 0).aq.map (fun e => (e.x.toNat, e.number, e.done)) = [(0x100, 1, false)]
    ∧ (taken (after 0xA083_0C00_32D8_0008 [(6, 0x104)])).map (fun r => (r.1, r.2.1)) = some (.align, 0x10C) := by decide +kernel
/-- R55 and R50: an unassigned opcode, and a word with a reserved bit, take ILLEGAL and move nothing. -/
theorem test_illegal : (taken (after 0x7A80_0000_0000_0000 [])).map (·.1) = some .illegal ∧ (taken (after 0x0080_0000_0000_0001 [])).map (·.1) = some .illegal
    ∧ ((after 0x7A80_0000_0000_0000 []).stream 0).pc = 0 := by decide +kernel
/-- R259 and R62: SYSWR LC, S4 sets LC; SYSWR STRCTL, S4 without privilege takes PERM. -/
theorem test_syswr : ((after 0x3380_0800_0000_0100 [(4, 7)]).stream 0).lc = 7 ∧ (taken (after 0x3380_0800_0000_0001 [(4, 1)])).map (·.1) = some .perm := by
  decide +kernel
/-- R205: VADD.I32 adds modulo 2^32, and with .SAT clamps; R206: VSHR by the width gives 0. -/
theorem test_vector_values :
    (let x : VSrc := { a := Tbl.empty.put 0 { data := 0x7FFFFFFF }, b := Tbl.empty.put 0 { data := 0x20 }, t := .empty, tap := false, mask := 0, sval := 0 }
     let v := { tv0 with ty := 2 }
     elemOf 32 (vrow (.vaddI hx v) v x 0).data 0 = 0x8000001F ∧ elemOf 32 (vrow (.vaddI hx { v with sat := 1 }) { v with sat := 1 } x 0).data 0 = 0x7FFFFFFF
      ∧ elemOf 32 (vrow (.vshrN hx { v with ty := 5 }) { v with ty := 5 } x 0).data 0 = 0) := by decide +kernel
/-- R182: F32 of 1 + 2^-24 rounds to even; the greatest B16 doubled is an infinity, and with .SAT the greatest B16. -/
theorem test_rounding : f32.round 0 false (FVal.add 0 (f32.decode 0x3F800000) (f32.decode 0x33800000)) = 0x3F800000
    ∧ b16.round 0 false (FVal.add 0 (b16.decode 0x7F7F) (b16.decode 0x7F7F)) = 0x7F80
    ∧ b16.round 0 true (FVal.add 0 (b16.decode 0x7F7F) (b16.decode 0x7F7F)) = 0x7F7F := by decide +kernel
/-- R4: memory is little-endian, and a byte set to what unlisted memory reads as leaves the list. -/
theorem test_memory : Memory.get (Memory.setNat [] 0x10 2 0xABCD) 0x11 = 0xAB ∧ Memory.setNat (Memory.setNat [] 0x10 2 0xABCD) 0x10 2 0 = [] := by decide +kernel

end Sys2Proof.Tests
end

section
namespace Sys2Proof.Machine

/-- A word whose meaning is a plain slot issues without effect when its predicate is false. -/
theorem issues_self_of_plain {i : Instr} {h : Hdr} {s : State} {rs : List PReg} {ws : List (PReg × Nat)} {body : Act}
    (hi : exec i s = (s.plain h rs ws body).done s) (hoff : s.off h) : Issues i s s := by
  rw [Issues, hi, State.plain_off hoff, Act.done_go]

/-- The meaning of every form that `plainForm` lists is a plain slot under the form's own header. -/
theorem exec_plainForm {i : Instr} {h : Hdr} (hi : plainForm i = some h) (s : State) :
    ∃ rs ws body, exec i s = (s.plain h rs ws body).done s := by
  unfold plainForm at hi
  split at hi
  all_goals cases hi
  all_goals exact ⟨_, _, _, rfl⟩

/-- Settles O11: the skipped work of a plain form is the issue of its slot with the state as it stands (R47). -/
theorem predicatedOffDoesNothing : Obligations.PredicatedOffDoesNothing := by
  intro i h s hi hoff
  obtain ⟨rs, ws, body, hexec⟩ := exec_plainForm hi s
  exact issues_self_of_plain hexec hoff

end Sys2Proof.Machine
end

section
namespace Sys2Proof.Machine

/-! ## Version checks and banks -/

/-- From `k` to `k'` nothing differs but the banks and the claims committed on tile registers. -/
structure Core.Granted (k k' : Core) : Prop where
  core : k' = { k with tiles := k'.tiles, banks := k'.banks }
  tile : ∀ r, k'.tile r = { k.tile r with commit := (k'.tile r).commit }

theorem Core.Granted.refl (k : Core) : k.Granted k := ⟨rfl, fun _ => rfl⟩

theorem Core.Granted.trans {k k' k'' : Core} (h : k.Granted k') (h' : k'.Granted k'') : k.Granted k'' := by
  refine ⟨?_, fun r => ?_⟩
  · rw [h'.core, h.core]
  · rw [h'.tile r, h.tile r]

theorem Core.tile_modTile (k : Core) (t r : Nat) (f : Tile → Tile) :
    (k.modTile t f).tile r = if r = t then f (k.tile t) else k.tile r := by
  unfold Core.tile Core.modTile
  split
  · subst r; simp
  · exact Tbl.get_mod_ne _ _ _ _ _ ‹_›

/-- Committing a source raises the committed claims of its register at most. -/
theorem Core.granted_commitSrc (k : Core) (o : TSrc) : k.Granted (k.commitSrc o) := by
  unfold Core.commitSrc
  split
  · exact .refl k
  · refine ⟨rfl, fun r => ?_⟩
    rw [Core.tile_modTile]
    split
    · subst r; rfl
    · rfl

theorem Core.banks_commitSrc (k : Core) (o : TSrc) : (k.commitSrc o).banks = k.banks := by
  unfold Core.commitSrc; split <;> rfl

/-- The version checks of a word only commit claims. -/
theorem Core.granted_checkAll (k : Core) (now : Nat) (dst : Option TDst) (srcs : List TSrc) :
    k.Granted (k.checkAll now dst srcs).2 ∧ (k.checkAll now dst srcs).2.banks = k.banks := by
  refine List.foldlRecOn srcs _ (motive := fun a : Check × Core => k.Granted a.2 ∧ a.2.banks = k.banks) ⟨.refl k, rfl⟩ ?_
  intro a h o _
  split
  · exact h
  · exact h
  · exact h
  · exact ⟨h.1.trans (Core.granted_commitSrc _ _), (Core.banks_commitSrc _ _).trans h.2⟩

/-- The bank of tile register `t` lets an access in cycle `now`. -/
def Core.BankReady (k : Core) (now t : Nat) : Prop := (k.bank (t % 16)).power = .awake ∧ (k.bank (t % 16)).wake ≤ now

/-- The core after an access to the bank of tile register `t`, which stood awake. -/
def Core.accessed (k : Core) (now t : Nat) : Core :=
  { k with banks := k.banks.put (t % 16) { k.bank (t % 16) with last := now } }

theorem Core.granted_accessed (k : Core) (now t : Nat) : k.Granted (k.accessed now t) := ⟨rfl, fun _ => rfl⟩

/-- An access to an awake bank is made. -/
theorem Core.touch_ready {k : Core} {now t : Nat} (h : k.BankReady now t) : k.touch now t = (true, k.accessed now t) := by
  obtain ⟨hp, hw⟩ := h
  simp [Core.touch, Core.accessed, hp, hw]

/-- A bank that has been accessed stays awake. -/
theorem Core.bankReady_accessed {k : Core} {now t r : Nat} (h : k.BankReady now r) : (k.accessed now t).BankReady now r := by
  obtain ⟨hp, hw⟩ := h
  unfold Core.BankReady Core.bank Core.accessed
  rw [Tbl.get_put]
  split
  · rename_i he
    rw [← he]; exact ⟨hp, hw⟩
  · exact ⟨hp, hw⟩

theorem Core.touchAll_cons_ready {k : Core} {now t : Nat} (h : k.BankReady now t) (ts : List Nat) :
    k.touchAll now (t :: ts) = (k.accessed now t).touchAll now ts := by
  simp [Core.touchAll, Core.touch_ready h]

/-- Accesses to banks that are all awake are made, and change banks only. -/
theorem Core.touchAll_ready {now : Nat} (ts : List Nat) (k : Core) (h : ∀ t ∈ ts, k.BankReady now t) :
    (k.touchAll now ts).1 = true ∧ k.Granted (k.touchAll now ts).2 := by
  induction ts generalizing k with
  | nil => exact ⟨rfl, .refl k⟩
  | cons t ts ih =>
    rw [Core.touchAll_cons_ready (h t List.mem_cons_self)]
    obtain ⟨hmade, hg⟩ := ih _ fun r hr => Core.bankReady_accessed (h r (List.mem_cons_of_mem _ hr))
    exact ⟨hmade, (k.granted_accessed now t).trans hg⟩

/-! ## The edges of a word whose checks have passed -/

/-- A change of the issuing core that leaves its streams leaves every stream. -/
theorem State.stream_modMyCore {s : State} {f : Core → Core} (h : (f s.myCore).streams = s.myCore.streams) (g : Nat) :
    (s.modMyCore f).stream g = s.stream g := by
  by_cases hg : g / 4 = s.cur / 4
  · simp only [State.stream, State.modMyCore, hg, State.core_modCore_same, Core.stream]
    exact congrArg (fun x : Tbl Stream => x.get {} (g % 4)) h
  · exact State.stream_modCore_ne _ _ _ _ hg

theorem State.me_modMyCore {s : State} {f : Core → Core} (h : (f s.myCore).streams = s.myCore.streams) :
    (s.modMyCore f).me = s.me := State.stream_modMyCore h _

/-- `t'` differs from `t` in its clocks, the clocks of its queued entries and of its chains, and its region at most. -/
def Stream.Clocked (t t' : Stream) : Prop :=
  t' = { t with clocks := t'.clocks, ldq := t'.ldq, mxq := t'.mxq, stq := t'.stq, ldChain := t'.ldChain, stChain := t'.stChain,
                region := t'.region }

theorem Stream.Clocked.trans {t t' t'' : Stream} (h : t.Clocked t') (h' : t'.Clocked t'') : t.Clocked t'' := by
  unfold Stream.Clocked at *
  rw [h', h]

/-- From `s` to `u` the checks of a word's counted operands may have been made, its banks accessed and its version edges drawn (R171, R174,
R273): beside the clocks and the region of its stream, committed claims, banks and what is known, nothing differs. -/
structure State.Settled (s u : State) : Prop where
  state : u = { s with cores := u.cores, known := u.known }
  core : u.myCore = { s.myCore with streams := u.myCore.streams, tiles := u.myCore.tiles, banks := u.myCore.banks }
  tile : ∀ r, u.myCore.tile r = { s.myCore.tile r with commit := (u.myCore.tile r).commit }
  me : s.me.Clocked u.me
  others : ∀ g, g ≠ s.cur → u.stream g = s.stream g

namespace State.Settled

theorem cur {s u : State} (h : s.Settled u) : u.cur = s.cur := (congrArg State.cur h.state :)
theorem cycle {s u : State} (h : s.Settled u) : u.cycle = s.cycle := (congrArg State.cycle h.state :)
theorem word {s u : State} (h : s.Settled u) : u.word = s.word := (congrArg State.word h.state :)
theorem mem {s u : State} (h : s.Settled u) : u.mem = s.mem := (congrArg State.mem h.state :)
theorem claims {s u : State} (h : s.Settled u) : u.myCore.claims = s.myCore.claims := (congrArg Core.claims h.core :)
theorem xt {s u : State} (h : s.Settled u) : u.myCore.xt = s.myCore.xt := (congrArg Core.xt h.core :)
theorem accs {s u : State} (h : s.Settled u) : u.me.accs = s.me.accs := (congrArg Stream.accs h.me :)
theorem spRes {s u : State} (h : s.Settled u) : u.myCore.spRes = s.myCore.spRes := (congrArg Core.spRes h.core :)

theorem trans {s u w : State} (h : s.Settled u) (h' : u.Settled w) : s.Settled w where
  state := by rw [h'.state, h.state]
  core := by rw [h'.core, h.core]
  tile r := by rw [h'.tile r, h.tile r]
  me := h.me.trans h'.me
  others g hg := (h'.others g (h.cur ▸ hg)).trans (h.others g hg)

/-- What is known may change. -/
theorem of_known (s : State) (n : Known) : s.Settled { s with known := n } :=
  ⟨rfl, rfl, fun _ => rfl, rfl, fun _ _ => rfl⟩

/-- The issuing core may commit claims and access banks. -/
theorem of_granted {s : State} {k : Core} (h : s.myCore.Granted k) : s.Settled (s.modMyCore (fun _ => k)) := by
  have hs : k.streams = s.myCore.streams := (congrArg Core.streams h.core :)
  refine ⟨rfl, ?_, ?_, ?_, fun g _ => State.stream_modMyCore hs g⟩
  · rw [State.myCore_modMyCore, h.core]
  · rw [State.myCore_modMyCore]; exact h.tile
  · rw [State.me_modMyCore hs]; rfl

/-- The clocks and the region of the issuing stream may change. -/
theorem of_clocked (s : State) {f : Stream → Stream} (h : s.me.Clocked (f s.me)) : s.Settled (s.modMe f) := by
  refine ⟨rfl, ?_, ?_, ?_, fun g hg => State.stream_modStream_ne _ _ _ _ hg⟩
  · rw [State.modMe_myCore]
  · rw [State.modMe_myCore]; exact fun _ => rfl
  · rw [State.me_modMe]; exact h

end State.Settled

/-- An acquire leaves of its stream all but the clocks. -/
theorem Stream.clocked_acquired (t : Stream) (n : Nat) (k : Tbl Nat) : t.Clocked (t.acquired n k) := rfl

/-- Version edges are kept in what is known. -/
theorem State.versionEdges_state (s : State) (c : Nat) (dst : Option TDst) (srcs : List TSrc) (k : Tbl Nat) :
    (s.versionEdges c dst srcs k).2 = { s with known := (s.versionEdges c dst srcs k).2.known } := by
  have hsrcs := List.foldlRecOn srcs
    (fun (a : Tbl Nat × State) o => let r := a.2.tileRead c o.t o.ver.toNat k; (joinSeen a.1 r.1, r.2))
    (b := (.empty, s)) (motive := fun a : Tbl Nat × State => a.2 = { s with known := a.2.known }) rfl
    (fun a h o _ => by simp only [State.tileRead]; rw [h])
  cases dst with
  | none => exact hsrcs
  | some o => simp only [State.versionEdges, State.tileWrite]; rw [hsrcs]

/-- The edges of a word settle it, in the region that it issued in. -/
theorem State.settled_wordEdges (s : State) (dst : Option TDst) (srcs : List TSrc) :
    s.Settled (s.wordEdges dst srcs) ∧ (s.wordEdges dst srcs).me.region = s.me.region := by
  unfold State.wordEdges State.acquire
  dsimp only
  rw [State.versionEdges_state]
  split
  · exact ⟨.of_known s _, rfl⟩
  · exact ⟨(Settled.of_known s _).trans (.of_clocked _ (Stream.clocked_acquired _ _ _)), by
      rw [State.me, State.modStream_cur, State.stream_modStream_same]; rfl⟩

/-- The state in which a word whose checks have passed has its effect, `k` being its core with the claims committed and the banks accessed. -/
def State.passed (s : State) (k : Core) (dst : Option TDst) (srcs : List TSrc) : State :=
  ((s.modMyCore (fun _ => k)).wordEdges dst srcs).modMe (fun t => { t with region := t.region + 1 })

theorem State.settled_passed {s : State} {k : Core} (hk : s.myCore.Granted k) (dst : Option TDst) (srcs : List TSrc) :
    s.Settled (s.passed k dst srcs) ∧ (s.passed k dst srcs).me.region = s.me.region + 1 := by
  obtain ⟨hedges, hregion⟩ := (s.modMyCore (fun _ => k)).settled_wordEdges dst srcs
  have hme : (s.modMyCore (fun _ => k)).me = s.me := State.me_modMyCore (congrArg Core.streams hk.core :)
  refine ⟨((State.Settled.of_granted hk).trans hedges).trans (.of_clocked _ rfl), ?_⟩
  rw [State.passed, State.me_modMe, hregion, hme]

/-- A word that executes with its operands there has its effect in a state in which only its checks have been made and its region has ended. -/
theorem State.counted_ready {s : State} {dst : Option TDst} {srcs : List TSrc} (h : s.operandsReady dst srcs)
    (hn : (dst.isSome || !srcs.isEmpty) = true) :
    ∃ u, s.Settled u ∧ u.me.region = s.me.region + 1 ∧ ∀ body, s.counted true dst srcs body = body u := by
  obtain ⟨hpass, hpoison, hcharge, hbanks⟩ := h
  obtain ⟨k, hcheck⟩ : ∃ k, s.myCore.checkAll s.cycle dst srcs = (.pass, k) := ⟨_, Prod.ext hpass rfl⟩
  obtain ⟨hgrant, hkept⟩ : s.myCore.Granted k ∧ k.banks = s.myCore.banks := by
    simpa only [hcheck] using s.myCore.granted_checkAll s.cycle dst srcs
  obtain ⟨hmade, htouch⟩ := Core.touchAll_ready (now := s.cycle) (srcs.map (·.t)) k (by
    intro t ht
    obtain ⟨o, ho, rfl⟩ := List.mem_map.1 ht
    simpa only [Core.BankReady, Core.bank, hkept] using hbanks o ho)
  obtain ⟨hsettled, hregion⟩ := State.settled_passed (hgrant.trans htouch) dst srcs
  have hcharge' := (congrArg Stream.charge hsettled.me).trans hcharge
  refine ⟨_, hsettled, hregion, fun body => ?_⟩
  simp only [State.counted, hcheck, hpoison, hmade, hn, if_true]
  exact State.sync_none hcharge' _

/-- A word with an operand that waits is held, whatever it would do. -/
theorem State.counted_wait {s : State} {dst : Option TDst} {srcs : List TSrc} (h : (s.myCore.checkAll s.cycle dst srcs).1 = .wait)
    (ex : Bool) (body : State → Act) : s.counted ex dst srcs body = .wait s (s.me.ownWait s.myCore s.cycle dst srcs) := by
  obtain ⟨k, hcheck⟩ : ∃ k, s.myCore.checkAll s.cycle dst srcs = (.wait, k) := ⟨_, Prod.ext h rfl⟩
  simp only [State.counted, hcheck]

/-! ## What an issued vector form keeps -/

/-- The parts of a core that `KeepsRegisters` speaks of. -/
structure Core.KeepsTiles (k k' : Core) : Prop where
  streams : k'.streams = k.streams
  sp : k'.sp = k.sp
  tile : ∀ r, (k'.tile r).row = (k.tile r).row ∧ (k'.tile r).wcnt = (k.tile r).wcnt ∧ (k'.tile r).rdrem = (k.tile r).rdrem

/-- A reservation marks its own register. -/
theorem Core.tile_reserve (k : Core) (now : Nat) (o : TDst) (ex : Bool) (due : Option Nat) (r : Nat) :
    (k.reserve now o ex due).tile r = if r = o.t then { k.tile o.t with wpend := true, resAt := now } else k.tile r :=
  Core.tile_modTile k o.t r (fun x => { x with wpend := true, resAt := now })

/-- A reservation leaves payloads and version counts. -/
theorem Core.keepsTiles_reserve (k : Core) (now : Nat) (o : TDst) (ex : Bool) (due : Option Nat) : k.KeepsTiles (k.reserve now o ex due) := by
  refine ⟨rfl, rfl, fun r => ?_⟩
  rw [Core.tile_reserve]
  split
  · subst r; exact ⟨rfl, rfl, rfl⟩
  · exact ⟨rfl, rfl, rfl⟩

/-- A reserved register has a pending write. -/
theorem Core.wpend_reserve (k : Core) (now : Nat) (o : TDst) (ex : Bool) (due : Option Nat) : ((k.reserve now o ex due).tile o.t).wpend = true := by
  rw [Core.tile_reserve, if_pos rfl]

/-- Settling keeps the registers. -/
theorem State.Settled.keepsRegisters {s u : State} (h : s.Settled u) : KeepsRegisters s u := by
  refine ⟨(congrArg Stream.s h.me :), (congrArg Stream.q h.me :), (congrArg Stream.m h.me :), (congrArg Stream.j h.me :),
    (congrArg Stream.pc h.me :), (congrArg Core.sp h.core :), h.mem, h.others, fun r => ?_⟩
  exact ⟨(congrArg Tile.row (h.tile r) :), (congrArg Tile.wcnt (h.tile r) :), (congrArg Tile.rdrem (h.tile r) :)⟩

/-- A change of the issuing core that keeps streams, scratchpad and tiles keeps the registers. -/
theorem KeepsRegisters.modMyCore {s u : State} (h : KeepsRegisters s u) {f : Core → Core}
    (hf : u.myCore.KeepsTiles (f u.myCore)) : KeepsRegisters s (u.modMyCore f) := by
  obtain ⟨hs, hq, hm, hj, hpc, hsp, hmem, hstreams, htile⟩ := h
  unfold KeepsRegisters
  rw [State.me_modMyCore hf.streams, State.myCore_modMyCore, hf.sp]
  refine ⟨hs, hq, hm, hj, hpc, hsp, hmem, fun g hg => (State.stream_modMyCore hf.streams g).trans (hstreams g hg), fun r => ?_⟩
  obtain ⟨hrow, hwcnt, hrdrem⟩ := hf.tile r
  rw [hrow, hwcnt, hrdrem]
  exact htile r

/-- Listing accesses keeps the registers. -/
theorem KeepsRegisters.modMe_accs {s u : State} (h : KeepsRegisters s u) (hc : u.cur = s.cur) (l : List SpAcc) :
    KeepsRegisters s (u.modMe (fun t => { t with accs := t.accs ++ l })) := by
  obtain ⟨hs, hq, hm, hj, hpc, hsp, hmem, hstreams, htile⟩ := h
  unfold KeepsRegisters
  rw [State.me_modMe, State.modMe_myCore]
  exact ⟨hs, hq, hm, hj, hpc, hsp, hmem, fun g hg => (State.stream_modStream_ne _ _ _ _ (hc ▸ hg)).trans (hstreams g hg), htile⟩

/-- A settled state holds the sources of a form as they stood. -/
theorem State.Settled.vsource {s u : State} (h : s.Settled u) (i : Instr) (v : Tv) : u.vsource i v = s.vsource i v := by
  have hrow : ∀ r, (u.myCore.tile r).row = (s.myCore.tile r).row := fun r => (congrArg Tile.row (h.tile r) :)
  have hm : u.me.m = s.me.m := (congrArg Stream.m h.me :)
  have hs : u.me.s = s.me.s := (congrArg Stream.s h.me :)
  have hrotb : u.me.rotb = s.me.rotb := (congrArg Stream.rotb h.me :)
  simp only [State.vsource, hrow, Stream.mreg, Stream.sreg, hm, hs, hrotb]

/-- Settling takes no claim away and adds none, so the claims of the sources are those that they were. -/
theorem State.Settled.claimsOf {s u : State} (h : s.Settled u) (srcs : List TSrc) (due : Nat) : u.claimsOf srcs due = s.claimsOf srcs due := by
  have hopen : ∀ r, (u.myCore.tile r).isOpen = (s.myCore.tile r).isOpen := fun r => (congrArg Tile.isOpen (h.tile r) :)
  have hclaim : u.myCore.hasClaim = s.myCore.hasClaim := funext fun o => by simp only [Core.hasClaim, hopen]
  simp only [State.claimsOf, hclaim, h.cur]

/-- Claims to be consumed are listed. -/
theorem State.claimAt_eq (s : State) (srcs : List TSrc) (due : Nat) :
    s.claimAt srcs due = s.modMyCore (fun k => { k with claims := k.claims ++ s.claimsOf srcs due }) := rfl

/-! ## The transcendental unit -/

/-- A form of the transcendental unit means `State.vform`, has a function of the unit, and is no VCMP. -/
theorem unitForms_spec {h : Hdr} {v : Tv} {i : Instr} (hi : i ∈ unitForms h v) :
    (∀ s, exec i s = (s.vform i h v).done s) ∧ (xfunOf i).isSome = true ∧ isVcmp i = false := by
  unfold unitForms at hi
  simp only [List.mem_cons, List.not_mem_nil, or_false] at hi
  rcases hi with rfl | rfl | rfl | rfl | rfl | rfl | rfl | rfl
  all_goals exact ⟨fun _ => rfl, rfl, rfl⟩

/-- A form that is not rail-bound and no VCMP has its tile register as counted destination. -/
theorem vdst_of_not_railBound {i : Instr} {v : Tv} (hc : isVcmp i = false) (hr : railBound v = false) :
    vdst i v = some ⟨v.td.toNat, v.tdv, v.rdn⟩ := by
  have hd : v.drives = false := (Bool.or_eq_false_iff.1 hr).2
  simp only [vdst, hc, hd, Bool.or_self, Bool.false_eq_true, if_false]

/-- A form of the transcendental unit that is ready, with room in the queue, is a counted word that enters the queue. -/
theorem exec_unitForm {h : Hdr} {v : Tv} {s : State} {i : Instr} (hi : i ∈ unitForms h v) (hr : railBound v = false)
    (hready : s.ready h (vreads s.me i v) []) (hroom : s.myCore.xt.length < 8) :
    exec i s = (s.counted true (some ⟨v.td.toNat, v.tdv, v.rdn⟩) (vsrcs i v) (fun u => .go (u.vqueue i v true))).done s := by
  obtain ⟨hexec, hfun, hcmp⟩ := unitForms_spec hi
  have hfull : ¬ 8 ≤ s.myCore.xt.length := by omega
  rw [hexec, State.vform, hcmp]
  simp only [Bool.false_eq_true, if_false, State.slot_ready hready, hfun, hfull, decide_false, Bool.and_false, if_true,
    vdst_of_not_railBound hcmp hr]

/-- A full queue holds a form of the transcendental unit whose checks do not fault. -/
theorem exec_unitForm_full {h : Hdr} {v : Tv} {s : State} {i : Instr} (hi : i ∈ unitForms h v) (hr : railBound v = false)
    (hready : s.ready h (vreads s.me i v) []) (hfull : 8 ≤ s.myCore.xt.length)
    (hf : ∀ f, (s.myCore.checkAll s.cycle (some ⟨v.td.toNat, v.tdv, v.rdn⟩) (vsrcs i v)).1 ≠ .fault f) :
    exec i s = .next (s.holdMe false) := by
  obtain ⟨hexec, hfun, hcmp⟩ := unitForms_spec hi
  rw [hexec, State.vform, hcmp]
  simp only [Bool.false_eq_true, if_false, State.slot_ready hready, hfun, hfull, decide_true, Bool.and_true, if_true,
    vdst_of_not_railBound hcmp hr]
  split
  · rename_i f k hcheck
    exact absurd (congrArg Prod.fst hcheck) (hf f)
  · exact Act.done_wait s s false

/-- The entry that a form puts into the queue of the transcendental unit (R217). -/
def State.xentryOf (s : State) (i : Instr) (v : Tv) (ex : Bool) : XEntry :=
  { instr := i, exec := ex, gsid := s.cur, src := (s.vsource i v).a, mask := (s.vsource i v).mask, start := none }

/-- Entering the transcendental unit changes the issuing core alone: claims are listed, the destination reserved and the queue longer by one. -/
theorem State.vqueue_eq (s : State) (i : Instr) (v : Tv) (ex : Bool) :
    s.vqueue i v ex = s.modMyCore (fun k =>
      { ({ k with claims := k.claims ++ s.claimsOf (vsrcs i v) (s.cycle + 7) } : Core).reserve s.cycle ⟨v.td.toNat, v.tdv, v.rdn⟩ ex none with
        xt := k.xt ++ [s.xentryOf i v ex] }) := by
  unfold State.vqueue
  rw [State.claimAt_eq]
  exact State.modMyCore_modMyCore _ _ _

/-- R217: a transcendental form with its operands there and room in the queue issues and enters it. -/
theorem unitForm_issues {h : Hdr} {v : Tv} {s : State} {i : Instr} (hi : i ∈ unitForms h v) (hr : railBound v = false)
    (hready : s.ready h (vreads s.me i v) []) (hroom : s.myCore.xt.length < 8)
    (hops : s.operandsReady (some ⟨v.td.toNat, v.tdv, v.rdn⟩) (vsrcs i v)) :
    ∃ t, exec i s = .next t ∧ t.verdict = .issued ∧ KeepsRegisters s t ∧ t.me.region = s.me.region + 1
      ∧ t.myCore.xt = s.myCore.xt ++ [s.xentryOf i v true] ∧ (t.myCore.tile v.td.toNat).wpend = true
      ∧ t.myCore.claims = s.myCore.claims ++ s.claimsOf (vsrcs i v) (s.cycle + 7) := by
  obtain ⟨u, hu, hregion, hbody⟩ := State.counted_ready hops rfl
  rw [exec_unitForm hi hr hready hroom, hbody, Act.done_go]
  refine ⟨_, rfl, rfl, ?_⟩
  rw [State.vqueue_eq, State.verdict_me, State.verdict_myCore]
  have hkeeps := (u.myCore.keepsTiles_reserve u.cycle ⟨v.td.toNat, v.tdv, v.rdn⟩ true none)
  refine ⟨hu.keepsRegisters.modMyCore ⟨hkeeps.streams, hkeeps.sp, hkeeps.tile⟩, ?_, ?_⟩
  · rw [State.me_modMyCore rfl, hregion]
  · rw [State.myCore_modMyCore]
    refine ⟨?_, u.myCore.wpend_reserve u.cycle ⟨v.td.toNat, v.tdv, v.rdn⟩ true none, ?_⟩
    · show u.myCore.xt ++ [u.xentryOf i v true] = _
      simp only [State.xentryOf, hu.xt, hu.cur, hu.vsource]
    · show u.myCore.claims ++ u.claimsOf (vsrcs i v) (u.cycle + 7) = _
      rw [hu.claims, hu.claimsOf, hu.cycle]

/-! ## VLDS and VSTS -/

/-- The address of VLDS and VSTS, its offset counting rows of 64 bytes (R67). -/
theorem State.tileAddr_eq (s : State) (sa : BitVec 5) (hi : BitVec 6) (lo : BitVec 9) :
    s.tileAddr sa hi lo = s.S sa + (hi ++ lo).signExtend 64 * 64 := by
  rw [State.tileAddr, BitVec.shiftLeft_eq_mul_twoPow]; rfl

/-- Unmasked VLDS that is ready. -/
theorem exec_vlds {h : Hdr} {s : State} {sa : BitVec 5} (hready : s.ready h [s.me.sp sa] []) (td : BitVec 6) (tv rdn : BitVec 4) (hi : BitVec 6)
    (msk : BitVec 3) (lo : BitVec 9) :
    exec (.vlds h td tv rdn sa hi 0 msk lo) s
      = (s.tileAccess (s.tileAddr sa hi lo) false (some ⟨td.toNat, tv, rdn⟩) [] (fun u =>
          (u.modMyCore (fun k => k.reserve s.cycle ⟨td.toNat, tv, rdn⟩ true none)).tileIssue
            (.vload td.toNat (BitVec.allOnes 512) .empty none) (s.tileAddr sa hi lo).toNat)).done s := by
  show execVlds .. = _
  exact congrArg (Act.done · s) (State.slot_ready hready _ _)

/-- Unmasked VSTS that is ready. -/
theorem exec_vsts {h : Hdr} {s : State} {sa : BitVec 5} (hready : s.ready h [s.me.sp sa] []) (ta : BitVec 6) (tv : BitVec 4) (tap : BitVec 1)
    (hi : BitVec 6) (msk : BitVec 3) (lo : BitVec 9) :
    exec (.vsts h ta tv tap sa hi 0 msk lo) s
      = (s.tileAccess (s.tileAddr sa hi lo) true none [⟨ta.toNat, tv, tap == 1⟩] (fun u =>
          (u.claimAt [⟨ta.toNat, tv, tap == 1⟩] (s.cycle + 8)).tileIssue
            (.vstore ta.toNat (tap == 1) (BitVec.allOnes 512) (s.myCore.tile ta.toNat).row) (s.tileAddr sa hi lo).toNat)).done s := by
  show execVsts .. = _
  exact congrArg (Act.done · s) (State.slot_ready hready _ _)

/-- The tile at `a` is aligned to its rows and lies inside scratchpad. -/
def InsideScratchpad (a : Word) : Prop := a.toNat % 64 = 0 ∧ 0 ≤ a.toInt ∧ a.toInt + 2048 ≤ 0x60000

/-- No earlier group holds a bank in a cycle in which the tile at `a` needs it (R131). -/
def State.TileBanksFree (s : State) (a : Word) : Prop :=
  ∀ r ∈ s.myCore.spRes, (∃ k < 32, r.bank = (a.toNat / 64 + k) % 16 ∧ r.cycle = s.cycle + 1 + k / 4) → r.gsid = s.cur ∧ r.made = s.cycle

/-- The check of an aligned tile inside scratchpad passes. -/
theorem spCheck_inside {a : Word} (hin : InsideScratchpad a) (write : Bool) : spCheck a 64 2048 write = none := by
  obtain ⟨hal, h0, h1⟩ := hin
  have hend : ¬ (a.toInt < 0 ∨ (spEnd : Int) < a.toInt + (2048 : Nat)) := by simp only [spEnd]; omega
  simp only [spCheck, hal, ne_eq, not_true_eq_false, if_false, if_neg hend]

/-- The check of a misaligned tile comes to ALIGN. -/
theorem spCheck_misaligned {a : Word} (hal : a.toNat % 64 ≠ 0) (write : Bool) :
    spCheck a 64 2048 write = some { code := .align, addr := a, info := spInfo write } := by
  rw [spCheck, if_pos hal]

/-- The bank cycles that an access asks for are reserved where every reservation of one of them was made by this group. -/
theorem Core.reserveBanks_free {k : Core} {g now : Nat} {bs : List (Nat × Nat)}
    (h : ∀ r ∈ k.spRes, (r.bank, r.cycle) ∈ bs → r.gsid = g ∧ r.made = now) :
    ∃ l, k.reserveBanks g now bs = some { k with spRes := l } := by
  refine ⟨_, if_neg ?_⟩
  simp only [List.any_eq_true, Bool.and_eq_true, beq_iff_eq, Bool.not_eq_true', not_exists, not_and]
  rintro ⟨b, c⟩ hb r hr ⟨rfl, rfl⟩
  obtain ⟨hg, hm⟩ := h r hr hb
  simp [hg, hm]

/-- The banks of a tile: four consecutive ones a cycle, from the next cycle on (R131). -/
theorem mem_bankTile {c a b n : Nat} : (b, n) ∈ bankTile c a ↔ ∃ k < 32, b = (a / 64 + k) % 16 ∧ n = c + 1 + k / 4 := by
  simp only [bankTile, List.mem_map, List.mem_range, Prod.mk.injEq, eq_comm]

/-- A word of VLDS or VSTS with its operands there, an aligned tile inside scratchpad and free banks has its effect, in a settled state whose core
holds bank reservations besides. -/
theorem State.tileAccess_ready {s : State} {a : Word} {dst : Option TDst} {srcs : List TSrc} (hin : InsideScratchpad a)
    (hfree : s.TileBanksFree a) (hops : s.operandsReady dst srcs) (hn : (dst.isSome || !srcs.isEmpty) = true) (write : Bool) (eff : State → State) :
    ∃ u l, s.Settled u ∧ s.tileAccess a write dst srcs eff = .go (eff (u.modMyCore (fun _ => { u.myCore with spRes := l }))) := by
  obtain ⟨u, hu, -, hbody⟩ := State.counted_ready hops hn
  obtain ⟨l, hl⟩ : ∃ l, u.myCore.reserveBanks s.cur s.cycle (bankTile s.cycle a.toNat) = some { u.myCore with spRes := l } :=
    Core.reserveBanks_free fun r hr hb => hfree r (hu.spRes ▸ hr) (mem_bankTile.1 hb)
  refine ⟨u, l, hu, ?_⟩
  rw [State.tileAccess, hbody]
  simp only [spCheck_inside hin, hl]

/-- A word of VLDS or VSTS with its operands there takes ALIGN at a misaligned address (R216). -/
theorem State.tileAccess_misaligned {s : State} {a : Word} {dst : Option TDst} {srcs : List TSrc} (hal : a.toNat % 64 ≠ 0)
    (hops : s.operandsReady dst srcs) (hn : (dst.isSome || !srcs.isEmpty) = true) (write : Bool) (eff : State → State) :
    s.tileAccess a write dst srcs eff = .fault { code := .align, addr := a, info := spInfo write } := by
  obtain ⟨u, -, -, hbody⟩ := State.counted_ready hops hn
  rw [State.tileAccess, hbody]
  simp only [spCheck_misaligned hal]

/-- An access of a tile issued from a settled state, with a change of the core that keeps the tile registers. -/
theorem State.Settled.tileIssue {s u : State} (h : s.Settled u) {f : Core → Core} (hf : u.myCore.KeepsTiles (f u.myCore)) (op : SpOp) (a : Nat) :
    KeepsRegisters s ((u.modMyCore f).tileIssue op a)
    ∧ ((u.modMyCore f).tileIssue op a).me.accs = s.me.accs ++ [⟨op, a, s.word, s.cycle, s.cycle + 1, 0⟩]
    ∧ (∀ r, ((u.modMyCore f).tileIssue op a).myCore.tile r = (f u.myCore).tile r)
    ∧ ((u.modMyCore f).tileIssue op a).myCore.claims = (f u.myCore).claims := by
  refine ⟨(h.keepsRegisters.modMyCore hf).modMe_accs h.cur _, ?_, ?_, ?_⟩
  · rw [State.tileIssue, State.me_modMe, State.me_modMyCore hf.streams]
    simp only [State.modMyCore_word, State.modMyCore_cycle, h.accs, h.word, h.cycle]
  · rw [State.tileIssue, State.modMe_myCore, State.myCore_modMyCore]; exact fun _ => rfl
  · rw [State.tileIssue, State.modMe_myCore, State.myCore_modMyCore]

/-- R216: VLDS with its operand there, an aligned tile inside scratchpad and free banks issues, lists its access and reserves its destination. -/
theorem vlds_issues {h : Hdr} {s : State} {sa : BitVec 5} {td hi : BitVec 6} {tv rdn : BitVec 4} {msk : BitVec 3} {lo : BitVec 9} {a : Word}
    (ha : s.tileAddr sa hi lo = a) (hready : s.ready h [s.me.sp sa] []) (hin : InsideScratchpad a)
    (hfree : s.TileBanksFree a) (hops : s.operandsReady (some ⟨td.toNat, tv, rdn⟩) []) :
    ∃ t, exec (.vlds h td tv rdn sa hi 0 msk lo) s = .next t ∧ t.verdict = .issued ∧ KeepsRegisters s t
      ∧ t.me.accs = s.me.accs ++ [⟨.vload td.toNat (BitVec.allOnes 512) .empty none, a.toNat, s.word, s.cycle, s.cycle + 1, 0⟩]
      ∧ (t.myCore.tile td.toNat).wpend = true ∧ t.myCore.claims = s.myCore.claims := by
  obtain ⟨u, l, hu, hacc⟩ := State.tileAccess_ready hin hfree hops rfl false (fun u =>
    (u.modMyCore (fun k => k.reserve s.cycle ⟨td.toNat, tv, rdn⟩ true none)).tileIssue
      (.vload td.toNat (BitVec.allOnes 512) .empty none) a.toNat)
  rw [exec_vlds hready, ha, hacc, Act.done_go, State.modMyCore_modMyCore]
  have hkeeps := u.myCore.keepsTiles_reserve s.cycle ⟨td.toNat, tv, rdn⟩ true none
  obtain ⟨hregs, haccs, htile, hclaims⟩ := hu.tileIssue
    (f := fun _ => ({ u.myCore with spRes := l } : Core).reserve s.cycle ⟨td.toNat, tv, rdn⟩ true none)
    ⟨hkeeps.streams, hkeeps.sp, hkeeps.tile⟩ (.vload td.toNat (BitVec.allOnes 512) .empty none) a.toNat
  refine ⟨_, rfl, rfl, hregs, haccs, ?_, hclaims.trans hu.claims⟩
  rw [State.verdict_myCore, htile]
  exact u.myCore.wpend_reserve s.cycle ⟨td.toNat, tv, rdn⟩ true none

/-- R216: VSTS with its operand there, an aligned tile inside scratchpad and free banks issues and lists its access and its claim. -/
theorem vsts_issues {h : Hdr} {s : State} {sa : BitVec 5} {ta hi : BitVec 6} {tv : BitVec 4} {tap : BitVec 1} {msk : BitVec 3} {lo : BitVec 9} {a : Word}
    (ha : s.tileAddr sa hi lo = a) (hready : s.ready h [s.me.sp sa] []) (hin : InsideScratchpad a)
    (hfree : s.TileBanksFree a) (hops : s.operandsReady none [⟨ta.toNat, tv, tap == 1⟩]) :
    ∃ t, exec (.vsts h ta tv tap sa hi 0 msk lo) s = .next t ∧ t.verdict = .issued ∧ KeepsRegisters s t
      ∧ t.me.accs = s.me.accs ++ [⟨.vstore ta.toNat (tap == 1) (BitVec.allOnes 512) (s.myCore.tile ta.toNat).row, a.toNat, s.word, s.cycle,
          s.cycle + 1, 0⟩]
      ∧ t.myCore.claims = s.myCore.claims ++ s.claimsOf [⟨ta.toNat, tv, tap == 1⟩] (s.cycle + 8) := by
  obtain ⟨u, l, hu, hacc⟩ := State.tileAccess_ready hin hfree hops rfl true (fun u =>
    (u.claimAt [⟨ta.toNat, tv, tap == 1⟩] (s.cycle + 8)).tileIssue
      (.vstore ta.toNat (tap == 1) (BitVec.allOnes 512) (s.myCore.tile ta.toNat).row) a.toNat)
  have hclaimsOf : (u.modMyCore (fun _ => { u.myCore with spRes := l })).claimsOf [⟨ta.toNat, tv, tap == 1⟩] (s.cycle + 8)
      = s.claimsOf [⟨ta.toNat, tv, tap == 1⟩] (s.cycle + 8) := by
    rw [← hu.claimsOf, State.claimsOf, State.myCore_modMyCore]; rfl
  rw [exec_vsts hready, ha, hacc, Act.done_go, State.claimAt_eq, hclaimsOf, State.modMyCore_modMyCore]
  obtain ⟨hregs, haccs, -, hclaims⟩ := hu.tileIssue
    (f := fun _ => { u.myCore with
      spRes := l, claims := u.myCore.claims ++ s.claimsOf [⟨ta.toNat, tv, tap == 1⟩] (s.cycle + 8) })
    ⟨rfl, rfl, fun _ => ⟨rfl, rfl, rfl⟩⟩ (.vstore ta.toNat (tap == 1) (BitVec.allOnes 512) (s.myCore.tile ta.toNat).row) a.toNat
  refine ⟨_, rfl, rfl, hregs, haccs, ?_⟩
  rw [State.verdict_myCore, hclaims, hu.claims]

/-! ## The rails -/

/-- An entry at a station below X7 moves to the next. -/
theorem shiftRails_succ (x : Tbl Quad) {n : Nat} (hn : n % 8 ≠ 7) : (shiftRails x).get 0 (n + 1) = x.get 0 n := by
  obtain ⟨l⟩ := x
  simp only [shiftRails, Tbl.get, Tbl.find?]
  congr 1
  induction l with
  | nil => rfl
  | cons e l ih =>
    by_cases h7 : e.1 % 8 = 7
    · have hne : e.1 ≠ n := fun he => hn (he ▸ h7)
      simpa [h7, Tbl.findIn, hne] using ih
    · simp [h7, Tbl.findIn, ih]

/-- Nothing enters at X0. -/
theorem shiftRails_first (x : Tbl Quad) (r : Nat) : (shiftRails x).get 0 (8 * r) = 0 := by
  obtain ⟨l⟩ := x
  simp only [shiftRails, Tbl.get, Tbl.find?]
  suffices h : Tbl.findIn ((l.filter (fun e => e.1 % 8 != 7)).map (fun e => (e.1 + 1, e.2))) (8 * r) = none by rw [h]; rfl
  induction l with
  | nil => rfl
  | cons e l ih =>
    by_cases h7 : e.1 % 8 = 7
    · simpa [h7] using ih
    · have hne : e.1 + 1 ≠ 8 * r := by omega
      simp [h7, Tbl.findIn, hne, ih]

/-- In its row cycle k + q a form at station k taps its rail there as its row-quad q. -/
theorem VFlight.tapNow_get {f : VFlight} {h : Hdr} {v : Tv} {q : Nat} (x : Tbl Quad) (hf : tvOf f.instr = some (h, v)) (ht : v.taps = true)
    (ha : f.age = stationOf f.instr + q) (hq : q < 8) :
    (f.tapNow x).taps.get 0 q = x.get 0 (8 * railOf v + stationOf f.instr) := by
  have hwindow : stationOf f.instr ≤ f.age ∧ f.age < stationOf f.instr + 8 := by omega
  have hage : f.age - stationOf f.instr = q := by omega
  simp [VFlight.tapNow, hf, ht, hwindow, hage]

/-- Settles O47: a form has its effect in the state that its passed checks leave (`State.counted_ready`), and that state keeps the registers, the
queues and the claims. The entry at work in the transcendental unit counts among the 8 of its queue, which R217 does not say (log entry 54). -/
theorem transcendentalAndRailForms : Obligations.TranscendentalAndRailForms := by
  refine ⟨fun h v s i hi hr hready => ⟨fun hroom hops => ?_, exec_unitForm_full hi hr hready⟩, fun h td tv rdn tap sa hi msk lo s => ?_,
    fun x r k => ⟨fun hk => shiftRails_succ x (by omega), shiftRails_first x r⟩, fun f x h v q hf ht ha hq => ?_⟩
  · obtain ⟨t, hexec, hissued, hkeeps, hregion, hxt, hpend, hclaims⟩ := unitForm_issues hi hr hready hroom hops
    exact ⟨t, s.xentryOf i v true, hexec, hissued, hkeeps, hregion, hxt, rfl, rfl, rfl, rfl, rfl, rfl, hpend, hclaims⟩
  · have ha := s.tileAddr_eq sa hi lo
    refine ⟨fun hready hin hfree hops => vlds_issues ha hready hin hfree hops,
      fun hready hin hfree hops => vsts_issues ha hready hin hfree hops,
      fun hready hal => ⟨fun hops => ?_, fun hops => ?_⟩,
      fun hready hwait => ⟨s.me.ownWait s.myCore s.cycle (some ⟨td.toNat, tv, rdn⟩) [], ?_⟩⟩
    · rw [Faults, exec_vlds hready, ha, State.tileAccess_misaligned hal hops rfl]; rfl
    · rw [Faults, exec_vsts hready, ha, State.tileAccess_misaligned hal hops rfl]; rfl
    · rw [exec_vlds hready, State.tileAccess, State.counted_wait hwait, Act.done_wait]
  · have hv : tvOf f.instr = some (h, v) := by rw [hf]; rfl
    have hstation : stationOf f.instr = 1 := by rw [hf]; rfl
    rw [VFlight.tapNow_get x hv ht (by rw [hstation, ha]) hq, hstation]

end Sys2Proof.Machine
end

section
namespace Sys2Proof.Machine

/-! ## Transfers (R249, R252) -/

/-- Evaluating a transfer-class form with sources `rs` that has no effect besides its transfer: two delay groups and no transfer where the
predicate holds it off, a transfer to Jk where it executes and takes it. -/
def State.transfer (s : State) (h : Hdr) (rs : List PReg) (j : BitVec 3) (taken call : Bool) : Act :=
  s.nested (s.slot h rs [] (.go (s.depart none false)) (s.goTo j taken call id))

theorem exec_brq (h : Hdr) (j qc : BitVec 3) (s : State) :
    exec (.brq h j qc) s = (s.transfer h [s.me.qp qc] j (s.me.qreg qc) false).done s := rfl
theorem exec_br (h : Hdr) (j : BitVec 3) (s : State) : exec (.br h j) s = (s.transfer h [] j true false).done s := rfl
theorem exec_call (h : Hdr) (j : BitVec 3) (s : State) : exec (.call h j) s = (s.transfer h [] j true true).done s := rfl
theorem exec_ret (h : Hdr) (j : BitVec 3) (s : State) : exec (.ret h j) s = (s.transfer h [] j true false).done s := rfl

/-- Outside the delay groups of another a transfer-class form does what it is evaluated to. -/
theorem State.nested_idle {s : State} (hx : s.me.xfer.left = 0) (a : Act) : s.nested a = a := by
  simp [State.nested, hx]
/-- R249: in a delay group of another it takes ILLEGAL. -/
theorem State.nested_pending {s : State} (hx : 0 < s.me.xfer.left) (a : Act) : s.nested a = .fault { code := .illegal } := if_pos hx

theorem State.goTo_taken {s : State} {j : BitVec 3} (hfar : (s.me.jreg j).toNat < 2 ^ 48) (call : Bool) (eff : State → State) :
    s.goTo j true call eff = .go (eff (s.depart (some (s.me.jreg j)) call)) := by
  simp [State.goTo, (high_eq_zero_iff _).2 hfar]
theorem State.goTo_far {s : State} {j : BitVec 3} (hfar : ¬ (s.me.jreg j).toNat < 2 ^ 48) (call : Bool) (eff : State → State) :
    s.goTo j true call eff = .fault { code := .perm, addr := s.me.jreg j, info := 10 } := by
  have hhigh : (s.me.jreg j).extractLsb' 48 16 ≠ 0 := mt (high_eq_zero_iff _).1 hfar
  simp only [State.goTo, Bool.not_true, Bool.false_eq_true, if_false, bne_iff_ne, ne_eq, hhigh, not_false_eq_true, if_true]

/-- The stream after a transfer-class form that leaves a transfer to `target`, with the bound of R250, or none. -/
def Stream.departed (t : Stream) (now : Nat) (target : Option Word) (call : Bool) : Stream :=
  { t with xfer := { left := 2, target := target, call := call,
                     ready := match target with | some a => t.readyAt now a | none => 0 } }

/-- A word that issues by leaving its delay groups changes the issuing stream alone. -/
theorem Leaves.of_depart {i : Instr} {s : State} {target : Option Word} {call : Bool}
    (h : exec i s = .next { s.depart target call with verdict := .issued }) : Leaves i s (s.me.departed s.cycle target call) :=
  Leaves.of (f := fun t => t.departed s.cycle target call) h rfl

section
variable {i : Instr} {h : Hdr} {rs : List PReg} {j : BitVec 3} {s : State} {taken call : Bool}

/-- Taken to a Jk below 2^48, the form leaves a transfer to Jk. -/
theorem transfer_taken (hi : exec i s = (s.transfer h rs j true call).done s) (hx : s.me.xfer.left = 0) (hready : s.ready h rs [])
    (hfar : (s.me.jreg j).toNat < 2 ^ 48) : Leaves i s (s.me.departed s.cycle (some (s.me.jreg j)) call) := by
  refine Leaves.of_depart ?_
  rw [hi, State.transfer, State.nested_idle hx, State.slot_ready hready, State.goTo_taken hfar, id_eq, Act.done_go]

/-- Executing but not taken, it leaves its delay groups alone. -/
theorem transfer_not_taken (hi : exec i s = (s.transfer h rs j false call).done s) (hx : s.me.xfer.left = 0) (hready : s.ready h rs []) :
    Leaves i s (s.me.departed s.cycle none false) := by
  refine Leaves.of_depart ?_
  rw [hi, State.transfer, State.nested_idle hx, State.slot_ready hready]; rfl

/-- Predicated off, it leaves its delay groups alone. -/
theorem transfer_off (hi : exec i s = (s.transfer h rs j taken call).done s) (hx : s.me.xfer.left = 0) (hoff : s.off h) :
    Leaves i s (s.me.departed s.cycle none false) := by
  refine Leaves.of_depart ?_
  rw [hi, State.transfer, State.nested_idle hx, State.slot_off hoff, Act.done_go]

/-- Taken to a Jk with bits 63:48 not zero, it takes PERM. -/
theorem transfer_far (hi : exec i s = (s.transfer h rs j true call).done s) (hx : s.me.xfer.left = 0) (hready : s.ready h rs [])
    (hfar : ¬ (s.me.jreg j).toNat < 2 ^ 48) : Faults i s { code := .perm, addr := s.me.jreg j, info := 10 } := by
  rw [Faults, hi, State.transfer, State.nested_idle hx, State.slot_ready hready, State.goTo_far hfar, Act.done_fault]

end

/-- The meaning of every transfer-class form is evaluated under the check of R249. -/
theorem exec_nested {h : Hdr} {j qc : BitVec 3} {hd : BitVec 4} {i : Instr}
    (hi : i ∈ [Instr.brq h j qc, .br h j, .call h j, .ret h j, .loop h j, .bro h j hd]) (s : State) :
    ∃ a, exec i s = (s.nested a).done s := by
  simp only [List.mem_cons, List.not_mem_nil, or_false] at hi
  rcases hi with rfl | rfl | rfl | rfl | rfl | rfl
  all_goals exact ⟨_, rfl⟩

/-- R249: a transfer-class form in a delay group of another takes ILLEGAL. -/
theorem transfer_pending {h : Hdr} {j qc : BitVec 3} {hd : BitVec 4} {i : Instr} {s : State} (hx : 0 < s.me.xfer.left)
    (hi : i ∈ [Instr.brq h j qc, .br h j, .call h j, .ret h j, .loop h j, .bro h j hd]) : Faults i s { code := .illegal } := by
  obtain ⟨a, hexec⟩ := exec_nested hi s
  rw [Faults, hexec, State.nested_pending hx, Act.done_fault]

/-- Settles O16: the four forms differ in their sources, in when they take the transfer and in the mark of CALL alone (`State.transfer`). -/
theorem transfers : Obligations.Transfers := by
  intro h j qc s
  refine ⟨fun hx hready hfar => ?_, fun hx hready => ⟨fun hq hfar => ?_, fun hq => ?_⟩, fun hx hoff => ?_, fun hx hready hfar i hi => ?_,
    fun hx hready hq hfar => ?_, fun hx hd i hi => transfer_pending hx hi⟩
  · exact ⟨transfer_taken (exec_br h j s) hx hready hfar, transfer_taken (exec_ret h j s) hx hready hfar,
      transfer_taken (exec_call h j s) hx hready hfar⟩
  · exact transfer_taken (hq ▸ exec_brq h j qc s) hx hready hfar
  · exact transfer_not_taken (hq ▸ exec_brq h j qc s) hx hready
  · exact ⟨transfer_off (exec_brq h j qc s) hx hoff, transfer_off (exec_br h j s) hx hoff, transfer_off (exec_call h j s) hx hoff,
      transfer_off (exec_ret h j s) hx hoff⟩
  · simp only [List.mem_cons, List.not_mem_nil, or_false] at hi
    rcases hi with rfl | rfl | rfl
    · exact transfer_far (exec_br h j s) hx hready hfar
    · exact transfer_far (exec_call h j s) hx hready hfar
    · exact transfer_far (exec_ret h j s) hx hready hfar
  · exact transfer_far (hq ▸ exec_brq h j qc s) hx hready hfar

end Sys2Proof.Machine
end

section
namespace Sys2Proof.Machine

/-! ## Recalling cached lines -/

/-- From `s` to `t` cached lines have been recalled: every stream, the number of the issuing one and the regions in force stay. -/
structure State.Recalled (s t : State) : Prop where
  stream : ∀ g, t.stream g = s.stream g
  cur : t.cur = s.cur
  fmtBase : t.fmtBase = s.fmtBase

theorem State.Recalled.refl (s : State) : s.Recalled s := ⟨fun _ => rfl, rfl, rfl⟩

theorem State.Recalled.trans {s t u : State} (h : s.Recalled t) (h' : t.Recalled u) : s.Recalled u :=
  ⟨fun g => (h'.stream g).trans (h.stream g), h'.cur.trans h.cur, h'.fmtBase.trans h.fmtBase⟩

/-- A row of recalls is one. -/
theorem State.recalled_foldl {α : Type} {f : State → α → State} (hf : ∀ (u : State) (a : α), u.Recalled (f u a)) (l : List α) (s : State) :
    s.Recalled (l.foldl f s) :=
  List.foldlRecOn l f (.refl s) (fun u hu a _ => hu.trans (hf u a))

theorem State.recalled_setLines (s : State) (l : Level) (t : Tbl CLine) : s.Recalled (s.setLines l t) := by
  cases l with
  | l1 c => exact ⟨fun g => s.stream_modCore c g _ (fun _ => rfl), rfl, rfl⟩
  | rdc d => exact ⟨fun _ => rfl, rfl, rfl⟩
  | l2 d => exact ⟨fun _ => rfl, rfl, rfl⟩

theorem State.recalled_dropLine (s : State) (l : Level) (k : Nat) : s.Recalled (s.dropLine l k) := s.recalled_setLines l _

theorem State.recalled_performLine (s : State) (ctx va lv : Nat) : s.Recalled (s.performLine ctx va lv) := ⟨fun _ => rfl, rfl, rfl⟩

theorem State.recalled_dirty (s : State) (d ctx va : Nat) : s.Recalled (s.dirty d ctx va) := by
  unfold State.dirty
  split
  · exact s.recalled_setLines _ _
  · exact .refl s

theorem State.recalled_purgeL1 (s : State) (d ctx va : Nat) : s.Recalled (s.purgeL1 d ctx va).1 := by
  refine List.foldlRecOn (List.range 60) _ (motive := fun a : State × Bool => s.Recalled a.1) (.refl s) ?_
  intro a ha i _
  dsimp only
  split
  case h_1 k _ _ => exact ha.trans (a.1.recalled_dropLine (.l1 (60 * d + i)) k)
  case h_2 => exact ha

theorem State.recalled_purgeRdc (s : State) (e d ctx va : Nat) : s.Recalled (s.purgeRdc e d ctx va) := by
  have hl1 := s.recalled_purgeL1 e ctx va
  unfold State.purgeRdc
  generalize s.purgeL1 e ctx va = r at hl1 ⊢
  dsimp only
  split
  case h_1 k x _ =>
    have hline := (hl1.trans (State.recalled_dropLine _ (.rdc e) k)).trans (State.recalled_performLine _ ctx va 4)
    split
    · exact hline.trans (State.recalled_dirty _ d ctx va)
    · exact hline
  case h_2 => exact hl1

theorem State.recalled_purgeAbove (s : State) (d ctx va : Nat) : s.Recalled (s.purgeAbove d ctx va) := by
  have hrdc := State.recalled_foldl (fun u e => u.recalled_purgeRdc e d ctx va) ([0, 1, 2, 3].filter (· != d)) s
  unfold State.purgeAbove
  dsimp only
  generalize ([0, 1, 2, 3].filter (· != d)).foldl (fun a e => a.purgeRdc e d ctx va) s = u at hrdc ⊢
  have hl1 := hrdc.trans (u.recalled_purgeL1 d ctx va)
  generalize u.purgeL1 d ctx va = r at hl1 ⊢
  replace hl1 := hl1.trans (r.1.recalled_performLine ctx va 4)
  split
  · exact hl1.trans (State.recalled_dirty _ d ctx va)
  · exact hl1

/-- Giving up a line changes the remap filter at most. -/
theorem State.unfilter_eq (s : State) (pa : Nat) : ∃ fs, s.unfilter pa = { s with filters := fs } := by
  unfold State.unfilter
  split
  · exact ⟨_, rfl⟩
  · split
    · split <;> exact ⟨_, rfl⟩
    · exact ⟨_, rfl⟩

theorem State.recalled_unfilter (s : State) (pa : Nat) : s.Recalled (s.unfilter pa) := by
  obtain ⟨fs, h⟩ := s.unfilter_eq pa
  exact h ▸ ⟨fun _ => rfl, rfl, rfl⟩

theorem State.recalled_flushSide (s : State) (pa : Nat) : s.Recalled (s.flushSide pa) := by
  unfold State.flushSide
  split
  · exact .refl s
  · dsimp only
    split
    · split
      · exact ⟨fun _ => rfl, rfl, rfl⟩
      · split <;> exact ⟨fun _ => rfl, rfl, rfl⟩
    · exact ⟨fun _ => rfl, rfl, rfl⟩

theorem State.recalled_spill (s : State) (ctx va : Nat) : s.Recalled (s.spill ctx va) := by
  unfold State.spill
  split
  · exact ⟨fun _ => rfl, rfl, rfl⟩
  · exact .refl s

theorem State.recalled_purge (s : State) (d ctx va : Nat) : s.Recalled (s.purge d ctx va) := by
  have habove := s.recalled_purgeAbove d ctx va
  unfold State.purge
  generalize s.purgeAbove d ctx va = u at habove ⊢
  dsimp only
  split
  case h_1 k x _ =>
    exact (((habove.trans (State.recalled_dropLine _ _ k)).trans (State.recalled_unfilter _ x.pa)).trans
      (State.recalled_flushSide _ x.pa)).trans (State.recalled_spill _ ctx va)
  case h_2 => exact habove

/-- Dropping lines from the I-caches changes these and the remap filter alone. -/
theorem State.dropIcache_eq (s : State) (hit : Nat → ILine → Bool) : ∃ fs, s.dropIcache hit =
    { s with cores := s.cores.map (fun c k => { k with icache := ⟨k.icache.entries.filter (fun e => !hit c e.2)⟩ }), filters := fs } := by
  unfold State.dropIcache
  refine List.foldlRecOn _ _ (motive := fun u : State => ∃ fs, u = { s with
    cores := s.cores.map (fun c k => { k with icache := ⟨k.icache.entries.filter (fun e => !hit c e.2)⟩ }), filters := fs }) ⟨s.filters, rfl⟩ ?_
  rintro u ⟨fs, rfl⟩ a _
  exact State.unfilter_eq _ _

/-- Changing every listed core without its streams leaves every stream. -/
theorem State.stream_map_cores (s : State) (f : Nat → Core → Core) (hf : ∀ c k, (f c k).streams = k.streams) (g : Nat) :
    ({ s with cores := s.cores.map f } : State).stream g = s.stream g := by
  simp only [State.stream, State.core, Tbl.get, Tbl.find?_map]
  cases s.cores.find? (g / 4) with
  | none => rfl
  | some k => simp [Core.stream, hf]

theorem State.recalled_dropIcache (s : State) (hit : Nat → ILine → Bool) : s.Recalled (s.dropIcache hit) := by
  obtain ⟨fs, h⟩ := s.dropIcache_eq hit
  exact h ▸ ⟨s.stream_map_cores _ (fun _ _ => rfl), rfl, rfl⟩

@[simp] theorem State.dropIcache_mem (s : State) (hit : Nat → ILine → Bool) : (s.dropIcache hit).mem = s.mem := by
  obtain ⟨fs, h⟩ := s.dropIcache_eq hit
  rw [h]
@[simp] theorem State.dropIcache_l2 (s : State) (hit : Nat → ILine → Bool) : (s.dropIcache hit).l2 = s.l2 := by
  obtain ⟨fs, h⟩ := s.dropIcache_eq hit
  rw [h]

theorem State.recalled_purgeRange (s : State) (r : Nat × Nat) : s.Recalled (s.purgeRange r) := by
  unfold State.purgeRange
  exact (State.recalled_foldl (fun u (e : Nat × CLine) => u.recalled_purge (e.1 / 2048 / 192) e.2.ctx (e.2.va * 64)) _ s).trans (State.recalled_dropIcache _ _)

/-- The address lies in the range. -/
def Within (r : Nat × Nat) (pa : Nat) : Prop := r.1 ≤ pa ∧ pa < r.1 + r.2

/-- Where no line of a range stands in the L2, recalling the range drops lines of the I-caches alone. -/
theorem State.purgeRange_miss {s : State} {r : Nat × Nat} (h : ∀ e ∈ s.l2.entries, ¬ Within r e.2.pa) :
    s.purgeRange r = s.dropIcache (fun _ l => decide (r.1 ≤ l.pa ∧ l.pa < r.1 + r.2)) := by
  have hnone : s.l2.entries.filter (fun e => decide (r.1 ≤ e.2.pa ∧ e.2.pa < r.1 + r.2)) = [] :=
    List.filter_eq_nil_iff.2 (fun e he => by simpa [Within] using h e he)
  simp only [State.purgeRange, hnone, List.foldl_nil]

/-- Where no line of the old and the new data range stands in the L2, setting FMT.BASE writes nothing back. -/
theorem State.setFmtBase_mem {s : State} {n : Nat} {v : Word}
    (h : ∀ e ∈ s.l2.entries, ¬ Within (fmtData (s.fmtBase.get 0 n)) e.2.pa ∧ ¬ Within (fmtData v) e.2.pa) :
    (s.setFmtBase n v).mem = s.mem := by
  have hold := State.purgeRange_miss (fun e he => (h e he).1)
  have hnew := State.purgeRange_miss (s := s.purgeRange (fmtData (s.fmtBase.get 0 n))) (r := fmtData v)
    (fun e he => (h e (by rwa [hold, State.dropIcache_l2] at he)).2)
  simp only [State.setFmtBase]
  rw [hnew, State.dropIcache_mem, hold, State.dropIcache_mem]

/-! ## The ranges of format regions (R89) -/

/-- Two ranges share no byte. -/
def Apart (a b : Nat × Nat) : Prop := a.1 + a.2 ≤ b.1 ∨ b.1 + b.2 ≤ a.1

theorem meets_eq_false_iff (a b : Nat × Nat) : meets a b = false ↔ Apart a b := by
  simp only [meets, Apart, decide_eq_false_iff_not]; omega

/-- Two ranges, the first not empty, lie in the stack slot of the first's address exactly when they lie in one slot. -/
theorem inStack_iff {d c : Nat × Nat} (hne : d.2 ≠ 0) : (inStack (d.1 / 2 ^ 36) d && inStack (d.1 / 2 ^ 36) c) = true ↔
    ∃ st < 8, ∀ r ∈ [d, c], st * 2 ^ 36 ≤ r.1 ∧ r.1 + r.2 ≤ st * 2 ^ 36 + 0xC00000000 := by
  simp only [inStack, Bool.and_eq_true, decide_eq_true_eq, List.mem_cons, List.not_mem_nil, or_false, forall_eq_or_imp, forall_eq]
  constructor
  · rintro ⟨⟨hst, hd⟩, -, hc⟩
    exact ⟨d.1 / 2 ^ 36, hst, hd, hc⟩
  · rintro ⟨st, hst, hds, hcs⟩
    have hpos : 0 < d.2 := Nat.pos_of_ne_zero hne
    obtain rfl : st = d.1 / 2 ^ 36 := by omega
    exact ⟨⟨hst, hds⟩, hst, hcs⟩

/-- The ranges of the regions in force other than `n`. -/
theorem State.mem_fmtRanges {s : State} {n : Nat} {r : Nat × Nat} : r ∈ s.fmtRanges n ↔
    ∃ m < 8, (m ≠ n ∧ (s.fmtBase.get 0 m).getLsbD 63 = true)
      ∧ (r = fmtData (s.fmtBase.get 0 m) ∨ r = fmtScales (s.fmtBase.get 0 m) (s.fmtScale.get 0 m)) := by
  simp only [State.fmtRanges, List.mem_flatMap, List.mem_filter, List.mem_range, Bool.and_eq_true, bne_iff_ne, List.mem_cons,
    List.not_mem_nil, or_false, and_assoc]

/-- The ranges of a FMT.BASE value for region `n` are such as R89 lets be set in force. -/
def State.FmtSound (s : State) (n : Nat) (v : Word) : Prop :=
  let data := fmtData v
  let scales := fmtScales v (s.fmtScale.get 0 n)
  data.2 ≠ 0 ∧ (∃ st < 8, ∀ r ∈ [data, scales], st * 2 ^ 36 ≤ r.1 ∧ r.1 + r.2 ≤ st * 2 ^ 36 + 0xC00000000) ∧ Apart data scales
    ∧ ∀ m < 8, m ≠ n → (s.fmtBase.get 0 m).getLsbD 63 = true → ∀ r ∈ [data, scales],
        Apart (fmtData (s.fmtBase.get 0 m)) r ∧ Apart (fmtScales (s.fmtBase.get 0 m) (s.fmtScale.get 0 m)) r

/-- No region in force but `n` shares a byte with either of two ranges. -/
theorem State.fmtRanges_apart_iff (s : State) (n : Nat) (d c : Nat × Nat) : (s.fmtRanges n).any (fun r => meets r d || meets r c) = false ↔
    ∀ m < 8, m ≠ n → (s.fmtBase.get 0 m).getLsbD 63 = true → ∀ r ∈ [d, c],
      Apart (fmtData (s.fmtBase.get 0 m)) r ∧ Apart (fmtScales (s.fmtBase.get 0 m) (s.fmtScale.get 0 m)) r := by
  simp only [List.any_eq_false, Bool.not_eq_true, Bool.or_eq_false_iff, meets_eq_false_iff, State.mem_fmtRanges, List.mem_cons,
    List.not_mem_nil, or_false, forall_eq_or_imp, forall_eq]
  constructor
  · intro h m hm hn hen
    obtain ⟨hdd, hdc⟩ := h _ ⟨m, hm, ⟨hn, hen⟩, .inl rfl⟩
    obtain ⟨hsd, hsc⟩ := h _ ⟨m, hm, ⟨hn, hen⟩, .inr rfl⟩
    exact ⟨⟨hdd, hsd⟩, hdc, hsc⟩
  · rintro h r ⟨m, hm, ⟨hn, hen⟩, rfl | rfl⟩
    · exact ⟨(h m hm hn hen).1.1, (h m hm hn hen).2.1⟩
    · exact ⟨(h m hm hn hen).1.2, (h m hm hn hen).2.2⟩

/-- R89 refuses a FMT.BASE value exactly when it sets EN with ranges that are not sound. -/
theorem State.fmtBad_eq_false_iff (s : State) (n : Nat) (v : Word) :
    s.fmtBad n v = false ↔ v.getLsbD 63 = false ∨ s.FmtSound n v := by
  simp only [State.fmtBad, State.FmtSound, Bool.and_eq_false_iff, Bool.or_eq_false_iff, beq_eq_false_iff_ne, Bool.not_eq_false',
    meets_eq_false_iff, State.fmtRanges_apart_iff, and_assoc]
  exact or_congr_right (and_congr_right fun hd => and_congr_left' (inStack_iff hd))

/-- The reserved bits of FMT.BASE lie below EN. -/
theorem fbaseMask_en (v : Word) : (fbaseMask v).getLsbD 63 = v.getLsbD 63 := by
  simp [fbaseMask]

/-! ## SYSWR to registers that complete later (R259) -/

/-- What a SYSWR that completes later and has the effect `u` comes to: it issues, and the stream's gate is closed until the retirement. -/
def State.retiring (s u : State) : State :=
  { u.modMe (fun t => { t with gate := { t.gate with retire := s.cycle + 1 } }) with verdict := .issued }

@[simp] theorem State.retiring_mem (s u : State) : (s.retiring u).mem = u.mem := rfl
@[simp] theorem State.retiring_homemaps (s u : State) : (s.retiring u).homemaps = u.homemaps := rfl
@[simp] theorem State.retiring_hmArrays (s u : State) : (s.retiring u).hmArrays = u.hmArrays := rfl
@[simp] theorem State.retiring_waymask (s u : State) : (s.retiring u).waymask = u.waymask := rfl
@[simp] theorem State.retiring_incNew (s u : State) : (s.retiring u).incNew = u.incNew := rfl
@[simp] theorem State.retiring_fmtScale (s u : State) : (s.retiring u).fmtScale = u.fmtScale := rfl
@[simp] theorem State.retiring_fmtBase (s u : State) : (s.retiring u).fmtBase = u.fmtBase := rfl

/-- From `s` to `t` a word has issued that closes its stream's gate until the next cycle and leaves the stream's registers and every other
stream. -/
def State.IssuedLate (s t : State) : Prop :=
  t.verdict = .issued ∧ t.me.gate.retire = s.cycle + 1 ∧ t.me.s = s.me.s ∧ t.me.latents = s.me.latents
    ∧ ∀ g, g ≠ s.cur → t.stream g = s.stream g

/-- An effect that leaves the streams makes a late write that does. -/
theorem State.issuedLate_retiring {s u : State} (hcur : u.cur = s.cur) (hstream : ∀ g, u.stream g = s.stream g) :
    s.IssuedLate (s.retiring u) := by
  have hme : (s.retiring u).me = { s.me with gate := { s.me.gate with retire := s.cycle + 1 } } := by
    have hu : u.me = s.me := by rw [State.me, State.me, hcur, hstream]
    rw [← hu]; exact State.me_modMe u _
  refine ⟨rfl, ?_, ?_, ?_, fun g hg => ?_⟩
  · rw [hme]
  · rw [hme]
  · rw [hme]
  · exact (State.stream_modStream_ne u u.cur g _ (hcur ▸ hg)).trans (hstream g)

section
variable {i : Instr} {h : Hdr} {sa : BitVec 5} {changes bad : Bool} {s u : State}

/-- For a privileged launch, a late write that R89 does not refuse issues with its effect. -/
theorem lateWrite_issues (hi : exec i s = (s.lateWrite h sa changes bad u).done s) (hready : s.ready h [s.me.sp sa] [])
    (hpriv : (s.launchOf (s.cur / 4)).priv = true) (hbad : bad = false) : exec i s = .next (s.retiring u) := by
  rw [hi, State.lateWrite, State.plain_ready hready, hpriv, hbad]
  simp only [Bool.not_true, Bool.and_false, Bool.false_eq_true, if_false]
  rfl

/-- A late write that R89 refuses takes PERM. -/
theorem lateWrite_refused (hi : exec i s = (s.lateWrite h sa changes bad u).done s) (hready : s.ready h [s.me.sp sa] [])
    (hbad : bad = true) : Faults i s { code := .perm } := by
  rw [Faults, hi, State.lateWrite, State.plain_ready hready, hbad]
  simp only [if_true, ite_self]
  rfl

/-- Without privilege, a late write that would change its register takes PERM. -/
theorem lateWrite_unprivileged (hi : exec i s = (s.lateWrite h sa changes bad u).done s) (hready : s.ready h [s.me.sp sa] [])
    (hpriv : (s.launchOf (s.cur / 4)).priv = false) (hchanges : changes = true) : Faults i s { code := .perm } := by
  rw [Faults, hi, State.lateWrite, State.plain_ready hready, hpriv, hchanges]
  rfl

end

theorem exec_syswrHomemap (h : Hdr) (sa : BitVec 5) (s : State) : exec (.syswrHomemap h sa) s
    = (s.lateWrite h sa (hmMask (s.S sa) != s.homemaps.get 0 (s.ctxOf (s.cur / 4))) false (s.setHomemap (s.ctxOf (s.cur / 4)) (s.S sa))).done s := rfl
theorem exec_syswrWaymask (h : Hdr) (sa : BitVec 5) (n : BitVec 3) (s : State) : exec (.syswrWaymask h sa n) s
    = (s.lateWrite h sa (s.S sa != s.waymask.get 0xFFFFFFFFFFFFFFFF#64 n.toNat) false { s with waymask := s.waymask.put n.toNat (s.S sa) }).done s := rfl
theorem exec_syswrInccfg (h : Hdr) (sa : BitVec 5) (k : BitVec 4) (s : State) : exec (.syswrInccfg h sa k) s
    = (s.lateWrite h sa (incMask (s.S sa) != (s.incs.get {} k.toNat).cfg) false { s with incNew := s.incNew ++ [(k.toNat, incMask (s.S sa))] }).done s := rfl
theorem exec_syswrFmtScale (h : Hdr) (sa : BitVec 5) (n : BitVec 3) (s : State) : exec (.syswrFmtScale h sa n) s
    = (s.lateWrite h sa (scaleMask (s.S sa) != s.fmtScale.get 0 n.toNat) ((s.fmtBase.get 0 n.toNat).getLsbD 63)
        { s with fmtScale := s.fmtScale.put n.toNat (scaleMask (s.S sa)) }).done s := rfl
theorem exec_syswrFmtBase (h : Hdr) (sa : BitVec 5) (n : BitVec 3) (s : State) : exec (.syswrFmtBase h sa n) s
    = (s.lateWrite h sa (fbaseMask (s.S sa) != s.fmtBase.get 0 n.toNat) (s.fmtBad n.toNat (fbaseMask (s.S sa)))
        (s.setFmtBase n.toNat (fbaseMask (s.S sa)))).done s := rfl

/-! ## The effects of the late writes -/

/-- Dropping an entry leaves the others. -/
theorem Tbl.find?_drop_ne {α : Type} (t : Tbl α) (j k : Nat) (hjk : j ≠ k) : (t.drop k).find? j = t.find? j := by
  obtain ⟨l⟩ := t
  show Tbl.findIn (l.filter (fun e => e.1 != k)) j = Tbl.findIn l j
  induction l with
  | nil => rfl
  | cons e r ih =>
    by_cases he : e.1 = k
    · have hkj : k ≠ j := Ne.symm hjk
      simpa [he, Tbl.findIn, hkj] using ih
    · simp [he, Tbl.findIn, ih]

/-- Setting the home map of a context leaves the register and the array of every other context. -/
theorem State.setHomemap_other (s : State) (v : Word) {ctx c : Nat} (hc : c ≠ ctx) :
    (s.setHomemap ctx v).homemaps.get 0 c = s.homemaps.get 0 c ∧ (s.setHomemap ctx v).hmArrays.find? c = s.hmArrays.find? c := by
  refine ⟨Tbl.get_put_ne _ _ _ _ _ hc, ?_⟩
  simp only [State.setHomemap]
  split
  · exact Tbl.find?_put_ne _ _ _ _ hc
  · exact Tbl.find?_drop_ne _ _ _ hc

/-- The table is copied exactly when the value has EN set. -/
theorem State.setHomemap_array (s : State) (ctx : Nat) (v : Word) :
    ((s.setHomemap ctx v).hmArrays.find? ctx).isSome = v.getLsbD 0 := by
  simp only [State.setHomemap]
  split
  case isTrue hen => rw [Tbl.find?_put_same, hen]; rfl
  case isFalse hen => rw [Tbl.find?_drop_same, Bool.eq_false_iff.2 hen]; rfl

/-- Setting FMT.BASE recalls the cached lines of both ranges and then writes the register. -/
theorem State.setFmtBase_eq (s : State) (n : Nat) (v : Word) :
    ∃ u, s.Recalled u ∧ s.setFmtBase n v = { u with fmtBase := s.fmtBase.put n (fbaseMask v) } := by
  have hu := (s.recalled_purgeRange (fmtData (s.fmtBase.get 0 n))).trans (State.recalled_purgeRange _ (fmtData v))
  exact ⟨_, hu, by rw [State.setFmtBase, hu.fmtBase]⟩

theorem fbaseMask_fbaseMask (v : Word) : fbaseMask (fbaseMask v) = fbaseMask v := by
  simp only [fbaseMask, BitVec.and_assoc, BitVec.and_self]

/-- A privileged SYSWR FMT.BASE.n of a value that R89 lets be set issues, recalls both data ranges and sets the register. -/
theorem syswrFmtBase_issues {h : Hdr} {sa : BitVec 5} {n : BitVec 3} {s : State} (hready : s.ready h [s.me.sp sa] [])
    (hpriv : (s.launchOf (s.cur / 4)).priv = true)
    (hsound : (s.S sa).getLsbD 63 = false ∨ s.FmtSound n.toNat (fbaseMask (s.S sa))) :
    exec (.syswrFmtBase h sa n) s = .next (s.retiring (s.setFmtBase n.toNat (fbaseMask (s.S sa))))
    ∧ s.IssuedLate (s.retiring (s.setFmtBase n.toNat (fbaseMask (s.S sa))))
    ∧ (s.setFmtBase n.toNat (fbaseMask (s.S sa))).fmtBase = s.fmtBase.put n.toNat (fbaseMask (s.S sa)) := by
  have hbad : s.fmtBad n.toNat (fbaseMask (s.S sa)) = false := (s.fmtBad_eq_false_iff _ _).2 (by rwa [fbaseMask_en])
  obtain ⟨u, hu, hset⟩ := s.setFmtBase_eq n.toNat (fbaseMask (s.S sa))
  refine ⟨lateWrite_issues (exec_syswrFmtBase h sa n s) hready hpriv hbad, ?_, ?_⟩
  · rw [hset]; exact State.issuedLate_retiring hu.cur hu.stream
  · rw [hset, fbaseMask_fbaseMask]

/-- Settles O27: each of the five is a late write (`State.lateWrite`) with its own effect, and what R89 refuses is what `State.fmtBad` tells. That
INCCFG takes effect at the end of its cycle is log entry 36; that PERM names no access (ADDR and INFO 0) is log entry 17. -/
theorem lateControlWrites : Obligations.LateControlWrites := by
  intro h sa n k s hready
  refine ⟨fun hpriv => ⟨?homemap, ?waymask, ?inccfg, fun hen => ?scale, fun hsound => ?base, fun hen hunsound => ?baseRefused,
    fun hen => lateWrite_refused (exec_syswrFmtScale h sa n s) hready hen⟩, fun hpriv => ?unprivileged⟩
  case homemap =>
    have harray := s.setHomemap_array (s.ctxOf (s.cur / 4)) (s.S sa)
    refine ⟨_, lateWrite_issues (exec_syswrHomemap h sa s) hready hpriv rfl, ⟨State.issuedLate_retiring rfl (fun _ => rfl), rfl⟩,
      Tbl.get_put_same _ _ _ _, fun c hc => s.setHomemap_other _ hc, fun hv => ?_, fun hv => harray.trans hv⟩
    exact Option.isNone_iff_eq_none.1 (Option.isSome_eq_false_iff.1 (harray.trans hv))
  case waymask =>
    exact ⟨_, lateWrite_issues (exec_syswrWaymask h sa n s) hready hpriv rfl, ⟨State.issuedLate_retiring rfl (fun _ => rfl), rfl⟩,
      Tbl.get_put_same _ _ _ _, fun m hm => Tbl.get_put_ne _ _ _ _ _ hm⟩
  case inccfg =>
    exact ⟨_, lateWrite_issues (exec_syswrInccfg h sa k s) hready hpriv rfl, ⟨State.issuedLate_retiring rfl (fun _ => rfl), rfl⟩, rfl⟩
  case scale =>
    exact ⟨_, lateWrite_issues (exec_syswrFmtScale h sa n s) hready hpriv hen, ⟨State.issuedLate_retiring rfl (fun _ => rfl), rfl⟩,
      Tbl.get_put_same _ _ _ _, fun m hm => Tbl.get_put_ne _ _ _ _ _ hm⟩
  case base =>
    obtain ⟨hexec, hlate, hbase⟩ := syswrFmtBase_issues hready hpriv hsound
    refine ⟨_, hexec, hlate, fun hmiss => (State.retiring_mem s _).trans (State.setFmtBase_mem hmiss), ?_, fun m hm => ?_⟩
    · rw [State.retiring_fmtBase, hbase, Tbl.get_put_same]; rfl
    · rw [State.retiring_fmtBase, hbase, Tbl.get_put_ne _ _ _ _ _ hm]
  case baseRefused =>
    refine lateWrite_refused (exec_syswrFmtBase h sa n s) hready (Bool.eq_true_of_not_eq_false fun hok => ?_)
    rcases (s.fmtBad_eq_false_iff _ _).1 hok with hoff | hsound
    · rw [fbaseMask_en, hen] at hoff; cases hoff
    · exact hunsound hsound
  case unprivileged =>
    exact ⟨fun hv => lateWrite_unprivileged (exec_syswrWaymask h sa n s) hready hpriv (bne_iff_ne.2 hv),
      fun hv => lateWrite_unprivileged (exec_syswrHomemap h sa s) hready hpriv (bne_iff_ne.2 hv),
      fun hv => lateWrite_unprivileged (exec_syswrInccfg h sa k s) hready hpriv (bne_iff_ne.2 hv),
      fun hv => lateWrite_unprivileged (exec_syswrFmtScale h sa n s) hready hpriv (bne_iff_ne.2 hv),
      fun hv => lateWrite_unprivileged (exec_syswrFmtBase h sa n s) hready hpriv (bne_iff_ne.2 hv)⟩

end Sys2Proof.Machine
end

section
namespace Sys2Proof.Machine

/-! ## Caches and tracking leave the bytes of memory (R92, R110) -/

/-- No format region is in force. -/
def State.NoFormat (s : State) : Prop := ∀ k < 8, (s.fmtBase.get 0 k).getLsbD 63 = false

/-- With no region in force no line has scale bytes. -/
theorem State.NoFormat.formatAt {s : State} (h : s.NoFormat) (pa : Nat) : s.formatAt pa = none := by
  refine List.findSome?_eq_none_iff.2 fun k hk => ?_
  simp only [h k (List.mem_range.1 hk), Bool.false_and, Bool.false_eq_true, if_false]

/-- From `s` to `t` cached lines have moved and accesses have been tracked: the poison and the regions in force stay, and so does
memory, where no region is in force to take the exponents of a line that is written back (R92). -/
structure State.KeepsBytes (s t : State) : Prop where
  fmtBase : t.fmtBase = s.fmtBase
  poison : t.poison = s.poison
  mem : s.NoFormat → t.mem = s.mem

namespace State.KeepsBytes

theorem refl (s : State) : s.KeepsBytes s := ⟨rfl, rfl, fun _ => rfl⟩

theorem noFormat {s t : State} (h : s.KeepsBytes t) (hs : s.NoFormat) : t.NoFormat := by
  rw [State.NoFormat, h.fmtBase]; exact hs

theorem trans {s t u : State} (h : s.KeepsBytes t) (h' : t.KeepsBytes u) : s.KeepsBytes u :=
  ⟨h'.fmtBase.trans h.fmtBase, h'.poison.trans h.poison, fun hs => (h'.mem (h.noFormat hs)).trans (h.mem hs)⟩

/-- A row of such steps is one. -/
theorem foldl {α : Type} {f : State → α → State} (hf : ∀ (u : State) (a : α), u.KeepsBytes (f u a)) (l : List α) (s : State) :
    s.KeepsBytes (l.foldl f s) :=
  List.foldlRecOn l f (.refl s) (fun u hu a _ => hu.trans (hf u a))

/-- The poison of every line stays. -/
theorem poisoned {s t : State} (h : s.KeepsBytes t) (a : Nat) : t.poisoned a = s.poisoned a := by
  rw [State.poisoned, State.poisoned, h.poison]

/-! ### The parts of a recall -/

theorem setLines (s : State) (l : Level) (t : Tbl CLine) : s.KeepsBytes (s.setLines l t) := by
  cases l <;> exact ⟨rfl, rfl, fun _ => rfl⟩

theorem setLine (s : State) (l : Level) (k : Nat) (x : CLine) : s.KeepsBytes (s.setLine l k x) := setLines s l _

theorem dropLine (s : State) (l : Level) (k : Nat) : s.KeepsBytes (s.dropLine l k) := setLines s l _

theorem performLine (s : State) (ctx va lv : Nat) : s.KeepsBytes (s.performLine ctx va lv) := ⟨rfl, rfl, fun _ => rfl⟩

theorem dirty (s : State) (d ctx va : Nat) : s.KeepsBytes (s.dirty d ctx va) := by
  unfold State.dirty
  split
  · exact setLine s _ _ _
  · exact refl s

theorem purgeL1 (s : State) (d ctx va : Nat) : s.KeepsBytes (s.purgeL1 d ctx va).1 := by
  refine List.foldlRecOn (List.range 60) _ (motive := fun a : State × Bool => s.KeepsBytes a.1) (refl s) fun a ha i _ => ?_
  dsimp only
  split
  case h_1 k _ _ => exact ha.trans (dropLine a.1 (.l1 (60 * d + i)) k)
  case h_2 => exact ha

theorem purgeRdc (s : State) (e d ctx va : Nat) : s.KeepsBytes (s.purgeRdc e d ctx va) := by
  have hl1 := purgeL1 s e ctx va
  unfold State.purgeRdc
  generalize s.purgeL1 e ctx va = r at hl1 ⊢
  dsimp only
  split
  case h_1 k _ _ =>
    have hline := (hl1.trans (dropLine _ (.rdc e) k)).trans (performLine _ ctx va 4)
    split
    · exact hline.trans (dirty _ d ctx va)
    · exact hline
  case h_2 => exact hl1

theorem purgeAbove (s : State) (d ctx va : Nat) : s.KeepsBytes (s.purgeAbove d ctx va) := by
  have hrdc := foldl (fun u e => purgeRdc u e d ctx va) ([0, 1, 2, 3].filter (· != d)) s
  have hl1 := (hrdc.trans (purgeL1 _ d ctx va)).trans (performLine _ ctx va 4)
  unfold State.purgeAbove
  dsimp only
  split
  · exact hl1.trans (dirty _ d ctx va)
  · exact hl1

theorem unfilter (s : State) (pa : Nat) : s.KeepsBytes (s.unfilter pa) := by
  obtain ⟨fs, h⟩ := s.unfilter_eq pa
  exact h ▸ ⟨rfl, rfl, fun _ => rfl⟩

/-- A side field finds no scale bytes to go to where no region is in force (R92). -/
theorem flushSide (s : State) (pa : Nat) : s.KeepsBytes (s.flushSide pa) := by
  refine ⟨(s.recalled_flushSide pa).fmtBase, ?_, fun hs => ?_⟩
  · unfold State.flushSide
    split
    · rfl
    · dsimp only
      split
      · split
        · rfl
        · split <;> rfl
      · rfl
  · have hnone : ({ s with sides := s.sides.drop (pa / 64) } : State).formatAt pa = none := State.NoFormat.formatAt hs pa
    unfold State.flushSide
    split
    · rfl
    · dsimp only; rw [hnone]

theorem spill (s : State) (ctx va : Nat) : s.KeepsBytes (s.spill ctx va) := by
  unfold State.spill
  split <;> exact ⟨rfl, rfl, fun _ => rfl⟩

theorem purge (s : State) (d ctx va : Nat) : s.KeepsBytes (s.purge d ctx va) := by
  have habove := purgeAbove s d ctx va
  unfold State.purge
  generalize s.purgeAbove d ctx va = u at habove ⊢
  dsimp only
  split
  case h_1 k x _ =>
    exact (((habove.trans (dropLine _ _ k)).trans (unfilter _ x.pa)).trans (flushSide _ x.pa)).trans (spill _ ctx va)
  case h_2 => exact habove

theorem dropIcache (s : State) (hit : Nat → ILine → Bool) : s.KeepsBytes (s.dropIcache hit) := by
  obtain ⟨fs, h⟩ := s.dropIcache_eq hit
  exact h ▸ ⟨rfl, rfl, fun _ => rfl⟩

theorem recallGranule (s : State) (pa : Nat) : s.KeepsBytes (s.recallGranule pa) := by
  have hlines := foldl (fun u (e : Nat × CLine) => purge u (e.1 / 2048 / 192) e.2.ctx (e.2.va * 64))
    (s.l2.entries.filter (fun e => e.2.pa / 2 ^ 16 == pa / 2 ^ 16)) s
  exact (hlines.trans (dropIcache _ (fun _ l => l.pa / 2 ^ 16 == pa / 2 ^ 16))).trans ⟨rfl, rfl, fun _ => rfl⟩

theorem recallScaled (s : State) (pa n : Nat) : s.KeepsBytes (s.recallScaled pa n) := by
  unfold State.recallScaled
  split
  · exact refl s
  · exact foldl (fun u (e : Nat × CLine) => purge u (e.1 / 2048 / 192) e.2.ctx (e.2.va * 64)) _ s

theorem recallFor (s : State) (p : Place) (n : Nat) : s.KeepsBytes (s.recallFor p n) := by
  have hscaled := recallScaled s p.pa n
  unfold State.recallFor
  dsimp only
  split
  · exact refl s
  · split
    · split
      · exact hscaled.trans (recallGranule _ _)
      · exact hscaled
    · exact hscaled.trans (purge _ _ _ _)

/-! ### Lines written back -/

theorem evict (s : State) (l : Level) (k : Nat) : s.KeepsBytes (s.evict l k) := by
  unfold State.evict
  split
  · exact refl s
  case h_2 x _ =>
    cases l with
    | rdc e => exact purgeRdc s e _ _ _
    | l2 e => exact purge s e _ _
    | l1 c =>
      have hdrop := dropLine s (.l1 c) k
      dsimp only
      split
      · split
        · exact (hdrop.trans (dirty _ _ _ _)).trans (performLine _ _ _ _)
        · split
          · exact (hdrop.trans (setLine _ _ _ _)).trans (performLine _ _ _ _)
          · exact hdrop.trans (performLine _ _ _ _)
      · exact hdrop

theorem cleanAt (s : State) (l : Level) (ctx va : Nat) (inv : Bool) : s.KeepsBytes (s.cleanAt l ctx va inv) := by
  unfold State.cleanAt
  split
  · exact refl s
  case h_2 k x _ =>
    have hflush : s.KeepsBytes { (s.flushSide x.pa).performLine ctx va 4 with sides := s.sides } :=
      ((flushSide s x.pa).trans (performLine _ ctx va 4)).trans ⟨rfl, rfl, fun _ => rfl⟩
    cases inv with
    | true => cases l <;> exact evict s _ k
    | false =>
      cases l with
      | l1 c => exact (evict s _ k).trans (setLine _ _ _ _)
      | rdc e => exact (evict s _ k).trans (setLine _ _ _ _)
      | l2 d => exact hflush.trans (setLine _ _ _ _)

theorem cleanLine (s : State) (ls : List Level) (ctx va : Nat) (inv : Bool) : s.KeepsBytes (s.cleanLine ls ctx va inv) := by
  refine foldl (fun u l => ?_) ls s
  dsimp only
  split
  case h_1 e =>
    refine trans ?_ (foldl (fun v i => cleanAt v (.l1 (60 * e + i)) ctx va false) (List.range 60) _)
    split
    · split
      · exact ((dirty u _ ctx va).trans (performLine _ ctx va 4)).trans (setLine _ _ _ _)
      · exact refl u
    · exact refl u
  case h_2 => exact cleanAt u l ctx va inv

/-! ### Accesses of the developer -/

theorem endsHeads (s : State) (pa n : Nat) : s.KeepsBytes (s.endsHeads pa n) := by
  unfold State.endsHeads
  split <;> exact ⟨rfl, rfl, fun _ => rfl⟩

theorem devWord (s : State) (b : DevBlock) (p : Place) (va : Nat) (write plain : Bool) : s.KeepsBytes (s.devWord b p va write plain) := by
  simp only [State.devWord]
  split <;> exact ⟨rfl, rfl, fun _ => rfl⟩

theorem devTouch (s : State) (b : DevBlock) (p : Place) (va : Nat) (write : Bool) : s.KeepsBytes (s.devTouch b p va write) := by
  unfold State.devTouch
  refine trans ?_ (foldl (fun u i => devWord u b _ _ write true) _ _)
  split
  · exact endsHeads s _ _
  · exact refl s

end State.KeepsBytes
end Sys2Proof.Machine
end

section
namespace Sys2Proof.Machine

/-! ## The tree of the developer (R97) -/

/-- Two subtrees summed where both are present. -/
def devPair {α : Type} (add : α → α → α) : Option α → Option α → Option α
  | none, y => y
  | x, none => x
  | some a, some b => some (add a b)

/-- The tree in its pairs. -/
theorem devTree_eq {α : Type} (add : α → α → α) (v : List α) : devTree add v =
    devPair add (devPair add (devPair add v[0]? v[1]?) (devPair add v[2]? v[3]?))
      (devPair add (devPair add v[4]? v[5]?) (devPair add v[6]? v[7]?)) := rfl

/-- What holds of two subtrees and is kept by the sum holds of their pair. -/
theorem devPair_forall {α : Type} {add : α → α → α} {P : α → Prop} (hadd : ∀ a b, P a → P b → P (add a b)) {x y : Option α}
    (hx : ∀ a ∈ x, P a) (hy : ∀ a ∈ y, P a) : ∀ a ∈ devPair add x y, P a := by
  match x, y with
  | none, _ => exact hy
  | some _, none => exact hx
  | some a, some b =>
    rintro c ⟨⟩
    exact hadd a b (hx a rfl) (hy b rfl)

/-- What holds of every source and is kept by the sum holds of the tree's. -/
theorem devTree_forall {α : Type} {add : α → α → α} {P : α → Prop} (hadd : ∀ a b, P a → P b → P (add a b)) {v : List α}
    (hv : ∀ y ∈ v, P y) : ∀ x ∈ devTree add v, P x := by
  have hleaf (i : Nat) : ∀ a ∈ v[i]?, P a := fun a ha => hv a (List.mem_of_getElem? ha)
  have hpair (i j : Nat) := devPair_forall hadd (hleaf i) (hleaf j)
  rw [devTree_eq]
  exact devPair_forall hadd (devPair_forall hadd (hpair 0 1) (hpair 2 3)) (devPair_forall hadd (hpair 4 5) (hpair 6 7))

/-- The integer sum of a pair, an absent subtree counting 0. -/
theorem devPair_modEq (m : Nat) (x y : Option Nat) :
    (devPair (fun a b => (a + b) % m) x y).getD 0 ≡ x.getD 0 + y.getD 0 [MOD m] := by
  match x, y with
  | none, y => simp only [devPair, Option.getD_none, Nat.zero_add]; rfl
  | some _, none => rfl
  | some a, some b => exact Nat.mod_modEq _ m

/-- The integer sum along the tree is the sum of the sources, modulo what each addition is made modulo. -/
theorem devTree_modEq_sum (m : Nat) {v : List Nat} (hv : v.length ≤ 8) :
    (devTree (fun a b => (a + b) % m) v).getD 0 ≡ v.sum [MOD m] := by
  have hpair (i j : Nat) := devPair_modEq m v[i]? v[j]?
  have hquad (i j k l : Nat) := (devPair_modEq m _ _).trans ((hpair i j).add (hpair k l))
  have hsum : v[0]?.getD 0 + v[1]?.getD 0 + (v[2]?.getD 0 + v[3]?.getD 0)
      + (v[4]?.getD 0 + v[5]?.getD 0 + (v[6]?.getD 0 + v[7]?.getD 0)) = v.sum := by
    rcases v with _ | ⟨a, _ | ⟨b, _ | ⟨c, _ | ⟨d, _ | ⟨e, _ | ⟨f, _ | ⟨g, _ | ⟨h, _ | ⟨i, r⟩⟩⟩⟩⟩⟩⟩⟩⟩
    case cons.cons.cons.cons.cons.cons.cons.cons.cons => simp only [List.length_cons] at hv; omega
    all_goals simp [Nat.add_assoc]
  rw [← hsum, devTree_eq]
  exact (devPair_modEq m _ _).trans ((hquad 0 1 2 3).add (hquad 4 5 6 7))

/-- The integer sum along the tree stays below the modulus. -/
theorem devTree_getD_lt {m : Nat} (hm : 0 < m) {v : List Nat} (hv : ∀ x ∈ v, x < m) :
    (devTree (fun a b => (a + b) % m) v).getD 0 < m := by
  have hall := devTree_forall (add := fun a b => (a + b) % m) (P := (· < m)) (fun a b _ _ => Nat.mod_lt _ hm) hv
  cases htree : devTree (fun a b => (a + b) % m) v with
  | none => exact hm
  | some x => exact hall x htree

/-- An integer element of the destination is the sum of the sources' modulo its width. -/
theorem devTree_eq_sum_mod {m : Nat} (hm : 0 < m) {v : List Nat} (hlen : v.length ≤ 8) (hv : ∀ x ∈ v, x < m) :
    (devTree (fun a b => (a + b) % m) v).getD 0 = v.sum % m := by
  rw [← devTree_modEq_sum m hlen, Nat.mod_eq_of_lt (devTree_getD_lt hm hv)]

/-! ## Rounding what a format holds (R179 to R181) -/

namespace Fmt

theorem signBit_eq (f : Fmt) : f.signBit = 2 ^ f.ebits * 2 ^ f.fbits := pow_add _ _ _

theorem infBits_add (f : Fmt) : f.infBits + 2 ^ f.fbits = f.signBit := by
  have hones : 2 ^ f.ebits - 1 + 1 = 2 ^ f.ebits := Nat.sub_add_cancel Nat.one_le_two_pow
  rw [infBits, signBit_eq, ← Nat.succ_mul, Nat.succ_eq_add_one, hones]

theorem infBits_lt_signBit (f : Fmt) : f.infBits < f.signBit := by
  have := f.infBits_add
  have := Nat.two_pow_pos f.fbits
  omega

theorem nanBits_lt_signBit {f : Fmt} (hf : 0 < f.fbits) : f.nanBits < f.signBit := by
  have := f.infBits_add
  have : 2 ^ (f.fbits - 1) < 2 ^ f.fbits := Nat.pow_lt_pow_right (by omega) (by omega)
  rw [nanBits]
  omega

/-- The exponent field of a datum. -/
def expField (f : Fmt) (x : Nat) : Nat := x / 2 ^ f.fbits % 2 ^ f.ebits
/-- The fraction field of a datum. -/
def fracField (f : Fmt) (x : Nat) : Nat := x % 2 ^ f.fbits
/-- The significand of a finite datum: its fraction with the leading one of a normal number. -/
def significand (f : Fmt) (x : Nat) : Nat := f.fracField x + if f.expField x = 0 then 0 else 2 ^ f.fbits

/-- The bits below the sign are the exponent and fraction fields. -/
theorem mod_signBit (f : Fmt) (x : Nat) : x % f.signBit = f.expField x * 2 ^ f.fbits + f.fracField x := by
  rw [signBit_eq, Nat.mul_comm (2 ^ f.ebits), Nat.mod_mul, expField, fracField, Nat.mul_comm, Nat.add_comm]

/-- A datum is its fields. -/
theorem eq_fields (f : Fmt) {x : Nat} (hx : x < 2 * f.signBit) :
    x = f.expField x * 2 ^ f.fbits + f.fracField x + if f.signBit ≤ x then f.signBit else 0 := by
  rw [← mod_signBit]
  split
  · rw [Nat.mod_eq_sub_mod ‹_›, Nat.mod_eq_of_lt (by omega)]; omega
  · rw [Nat.mod_eq_of_lt (by omega)]; rfl

/-- An exponent field of all ones reads as an infinity or NaN. -/
theorem decode_of_ones {f : Fmt} {x : Nat} (hx : x < 2 * f.signBit) (h : f.expField x = 2 ^ f.ebits - 1) :
    f.decode x = if f.fracField x = 0 then .inf (decide (f.signBit ≤ x)) else .nan := by
  have hsign : x % (2 * f.signBit) = x := Nat.mod_eq_of_lt hx
  rw [decode, hsign]
  exact if_pos h

/-- Any other reads as the significand in units of the last place of its binade. -/
theorem decode_of_ne_ones {f : Fmt} {x : Nat} (hx : x < 2 * f.signBit) (h : f.expField x ≠ 2 ^ f.ebits - 1) :
    f.decode x = if f.significand x = 0 then .zero (decide (f.signBit ≤ x))
      else .num (if f.signBit ≤ x then -(f.significand x : Int) else f.significand x)
        ((max (f.expField x) 1 : Nat) - f.bias - f.fbits) := by
  have hsign : x % (2 * f.signBit) = x := Nat.mod_eq_of_lt hx
  have hmax : ((max (f.expField x) 1 : Nat) : Int) = if f.expField x = 0 then 1 else (f.expField x : Int) := by split <;> omega
  have hsig : (f.significand x : Int) = if f.expField x = 0 then (f.fracField x : Int) else f.fracField x + 2 ^ f.fbits := by
    rw [significand]; split <;> push_cast <;> simp
  have hzero : f.significand x = 0 ↔ (f.significand x : Int) = 0 := by omega
  simp only [hzero, hmax, hsig]
  rw [decode, hsign]
  simp only [decide_eq_true_eq]
  exact if_neg h

/-- A datum that is no NaN and no infinity. -/
def Finite (f : Fmt) (x : Nat) : Prop := f.decode x ≠ .nan ∧ ∀ b, f.decode x ≠ .inf b

/-- A datum is finite exactly when its exponent field is not all ones. -/
theorem finite_iff {f : Fmt} {x : Nat} (hx : x < 2 * f.signBit) : f.Finite x ↔ f.expField x ≠ 2 ^ f.ebits - 1 := by
  rw [Finite]
  by_cases h : f.expField x = 2 ^ f.ebits - 1
  case pos =>
    rw [decode_of_ones hx h]
    split <;> simp [h]
  case neg =>
    rw [decode_of_ne_ones hx h]
    split <;> simp [h]

/-- Rounded to nearest even, a value leaves as the canonical NaN or with a magnitude of at most infinity's. -/
theorem round_eq_nan_or_le (f : Fmt) (v : FVal) :
    f.round 0 false v = f.nanBits ∨ ∃ k ≤ f.infBits, ∃ b : Bool, f.round 0 false v = k + if b then f.signBit else 0 := by
  match v with
  | .nan => exact .inl rfl
  | .inf b => exact .inr ⟨f.infBits, le_rfl, b, rfl⟩
  | .zero b => exact .inr ⟨0, Nat.zero_le _, b, (Nat.zero_add _).symm⟩
  | .num m e =>
    have hmag (bits : Nat) : (if bits < f.infBits then bits else f.infBits) ≤ f.infBits := by split <;> omega
    exact .inr ⟨_, hmag _, decide (m < 0), rfl⟩

theorem round_inf (f : Fmt) (mode : Nat) (b : Bool) : f.round mode false (.inf b) = f.infBits + if b then f.signBit else 0 := rfl
theorem round_zero (f : Fmt) (mode : Nat) (b : Bool) : f.round mode false (.zero b) = if b then f.signBit else 0 := rfl
theorem round_num (f : Fmt) (mode : Nat) (m e : Int) : f.round mode false (.num m e) = f.roundNum mode m e := rfl

theorem round_lt {f : Fmt} (hf : 0 < f.fbits) (v : FVal) : f.round 0 false v < 2 * f.signBit := by
  have hinf := f.infBits_lt_signBit
  have hnan := nanBits_lt_signBit hf
  rcases f.round_eq_nan_or_le v with h | ⟨k, hk, b, h⟩
  · omega
  · split at h <;> omega

/-- A number with no bit below the last place of its binade is kept by rounding: `c` is the binade's exponent field less one (0 for
subnormals), and the magnitude counts units of `2 ^ d` last places. -/
theorem roundNum_exact {f : Fmt} {m e : Int} {c d : Nat}
    (hplace : max ((Nat.log2 m.natAbs : Int) + e - f.fbits) (1 - f.bias - f.fbits) = 1 - f.bias - f.fbits + c)
    (he : e = 1 - f.bias - f.fbits + c + d) (hlt : c * 2 ^ f.fbits + m.natAbs * 2 ^ d < f.infBits) :
    f.roundNum 0 m e = c * 2 ^ f.fbits + m.natAbs * 2 ^ d + if m < 0 then f.signBit else 0 := by
  have hle : 1 - f.bias - f.fbits + (c : Int) ≤ e := by omega
  have hd : (e - (1 - f.bias - f.fbits + (c : Int))).toNat = d := by omega
  have hc : (1 - f.bias - f.fbits + (c : Int) - (1 - f.bias - f.fbits)).toNat = c := by omega
  simp only [roundNum, hplace, if_pos hle, hd, hc, Nat.shiftLeft_eq, if_pos hlt, decide_eq_true_eq]

/-- The place that a finite datum's significand is rounded to in a format with `d` more fraction bits: the last one of its binade there. -/
theorem log2_significand_place {h : Fmt} {x : Nat} (hne : h.significand x ≠ 0) (b : Int) (d : Nat) :
    max ((Nat.log2 (h.significand x) : Int) + ((max (h.expField x) 1 : Nat) - b - h.fbits) - (h.fbits + d : Nat)) (1 - b - (h.fbits + d : Nat))
      = 1 - b - (h.fbits + d : Nat) + (max (h.expField x) 1 - 1 : Nat) := by
  have hfrac : h.fracField x < 2 ^ h.fbits := Nat.mod_lt _ (Nat.two_pow_pos _)
  by_cases h0 : h.expField x = 0
  · have hlog : Nat.log2 (h.significand x) < h.fbits := by
      rw [Nat.log2_lt hne, significand, if_pos h0]; exact hfrac
    omega
  · have hlog : Nat.log2 (h.significand x) = h.fbits := by
      rw [Nat.log2_eq_iff hne, significand, if_neg h0, pow_succ]; omega
    omega

/-- The magnitude of a datum, from its binade and its significand. -/
theorem binade_add_significand (f : Fmt) (x : Nat) :
    (max (f.expField x) 1 - 1) * 2 ^ f.fbits + f.significand x = f.expField x * 2 ^ f.fbits + f.fracField x := by
  rw [significand]
  by_cases h0 : f.expField x = 0
  · simp [h0]
  · obtain ⟨e, he⟩ : ∃ e, f.expField x = e + 1 := ⟨f.expField x - 1, by omega⟩
    rw [if_neg h0, he, Nat.max_eq_left (by omega), Nat.add_sub_cancel, Nat.add_mul]
    omega

/-- A significand of zero is a magnitude of zero. -/
theorem magnitude_of_significand_zero {f : Fmt} {x : Nat} (h : f.significand x = 0) :
    f.expField x * 2 ^ f.fbits + f.fracField x = 0 := by
  have hpos := Nat.two_pow_pos f.fbits
  rw [significand] at h
  split at h
  case isTrue h0 => rw [h0, Nat.zero_mul]; omega
  case isFalse => omega

/-- The magnitude of a finite datum is below infinity's. -/
theorem magnitude_lt_infBits {f : Fmt} {x : Nat} (h : f.expField x ≠ 2 ^ f.ebits - 1) :
    f.expField x * 2 ^ f.fbits + f.fracField x < f.infBits := by
  have hexp : f.expField x < 2 ^ f.ebits := Nat.mod_lt _ (Nat.two_pow_pos _)
  have hfrac : f.fracField x < 2 ^ f.fbits := Nat.mod_lt _ (Nat.two_pow_pos _)
  calc f.expField x * 2 ^ f.fbits + f.fracField x < (f.expField x + 1) * 2 ^ f.fbits := by rw [Nat.add_mul]; omega
    _ ≤ f.infBits := Nat.mul_le_mul_right _ (by omega)

/-- A datum that is not NaN, rounded into a format of the same exponents and `d` more fraction bits, is that datum with `d` zeros behind
(`d` may be 0). -/
theorem round_decode {f h : Fmt} {d : Nat} (he : f.ebits = h.ebits) (hf : f.fbits = h.fbits + d) {x : Nat} (hx : x < 2 * h.signBit)
    (hnan : h.decode x ≠ .nan) : f.round 0 false (h.decode x) = x * 2 ^ d := by
  have hbias : f.bias = h.bias := by rw [bias, bias, he]
  have hinf : f.infBits = h.infBits * 2 ^ d := by rw [infBits, infBits, he, hf, pow_add, Nat.mul_assoc]
  have hsign : f.signBit = h.signBit * 2 ^ d := by rw [signBit_eq, signBit_eq, he, hf, pow_add, Nat.mul_assoc]
  have hwide : x * 2 ^ d = (h.expField x * 2 ^ h.fbits + h.fracField x) * 2 ^ d + if h.signBit ≤ x then f.signBit else 0 := by
    conv_lhs => rw [h.eq_fields hx, Nat.add_mul, ite_mul, Nat.zero_mul, ← hsign]
  by_cases hones : h.expField x = 2 ^ h.ebits - 1
  case pos =>
    rw [decode_of_ones hx hones] at hnan ⊢
    split at hnan
    case isFalse => exact absurd rfl hnan
    case isTrue hfrac =>
      rw [if_pos hfrac, round_inf, hwide, hones, hfrac, hinf]
      simp only [decide_eq_true_eq, infBits, Nat.add_zero]
  case neg =>
    rw [decode_of_ne_ones hx hones]
    by_cases hzero : h.significand x = 0
    · simp only [if_pos hzero, round_zero, decide_eq_true_eq, hwide, magnitude_of_significand_zero hzero, Nat.zero_mul, Nat.zero_add]
    · have habs : (if h.signBit ≤ x then -(h.significand x : Int) else h.significand x).natAbs = h.significand x := by
        split <;> simp
      have hneg : (if h.signBit ≤ x then -(h.significand x : Int) else h.significand x) < 0 ↔ h.signBit ≤ x := by
        split <;> omega
      have hmag : (max (h.expField x) 1 - 1) * 2 ^ f.fbits + h.significand x * 2 ^ d
          = (h.expField x * 2 ^ h.fbits + h.fracField x) * 2 ^ d := by
        rw [hf, pow_add, ← Nat.mul_assoc, ← Nat.add_mul, binade_add_significand]
      have hlt := Nat.mul_lt_mul_of_pos_right (magnitude_lt_infBits hones) (Nat.two_pow_pos d)
      rw [if_neg hzero, round_num, roundNum_exact (c := max (h.expField x) 1 - 1) (d := d), habs, hmag, hwide]
      · simp only [hneg]
      · rw [habs, hf, hbias]; exact log2_significand_place hzero h.bias d
      · omega
      · rw [habs, hmag, hinf]; exact hlt

/-- What a format holds, NaN apart, rounds to itself. -/
theorem round_decode_self {f : Fmt} {x : Nat} (hx : x < 2 * f.signBit) (hnan : f.decode x ≠ .nan) : f.round 0 false (f.decode x) = x :=
  (round_decode (d := 0) rfl rfl hx hnan).trans (Nat.mul_one x)

/-- A magnitude of at most infinity's is no NaN's. -/
theorem decode_ne_nan {f : Fmt} {k : Nat} (hk : k ≤ f.infBits) (b : Bool) : f.decode (k + if b then f.signBit else 0) ≠ .nan := by
  have hinf := f.infBits_lt_signBit
  generalize hx : k + (if b then f.signBit else 0) = x
  have hlt : x < 2 * f.signBit := by split at hx <;> omega
  have hmod : x % f.signBit = k := by
    rw [← hx]; split
    · rw [Nat.add_mod_right, Nat.mod_eq_of_lt (by omega)]
    · exact Nat.mod_eq_of_lt (by omega)
  by_cases hones : f.expField x = 2 ^ f.ebits - 1
  case neg => exact ((finite_iff hlt).2 hones).1
  case pos =>
    rw [mod_signBit, hones, ← infBits] at hmod
    rw [decode_of_ones hlt hones, if_pos (by omega)]
    exact nofun

/-- A rounded value, read and rounded again, stays. -/
theorem round_decode_round {f : Fmt} (hf : 0 < f.fbits) (hnan : f.decode f.nanBits = .nan) (v : FVal) :
    f.round 0 false (f.decode (f.round 0 false v)) = f.round 0 false v := by
  rcases f.round_eq_nan_or_le v with h | ⟨k, hk, b, h⟩
  · rw [h, hnan]; rfl
  · exact round_decode_self (round_lt hf v) (h ▸ decode_ne_nan hk b)

end Fmt

/-! ## The sum of one element (R97, R197) -/

/-- A NaN among the data, or infinities of both signs: what makes a reduction NaN (R197). -/
def Fmt.Clashes (f : Fmt) (v : List Nat) : Prop :=
  (∃ y ∈ v, f.decode y = .nan) ∨ ((∃ y ∈ v, f.decode y = .inf false) ∧ ∃ y ∈ v, f.decode y = .inf true)

/-- Operands that are all finite leave a reduction to its order. -/
theorem special_of_finite {f : Fmt} {v : List Nat} (h : ∀ y ∈ v, f.Finite y) : special f v = none := by
  have hnan : FVal.nan ∉ v.map f.decode := fun hm => by
    obtain ⟨y, hy, he⟩ := List.mem_map.1 hm
    exact (h y hy).1 he
  have hinf (b : Bool) : FVal.inf b ∉ v.map f.decode := fun hm => by
    obtain ⟨y, hy, he⟩ := List.mem_map.1 hm
    exact (h y hy).2 b he
  simp [special, hnan, hinf, -List.mem_map]

theorem special_of_clashes {f : Fmt} {v : List Nat} (h : f.Clashes v) : special f v = some .nan := by
  have hmem (x : FVal) : (∃ y ∈ v, f.decode y = x) → (v.map f.decode).contains x = true :=
    fun hx => List.contains_iff_mem.2 (List.mem_map.2 hx)
  rcases h with hnan | ⟨hpos, hneg⟩
  · simp only [special, hmem _ hnan, Bool.true_or, if_true]
  · simp only [special, hmem _ hpos, hmem _ hneg, Bool.and_true, Bool.or_true, if_true]

/-- Finite sources sum to what the tree gives. -/
theorem devSum_of_finite {v : List Nat} {x : Nat} (h : ∀ y ∈ v, f32.Finite y)
    (hx : devTree (faddBits f32) v = some x) : devSum v = f32.decode x := by
  rw [devSum, reduced, special_of_finite h, hx]
  rfl

theorem devSum_of_clashes {v : List Nat} (h : f32.Clashes v) : devSum v = .nan := by
  rw [devSum, reduced, special_of_clashes h]
  rfl

/-- The F32 element of finite sources is the sum along the tree: its last addition has been rounded already. -/
theorem devElement_f32_of_finite {v : List Nat} {x : Nat} (hv : ∀ y ∈ v, y < 2 ^ 32 ∧ f32.Finite y)
    (hx : devTree (faddBits f32) v = some x) : devElement 0 v = x := by
  have hself (y : Nat) (hy : y ∈ v) : f32.round 0 false (f32.decode y) = y := Fmt.round_decode_self (hv y hy).1 (hv y hy).2.1
  rw [devElement, devSum_of_finite (fun y hy => (hv y hy).2) hx]
  exact devTree_forall (P := fun y => f32.round 0 false (f32.decode y) = y)
    (fun a b _ _ => Fmt.round_decode_round (by decide) (by decide) ((f32.decode a).add 0 (f32.decode b))) hself x hx

/-- Widening a B16 datum to F32 puts zeros behind it. -/
theorem widen_b16 {y : Nat} (hy : y < 2 ^ 16) (hnan : b16.decode y ≠ .nan) : f32.round 0 false (b16.decode y) = y * 2 ^ 16 :=
  Fmt.round_decode (f := f32) (h := b16) rfl rfl hy hnan

/-- A finite B16 datum widened is finite. -/
theorem widen_b16_finite {y : Nat} (hy : y < 2 ^ 16) (h : b16.Finite y) : f32.Finite (y * 2 ^ 16) := by
  have hwide : y * 2 ^ 16 < 2 * f32.signBit := by simp only [f32, Fmt.signBit]; omega
  have hexp : f32.expField (y * 2 ^ 16) = b16.expField y := by simp only [f32, b16, Fmt.expField]; omega
  rw [Fmt.finite_iff hwide, hexp]
  exact (Fmt.finite_iff (f := b16) hy).1 h

/-- The B16 element of finite sources: the sources widened, summed along the tree in F32, and rounded once. -/
theorem devElement_b16_of_finite {v : List Nat} {x : Nat} (hv : ∀ y ∈ v, y < 2 ^ 16 ∧ b16.Finite y)
    (hx : devTree (faddBits f32) (v.map (fun y => y * 2 ^ 16)) = some x) : devElement 1 v = b16.round 0 false (f32.decode x) := by
  have hwide : v.map (fun y => f32.round 0 false (b16.decode y)) = v.map (fun y => y * 2 ^ 16) :=
    List.map_congr_left (fun y hy => widen_b16 (hv y hy).1 (hv y hy).2.1)
  have hfinite : ∀ z ∈ v.map (fun y => y * 2 ^ 16), f32.Finite z :=
    List.forall_mem_map.2 (fun y hy => widen_b16_finite (hv y hy).1 (hv y hy).2)
  rw [devElement, hwide, devSum_of_finite hfinite hx]

/-- The F32 element of clashing sources is the canonical NaN. -/
theorem devElement_f32_of_clashes {v : List Nat} (h : f32.Clashes v) : devElement 0 v = 0x7FC00000 := by
  rw [devElement, devSum_of_clashes h]
  rfl

/-- NaN and infinities of B16 stay NaN and infinities when they are widened. -/
theorem exists_widen_b16 {v : List Nat} {z : FVal} (hz : f32.decode (f32.round 0 false z) = z) (h : ∃ y ∈ v, b16.decode y = z) :
    ∃ x ∈ v.map (fun y => f32.round 0 false (b16.decode y)), f32.decode x = z := by
  obtain ⟨y, hy, rfl⟩ := h
  exact ⟨_, List.mem_map_of_mem hy, hz⟩

/-- So is the B16 element, in its own format. -/
theorem devElement_b16_of_clashes {v : List Nat} (h : b16.Clashes v) : devElement 1 v = 0x7FC0 := by
  have hwide : f32.Clashes (v.map (fun y => f32.round 0 false (b16.decode y))) :=
    h.imp (exists_widen_b16 (by decide)) (And.imp (exists_widen_b16 (by decide)) (exists_widen_b16 (by decide)))
  rw [devElement, devSum_of_clashes hwide]
  rfl

/-! ## The line of the destination (R97) -/

/-- An element of the destination fits the width of its TYPE. -/
theorem devElement_lt {ty : Nat} (hty : ty < 4) {v : List Nat} (hv : ∀ x ∈ v, x < 2 ^ (8 * devWidth ty)) :
    devElement ty v < 2 ^ (8 * devWidth ty) := by
  match ty, hty with
  | 0, _ => exact Fmt.round_lt (f := f32) (by decide) _
  | 1, _ => exact Fmt.round_lt (f := b16) (by decide) _
  | 2, _ => exact devTree_getD_lt (by decide) hv
  | 3, _ => exact devTree_getD_lt (by decide) hv

/-- The number whose digits in base `2 ^ w` are `g 0` to `g (n - 1)`. -/
def packed (w : Nat) (g : Nat → Nat) (n : Nat) : Nat := (List.range n).foldl (fun acc i => acc + g i * 2 ^ (w * i)) 0

theorem packed_succ (w : Nat) (g : Nat → Nat) (n : Nat) : packed w g (n + 1) = packed w g n + g n * 2 ^ (w * n) := by
  rw [packed, List.range_succ, List.foldl_append]
  rfl

theorem packed_lt {w : Nat} {g : Nat → Nat} (hg : ∀ i, g i < 2 ^ w) (n : Nat) : packed w g n < 2 ^ (w * n) := by
  induction n with
  | zero => exact Nat.two_pow_pos _
  | succ n ih =>
    rw [packed_succ]
    calc packed w g n + g n * 2 ^ (w * n) < (g n + 1) * 2 ^ (w * n) := by rw [Nat.add_mul]; omega
      _ ≤ 2 ^ w * 2 ^ (w * n) := Nat.mul_le_mul_right _ (hg n)
      _ = 2 ^ (w * (n + 1)) := by rw [← pow_add]; ring_nf

/-- A digit reads back. -/
theorem packed_digit {w : Nat} {g : Nat → Nat} (hg : ∀ i, g i < 2 ^ w) {n i : Nat} (hi : i < n) :
    packed w g n / 2 ^ (w * i) % 2 ^ w = g i := by
  induction n with
  | zero => omega
  | succ n ih =>
    rw [packed_succ]
    rcases Nat.lt_succ_iff_lt_or_eq.1 hi with hlt | rfl
    · obtain ⟨k, rfl⟩ : ∃ k, n = i + 1 + k := ⟨n - (i + 1), by omega⟩
      have hpow : 2 ^ (w * (i + 1 + k)) = 2 ^ (w * i) * (2 ^ w * 2 ^ (w * k)) := by rw [← pow_add, ← pow_add]; ring_nf
      rw [hpow, Nat.mul_left_comm, Nat.add_mul_div_left _ _ (Nat.two_pow_pos _), Nat.mul_left_comm, Nat.add_mul_mod_self_left]
      exact ih hlt
    · rw [Nat.add_mul_div_right _ _ (Nat.two_pow_pos _), Nat.div_eq_of_lt (packed_lt hg i), Nat.zero_add, Nat.mod_eq_of_lt (hg i)]

/-- Each element of a line of the destination is the sum of the sources' elements there. -/
theorem devLine_element {ty : Nat} (hty : ty < 4) (v : List Nat) {i : Nat} (hi : i < 64 / devWidth ty) :
    devLine ty v / 2 ^ (8 * devWidth ty * i) % 2 ^ (8 * devWidth ty)
      = devElement ty (v.map (fun x => x / 2 ^ (8 * devWidth ty * i) % 2 ^ (8 * devWidth ty))) := by
  have hfits (j : Nat) : devElement ty (v.map (fun x => x / 2 ^ (8 * devWidth ty * j) % 2 ^ (8 * devWidth ty))) < 2 ^ (8 * devWidth ty) :=
    devElement_lt hty (List.forall_mem_map.2 fun _ _ => Nat.mod_lt _ (Nat.two_pow_pos _))
  exact packed_digit hfits hi

end Sys2Proof.Machine
end

section
namespace Sys2Proof.Machine

/-! ## The reduction (R98, R99) -/

/-- The values of a line. -/
theorem line_modulus : 256 ^ 64 = 2 ^ 512 := by rw [show 256 = 2 ^ 8 from rfl, ← pow_mul]

/-- Poison after a line's bit has been set or cleared. -/
theorem State.poisoned_setPoison (s : State) (d a : Nat) (b : Bool) :
    (s.setPoison d b).poisoned a = if a / 64 = d / 64 then b else s.poisoned a := by
  simp only [State.poisoned, State.setPoison]
  cases b with
  | false => by_cases had : a / 64 = d / 64 <;> simp [had]
  | true =>
    simp only [if_true]
    split
    case isTrue hd => by_cases had : a / 64 = d / 64 <;> simp [had, List.contains_iff_mem.1 hd]
    case isFalse => by_cases had : a / 64 = d / 64 <;> simp [had]

/-- With no region in force a line's poison is that of its bytes (R390). -/
theorem State.lineAt_poison {s : State} (hs : s.NoFormat) (a : Nat) : (s.lineAt a).poison = s.poisoned a := by
  have hline : s.poisoned (a / 64 * 64) = s.poisoned a := by
    rw [State.poisoned, State.poisoned, Nat.mul_div_cancel _ (by decide : 0 < 64)]
  rw [← hline, State.lineAt]
  dsimp only
  split
  · exact Bool.or_false _
  · rw [hs.formatAt]; exact Bool.or_false _

/-- `n` data bytes from `d` written with the poison of their line (R98). -/
def State.writeData (s : State) (d n v : Nat) (bad : Bool) : State := (s.pset d n v).setPoison d bad

theorem State.writeData_fmtBase (s : State) (d n v : Nat) (bad : Bool) : (s.writeData d n v bad).fmtBase = s.fmtBase := rfl

theorem State.writeData_mem (s : State) (d n v : Nat) (bad : Bool) : (s.writeData d n v bad).mem = Memory.setNat s.mem d n v := rfl

theorem State.poisoned_writeData (s : State) (d n v a : Nat) (bad : Bool) :
    (s.writeData d n v bad).poisoned a = if a / 64 = d / 64 then bad else s.poisoned a :=
  (s.pset d n v).poisoned_setPoison d a bad

/-- Writing a line changes no byte of another. -/
theorem State.get_writeData_ne {s : State} (hs : Memory.wf s.mem = true) {d a : Nat} (hd : d % 64 = 0) (ha : a / 64 ≠ d / 64) (v : Nat)
    (bad : Bool) : Memory.get (s.writeData d 64 v bad).mem a = Memory.get s.mem a := by
  rw [State.writeData_mem, Memory.get_setNat _ _ _ _ _ hs, if_neg (by omega)]

/-- The bytes that line `i` of a block's destination is to hold. -/
def State.devValue (s : State) (b : DevBlock) (i : Nat) : Nat :=
  devLine b.ty (b.srcs.map (fun l => Memory.getNat s.mem (pieceAt l (64 * i)) 64))
/-- Whether line `i` of a block's destination is to be poisoned. -/
def State.devBad (s : State) (b : DevBlock) (i : Nat) : Bool := b.srcs.any (fun l => s.poisoned (pieceAt l (64 * i)))

/-- Where line `i` of the sources lies, and the VA it is read by. -/
def DevBlock.srcLines (b : DevBlock) (i : Nat) : List (Nat × Nat) :=
  (b.srcs.zip b.srcVas).map (fun x => (pieceAt x.1 (64 * i), x.2.toNat + 64 * i))

theorem DevBlock.srcLines_places {b : DevBlock} (hlen : b.srcVas.length = b.srcs.length) (i : Nat) :
    (b.srcLines i).map Prod.fst = b.srcs.map (fun l => pieceAt l (64 * i)) := by
  have hzip : (b.srcs.zip b.srcVas).map Prod.fst = b.srcs := List.map_fst_zip hlen.ge
  rw [DevBlock.srcLines, List.map_map]
  conv_rhs => rw [← hzip, List.map_map]
  rfl

/-- The developer reads a source line: what the caches hold of it is written back, and the access tracked. -/
def State.devSource (s : State) (b : DevBlock) (x : Nat × Nat) : State :=
  let p := s.devPlace b x.2 x.1 (b.msSrc.contains (x.1 / 2 ^ 16))
  (if s.memorySide p then s.recallFor p else s.cleanLine (scopeLevels 3 0 p.die) p.ctx p.va false).devTouch b p x.2 false

/-- The developer makes line `i` of the destination its own: no cache holds it any more, and the access is tracked. -/
def State.devDest (s : State) (b : DevBlock) (i : Nat) : State :=
  let p := s.devPlace b (b.dstVa.toNat + 64 * i) (pieceAt b.dst (64 * i)) (b.msDst.contains (pieceAt b.dst (64 * i) / 2 ^ 16))
  (s.recallFor p).devTouch b p (b.dstVa.toNat + 64 * i) true

/-- A line reduced, in its steps: the sources read, the destination taken, its bytes and its poison written. -/
theorem State.devReduce_steps (s : State) (b : DevBlock) (i : Nat) :
    let u := (b.srcLines i).foldl (fun u x => u.devSource b x) s
    s.devReduce b i
      = (u.devDest b i).writeData (pieceAt b.dst (64 * i)) 64 (devLine b.ty ((b.srcLines i).map (fun x => Memory.getNat u.mem x.1 64)))
          ((b.srcLines i).any (fun x => (u.lineAt x.1).poison)) := rfl

theorem State.KeepsBytes.devSource (s : State) (b : DevBlock) (x : Nat × Nat) : s.KeepsBytes (s.devSource b x) := by
  unfold State.devSource
  dsimp only
  refine .trans ?_ (.devTouch _ b _ x.2 false)
  split
  · exact .recallFor s _ 64
  · exact .cleanLine s _ _ _ false

theorem State.KeepsBytes.devDest (s : State) (b : DevBlock) (i : Nat) : s.KeepsBytes (s.devDest b i) :=
  .trans (.recallFor s _ 64) (.devTouch _ b _ _ true)

/-- The reduction of a line moves cached lines and tracks its accesses, and writes the sum and its poison to the destination. -/
theorem State.devReduce_eq {s : State} {b : DevBlock} (hs : s.NoFormat) (hlen : b.srcVas.length = b.srcs.length) (i : Nat) :
    ∃ u, s.KeepsBytes u ∧ s.devReduce b i = u.writeData (pieceAt b.dst (64 * i)) 64 (s.devValue b i) (s.devBad b i) := by
  have hu := State.KeepsBytes.foldl (fun u x => .devSource u b x) (b.srcLines i) s
  have hplaces := DevBlock.srcLines_places hlen i
  rw [State.devReduce_steps]
  generalize (b.srcLines i).foldl (fun u x => u.devSource b x) s = u at hu ⊢
  have hvalue : (b.srcLines i).map (fun x => Memory.getNat u.mem x.1 64) = b.srcs.map (fun l => Memory.getNat s.mem (pieceAt l (64 * i)) 64) := by
    have h := congrArg (List.map (fun a => Memory.getNat s.mem a 64)) hplaces
    rw [List.map_map, List.map_map] at h
    rw [hu.mem hs]
    exact h
  have hbad : (b.srcLines i).any (fun x => (u.lineAt x.1).poison) = s.devBad b i := by
    have h := congrArg (fun l => l.any s.poisoned) hplaces
    simp only [List.any_map] at h
    simp only [State.lineAt_poison (hu.noFormat hs), hu.poisoned]
    exact h
  rw [hvalue, hbad]
  exact ⟨_, hu.trans (.devDest u b i), rfl⟩

/-- The first `n` lines of a block's destination lie on line boundaries and apart from one another, and so do the sources' lines that are
read after them. -/
structure DevBlock.LinesApart (b : DevBlock) (n : Nat) : Prop where
  aligned : ∀ i < n, pieceAt b.dst (64 * i) % 64 = 0
  srcAligned : ∀ i < n, ∀ l ∈ b.srcs, pieceAt l (64 * i) % 64 = 0
  apart : ∀ i < n, ∀ j < i, pieceAt b.dst (64 * i) / 64 ≠ pieceAt b.dst (64 * j) / 64
  srcApart : ∀ i < n, ∀ j < i, ∀ l ∈ b.srcs, pieceAt l (64 * i) / 64 ≠ pieceAt b.dst (64 * j) / 64

theorem DevBlock.LinesApart.mono {b : DevBlock} {m n : Nat} (h : b.LinesApart n) (hmn : m ≤ n) : b.LinesApart m :=
  ⟨fun i hi => h.aligned i (hi.trans_le hmn), fun i hi => h.srcAligned i (hi.trans_le hmn), fun i hi => h.apart i (hi.trans_le hmn),
    fun i hi => h.srcApart i (hi.trans_le hmn)⟩

/-- `t` is `s` with the first `n` lines of block `b` reduced. -/
structure State.Reduced (s : State) (b : DevBlock) (n : Nat) (t : State) : Prop where
  noFormat : t.NoFormat
  wf : Memory.wf t.mem = true
  value : ∀ i < n, Memory.getNat t.mem (pieceAt b.dst (64 * i)) 64 = s.devValue b i % 2 ^ 512
  poisoned : ∀ i < n, t.poisoned (pieceAt b.dst (64 * i)) = s.devBad b i
  elsewhere : ∀ a, (∀ i < n, a / 64 ≠ pieceAt b.dst (64 * i) / 64) → Memory.get t.mem a = Memory.get s.mem a ∧ t.poisoned a = s.poisoned a

/-- A whole line with no byte among the reduced ones reads as before. -/
theorem State.Reduced.line {s t : State} {b : DevBlock} {n a : Nat} (h : s.Reduced b n t) (ha : a % 64 = 0)
    (hapart : ∀ i < n, a / 64 ≠ pieceAt b.dst (64 * i) / 64) : Memory.getNat t.mem a 64 = Memory.getNat s.mem a 64 :=
  Memory.getNat_congr a 64 fun j hj hj' => (h.elsewhere j (by rwa [show j / 64 = a / 64 by omega])).1

/-- The sources of a line that is still to be reduced stand as they did at first, and so do the line's sum and poison. -/
theorem State.Reduced.pending {s t : State} {b : DevBlock} {n : Nat} (h : s.Reduced b n t) (hb : b.LinesApart (n + 1)) :
    t.devValue b n = s.devValue b n ∧ t.devBad b n = s.devBad b n := by
  have hapart (l : List (Nat × Nat)) (hl : l ∈ b.srcs) : ∀ j < n, pieceAt l (64 * n) / 64 ≠ pieceAt b.dst (64 * j) / 64 :=
    fun j hj => hb.srcApart n n.lt_succ_self j hj l hl
  constructor
  · rw [State.devValue, State.devValue, List.map_congr_left fun l hl => h.line (hb.srcAligned n n.lt_succ_self l hl) (hapart l hl)]
  · exact Bool.eq_iff_iff.2 (by
      simp only [State.devBad, List.any_eq_true]
      exact exists_congr fun l => and_congr_right fun hl => by rw [(h.elsewhere _ (hapart l hl)).2])

/-- Reducing the next line. -/
theorem State.Reduced.step {s t : State} {b : DevBlock} {n : Nat} (h : s.Reduced b n t) (hlen : b.srcVas.length = b.srcs.length)
    (hb : b.LinesApart (n + 1)) : s.Reduced b (n + 1) (t.devReduce b n) := by
  obtain ⟨u, hu, heq⟩ := State.devReduce_eq (b := b) h.noFormat hlen n
  obtain ⟨hvalue, hbad⟩ := h.pending hb
  have hmem := hu.mem h.noFormat
  have hwf : Memory.wf u.mem = true := by rw [hmem]; exact h.wf
  have hd := hb.aligned n n.lt_succ_self
  have hother (a : Nat) (ha : a / 64 ≠ pieceAt b.dst (64 * n) / 64) :
      Memory.get (t.devReduce b n).mem a = Memory.get t.mem a ∧ (t.devReduce b n).poisoned a = t.poisoned a := by
    rw [heq, State.get_writeData_ne hwf hd ha, hmem, State.poisoned_writeData, if_neg ha, hu.poisoned]
    exact ⟨rfl, rfl⟩
  have hkept (i : Nat) (hi : i < n) := hb.apart n n.lt_succ_self i hi
  refine ⟨?noFormat, ?wf, fun i hi => ?value, fun i hi => ?poisoned, fun a ha => ?elsewhere⟩
  case noFormat => rw [heq, State.NoFormat, State.writeData_fmtBase]; exact hu.noFormat h.noFormat
  case wf => rw [heq, State.writeData_mem]; exact Memory.wf_setNat _ _ _ _ hwf
  case value =>
    rcases Nat.lt_succ_iff_lt_or_eq.1 hi with hlt | rfl
    · rw [← h.value i hlt]
      exact Memory.getNat_congr _ _ fun j hj hj' => (hother j (by have := hb.aligned i hi; have := hkept i hlt; omega)).1
    · rw [heq, hvalue, State.writeData_mem, Memory.getNat_setNat_same _ _ _ _ hwf, line_modulus]
  case poisoned =>
    rcases Nat.lt_succ_iff_lt_or_eq.1 hi with hlt | rfl
    · exact (hother _ (hkept i hlt).symm).2.trans (h.poisoned i hlt)
    · rw [heq, hbad, State.poisoned_writeData, if_pos rfl]
  case elsewhere =>
    obtain ⟨hget, hpoisoned⟩ := hother a (ha n n.lt_succ_self)
    obtain ⟨hget', hpoisoned'⟩ := h.elsewhere a fun i hi => ha i (Nat.lt_succ_of_lt hi)
    exact ⟨hget.trans hget', hpoisoned.trans hpoisoned'⟩

/-- The developer reduces a block line by line. -/
def State.devReduction (s : State) (b : DevBlock) (n : Nat) : State := (List.range n).foldl (fun u i => u.devReduce b i) s

theorem State.devReduction_succ (s : State) (b : DevBlock) (n : Nat) : s.devReduction b (n + 1) = (s.devReduction b n).devReduce b n := by
  rw [State.devReduction, List.range_succ, List.foldl_append]
  rfl

/-- After `n` of its steps the first `n` lines are reduced. -/
theorem State.reduced_devReduction {s : State} {b : DevBlock} (hs : s.NoFormat) (hwf : Memory.wf s.mem = true)
    (hlen : b.srcVas.length = b.srcs.length) (n : Nat) (hb : b.LinesApart n) : s.Reduced b n (s.devReduction b n) := by
  induction n with
  | zero => exact ⟨hs, hwf, nofun, nofun, fun _ _ => ⟨rfl, rfl⟩⟩
  | succ n ih => exact s.devReduction_succ b n ▸ (ih (hb.mono n.le_succ)).step hlen hb

/-! ## The block's events (R98, R99) -/

/-- The developer begins the block at the head of its stack's queue: it is reduced and marked. -/
theorem exec_developerBlockStart {s : State} {st : Nat} {b : DevBlock} {r : List DevBlock} (hst : s.site.unit = st)
    (hq : s.devq.get [] st = b :: r) (hb : b.begun = false) :
    let u := s.devReduction b (b.len / 64)
    exec .developerBlockStart s = .next { u with devq := u.devq.put st ({ b with begun := true } :: r) } := by
  have harm : exec .developerBlockStart s = execDeveloperBlockStart s := rfl
  rw [harm, execDeveloperBlockStart, hst, hq]
  dsimp only
  rw [hb]
  rfl

/-- Clean bytes stored as a release leave in memory what they write. -/
theorem State.headsNew_writeBytes_mem (s : State) (pa n v : Nat) (ks : List Nat) (h : Head) :
    ((s.writeBytes pa n v false).headsNew ks h).mem = Memory.setNat s.mem pa n v := rfl

/-- The developer takes the word of the flag: no cache holds its line any more, and the access is tracked. -/
def State.devFlag (s : State) (b : DevBlock) : State :=
  let p := s.devPlace b b.flagVa.toNat b.flag b.msFlag
  (s.recallFor p 8).devWord b p b.flagVa.toNat true false

theorem State.KeepsBytes.devFlag (s : State) (b : DevBlock) : s.KeepsBytes (s.devFlag b) :=
  .trans (.recallFor s _ 8) (.devWord _ b _ _ true false)

/-- The developer stores the flag of a begun block, which leaves the queue. -/
theorem exec_developerFlagStore {s : State} {st : Nat} {b : DevBlock} {r : List DevBlock} (hst : s.site.unit = st)
    (hq : s.devq.get [] st = b :: r) (hb : b.begun = true) :
    ∃ t, exec .developerFlagStore s = .next t ∧ t.devq.get [] st = r ∧ t.mem = Memory.setNat (s.devFlag b).mem b.flag 8 b.fval.toNat := by
  have harm : exec .developerFlagStore s = execDeveloperFlagStore s := rfl
  rw [harm, execDeveloperFlagStore, hst, hq]
  dsimp only
  rw [hb]
  exact ⟨_, rfl, Tbl.get_put_same _ _ _ _, (s.devFlag b).headsNew_writeBytes_mem b.flag 8 b.fval.toNat (wordsOf b.flag 8) (s.flagHead b)⟩

/-- The flag reads as stored, and no other byte changes. -/
theorem developerFlagStore_stores {s : State} {st : Nat} {b : DevBlock} {r : List DevBlock} (hwf : Memory.wf s.mem = true) (hs : s.NoFormat)
    (hst : s.site.unit = st) (hq : s.devq.get [] st = b :: r) (hb : b.begun = true) :
    ∃ t, exec .developerFlagStore s = .next t ∧ t.devq.get [] st = r ∧ Memory.getNat t.mem b.flag 8 = b.fval.toNat
      ∧ ∀ a, a < b.flag ∨ b.flag + 8 ≤ a → Memory.get t.mem a = Memory.get s.mem a := by
  obtain ⟨t, hexec, htq, hmem⟩ := exec_developerFlagStore hst hq hb
  rw [(State.KeepsBytes.devFlag s b).mem hs] at hmem
  refine ⟨t, hexec, htq, ?_, fun a ha => ?_⟩
  · rw [hmem, Memory.getNat_setNat_same _ _ _ _ hwf]
    exact Nat.mod_eq_of_lt b.fval.isLt
  · rw [hmem, Memory.get_setNat _ _ _ _ _ hwf, if_neg (by omega)]

/-- Settles O44: the reduction is followed line by line (`State.Reduced`), its elements through the tree of R97 (`devTree_eq`), and an F32
sum is kept by its last rounding (`Fmt.round_decode`). -/
theorem developerEvents : Obligations.DeveloperEvents := by
  refine ⟨?begins, ?reduces, ?stores, fun ty v i hty _ hi => devLine_element hty v hi, ?integers,
    fun _ _ _ _ _ _ _ _ _ => ⟨rfl, rfl, rfl, rfl, rfl, rfl, rfl, rfl⟩, fun _ _ => devElement_f32_of_finite,
    fun _ _ => devElement_b16_of_finite, fun _ => ⟨devElement_f32_of_clashes, devElement_b16_of_clashes⟩⟩
  case begins =>
    intro s st b r hst hq hb
    exact ⟨_, exec_developerBlockStart hst hq hb, Tbl.get_put_same _ _ _ _⟩
  case reduces =>
    intro s st b r hok hst hq hb hs hlen _ dst src apart haligned hapart
    have hlines : b.LinesApart (b.len / 64) :=
      { aligned := fun i hi => (haligned i hi).1
        srcAligned := fun i hi => (haligned i hi).2
        apart := fun i hi j hj => (hapart i hi j hj).1
        srcApart := fun i hi j hj => (hapart i hi j hj).2 }
    have hred := State.reduced_devReduction hs hok.1 hlen _ hlines
    exact ⟨_, exec_developerBlockStart hst hq hb, fun i hi => ⟨hred.value i hi, hred.poisoned i hi⟩, hred.elsewhere⟩
  case stores =>
    intro s st b r hok hst hq hb hs
    exact developerFlagStore_stores hok.1 hs hst hq hb
  case integers =>
    intro v _ hlen
    exact ⟨devTree_eq_sum_mod (by decide) hlen, devTree_eq_sum_mod (by decide) hlen⟩

end Sys2Proof.Machine
end

section
namespace Sys2Proof.Machine

/-! ## The end of a cycle (R261) -/

theorem State.park_cycle (s : State) (g kind : Nat) (f : FaultInfo) : (s.park g kind f).cycle = s.cycle := by
  simp only [State.park, State.modStream_cycle, State.modLaunchOf_cycle]

theorem State.latePoison_cycle (s : State) (g : Nat) (f : FaultInfo) : (s.latePoison g f).cycle = s.cycle := by
  unfold State.latePoison
  split
  · rfl
  · exact s.park_cycle g 0 f

theorem State.vloadPoison_cycle (s : State) (g t line : Nat) (a : SpAcc) : (s.vloadPoison g t line a).cycle = s.cycle := by
  rw [State.vloadPoison, State.latePoison_cycle, State.modCore_cycle]

/-- A scratchpad access takes no time of its own. -/
theorem State.access_cycle (s : State) (g : Nat) (a : SpAcc) : (s.access g a).1.cycle = s.cycle := by
  unfold State.access
  cases a.op with
  | load r wk =>
    dsimp only
    split
    · rw [State.latePoison_cycle, State.modStream_cycle]
    · rfl
  | store n d => rfl
  | vload t m got bad =>
    dsimp only
    split <;> rfl
  | vstore t peek m rows => rfl

theorem State.accessDue_cycle (s : State) (g : Nat) : (s.accessDue g).cycle = s.cycle := by
  unfold State.accessDue
  rw [State.modStream_cycle]
  refine List.foldlRecOn _ _ (motive := fun acc : State × List SpAcc => acc.1.cycle = s.cycle) rfl ?_
  intro acc hacc a _
  dsimp only
  split
  · split
    · split
      · exact (State.vloadPoison_cycle _ _ _ _ _).trans hacc
      · exact hacc
    · exact (State.access_cycle _ _ _).trans hacc
  · exact hacc

/-- The end of a cycle begins the next. -/
theorem State.tick_cycle (s : State) : s.tick.cycle = s.cycle + 1 := by
  have haccs : (s.allStreams.foldl State.accessDue s).cycle = s.cycle :=
    List.foldlRecOn s.allStreams State.accessDue (motive := fun u : State => u.cycle = s.cycle) rfl
      (fun u hu g _ => (u.accessDue_cycle g).trans hu)
  simp only [State.tick, haccs]

/-! ## Forms of one effect (R257, R262) -/

/-- The meaning of each of these forms is a plain slot, and executing it has the effect that the slot names. -/
theorem issues_of_plain {i : Instr} {h : Hdr} {s t : State} {rs : List PReg} {ws : List (PReg × Nat)}
    (hi : exec i s = (s.plain h rs ws (.go t)).done s) (hready : s.ready h rs ws) : Issues i s t := by
  rw [Issues, hi, State.plain_ready hready, Act.done_go]

/-! ## QCUT (R258) -/

/-- The entries that a cut over tags `lo` to `hi` in cycle `now` reaches. -/
def QEntry.Cuttable (e : QEntry) (lo hi now : Nat) : Prop :=
  ∃ tag, tagOf e.instr = some tag ∧ lo ≤ tag ∧ tag ≤ hi ∧ e.entered < now ∧ e.started = false

theorem QEntry.cut_of_cuttable {e : QEntry} {lo hi now : Nat} (h : e.Cuttable lo hi now) :
    e.cut lo hi now = { e with cancel := true, fault := none } := by
  obtain ⟨tag, htag, hlo, hhi, hentered, hstarted⟩ := h
  simp [QEntry.cut, htag, hlo, hhi, hentered, hstarted]

theorem QEntry.cut_of_not_cuttable {e : QEntry} {lo hi now : Nat} (h : ¬ e.Cuttable lo hi now) : e.cut lo hi now = e := by
  unfold QEntry.cut
  split
  case h_1 tag htag =>
    refine if_neg fun hcut => h ?_
    obtain ⟨hlo, hhi, hentered, hstarted⟩ := hcut
    exact ⟨tag, htag, hlo, hhi, hentered, by simpa using hstarted⟩
  case h_2 => rfl

/-! ## ICINV (R125) -/

theorem icinvCycles_eq_getD (n : Nat) : icinvCycles n = [4, 136, 16, 220, 620].getD n 620 := by
  match n with
  | 0 | 1 | 2 | 3 | 4 => rfl
  | _ + 5 => rfl

theorem icinvCycles_local {n : Nat} (hn : n ≤ 1) : icinvCycles n = [4, 136].getD n 4 := by
  obtain rfl | rfl : n = 0 ∨ n = 1 := by omega
  all_goals rfl

/-- The state after an ICINV of scope `sc` and address register `sa` has issued. -/
def State.invalidating (s : State) (sa : BitVec 5) (sc : BitVec 3) (wait : Nat) : State :=
  s.modMe (fun t => { t with gate := { t.gate with retire := s.cycle + wait, icinv := some (sc.toNat, s.S sa) } })

/-- A scope beyond a line and a granule reads no address. -/
theorem exec_icinv_wide (h : Hdr) (sa : BitVec 5) {sc : BitVec 3} (hsc : 1 < sc.toNat) (s : State) :
    exec (.icinv h sa sc) s = (s.plain h [] [] (.go (s.invalidating sa sc (icinvCycles sc.toNat)))).done s := by
  have harm : exec (.icinv h sa sc) s = execIcinv h sa sc s := rfl
  have hnarrow : decide (sc.toNat ≤ 1) = false := decide_eq_false (by omega)
  rw [harm, execIcinv]
  simp only [hnarrow]
  rfl

/-- A line or a granule is named by an address below 2^48. -/
theorem exec_icinv_local (h : Hdr) (sa : BitVec 5) {sc : BitVec 3} (hsc : sc.toNat ≤ 1) (s : State) :
    exec (.icinv h sa sc) s = (s.plain h [s.me.sp sa] []
      (if (s.S sa).toNat < 2 ^ 48 then .go (s.invalidating sa sc (icinvCycles sc.toNat))
       else .fault { code := .perm, addr := s.S sa, info := 8 })).done s := by
  have harm : exec (.icinv h sa sc) s = execIcinv h sa sc s := rfl
  have hfar : (s.me.sreg sa).extractLsb' 48 16 = 0 ↔ (s.S sa).toNat < 2 ^ 48 := high_eq_zero_iff _
  rw [harm, execIcinv]
  simp only [decide_eq_true hsc, if_true, Bool.true_and, bne_iff_ne, ne_eq, hfar, ite_not]
  rfl

/-! ## HALT (R262) -/

theorem Stream.aqFault_eq_none {t : Stream} (h : ∀ e ∈ t.aq, e.fault = none) : t.aqFault = none :=
  List.findSome?_eq_none_iff.2 h

/-- The writes of a stream stand performed at the level. -/
theorem State.perform_level {s : State} {g lv : Nat} {k : Track} (hk : k ∈ (s.perform g lv).tracks) (hg : k.gsid = g)
    (hwrite : k.write = true) : lv ≤ k.level := by
  obtain ⟨k₀, -, rfl⟩ := List.mem_map.1 hk
  by_cases h : k₀.gsid = g ∧ k₀.write = true ∧ k₀.level < lv
  · rw [if_pos h]
  · rw [if_neg h] at hg hwrite ⊢
    exact not_lt.1 fun hlt => h ⟨hg, hwrite, hlt⟩

/-- The stream that a HALT leaves. -/
def Stream.halting (t : Stream) : Stream := { t with status := .halted, xfer := {}, region := t.region + 1 }

theorem exec_halt {h : Hdr} {s : State} (hready : s.ready h [] []) (hkill : s.me.task.killed = false) (hcharge : s.me.charge = none)
    (haq : ∀ e ∈ s.me.aq, e.fault = none) :
    exec (.halt h) s = .next { (s.perform s.cur 4).modMe Stream.halting with verdict := .issued } := by
  have harm : exec (.halt h) s = execHalt h s := rfl
  rw [harm, execHalt, State.plain_ready hready]
  simp only [hkill, Bool.false_eq_true, if_false, Stream.aqFault_eq_none haq]
  rw [State.sync_none hcharge, Act.done_go]
  rfl

/-! ## TRAP (R262, R372, R375) -/

/-- The stream parked with record `r`. -/
def Stream.parkedWith (t : Stream) (r : FRec) : Stream :=
  { t with status := .parked, parkedIn := if t.status = .held then .running else t.status, pend := some r, parkedBy := some r }

theorem State.stream_modLaunchOf (s : State) (c : Nat) (f : Launch → Launch) (g : Nat) : (s.modLaunchOf c f).stream g = s.stream g := by
  simp only [State.stream, State.core, State.modLaunchOf_cores]

/-- Parking leaves the stream with its record pending. -/
theorem State.stream_park (s : State) (g kind : Nat) (f : FaultInfo) :
    (s.park g kind f).stream g = (s.stream g).parkedWith (s.record g kind f) := by
  rw [State.park, State.stream_modStream_same, State.stream_modLaunchOf]
  rfl

theorem State.park_cur (s : State) (g kind : Nat) (f : FaultInfo) : (s.park g kind f).cur = s.cur := by
  simp only [State.park, State.modStream_cur, State.modLaunchOf_cur]

theorem State.park_mem (s : State) (g kind : Nat) (f : FaultInfo) : (s.park g kind f).mem = s.mem := by
  simp only [State.park, State.modStream_mem, State.modLaunchOf_mem]

theorem State.me_park (s : State) (kind : Nat) (f : FaultInfo) :
    (s.park s.cur kind f).me = s.me.parkedWith (s.record s.cur kind f) := by
  rw [State.me, State.park_cur, State.stream_park]
  rfl

/-- What a TRAP n reports. -/
def State.trapInfo (s : State) (n : BitVec 16) : FaultInfo := { code := .trap, word := s.word, addr := n.setWidth 64 }

theorem trap_parks {h : Hdr} {s : State} (n : BitVec 16) (hready : s.ready h [] []) :
    ∃ t, exec (.trap h n) s = .next t ∧ t.verdict = .issued ∧ t.me = s.me.parkedWith (s.record s.cur 1 (s.trapInfo n)) ∧ t.mem = s.mem :=
  ⟨_, issues_of_plain rfl hready, rfl, s.me_park 1 (s.trapInfo n), s.park_mem s.cur 1 (s.trapInfo n)⟩

/-- Settles O20: each form is a plain slot whose effect is read off (`issues_of_plain`); the commands that QCUT cancels are told apart by
`QEntry.Cuttable`, and TRAP parks its stream by `State.me_park`. WORD and NUM of the record are as log entry 17 has them. -/
theorem systemForms : Obligations.SystemForms := by
  refine ⟨fun h s => ⟨fun hready => ⟨issues_of_plain rfl hready, issues_of_plain rfl hready, fun n => issues_of_plain rfl hready,
      issues_of_plain rfl hready, fun hi lo => Leaves.of (issues_of_plain rfl hready) rfl, fun sa sc hsc => ?wide⟩,
    fun sa sc hready hsc => ⟨fun hnear => ?near, fun hfar => ?far⟩, fun e lo hi now => ⟨fun tag htag hlo hhi hent hst => ?cut, fun hkeep => ?kept⟩,
    fun hready hkill hcharge haq => ?halt, fun sd hready => ?rdcyc, fun u hu => hu ▸ s.tick_cycle⟩, fun h n s hready => ?trap⟩
  case wide =>
    rw [← icinvCycles_eq_getD]
    exact issues_of_plain (exec_icinv_wide h sa hsc s) hready
  case near =>
    rw [← icinvCycles_local hsc]
    have hexec := exec_icinv_local h sa hsc s
    rw [if_pos hnear] at hexec
    exact issues_of_plain hexec hready
  case far =>
    rw [Faults, exec_icinv_local h sa hsc s, State.plain_ready hready, if_neg (not_lt.2 hfar), Act.done_fault]
  case cut => exact QEntry.cut_of_cuttable ⟨tag, htag, hlo, hhi, hent, hst⟩
  case kept =>
    refine QEntry.cut_of_not_cuttable ?_
    rintro ⟨tag, htag, hlo, hhi, hentered, hstarted⟩
    rcases hkeep with hnone | ⟨tag', htag', hout⟩ | hlate | hbegun
    · simp [htag] at hnone
    · obtain rfl : tag = tag' := Option.some.inj (htag.symm.trans htag')
      omega
    · omega
    · simp [hstarted] at hbegun
  case halt =>
    refine ⟨_, exec_halt hready hkill hcharge haq, rfl, ?_, fun k hk => State.perform_level hk, rfl, ?_⟩
    · rw [State.verdict_me, State.me_modMe]; rfl
    · rw [State.verdict_myCore, State.modMe_myCore]; rfl
  case rdcyc =>
    have harm : exec (.rdcyc h sd) s = execRdcyc h sd s := rfl
    rw [Issues, harm, execRdcyc, State.alu_ready hready, Act.done_go]
  case trap =>
    obtain ⟨t, hexec, hissued, hme, hmem⟩ := trap_parks n hready
    refine ⟨t, s.record s.cur 1 (s.trapInfo n), hexec, hissued, ?_⟩
    rw [hme]
    exact ⟨rfl, rfl, rfl, rfl, rfl, rfl, rfl, fun hidle => if_neg hidle, rfl, rfl, rfl, rfl, rfl, hmem⟩

end Sys2Proof.Machine
end

section
namespace Sys2Proof.Machine

/-! ## The bytes of a row that a mask covers (R160, R161) -/

/-- The number whose bytes below `n` are 255 where bits of `m` are set, and 0 elsewhere. -/
def maskNat (m : BitVec 64) (n : Nat) : Nat :=
  (List.range n).foldl (fun a i => if m.getLsbD i then a + 255 * 2 ^ (8 * i) else a) 0

theorem wideMask_eq (m : BitVec 64) : wideMask m = BitVec.ofNat 512 (maskNat m 64) := rfl

theorem maskNat_succ (m : BitVec 64) (n : Nat) : maskNat m (n + 1) = 2 ^ (8 * n) * (if m.getLsbD n then 255 else 0) + maskNat m n := by
  rw [maskNat, List.range_succ, List.foldl_append]
  change (if m.getLsbD n then maskNat m n + 255 * 2 ^ (8 * n) else maskNat m n) = _
  split <;> ring

theorem maskNat_lt (m : BitVec 64) (n : Nat) : maskNat m n < 2 ^ (8 * n) := by
  induction n with
  | zero => exact Nat.one_pos
  | succ n ih =>
    rw [maskNat_succ, mul_add, pow_add]
    split <;> omega

theorem testBit_maskNat (m : BitVec 64) {n b : Nat} (hb : b < 8 * n) : (maskNat m n).testBit b = m.getLsbD (b / 8) := by
  induction n with
  | zero => omega
  | succ n ih =>
    rw [maskNat_succ, Nat.testBit_two_pow_mul_add _ (maskNat_lt m n)]
    split
    case isTrue hlow => exact ih hlow
    case isFalse hhigh =>
      rw [show b / 8 = n by omega]
      have hbit : b - 8 * n < 8 := by omega
      split
      case isTrue hset => rw [hset, show 255 = 2 ^ 8 - 1 from rfl, Nat.testBit_two_pow_sub_one, decide_eq_true hbit]
      case isFalse hclear => rw [Nat.zero_testBit, Bool.eq_false_iff.2 hclear]

/-- A bit of a row lies in the byte that its mask bit governs. -/
theorem getLsbD_wideMask (m : BitVec 64) {b : Nat} (hb : b < 512) : (wideMask m).getLsbD b = m.getLsbD (b / 8) := by
  rw [wideMask_eq, BitVec.getLsbD_ofNat, decide_eq_true hb, Bool.true_and, testBit_maskNat m (by omega)]

/-- A written row takes the bytes of its mask, and keeps the others. -/
theorem Line.getLsbD_merge (old new : Line) (m : BitVec 64) {b : Nat} (hb : b < 512) :
    (old.merge new m).data.getLsbD b = if m.getLsbD (b / 8) then new.data.getLsbD b else old.data.getLsbD b := by
  unfold Line.merge
  split
  case isTrue hm => simp [hm]
  case isFalse =>
    simp only [BitVec.getLsbD_or, BitVec.getLsbD_and, BitVec.getLsbD_not, getLsbD_wideMask m hb, decide_eq_true hb, Bool.true_and]
    cases m.getLsbD (b / 8) <;> simp

/-- A row written whole is the new one. -/
theorem Line.merge_whole (old new : Line) : (old.merge new (BitVec.allOnes 64)).data = new.data := by
  refine BitVec.eq_of_getLsbD_eq fun b hb => ?_
  have hbyte : b / 8 < 64 := by omega
  rw [Line.getLsbD_merge old new _ hb, if_pos ((BitVec.getLsbD_allOnes).trans (decide_eq_true hbyte))]

/-! ## Tables written entry by entry -/

theorem Tbl.get_foldl_put {α : Type} (f : Nat → α) (d : α) (ks : List Nat) (t : Tbl α) (i : Nat) :
    (ks.foldl (fun r k => r.put k (f k)) t).get d i = if i ∈ ks then f i else t.get d i := by
  induction ks generalizing t with
  | nil => simp
  | cons k ks ih =>
    rw [List.foldl_cons, ih, Tbl.get_put]
    by_cases hi : i ∈ ks
    · simp [hi]
    · by_cases hk : i = k
      · simp [hk]
      · simp [hi, hk]

theorem Tbl.get_tabulated {α : Type} (f : Nat → α) (d : α) {ks : List Nat} {i : Nat} (hi : i ∈ ks) :
    (⟨ks.map (fun k => (k, f k))⟩ : Tbl α).get d i = f i := by
  induction ks with
  | nil => cases hi
  | cons k ks ih =>
    by_cases hk : k = i
    · simp [Tbl.get, Tbl.find?, Tbl.findIn, hk]
    · have hrest := ih (List.mem_of_ne_of_mem (Ne.symm hk) hi)
      simpa [Tbl.get, Tbl.find?, Tbl.findIn, hk] using hrest

/-! ## Publication (R169) -/

/-- A tile register after its reserved write has been published. -/
def Tile.published (x : Tile) (w : TWrite) : Tile :=
  { x with
    row := if w.exec then w.rows.keys.foldl (fun (r : Tbl Line) i =>
        r.put i ((x.line i).merge (w.rows.get {} i) (w.mask.get (BitVec.allOnes 64) i))) x.row else x.row
    wcnt := x.wcnt + 1, rdrem := if w.rdn == 15 then 0 else w.rdn, isOpen := w.rdn == 15, held := 0, clb := 0, wpend := false }

theorem Core.publish_eq {k : Core} {t : Nat} {w : TWrite} (hw : k.twrites.find? t = some w) :
    k.publish t = { k with twrites := k.twrites.drop t, tiles := k.tiles.put t ((k.tile t).published w) } := by
  unfold Core.publish
  rw [hw]
  rfl

/-- The rows that an executed write brings are merged, the others stay. -/
theorem Tile.line_published {x : Tile} {w : TWrite} (hexec : w.exec = true) (i : Nat) : (x.published w).line i =
    if i ∈ w.rows.keys then (x.line i).merge (w.rows.get {} i) (w.mask.get (BitVec.allOnes 64) i) else x.line i := by
  rw [Tile.line, Tile.published, if_pos hexec]
  exact Tbl.get_foldl_put _ _ _ _ i

theorem Tile.published_readers (x : Tile) {w : TWrite} (h : w.rdn ≠ 15) : (x.published w).rdrem = w.rdn ∧ (x.published w).isOpen = false := by
  have hrdn : (w.rdn == 15) = false := beq_eq_false_iff_ne.2 h
  rw [Tile.published, hrdn]
  exact ⟨rfl, rfl⟩

theorem Tile.published_open (x : Tile) {w : TWrite} (h : w.rdn = 15) : (x.published w).rdrem = 0 ∧ (x.published w).isOpen = true := by
  rw [Tile.published, h]
  exact ⟨rfl, rfl⟩

section
variable {k : Core} {t : Nat} {w : TWrite} (hw : k.twrites.find? t = some w)
include hw

theorem Core.tile_publish : (k.publish t).tile t = (k.tile t).published w := by
  rw [Core.publish_eq hw]
  exact Tbl.get_put_same _ _ _ _

theorem Core.twrites_publish : (k.publish t).twrites.find? t = none := by
  rw [Core.publish_eq hw]
  exact Tbl.find?_drop_same _ _

/-- A publication touches its own register and reservation. -/
theorem Core.publish_other {x : Nat} (hx : x ≠ t) :
    (k.publish t).tile x = k.tile x ∧ (k.publish t).twrites.find? x = k.twrites.find? x := by
  rw [Core.publish_eq hw]
  exact ⟨Tbl.get_put_ne _ _ _ _ _ hx, Tbl.find?_drop_ne _ _ _ hx⟩

theorem Core.publish_frame : (k.publish t).streams = k.streams ∧ (k.publish t).sp = k.sp ∧ (k.publish t).xt = k.xt := by
  rw [Core.publish_eq hw]
  exact ⟨rfl, rfl, rfl⟩

end

/-! ## Landings (R169, R170, R174) -/

/-- A change of a core is told by what it makes of the core as it stands. -/
theorem State.modCore_const (s : State) (c : Nat) (f : Core → Core) : s.modCore c f = s.modCore c (fun _ => f (s.core c)) := rfl

/-- A write that is due lands where no read in progress holds its register. -/
theorem Core.lands_due {k : Core} {t due now : Nat} (hdue : due ≤ now) (hread : k.readOn t = false) : k.lands t due now = true := by
  simp [Core.lands, hdue, hread]

/-- R169: a reserved write that is due, with its bank awake and no read in progress, is published. -/
theorem exec_tileLanding {s : State} {c t d : Nat} {w : TWrite} (hc : s.site.unit = c) (ht : s.site.sub = t)
    (hw : (s.core c).twrites.find? t = some w) (hdue : w.due = some d) (hd : d ≤ s.cycle) (hbank : (s.core c).BankReady s.cycle t)
    (hread : (s.core c).readOn t = false) :
    exec .tileLanding s = .next (s.modCore c (fun _ => ((s.core c).accessed s.cycle t).publish t)) := by
  have harm : exec .tileLanding s = execTileLanding s := rfl
  rw [harm, execTileLanding, hc, ht]
  dsimp only
  rw [State.modCore_const, hw]
  simp only [hdue, Core.lands_due hd hread, Core.touch_ready hbank, if_true]

/-- What the landing of write `w` leaves of core `k`. -/
theorem Core.landed {k : Core} {t : Nat} {w : TWrite} (now : Nat) (hw : k.twrites.find? t = some w) :
    let k' := (k.accessed now t).publish t
    k'.tile t = (k.tile t).published w ∧ k'.twrites.find? t = none
      ∧ (∀ x, x ≠ t → k'.tile x = k.tile x ∧ k'.twrites.find? x = k.twrites.find? x) ∧ k'.streams = k.streams ∧ k'.sp = k.sp := by
  have hw' : (k.accessed now t).twrites.find? t = some w := hw
  obtain ⟨hstreams, hsp, -⟩ := Core.publish_frame hw'
  exact ⟨Core.tile_publish hw', Core.twrites_publish hw', fun x hx => Core.publish_other hw' hx, hstreams, hsp⟩

/-! ## The transcendental unit (R217) -/

theorem exec_xtEntryStart {s : State} {c : Nat} {e : XEntry} {r : List XEntry} (hc : s.site.unit = c) (hxt : (s.core c).xt = e :: r)
    (hidle : e.start = none) :
    exec .xtEntryStart s = .next (s.modCore c (fun _ => { s.core c with xt := { e with start := some s.cycle } :: r })) := by
  have harm : exec .xtEntryStart s = execXtEntryStart s := rfl
  rw [harm, execXtEntryStart, hc, State.modCore_const, hxt]
  simp only [hidle, Option.isNone_none, if_true]

/-- What an entry of the unit computes from. -/
def XEntry.operands (e : XEntry) : VSrc := { a := e.src, b := .empty, t := .empty, tap := false, mask := e.mask, sval := 0 }

/-- The reserved write of register `t` takes the whole result of entry `e`, a form with fields `v`, in cycle `now`. -/
def Core.takesResult (k : Core) (e : XEntry) (r : List XEntry) (v : Tv) (now : Nat) : Core :=
  { k with
    twrites := k.twrites.mod { rdn := v.rdn, exec := e.exec } v.td.toNat (fun t =>
      { t with rows := (vresult e.instr v e.operands).1, mask := (vresult e.instr v e.operands).2, due := some now })
    xt := r }

/-- R217: an executed entry whose cycles have passed, on a core that runs, with the bank awake and no read in progress, is published. -/
theorem exec_xtEntryPublish {s : State} {c a : Nat} {e : XEntry} {r : List XEntry} {h : Hdr} {v : Tv} (hc : s.site.unit = c)
    (hxt : (s.core c).xt = e :: r) (hstart : e.start = some a) (hform : tvOf e.instr = some (h, v)) (hexec : e.exec = true)
    (hdue : a + e.cycles ≤ s.cycle) (hbank : (s.core c).BankReady s.cycle v.td.toNat) (hread : (s.core c).readOn v.td.toNat = false)
    (hruns : (s.core c).stopped = false) :
    exec .xtEntryPublish s = .next (s.modCore c (fun _ =>
      (((s.core c).accessed s.cycle v.td.toNat).takesResult e r v s.cycle).publish v.td.toNat)) := by
  have harm : exec .xtEntryPublish s = execXtEntryPublish s := rfl
  rw [harm, execXtEntryPublish, hc, State.modCore_const, hxt]
  simp only [hstart, hform, Core.lands_due hdue hread, hruns, Core.touch_ready hbank, hexec, Bool.not_true, Bool.false_eq_true, if_false, if_true]
  rw [Core.takesResult, hexec]
  rfl

/-- The write of an executed entry, as it is published: the readers and the execution are those that were reserved. -/
theorem Core.find?_takesResult {k : Core} {e : XEntry} {v : Tv}
    (hres : ∀ w, k.twrites.find? v.td.toNat = some w → w.rdn = v.rdn ∧ w.exec = true) (hexec : e.exec = true) (r : List XEntry) (now : Nat) :
    ∃ w, (k.takesResult e r v now).twrites.find? v.td.toNat = some w ∧ w.rdn = v.rdn ∧ w.exec = true
      ∧ w.rows = (vresult e.instr v e.operands).1 ∧ w.mask = (vresult e.instr v e.operands).2 := by
  have hold : (k.twrites.get { rdn := v.rdn, exec := e.exec } v.td.toNat).rdn = v.rdn
      ∧ (k.twrites.get { rdn := v.rdn, exec := e.exec } v.td.toNat).exec = true := by
    unfold Tbl.get
    cases hfind : k.twrites.find? v.td.toNat with
    | none => exact ⟨rfl, hexec⟩
    | some w => exact hres w hfind
  exact ⟨_, Tbl.find?_put_same _ _ _, hold.1, hold.2, rfl, rfl⟩

/-- A form's result brings every row. -/
theorem vresult_row (i : Instr) (v : Tv) (x : VSrc) {r : Nat} (hr : r < 32) :
    r ∈ (vresult i v x).1.keys ∧ (vresult i v x).1.get {} r = vrow i v x r
      ∧ (vresult i v x).2.get (BitVec.allOnes 64) r = vbytes i v x.mask r := by
  have hmem : r ∈ List.range 32 := List.mem_range.2 hr
  refine ⟨?_, Tbl.get_tabulated _ _ hmem, Tbl.get_tabulated _ _ hmem⟩
  simpa [vresult, Tbl.keys, List.map_map, Function.comp_def] using hr

/-- A form without a mask writes every byte. -/
theorem vbytes_unmasked (i : Instr) {v : Tv} (hv : v.men = 0) (m : Row) (r : Nat) : vbytes i v m r = BitVec.allOnes 64 := by
  unfold vbytes
  split
  · rfl
  · simp [hv]

/-- Where a whole result is published, each row is the form's. -/
theorem Tile.line_published_result {x : Tile} {w : TWrite} {i : Instr} {v : Tv} {o : VSrc} (hexec : w.exec = true)
    (hrows : w.rows = (vresult i v o).1) (hmask : w.mask = (vresult i v o).2) (hv : v.men = 0) {r : Nat} (hr : r < 32) :
    ((x.published w).line r).data = (vrow i v o r).data := by
  obtain ⟨hkey, hrow, hbytes⟩ := vresult_row i v o hr
  rw [Tile.line_published hexec, hrows, hmask, if_pos hkey, hrow, hbytes, vbytes_unmasked i hv, Line.merge_whole]

/-! ## ICINV (R125) -/

/-- The I-cache of a core after lines have been dropped. -/
theorem State.icache_dropIcache (s : State) (hit : Nat → ILine → Bool) (c : Nat) :
    ((s.dropIcache hit).core c).icache.entries = (s.core c).icache.entries.filter (fun e => !hit c e.2) := by
  obtain ⟨fs, heq⟩ := s.dropIcache_eq hit
  rw [heq]
  simp only [State.core, Tbl.get, Tbl.find?_map]
  cases s.cores.find? c with
  | none => rfl
  | some k => rfl

theorem State.icache_modStream (s : State) (g : Nat) (f : Stream → Stream) (c : Nat) :
    ((s.modStream g f).core c).icache = (s.core c).icache := by
  by_cases hc : c = g / 4
  · rw [hc, State.modStream, State.core_modCore_same]; rfl
  · rw [State.modStream, State.core_modCore_ne _ _ _ _ hc]

/-- A line is in the target of an ICINV. -/
theorem icinvHit_iff (ctx sc : Nat) (a : Word) (l : ILine) : icinvHit ctx sc a l = true ↔
    l.ctx = ctx ∧ (2 ≤ sc ∨ sc = 1 ∧ l.va / 1024 = a.toNat / 65536 ∨ sc = 0 ∧ l.va = a.toNat / 64) := by
  match sc with
  | 0 => simp [icinvHit]
  | 1 => simp [icinvHit]
  | _ + 2 => simp [icinvHit]

/-- The cores that an ICINV of core `d` reaches. -/
theorem mem_icinvCores {c sc : Nat} (hc : c < 240) (hsc : sc ≤ 4) (d : Nat) : c ∈ icinvCores d sc ↔
    sc = 4 ∨ sc = 3 ∧ c / 60 = d / 60 ∨ sc ≤ 2 ∧ c = d := by
  match sc with
  | 0 | 1 | 2 => simp [icinvCores]
  | 3 =>
    have hdie : (∃ i < 60, 60 * (d / 60) + i = c) ↔ c / 60 = d / 60 :=
      ⟨by rintro ⟨i, hi, rfl⟩; omega, fun h => ⟨c % 60, by omega, by omega⟩⟩
    simp [icinvCores, dieOf, hdie]
  | 4 => simp [icinvCores, hc]
  | _ + 5 => omega

/-- The stream after its ICINV has retired. -/
def Stream.invalidated (t : Stream) : Stream := { t with gate := { t.gate with retire := 0, icinv := none } }

theorem exec_icinvComplete {s : State} {g sc : Nat} {a : Word} (hg : s.site.unit = g) (hpend : (s.stream g).gate.icinv = some (sc, a)) :
    exec .icinvComplete s = .next ((s.dropIcache (fun c l => (icinvCores (g / 4) sc).contains c
      && icinvHit (s.ctxOf (g / 4)) sc a l)).modStream g Stream.invalidated) := by
  have harm : exec .icinvComplete s = execIcinvComplete s := rfl
  rw [harm, execIcinvComplete, hg, hpend]
  rfl

/-- Settles O39: a landing and a publication of the unit are one `Core.publish`, whose tile is `Tile.published`; its rows are merged byte by
byte (`Line.getLsbD_merge`). ICINV filters the I-caches by `icinvCores` and `icinvHit`. -/
theorem retirementsAndTileLandings : Obligations.RetirementsAndTileLandings := by
  refine ⟨fun s g hg => ⟨fun hpend => ?syswr, fun sc a hpend hsc => ?icinv, fun e r hxt hidle => ?start,
    fun e r a h v hxt hstart hform hexec hres hdue hpower hwake hread hruns => ?publish⟩,
    fun s c t d w hc ht hw hdue hd hpower hwake hread => ?landing⟩
  case syswr =>
    have hstep : exec .syswrRetire s = .next (s.modStream g (fun t =>
        if t.gate.icinv.isNone then { t with gate := { t.gate with retire := 0 } } else t)) := by rw [← hg]; rfl
    refine ⟨_, hstep, ?_⟩
    rw [State.stream_modStream_same, hpend]
    exact ⟨rfl, rfl, rfl, rfl⟩
  case icinv =>
    refine ⟨_, exec_icinvComplete hg hpend, ?_⟩
    rw [State.stream_modStream_same]
    refine ⟨rfl, rfl, ?_, fun c hc e => ?_⟩
    · rw [State.modStream_mem, State.dropIcache_mem]
    · dsimp only
      rw [State.icache_modStream, State.icache_dropIcache, List.mem_filter, ← mem_icinvCores hc hsc, ← icinvHit_iff,
        Bool.not_eq_true', ← Bool.not_eq_true, Bool.and_eq_true, List.contains_iff_mem]
  case start =>
    refine ⟨_, exec_xtEntryStart hg hxt hidle, ?_⟩
    rw [State.core_modCore_same]
    exact ⟨rfl, rfl⟩
  case publish =>
    have htv : tvOf e.instr = some (h, v) := by rw [hform]; rfl
    refine ⟨_, exec_xtEntryPublish hg hxt hstart htv hexec hdue ⟨hpower, hwake⟩ hread hruns, ?_⟩
    obtain ⟨w, hw, hrdn, hwexec, hrows, hmask⟩ := Core.find?_takesResult (k := (s.core g).accessed s.cycle v.td.toNat) hres hexec r s.cycle
    obtain ⟨-, -, hxt'⟩ := Core.publish_frame hw
    rw [State.core_modCore_same, Core.tile_publish hw]
    refine ⟨hxt', Core.twrites_publish hw, rfl, rfl, fun hr => ?_, fun hr => ?_, fun hmen i hi => Tile.line_published_result hwexec hrows hmask hmen hi⟩
    · rw [← hrdn] at hr ⊢; exact Tile.published_readers _ hr
    · rw [← hrdn] at hr; exact (Tile.published_open _ hr).2
  case landing =>
    refine ⟨_, exec_tileLanding hc ht hw hdue hd ⟨hpower, hwake⟩ hread, ?_⟩
    obtain ⟨htile, hgone, hothers, hstreams, hsp⟩ := Core.landed s.cycle hw
    rw [State.core_modCore_same, htile]
    refine ⟨rfl, rfl, rfl, rfl, rfl, Tile.published_open _, Tile.published_readers _, fun hoff => ?_, fun hon i hi => ?_, fun hon _ i hi b hb => ?_,
      hgone, hothers, hstreams, hsp, rfl⟩
    · simp [Tile.published, hoff]
    · rw [Tile.line_published hon, if_neg hi]
    · rw [Tile.line_published hon, if_pos hi, Line.getLsbD_merge _ _ _ hb]

end Sys2Proof.Machine
end

section
namespace Sys2Proof.Machine

/-! ## Chain units: CLINK and CKICK (R156) -/

/-- A chain unit linked to `v` by a CLINK of stream `t`. -/
def Chain.linkedTo (c : Chain) (v : Word) (t : Stream) : Chain :=
  { c with head := v, pend := c.pend || c.run, linked := t.region, lclock := t.clock 4 }

/-- A chain unit started at its head by a CKICK of stream `t` in cycle `now`. -/
def Chain.kickedBy (c : Chain) (t : Stream) (now : Nat) : Chain :=
  { c with cur := c.head, run := true, entry := none, fp := none, waited := false, prog := 0, region := t.region, kicked := now,
           cpid := t.cpid.toNat, clock := t.clock 4 }

section
variable {i : Instr} {s : State} {h : Hdr} {sy : BitVec 5} {ld : Bool} (hi : exec i s = (s.clink h sy ld).done s)
  (hready : s.ready h [s.me.sp sy] [])
include hi hready

/-- CLINK with an aligned address below 2^48. -/
theorem clink_leaves (hal : (s.S sy).toNat % 64 = 0) (hnear : (s.S sy).toNat < 2 ^ 48) :
    Leaves i s (s.me.modChain ld (fun c => c.linkedTo (s.S sy) s.me)) := by
  have hok : ¬ ((s.S sy).toNat % 64 ≠ 0 ∨ (s.S sy).extractLsb' 48 16 ≠ 0) := by simp [hal, (high_eq_zero_iff _).2 hnear]
  rw [State.clink, State.plain_ready hready] at hi
  exact Leaves.of (hi.trans (congrArg (Act.done · s) (if_neg hok))) rfl

/-- CLINK with another address. -/
theorem clink_faults (hbad : (s.S sy).toNat % 64 ≠ 0 ∨ 2 ^ 48 ≤ (s.S sy).toNat) : Faults i s { code := .align, addr := s.S sy } := by
  have hbad' : (s.S sy).toNat % 64 ≠ 0 ∨ (s.S sy).extractLsb' 48 16 ≠ 0 := hbad.imp_right (fun hfar h0 => by
    have := (high_eq_zero_iff _).1 h0; omega)
  rw [State.clink, State.plain_ready hready] at hi
  exact hi.trans (congrArg (Act.done · s) (if_pos hbad'))

end

/-- CKICK changes the unit that it names, where this is idle and linked. -/
theorem ckick_leaves {s : State} {h : Hdr} (hready : s.ready h [] []) (eng : BitVec 1) :
    Leaves (.ckick h eng) s (s.me.modChain (eng == 0) (fun c => if !c.run && c.head != 0 then c.kickedBy s.me s.cycle else c)) := by
  have hi : exec (.ckick h eng) s = execCkick h eng s := rfl
  rw [execCkick, State.plain_ready hready, Act.done_go] at hi
  exact Leaves.of hi rfl

/-- An idle, linked unit is started. -/
theorem Chain.kick_idle {c : Chain} (hrun : c.run = false) (hhead : c.head ≠ 0) (t : Stream) (now : Nat) :
    (if !c.run && c.head != 0 then c.kickedBy t now else c) = c.kickedBy t now := if_pos (by rw [hrun]; exact bne_iff_ne.2 hhead)
/-- Another unit stays. -/
theorem Chain.kick_other {c : Chain} (h : c.run = true ∨ c.head = 0) (t : Stream) (now : Nat) :
    (if !c.run && c.head != 0 then c.kickedBy t now else c) = c := if_neg (by rcases h with h | h <;> simp [h])

/-- Settles O23: each form changes one chain unit of the issuing stream (`Chain.linkedTo`, `Chain.kickedBy`), and nothing else. -/
theorem chainUnitsLinkAndKick : Obligations.ChainUnitsLinkAndKick := by
  intro h sy s
  refine ⟨fun hready hal hnear => ⟨?linkLd, ?linkSt⟩, fun hready hbad => ⟨clink_faults rfl hready hbad, clink_faults rfl hready hbad⟩,
    fun hready => ⟨?kickLd, ?kickSt⟩, fun hoff i hi => ?off⟩
  case linkLd =>
    obtain ⟨t, hexec, hissued, hme, honly⟩ := clink_leaves (i := .clinkLd h sy) (ld := true) rfl hready hal hnear
    exact ⟨t, hexec, hissued, honly, by rw [hme]; rfl, by rw [hme]; rfl, hme⟩
  case linkSt =>
    obtain ⟨t, hexec, hissued, hme, honly⟩ := clink_leaves (i := .clinkSt h sy) (ld := false) rfl hready hal hnear
    exact ⟨t, hexec, hissued, honly, by rw [hme]; rfl, by rw [hme]; rfl, hme⟩
  case kickLd =>
    obtain ⟨t, hexec, hissued, hme, honly⟩ := ckick_leaves hready 0
    refine ⟨t, hexec, hissued, honly, by rw [hme]; rfl, fun hrun hhead => ?_, fun hstay => ?_⟩
    · rw [hme]; exact congrArg (fun c => { s.me with ldChain := c }) (Chain.kick_idle hrun hhead s.me s.cycle)
    · rw [hme]; exact congrArg (fun c => { s.me with ldChain := c }) (Chain.kick_other hstay s.me s.cycle)
  case kickSt =>
    obtain ⟨t, hexec, hissued, hme, honly⟩ := ckick_leaves hready 1
    refine ⟨t, hexec, hissued, honly, by rw [hme]; rfl, fun hrun hhead => ?_, fun hstay => ?_⟩
    · rw [hme]; exact congrArg (fun c => { s.me with stChain := c }) (Chain.kick_idle hrun hhead s.me s.cycle)
    · rw [hme]; exact congrArg (fun c => { s.me with stChain := c }) (Chain.kick_other hstay s.me s.cycle)
  case off =>
    simp only [List.mem_cons, List.not_mem_nil, or_false] at hi
    rcases hi with rfl | rfl | rfl | rfl
    all_goals exact issues_self_of_plain rfl hoff

end Sys2Proof.Machine
end

section
namespace Sys2Proof.Machine

/-! ## One handle of the issuing core -/

/-- The state with handle `hd` of the issuing core set to `r`. -/
def State.setRing (s : State) (hd : Nat) (r : Ring) : State := s.modMyCore (fun k => { k with rings := k.rings.put hd r })

@[simp] theorem State.setRing_mem (s : State) (hd : Nat) (r : Ring) : (s.setRing hd r).mem = s.mem := rfl
@[simp] theorem State.setRing_me (s : State) (hd : Nat) (r : Ring) : (s.setRing hd r).me = s.me := State.me_modMyCore rfl
@[simp] theorem State.setRing_sp (s : State) (hd : Nat) (r : Ring) : (s.setRing hd r).myCore.sp = s.myCore.sp := by
  rw [State.setRing, State.myCore_modMyCore]
@[simp] theorem State.setRing_ring (s : State) (hd : Nat) (r : Ring) : (s.setRing hd r).myCore.ring hd = r := by
  rw [State.setRing, State.myCore_modMyCore]
  exact Tbl.get_put_same _ _ _ _
theorem State.setRing_ring_ne (s : State) {hd k : Nat} (r : Ring) (h : k ≠ hd) : (s.setRing hd r).myCore.ring k = s.myCore.ring k := by
  rw [State.setRing, State.myCore_modMyCore]
  exact Tbl.get_put_ne _ _ _ _ _ h

/-- A change of the issuing stream leaves the handles of its core. -/
@[simp] theorem State.modMe_ring (s : State) (f : Stream → Stream) (k : Nat) : (s.modMe f).myCore.ring k = s.myCore.ring k := by
  rw [State.modMe_myCore]; rfl
/-- A change of the issuing stream leaves its core's scratchpad. -/
@[simp] theorem State.modMe_sp (s : State) (f : Stream → Stream) : (s.modMe f).myCore.sp = s.myCore.sp := by
  rw [State.modMe_myCore]

/-! ## Outcome rings (R255) -/

/-- The handle as it stands and as it stood has a free slot. -/
def State.OutcomeRoom (s : State) (hd : Nat) : Prop :=
  (s.myCore.ringBefore hd).filled.toNat < (s.myCore.ringBefore hd).count.toNat ∧ (s.myCore.ring hd).filled.toNat < (s.myCore.ring hd).count.toNat
/-- The handle as it stands and as it stood has a filled slot. -/
def State.OutcomeThere (s : State) (hd : Nat) : Prop :=
  1 ≤ (s.myCore.ringBefore hd).filled.toNat ∧ 1 ≤ (s.myCore.ring hd).filled.toNat

/-- The indices of a handle with a free slot after a push. -/
theorem Ring.push_indices {r : Ring} (hroom : r.filled.toNat < r.count.toNat) (b : Bool) :
    (r.push b).pi.toNat = (r.pi.toNat + 1) % r.count.toNat ∧ (r.push b).filled.toNat = r.filled.toNat + 1 := by
  have hcount := r.count.isLt
  have hmod := Nat.mod_lt (r.pi.toNat + 1) (Nat.zero_lt_of_lt hroom)
  constructor
  · exact Nat.mod_eq_of_lt (by omega)
  · exact Nat.mod_eq_of_lt (by omega)

/-- A push stores its bit at the producer index. -/
theorem Ring.push_outcome (r : Ring) (b : Bool) (k : Nat) :
    (r.push b).obits.getLsbD k = if k = r.pi.toNat ∧ k < 64 then b else r.obits.getLsbD k := by
  have hmask : (1#64 <<< r.pi.toNat).getLsbD k = decide (k = r.pi.toNat ∧ k < 64) := by
    simp only [BitVec.getLsbD_shiftLeft, BitVec.getLsbD_one, ← Bool.decide_and, ← decide_not]
    exact decide_eq_decide.2 (by omega)
  cases b with
  | true =>
    change (r.obits ||| 1#64 <<< r.pi.toNat).getLsbD k = _
    rw [BitVec.getLsbD_or, hmask]
    by_cases hk : k = r.pi.toNat ∧ k < 64
    · rw [if_pos hk, decide_eq_true hk, Bool.or_true]
    · rw [if_neg hk, decide_eq_false hk, Bool.or_false]
  | false =>
    change (r.obits &&& ~~~(1#64 <<< r.pi.toNat)).getLsbD k = _
    rw [BitVec.getLsbD_and, BitVec.getLsbD_not, hmask]
    by_cases hk : k = r.pi.toNat ∧ k < 64
    · rw [if_pos hk, decide_eq_true hk, Bool.not_true, Bool.and_false, Bool.and_false]
    · rw [if_neg hk, decide_eq_false hk, Bool.not_false, Bool.and_true]
      rcases Nat.lt_or_ge k 64 with hlt | hge
      · rw [decide_eq_true hlt, Bool.and_true]
      · rw [BitVec.getLsbD_of_ge _ k hge, Bool.false_and]

/-- The number of filled slots after one is consumed. -/
theorem Ring.consume_filled (r : Ring) (n : Nat) : (r.consume n).filled.toNat = r.filled.toNat - n :=
  Nat.mod_eq_of_lt (by have := r.filled.isLt; omega)

/-- What OSEND comes to with bit `b`. -/
def State.sends (s : State) (hd : Nat) (b : Bool) : Act :=
  if (s.myCore.ring hd).kind ≠ .outcome then .fault (ringFault hd 0 false)
  else if (s.myCore.ringBefore hd).filled.toNat < (s.myCore.ringBefore hd).count.toNat
      ∧ (s.myCore.ring hd).filled.toNat < (s.myCore.ring hd).count.toNat then .go (s.setRing hd ((s.myCore.ring hd).push b))
  else .wait s false

theorem exec_osend (h : Hdr) (qc : BitVec 3) (hd : BitVec 4) (s : State) :
    exec (.osend h qc hd) s = (s.slot h [s.me.qp qc] [] (s.sends hd.toNat false) (s.sends hd.toNat (s.me.qreg qc))).done s := rfl

theorem State.sends_room {s : State} {hd : Nat} (hkind : (s.myCore.ring hd).kind = .outcome) (hroom : s.OutcomeRoom hd) (b : Bool) :
    s.sends hd b = .go (s.setRing hd ((s.myCore.ring hd).push b)) :=
  (if_neg (not_not.2 hkind)).trans (if_pos hroom)
theorem State.sends_full {s : State} {hd : Nat} (hkind : (s.myCore.ring hd).kind = .outcome) (hroom : ¬ s.OutcomeRoom hd) (b : Bool) :
    s.sends hd b = .wait s false :=
  (if_neg (not_not.2 hkind)).trans (if_neg hroom)

/-- What BRO comes to, executing or not. -/
def State.branches (s : State) (j : BitVec 3) (hd : Nat) (ex : Bool) : Act :=
  if (s.myCore.ring hd).kind ≠ .outcome then .fault (ringFault hd 0 false)
  else if 1 ≤ (s.myCore.ringBefore hd).filled.toNat ∧ 1 ≤ (s.myCore.ring hd).filled.toNat then
    s.goTo j (ex && (s.myCore.ring hd).outcome (s.myCore.ring hd).ci.toNat) false (fun u => u.setRing hd ((s.myCore.ring hd).consume 1))
  else .wait s false

theorem exec_bro (h : Hdr) (j : BitVec 3) (hd : BitVec 4) (s : State) :
    exec (.bro h j hd) s = (s.nested (s.slot h [] [] (s.branches j hd.toNat false) (s.branches j hd.toNat true))).done s := rfl

theorem State.branches_there {s : State} {hd : Nat} (hkind : (s.myCore.ring hd).kind = .outcome) (hthere : s.OutcomeThere hd) (j : BitVec 3)
    (ex : Bool) : s.branches j hd ex = s.goTo j (ex && (s.myCore.ring hd).outcome (s.myCore.ring hd).ci.toNat) false
      (fun u => u.setRing hd ((s.myCore.ring hd).consume 1)) :=
  (if_neg (not_not.2 hkind)).trans (if_pos hthere)
theorem State.branches_empty {s : State} {hd : Nat} (hkind : (s.myCore.ring hd).kind = .outcome) (hthere : ¬ s.OutcomeThere hd) (j : BitVec 3)
    (ex : Bool) : s.branches j hd ex = .wait s false :=
  (if_neg (not_not.2 hkind)).trans (if_neg hthere)

/-- A transfer-class form goes to its target where it takes it below 2^48, and else leaves its delay groups alone. -/
theorem State.goTo_eq {s : State} {j : BitVec 3} {taken : Bool} (hfar : taken = true → (s.me.jreg j).toNat < 2 ^ 48) (eff : State → State) :
    s.goTo j taken false eff = .go (eff (s.depart (if taken then some (s.me.jreg j) else none) false)) := by
  cases taken with
  | true => exact State.goTo_taken (hfar rfl) false eff
  | false => rfl

/-- BRO consumes the bit and leaves its delay groups. -/
theorem State.consumed (s : State) (hd : Nat) (target : Option Word) :
    let r := s.myCore.ring hd
    let t := (s.depart target false).setRing hd (r.consume 1)
    let n := t.myCore.ring hd
    (n.ci = BitVec.ofNat 16 ((r.ci.toNat + 1) % r.count.toNat) ∧ n.filled.toNat = r.filled.toNat - 1 ∧ n.pi = r.pi ∧ n.obits = r.obits
        ∧ n.kind = r.kind ∧ (∀ k, k ≠ hd → t.myCore.ring k = s.myCore.ring k) ∧ t.mem = s.mem)
      ∧ t.me = s.me.departed s.cycle target false := by
  dsimp only
  rw [State.setRing_ring, State.setRing_me]
  refine ⟨⟨rfl, Ring.consume_filled _ _, rfl, rfl, rfl, fun k hk => ?_, rfl⟩, State.me_modMe s _⟩
  rw [State.setRing_ring_ne _ _ hk, State.depart, State.modMe_ring]

/-- OSEND pushes its bit. -/
theorem State.pushed {s : State} {hd : Nat} (hroom : s.OutcomeRoom hd) (b : Bool) :
    let r := s.myCore.ring hd
    let t := s.setRing hd (r.push b)
    let n := t.myCore.ring hd
    n.pi.toNat = (r.pi.toNat + 1) % r.count.toNat ∧ n.filled.toNat = r.filled.toNat + 1 ∧ n.ci = r.ci ∧ n.count = r.count ∧ n.kind = r.kind
      ∧ (r.pi.toNat < 64 → n.obits.getLsbD r.pi.toNat = b) ∧ (∀ k, k ≠ r.pi.toNat → n.obits.getLsbD k = r.obits.getLsbD k)
      ∧ (∀ k, k ≠ hd → t.myCore.ring k = s.myCore.ring k) ∧ t.me = s.me ∧ t.mem = s.mem := by
  dsimp only
  rw [State.setRing_ring, State.setRing_me]
  obtain ⟨hpi, hfilled⟩ := Ring.push_indices hroom.2 b
  exact ⟨hpi, hfilled, rfl, rfl, rfl, fun hlt => by rw [Ring.push_outcome, if_pos ⟨rfl, hlt⟩],
    fun k hk => by rw [Ring.push_outcome, if_neg (fun h => hk h.1)], fun k hk => State.setRing_ring_ne _ _ hk, rfl, rfl⟩

/-- Settles O18: a push and a consumption each set one handle of the core (`State.setRing`); BRO's transfer is that of the split branch. -/
theorem outcomeRings : Obligations.OutcomeRings := by
  intro h j qc hd s r p room some' bit a pushed taken
  refine ⟨fun hready hkind hroom => ?sends, fun hoff hkind hroom => ?sendsOff, fun hready hkind hroom => ?full,
    fun hx hready hkind hthere hfar => ?branches, fun hx hoff hkind hthere => ?branchesOff, fun hx hready hkind hthere => ?empty,
    fun hready hkind => ?sendFault, fun hx hready hkind => ?branchFault⟩
  case sends =>
    have hexec : Issues (.osend h qc hd) s (s.setRing hd.toNat ((s.myCore.ring hd.toNat).push (s.me.qreg qc))) := by
      rw [Issues, exec_osend, State.slot_ready hready, State.sends_room hkind hroom, Act.done_go]
    exact ⟨_, hexec, rfl, State.pushed hroom _⟩
  case sendsOff =>
    have hexec : Issues (.osend h qc hd) s (s.setRing hd.toNat ((s.myCore.ring hd.toNat).push false)) := by
      rw [Issues, exec_osend, State.slot_off hoff, State.sends_room hkind hroom, Act.done_go]
    exact ⟨_, hexec, rfl, State.pushed hroom _⟩
  case full => rw [exec_osend, State.slot_ready hready, State.sends_full hkind hroom, Act.done_wait]
  case branches =>
    have hexec : Issues (.bro h j hd) s ((s.depart (if bit then some a else none) false).setRing hd.toNat (r.consume 1)) := by
      rw [Issues, exec_bro, State.nested_idle hx, State.slot_ready hready, State.branches_there hkind hthere, Bool.true_and]
      exact congrArg (Act.done · s) (State.goTo_eq (taken := bit) hfar _)
    obtain ⟨htaken, hme⟩ := s.consumed hd.toNat (if bit then some a else none)
    refine ⟨_, hexec, rfl, htaken, hme.trans ?_⟩
    cases bit <;> rfl
  case branchesOff =>
    have hexec : Issues (.bro h j hd) s ((s.depart none false).setRing hd.toNat (r.consume 1)) := by
      rw [Issues, exec_bro, State.nested_idle hx, State.slot_off hoff, State.branches_there hkind hthere]
      rfl
    obtain ⟨htaken, hme⟩ := s.consumed hd.toNat none
    exact ⟨_, hexec, rfl, htaken, hme⟩
  case empty =>
    rw [exec_bro, State.nested_idle hx, State.slot_ready hready, State.branches_empty hkind hthere, Act.done_wait]
  case sendFault =>
    rw [Faults, exec_osend, State.slot_ready hready, State.sends, if_pos hkind, Act.done_fault]
  case branchFault =>
    rw [Faults, exec_bro, State.nested_idle hx, State.slot_ready hready, State.branches, if_pos hkind, Act.done_fault]

end Sys2Proof.Machine
end

section
namespace Sys2Proof.Machine

/-! ## HCONF (R138) -/

/-- The limits of a data ring. -/
theorem hconfRing_data (b z c : Word) : hconfRing 0 b z c =
    if b.toNat % 64 = 0 ∧ z.toNat % 64 = 0 ∧ 64 ≤ z.toNat ∧ z.toNat ≤ 393216 ∧ 1 ≤ c.toNat ∧ c.toNat ≤ 65535
        ∧ b.toNat + z.toNat * c.toNat ≤ 0x60000 then
      some { kind := .data, base := b.setWidth 19, size := z.setWidth 19, count := c.setWidth 16 } else none :=
  if_congr decide_eq_true_iff rfl rfl

/-- The limits of a token ring, which has no bytes. -/
theorem hconfRing_token (b z c : Word) : hconfRing 1 b z c =
    if b = 0 ∧ z = 0 ∧ 1 ≤ c.toNat ∧ c.toNat ≤ 65535 then some { kind := .token, count := c.setWidth 16 } else none := by
  have hif : hconfRing 1 b z c = if b = 0 ∧ z = 0 ∧ 1 ≤ c.toNat ∧ c.toNat ≤ 65535 then
      some { kind := .token, base := b.setWidth 19, size := z.setWidth 19, count := c.setWidth 16 } else none :=
    if_congr decide_eq_true_iff rfl rfl
  rw [hif]
  refine if_ctx_congr Iff.rfl (fun hlim => ?_) (fun _ => rfl)
  obtain ⟨rfl, rfl, -⟩ := hlim
  rfl

/-- The limits of an outcome ring, which has no bytes. -/
theorem hconfRing_outcome (b z c : Word) : hconfRing 2 b z c =
    if b = 0 ∧ z = 0 ∧ 1 ≤ c.toNat ∧ c.toNat ≤ 64 then some { kind := .outcome, count := c.setWidth 16 } else none := by
  have hif : hconfRing 2 b z c = if b = 0 ∧ z = 0 ∧ 1 ≤ c.toNat ∧ c.toNat ≤ 64 then
      some { kind := .outcome, base := b.setWidth 19, size := z.setWidth 19, count := c.setWidth 16 } else none :=
    if_congr decide_eq_true_iff rfl rfl
  rw [hif]
  refine if_ctx_congr Iff.rfl (fun hlim => ?_) (fun _ => rfl)
  obtain ⟨rfl, rfl, -⟩ := hlim
  rfl

section
variable {s : State} {h : Hdr} {sx sy sz : BitVec 5} (hready : s.ready h [s.me.sp sx, s.me.sp sy, s.me.sp sz] [])
  {hd : BitVec 4} (kind : BitVec 2)
include hready

/-- A locked handle refuses every configuration. -/
theorem hconf_locked (hlock : s.myCore.ringLock.getLsbD hd.toNat = true) :
    Faults (.hconf h sx sy sz kind hd) s (ringFault hd.toNat 0 true) := by
  have hexec : exec (.hconf h sx sy sz kind hd) s = execHconf h sx sy sz kind hd s := rfl
  rw [Faults, hexec, execHconf, State.plain_ready hready, if_pos hlock, Act.done_fault]

variable (hlock : s.myCore.ringLock.getLsbD hd.toNat = false) {kind}
include hlock

theorem hconf_refused (hring : hconfRing kind (s.S sx) (s.S sy) (s.S sz) = none) :
    Faults (.hconf h sx sy sz kind hd) s (ringFault hd.toNat 0 false) := by
  have hexec : exec (.hconf h sx sy sz kind hd) s = execHconf h sx sy sz kind hd s := rfl
  have hring' : hconfRing kind (s.me.sreg sx) (s.me.sreg sy) (s.me.sreg sz) = none := hring
  rw [Faults, hexec, execHconf, State.plain_ready hready, hlock, hring']
  rfl

/-- An unlocked handle takes the configuration that R138 allows, and nothing else changes. -/
theorem hconf_sets {r : Ring} (hring : hconfRing kind (s.S sx) (s.S sy) (s.S sz) = some r) :
    ∃ t, exec (.hconf h sx sy sz kind hd) s = .next t ∧ t.verdict = .issued ∧ t.me = s.me
      ∧ ((∀ k, k ≠ hd.toNat → t.myCore.ring k = s.myCore.ring k) ∧ t.mem = s.mem ∧ t.myCore.sp = s.myCore.sp)
      ∧ t.myCore.ring hd.toNat = r := by
  have hexec : Issues (.hconf h sx sy sz kind hd) s ((s.ringForgets (s.cur / 4) hd.toNat).setRing hd.toNat r) := by
    have harm : exec (.hconf h sx sy sz kind hd) s = execHconf h sx sy sz kind hd s := rfl
    have hring' : hconfRing kind (s.me.sreg sx) (s.me.sreg sy) (s.me.sreg sz) = some r := hring
    rw [Issues, harm, execHconf, State.plain_ready hready, hlock, hring']
    rfl
  exact ⟨_, hexec, rfl, State.setRing_me _ _ _, ⟨fun k hk => State.setRing_ring_ne _ _ hk, rfl, State.setRing_sp _ _ _⟩,
    State.setRing_ring _ _ _⟩

end

/-! ## Advances and waits of a handle (R139 to R141) -/

theorem Ring.counted_iff (r : Ring) : r.counted = true ↔ r.kind ≠ .outcome ∧ r.count ≠ 0 := by
  simp [Ring.counted]

/-- No access of an earlier cycle, or no write of one, has still to be made. -/
theorem Stream.settled_iff (t : Stream) (now : Nat) (all : Bool) :
    t.settled now all = true ↔ ∀ a ∈ t.accs, a.issued < now → all = false ∧ a.op.writes = false := by
  simp only [Stream.settled, List.all_eq_true, Bool.not_eq_true', Bool.and_eq_false_imp, decide_eq_true_eq, Bool.or_eq_false_iff]

theorem Ring.advance_uncounted {r : Ring} (hc : ¬ r.counted = true) (hd n : Nat) (producer : Bool) :
    r.advance hd n producer = .error (ringFault hd n false) := by simp [Ring.advance, hc]

section
variable {r : Ring} (hc : r.counted = true) (hd : Nat) {n : Nat}
include hc

theorem Ring.advance_produce (hroom : r.filled.toNat + n ≤ r.count.toNat) : r.advance hd n true = .ok (r.produce n) := by
  simp [Ring.advance, hc, not_lt.2 hroom]
theorem Ring.advance_overfull (hfull : r.count.toNat < r.filled.toNat + n) : r.advance hd n true = .error (ringFault hd n false) := by
  simp [Ring.advance, hc, hfull]
theorem Ring.advance_consume (hthere : n ≤ r.filled.toNat) : r.advance hd n false = .ok (r.consume n) := by
  simp [Ring.advance, hc, not_lt.2 hthere]
theorem Ring.advance_underfull (hfew : r.filled.toNat < n) : r.advance hd n false = .error (ringFault hd n false) := by
  simp [Ring.advance, hc, hfew]

end

section
variable {s : State} {h : Hdr} (hheed : s.heedless h []) {i : Instr} {n : BitVec 16} {hd : BitVec 4} {producer : Bool}
  (hi : exec i s = (s.radv h n hd producer).done s)
include hheed hi

/-- An advance waits for the stream's accesses of earlier cycles. -/
theorem radv_waits (hmade : ¬ s.me.settled s.cycle (!producer) = true) : exec i s = .next (s.holdMe false) := by
  rw [hi, State.radv, State.always_heedless hheed, if_pos (by simpa using hmade), Act.done_wait]

variable (hmade : s.me.settled s.cycle (!producer) = true)
include hmade

theorem radv_faults {f : FaultInfo} (hadv : (s.myCore.ring hd.toNat).advance hd.toNat n.toNat producer = .error f) : Faults i s f := by
  rw [Faults, hi, State.radv, State.always_heedless hheed, if_neg (by simpa using hmade), hadv]
  rfl

/-- An advance sets its handle and ends the region. -/
theorem radv_advances {r : Ring} (hadv : (s.myCore.ring hd.toNat).advance hd.toNat n.toNat producer = .ok r) (hcharge : s.me.charge = none) :
    ∃ t, exec i s = .next t ∧ t.verdict = .issued
      ∧ ((∀ k, k ≠ hd.toNat → t.myCore.ring k = s.myCore.ring k) ∧ t.mem = s.mem ∧ t.myCore.sp = s.myCore.sp)
      ∧ t.me = { s.me with region := s.me.region + 1 } ∧ t.myCore.ring hd.toNat = r := by
  let k := s.carries s.cur (s.me.region + 1) (s.me.clock 4)
  let u := (s.ringMoves (s.cur / 4) hd.toNat n.toNat producer (s.myCore.ring hd.toNat) k).setRing hd.toNat r
  have hexec : Issues i s (u.modMe (fun t => { t with region := t.region + 1 })) := by
    rw [Issues, hi, State.radv, State.always_heedless hheed, if_neg (by simpa using hmade), hadv]
    dsimp only
    rw [State.sync_none hcharge]
    rfl
  refine ⟨_, hexec, rfl, ⟨fun k hk => ?_, rfl, ?_⟩, ?_, ?_⟩
  · exact (u.modMe_ring _ k).trans (State.setRing_ring_ne _ _ hk)
  · exact (u.modMe_sp _).trans (State.setRing_sp _ _ _)
  · exact (u.me_modMe _).trans (by rw [State.setRing_me]; rfl)
  · exact (u.modMe_ring _ _).trans (State.setRing_ring _ _ _)

end

/-- An acquire of the issuing stream and the end of its region change the stream alone. -/
theorem Leaves.of_acquire {i : Instr} {s : State} {k : Tbl Nat}
    (h : exec i s = .next { (s.acquire s.cur s.cycle k).modMe (fun t => { t with region := t.region + 1 }) with verdict := .issued }) :
    Leaves i s { (s.acquire s.cur s.cycle k).me with region := s.me.region + 1 } := by
  by_cases hk : k.entries.isEmpty = true
  · have hacq : s.acquire s.cur s.cycle k = s := if_pos hk
    rw [hacq] at h ⊢
    exact Leaves.of h rfl
  · have hacq : s.acquire s.cur s.cycle k = s.modMe (fun t => t.acquired s.cycle k) := if_neg hk
    rw [hacq] at h ⊢
    rw [State.modMe_modMe] at h
    refine Leaves.of h ?_
    rw [State.me_modMe]
    rfl

section
variable {s : State} {h : Hdr} (hready : s.ready h [] []) {i : Instr} {n : BitVec 16} {hd : BitVec 4} {filled : Bool}
  (hi : exec i s = (s.rwait h n hd filled).done s)
include hready hi

theorem rwait_faults (hbad : ¬ (s.myCore.ring hd.toNat).counted = true ∨ (s.myCore.ring hd.toNat).count.toNat < n.toNat) :
    Faults i s (ringFault hd.toNat n.toNat false) := by
  rw [Faults, hi, State.rwait, State.plain_ready hready, if_pos (by simpa using hbad), Act.done_fault]

variable (hc : (s.myCore.ring hd.toNat).counted = true) (hn : n.toNat ≤ (s.myCore.ring hd.toNat).count.toNat)
include hc hn

/-- The handle did not hold what the wait asks for. -/
theorem rwait_waits (hfew : (if filled then (s.myCore.ringBefore hd.toNat).filled.toNat
      else (s.myCore.ringBefore hd.toNat).count.toNat - (s.myCore.ringBefore hd.toNat).filled.toNat) < n.toNat) :
    exec i s = .next (s.holdMe false) := by
  rw [hi, State.rwait, State.plain_ready hready, if_neg (by simp [hc, hn]), if_neg (not_le.2 hfew), Act.done_wait]

/-- The handle held it: the wait acquires and ends the region. -/
theorem rwait_leaves (hcharge : s.me.charge = none) (hthere : n.toNat ≤ if filled then (s.myCore.ringBefore hd.toNat).filled.toNat
      else (s.myCore.ringBefore hd.toNat).count.toNat - (s.myCore.ringBefore hd.toNat).filled.toNat) :
    let r := s.myCore.ring hd.toNat
    let now := if filled then r.filled.toNat else r.count.toNat - r.filled.toNat
    Leaves i s { (s.acquire s.cur s.cycle (s.ringSeen (s.cur / 4) hd.toNat filled now n.toNat)).me with region := s.me.region + 1 } := by
  refine Leaves.of_acquire ?_
  rw [hi, State.rwait, State.plain_ready hready, if_neg (by simp [hc, hn]), if_pos hthere, State.sync_none hcharge, Act.done_go]

end

/-- Settles O19: a configuration and an advance each set one handle of the core (`State.setRing`), and a wait acquires (`Leaves.of_acquire`). The
checks of RWAITF and RWAITE are made on the handle as it stands, which is the model's choice (log entry 54, DESIGN CHOICE). -/
theorem ringHandles : Obligations.RingHandles := by
  intro h sx sy sz n hd s r p b z c counted made others
  have hcounted : r.counted = true ↔ counted := r.counted_iff
  have hmade (all : Bool) : s.me.settled s.cycle all = true ↔ made all := s.me.settled_iff s.cycle all
  refine ⟨fun hready hlock => ⟨fun hb hz hz1 hz2 hc1 hc2 hend => ?data, fun hb hz hc1 hc2 => ?token, fun hb hz hc1 hc2 => ?outcome,
      fun hbad => ?noData, fun hbad => ?noToken, fun hbad => ?noOutcome⟩,
    fun hready hlock k => hconf_locked hready k hlock,
    fun hheed hc hm hroom hcharge => ?produce, fun hheed hc hm hthere hcharge => ?consume,
    fun hheed hc => ⟨fun hm => ?uncountedP, fun hm => ?uncountedC⟩, fun hheed => ⟨fun hm => ?waitP, fun hm => ?waitC⟩,
    fun hheed hc hm hfull => ?overfull, fun hheed hc hm hfew => ?underfull, fun hready hc hn hcharge => ?waits, fun hready hbad => ?unfit⟩
  case data => exact hconf_sets hready hlock (by rw [hconfRing_data, if_pos ⟨hb, hz, hz1, hz2, hc1, hc2, hend⟩])
  case token => exact hconf_sets hready hlock (by rw [hconfRing_token, if_pos ⟨hb, hz, hc1, hc2⟩])
  case outcome => exact hconf_sets hready hlock (by rw [hconfRing_outcome, if_pos ⟨hb, hz, hc1, hc2⟩])
  case noData =>
    dsimp only [b, z, c] at hbad
    exact hconf_refused hready hlock ((hconfRing_data _ _ _).trans (if_neg (by omega)))
  case noToken =>
    refine hconf_refused hready hlock ((hconfRing_token _ _ _).trans (if_neg ?_))
    rintro ⟨hb, hz, hc1, hc2⟩
    exact hbad.elim (· hb) (Or.elim · (· hz) (fun hcount => by dsimp only [c] at hcount; omega))
  case noOutcome =>
    refine hconf_refused hready hlock ((hconfRing_outcome _ _ _).trans (if_neg ?_))
    rintro ⟨hb, hz, hc1, hc2⟩
    exact hbad.elim (· hb) (Or.elim · (· hz) (fun hcount => by dsimp only [c] at hcount; omega))
  case produce =>
    exact radv_advances (producer := true) hheed rfl ((hmade false).2 hm) (Ring.advance_produce (hcounted.2 hc) _ hroom) hcharge
  case consume =>
    exact radv_advances (producer := false) hheed rfl ((hmade true).2 hm) (Ring.advance_consume (hcounted.2 hc) _ hthere) hcharge
  case uncountedP =>
    exact radv_faults (producer := true) hheed rfl ((hmade false).2 hm) (Ring.advance_uncounted (mt hcounted.1 hc) _ _ _)
  case uncountedC =>
    exact radv_faults (producer := false) hheed rfl ((hmade true).2 hm) (Ring.advance_uncounted (mt hcounted.1 hc) _ _ _)
  case waitP => exact radv_waits (producer := true) hheed rfl (mt (hmade false).1 hm)
  case waitC => exact radv_waits (producer := false) hheed rfl (mt (hmade true).1 hm)
  case overfull =>
    exact radv_faults (producer := true) hheed rfl ((hmade false).2 hm) (Ring.advance_overfull (hcounted.2 hc) _ hfull)
  case underfull =>
    exact radv_faults (producer := false) hheed rfl ((hmade true).2 hm) (Ring.advance_underfull (hcounted.2 hc) _ hfew)
  case waits =>
    intro got
    have hc' := hcounted.2 hc
    exact ⟨rwait_leaves (filled := true) hready rfl hc' hn hcharge, rwait_waits (filled := true) hready rfl hc' hn,
      rwait_leaves (filled := false) hready rfl hc' hn hcharge, rwait_waits (filled := false) hready rfl hc' hn⟩
  case unfit =>
    have hbad' := hbad.imp_left (mt hcounted.1)
    exact ⟨rwait_faults (filled := true) hready rfl hbad', rwait_faults (filled := false) hready rfl hbad'⟩

end Sys2Proof.Machine
end

section
namespace Sys2Proof.Machine

/-! ## Markers entering a queue (R145) -/

/-- The entry of a marker. -/
def State.markerOf (s : State) (h : Hdr) (q : BitVec 2) : QEntry := { instr := .tksend h q, va := s.word, entered := s.cycle }

section
variable {s : State} {h : Hdr} (hheed : s.heedless h []) {q : BitVec 2}
include hheed

/-- TKSEND enters a marker in a queue with room. -/
theorem tksend_leaves (hroom : (s.me.queue q.toNat).length < 16) : Leaves (.tksend h q) s (s.me.enter q.toNat (s.markerOf h q)) := by
  have hexec : exec (.tksend h q) s = execTksend h q s := rfl
  have hfull : ¬ decide (queueSize ≤ (s.me.queue q.toNat).length) = true :=
    fun hd => absurd (of_decide_eq_true hd) (not_le.2 hroom)
  rw [execTksend, State.always_heedless hheed, if_neg hfull, Act.done_go] at hexec
  exact Leaves.of hexec rfl

/-- A full queue of an engine holds TKSEND. -/
theorem tksend_waits (hfull : 16 ≤ (s.me.queue q.toNat).length) (hq : q ≠ 3) : exec (.tksend h q) s = .next (s.holdMe false) := by
  have hexec : exec (.tksend h q) s = execTksend h q s := rfl
  have hfull' : decide (queueSize ≤ (s.me.queue q.toNat).length) = true := decide_eq_true hfull
  rw [hexec, execTksend, State.always_heedless hheed, if_pos hfull', if_neg hq]
  rfl

/-! ## TKWAIT on an engine's queue (R146) -/

/-- TKWAIT on LD, MX or ST pops the oldest reply token, which the stream's clock takes in, and ends the region. -/
theorem tkwait_pops_token (hq : q.toNat < 3) {c : Clock} {r : List Clock} (hreplies : s.me.replies.get [] q.toNat = c :: r)
    (hcharge : s.me.charge = none) :
    Leaves (.tkwait h q) s { s.me.learn 4 c with replies := s.me.replies.put q.toNat r, region := s.me.region + 1 } := by
  have hexec : exec (.tkwait h q) s = execTkwait h q s := rfl
  rw [execTkwait, State.always_heedless hheed, if_pos hq, hreplies] at hexec
  dsimp only at hexec
  rw [State.sync_none hcharge, Act.done_go] at hexec
  exact Leaves.of hexec rfl

/-- Without a reply token it waits. -/
theorem tkwait_waits_token (hq : q.toNat < 3) (hreplies : s.me.replies.get [] q.toNat = []) :
    exec (.tkwait h q) s = .next (s.holdMe false) := by
  have hexec : exec (.tkwait h q) s = execTkwait h q s := rfl
  rw [hexec, execTkwait, State.always_heedless hheed, if_pos hq, hreplies]
  rfl

/-! ## TKWAIT on the access queue (R146, R271, R272) -/

/-- TKWAIT AQ with an empty queue waits. -/
theorem tkwait_waits_operation (haq : s.me.aq = []) : exec (.tkwait h 3) s = .next (s.holdMe false) := by
  have hexec : exec (.tkwait h 3) s = execTkwait h 3 s := rfl
  rw [hexec, execTkwait, State.always_heedless hheed, if_neg (by decide), haq]
  rfl

variable {e : QEntry} {r : List QEntry} (haq : s.me.aq = e :: r)
include haq

/-- A held fault is delivered. -/
theorem tkwait_faults {f : FaultInfo} (hfault : e.fault = some f) : Faults (.tkwait h 3) s f := by
  have hexec : exec (.tkwait h 3) s = execTkwait h 3 s := rfl
  rw [Faults, hexec, execTkwait, State.always_heedless hheed, if_neg (by decide), haq]
  dsimp only
  rw [hfault]
  rfl

/-- An operation that has performed in an earlier cycle is popped, where no landing window closes its destination. -/
theorem tkwait_pops_operation (hfault : e.fault = none) (hdone : e.done = true) (hsince : e.since < s.cycle) (hcharge : s.me.charge = none)
    (hwindow : s.me.windowFault s.cycle s.word [] e.writes = none) : Leaves (.tkwait h 3) s (s.me.popReply s.cycle e) := by
  have hexec : exec (.tkwait h 3) s = execTkwait h 3 s := rfl
  have hready : (e.done && decide (e.since < s.cycle)) = true := by rw [hdone, decide_eq_true hsince]; rfl
  rw [execTkwait, State.always_heedless hheed, if_neg (by decide), haq] at hexec
  dsimp only at hexec
  rw [hfault] at hexec
  dsimp only at hexec
  rw [if_pos hready, hwindow] at hexec
  dsimp only at hexec
  rw [State.sync_none hcharge, Act.done_go] at hexec
  exact Leaves.of hexec rfl

end

/-- An operation without a second destination writes the register that it named, at most. -/
theorem QEntry.writes_subset {e : QEntry} (hidx : e.idx = []) {w : PReg × Nat} (hw : w ∈ e.writes) : w = (.s e.dest, 1) := by
  unfold QEntry.writes at hw
  split at hw
  · simpa [hidx] using hw
  · simp at hw

/-- No landing window closes the destination of such an operation where the latent writes to it land in time. -/
theorem QEntry.window_open {e : QEntry} {s : State} (hidx : e.idx = [])
    (h : s.me.expchk = true → ∀ l ∈ s.me.latents, l.issued < s.cycle → l.reg = .s e.dest → l.due ≤ s.cycle + 1) :
    s.me.windowFault s.cycle s.word [] e.writes = none := by
  refine State.windowFault_none (fun he l hl hissued => ⟨fun hr => (List.not_mem_nil hr).elim, fun w hw hreg => ?_⟩) s.word
  obtain rfl := QEntry.writes_subset hidx hw
  exact h he l hl hissued hreg.symm

/-- What the pop of an operation leaves. -/
theorem Stream.popReply_frame (t : Stream) (now : Nat) (e : QEntry) :
    (t.popReply now e).aq = t.aq.filter (fun x => x.number != e.number) ∧ (t.popReply now e).region = t.region + 1
      ∧ (t.popReply now e).s = t.s := by
  unfold Stream.popReply
  dsimp only
  split
  · exact ⟨rfl, rfl, rfl⟩
  · split <;> simp only [Stream.latch_aq, Stream.latch_region, Stream.latch_s] <;> exact ⟨rfl, rfl, rfl⟩

/-- An operation without a reply value writes no register. -/
theorem Stream.popReply_silent (t : Stream) (now : Nat) {e : QEntry} (hreply : e.reply = none) : (t.popReply now e).latents = t.latents := by
  unfold Stream.popReply
  rw [hreply]
  rfl

/-- A reply value lands in the register that the operation named after one cycle. -/
theorem Stream.popReply_latents (t : Stream) (now : Nat) {e : QEntry} {v : BitVec 128} (hreply : e.reply = some v) (hdest : e.dest ≠ 0)
    (hidx : e.idx = []) :
    (t.popReply now e).latents = t.latents ++ [⟨.s e.dest, some ((v.setWidth 64 : Word).setWidth 512), now, now + 1⟩] := by
  have hkept : ¬ (PReg.s e.dest).discards = true := by simpa [PReg.discards] using hdest
  unfold Stream.popReply
  rw [hreply, hidx]
  dsimp only
  rw [Stream.latch_latents, if_neg hkept]
  rfl

/-- Settles O24: TKSEND is an entry of its queue (`tksend_leaves`); TKWAIT takes a reply token into the stream's clock, or pops an operation
(`Stream.popReply`). -/
theorem markersAndReplyTokens : Obligations.MarkersAndReplyTokens := by
  intro h q s hheed
  have hlow (hq : q ≠ 3) : q.toNat < 3 := by
    have hne : q.toNat ≠ (3 : BitVec 2).toNat := mt BitVec.eq_of_toNat_eq hq
    have hlt := q.isLt
    have hthree : (3 : BitVec 2).toNat = 3 := rfl
    omega
  refine ⟨fun hroom => ?enters, fun hfull hq => tksend_waits hheed hfull hq, fun hq hcharge c r hreplies => ?token,
    fun hq hreplies => tkwait_waits_token hheed (hlow hq) hreplies,
    fun e r hq haq hfault hdone hsince hcharge hidx hopen => ?operation,
    fun e r f hq haq hfault => hq ▸ tkwait_faults hheed haq hfault, fun hq haq => hq ▸ tkwait_waits_operation hheed haq⟩
  case enters =>
    obtain ⟨t, hexec, hissued, hme, honly⟩ := tksend_leaves hheed hroom
    refine ⟨t, s.me.entryOf q.toNat (s.markerOf h q), hexec, hissued, honly, ?_⟩
    rw [hme]
    exact ⟨Stream.enter_queue _ _ _ q.isLt, rfl, rfl, fun p hp hne => Stream.enter_queue_ne _ _ _ _ q.isLt hp hne,
      Stream.enter_s _ _ _, Stream.enter_q _ _ _, Stream.enter_latents _ _ _⟩
  case token =>
    obtain ⟨t, hexec, hissued, hme, honly⟩ := tkwait_pops_token hheed (hlow hq) hreplies hcharge
    refine ⟨t, hexec, hissued, honly, ?_⟩
    rw [hme]
    exact ⟨Tbl.get_put_same _ _ _ _, rfl, Tbl.get_mod_same _ _ _ _, rfl, rfl, rfl⟩
  case operation =>
    subst hq
    obtain ⟨t, hexec, hissued, hme, honly⟩ := tkwait_pops_operation hheed haq hfault hdone hsince hcharge (QEntry.window_open hidx hopen)
    refine ⟨t, hexec, hissued, honly, ?_⟩
    rw [hme]
    obtain ⟨hqueue, hregion, hregs⟩ := s.me.popReply_frame s.cycle e
    exact ⟨hqueue, hregion, hregs, fun hreply => s.me.popReply_silent s.cycle hreply,
      fun v hreply hdest => s.me.popReply_latents s.cycle hreply hdest hidx⟩

end Sys2Proof.Machine
end

section
namespace Sys2Proof.Machine

/-! ## What the passage of an access through the caches leaves (R103 to R121) -/

/-- From `s` to `t` only cached lines have moved, and writes have been performed more widely: `State.KeepsBytes`, every core stays but for its
L1D and I-cache, and so does every track but for its level, which does not fall. -/
structure State.Moves (s t : State) : Prop where
  bytes : s.KeepsBytes t
  core : ∀ c, t.core c = { s.core c with l1d := (t.core c).l1d, icache := (t.core c).icache }
  tracks : ∀ k ∈ t.tracks, ∃ k₀ ∈ s.tracks, k₀.level ≤ k.level ∧ k = { k₀ with level := k.level }

namespace State.Moves

/-- A step that leaves cores and tracks. -/
theorem of_bytes {s t : State} (h : s.KeepsBytes t) (hcores : t.cores = s.cores) (htracks : t.tracks = s.tracks) : s.Moves t :=
  ⟨h, fun c => by rw [State.core, State.core, hcores], fun k hk => ⟨k, htracks ▸ hk, le_rfl, rfl⟩⟩

theorem refl (s : State) : s.Moves s := of_bytes (.refl s) rfl rfl

theorem trans {s t u : State} (h : s.Moves t) (h' : t.Moves u) : s.Moves u where
  bytes := h.bytes.trans h'.bytes
  core c := by rw [h'.core c, h.core c]
  tracks k hk := by
    obtain ⟨k₁, hk₁, hle₁, heq₁⟩ := h'.tracks k hk
    obtain ⟨k₀, hk₀, hle₀, heq₀⟩ := h.tracks k₁ hk₁
    exact ⟨k₀, hk₀, hle₀.trans hle₁, by rw [heq₁, heq₀]⟩

/-- A row of such steps is one. -/
theorem foldl {α : Type} {f : State → α → State} (hf : ∀ (u : State) (a : α), u.Moves (f u a)) (l : List α) (s : State) : s.Moves (l.foldl f s) :=
  List.foldlRecOn l f (.refl s) (fun u hu a _ => hu.trans (hf u a))

theorem ite {s t u : State} {p : Prop} [Decidable p] (ht : s.Moves t) (hu : s.Moves u) : s.Moves (if p then t else u) := by
  split
  · exact ht
  · exact hu

/-! ### One line -/

theorem setLines (s : State) (l : Level) (t : Tbl CLine) : s.Moves (s.setLines l t) := by
  cases l with
  | l1 d =>
    refine ⟨.setLines s (.l1 d) t, fun c => ?_, fun k hk => ⟨k, hk, le_rfl, rfl⟩⟩
    by_cases hc : c = d
    · subst hc
      rw [State.setLines, State.core_modCore_same]
    · rw [State.setLines, State.core_modCore_ne _ _ _ _ hc]
  | rdc d => exact of_bytes (.setLines s (.rdc d) t) rfl rfl
  | l2 d => exact of_bytes (.setLines s (.l2 d) t) rfl rfl

theorem setLine (s : State) (l : Level) (k : Nat) (x : CLine) : s.Moves (s.setLine l k x) := setLines s l _

theorem dropLine (s : State) (l : Level) (k : Nat) : s.Moves (s.dropLine l k) := setLines s l _

theorem performLine (s : State) (ctx va lv : Nat) : s.Moves (s.performLine ctx va lv) := by
  refine ⟨.performLine s ctx va lv, fun _ => rfl, fun k hk => ?_⟩
  obtain ⟨k₀, hk₀, rfl⟩ := List.mem_map.1 hk
  refine ⟨k₀, hk₀, ?_⟩
  split
  case isTrue hlow => exact ⟨hlow.2.2.2.le, rfl⟩
  case isFalse => exact ⟨le_rfl, rfl⟩

theorem dirty (s : State) (d ctx va : Nat) : s.Moves (s.dirty d ctx va) := by
  unfold State.dirty
  split
  · exact setLine s _ _ _
  · exact refl s

theorem unfilter (s : State) (pa : Nat) : s.Moves (s.unfilter pa) := by
  obtain ⟨fs, h⟩ := s.unfilter_eq pa
  exact h ▸ of_bytes ⟨rfl, rfl, fun _ => rfl⟩ rfl rfl

theorem flushSide (s : State) (pa : Nat) : s.Moves (s.flushSide pa) := by
  have hbytes := State.KeepsBytes.flushSide s pa
  unfold State.flushSide at hbytes ⊢
  split
  · exact refl s
  case h_2 x hx =>
    rw [hx] at hbytes
    refine of_bytes hbytes ?_ ?_
    all_goals
      dsimp only
      split
      · split
        · rfl
        · split <;> rfl
      · rfl

theorem spill (s : State) (ctx va : Nat) : s.Moves (s.spill ctx va) :=
  ite (of_bytes ⟨rfl, rfl, fun _ => rfl⟩ rfl rfl) (refl s)

theorem dropIcache (s : State) (hit : Nat → ILine → Bool) : s.Moves (s.dropIcache hit) := by
  have hbytes := State.KeepsBytes.dropIcache s hit
  obtain ⟨fs, h⟩ := s.dropIcache_eq hit
  rw [h] at hbytes ⊢
  refine ⟨hbytes, fun c => ?_, fun k hk => ⟨k, hk, le_rfl, rfl⟩⟩
  simp only [State.core, Tbl.get, Tbl.find?_map]
  cases s.cores.find? c with
  | none => rfl
  | some k => rfl

/-! ### Recalls (R85, R87, R93, R109) -/

theorem purgeL1 (s : State) (d ctx va : Nat) : s.Moves (s.purgeL1 d ctx va).1 := by
  refine List.foldlRecOn (List.range 60) _ (motive := fun a : State × Bool => s.Moves a.1) (refl s) fun a ha i _ => ?_
  dsimp only
  split
  case h_1 k _ _ => exact ha.trans (dropLine a.1 (.l1 (60 * d + i)) k)
  case h_2 => exact ha

theorem purgeRdc (s : State) (e d ctx va : Nat) : s.Moves (s.purgeRdc e d ctx va) := by
  have hl1 := purgeL1 s e ctx va
  unfold State.purgeRdc
  dsimp only
  split
  case h_1 k _ _ =>
    have hline := (hl1.trans (dropLine _ (.rdc e) k)).trans (performLine _ ctx va 4)
    exact ite (hline.trans (dirty _ d ctx va)) hline
  case h_2 => exact hl1

theorem purgeAbove (s : State) (d ctx va : Nat) : s.Moves (s.purgeAbove d ctx va) := by
  have hrdc := foldl (fun u e => purgeRdc u e d ctx va) ([0, 1, 2, 3].filter (· != d)) s
  have hl1 := (hrdc.trans (purgeL1 _ d ctx va)).trans (performLine _ ctx va 4)
  unfold State.purgeAbove
  dsimp only
  split
  · exact hl1.trans (dirty _ d ctx va)
  · exact hl1

theorem purge (s : State) (d ctx va : Nat) : s.Moves (s.purge d ctx va) := by
  have habove := purgeAbove s d ctx va
  unfold State.purge
  dsimp only
  split
  case h_1 k x _ =>
    exact (((habove.trans (dropLine _ _ k)).trans (unfilter _ x.pa)).trans (flushSide _ x.pa)).trans (spill _ ctx va)
  case h_2 => exact habove

theorem recallGranule (s : State) (pa : Nat) : s.Moves (s.recallGranule pa) := by
  have hlines := foldl (fun u (e : Nat × CLine) => purge u (e.1 / 2048 / 192) e.2.ctx (e.2.va * 64))
    (s.l2.entries.filter (fun e => e.2.pa / 2 ^ 16 == pa / 2 ^ 16)) s
  exact (hlines.trans (dropIcache _ (fun _ l => l.pa / 2 ^ 16 == pa / 2 ^ 16))).trans (of_bytes ⟨rfl, rfl, fun _ => rfl⟩ rfl rfl)

theorem recallScaled (s : State) (pa n : Nat) : s.Moves (s.recallScaled pa n) := by
  unfold State.recallScaled
  split
  · exact refl s
  · exact foldl (fun u (e : Nat × CLine) => purge u (e.1 / 2048 / 192) e.2.ctx (e.2.va * 64)) _ s

theorem recallFor (s : State) (p : Place) (n : Nat) : s.Moves (s.recallFor p n) := by
  have hscaled := recallScaled s p.pa n
  exact ite (refl s) (ite (ite (hscaled.trans (recallGranule _ _)) hscaled) (hscaled.trans (purge _ _ _ _)))

/-! ### Fills (R112, R113, R119) -/

theorem evict (s : State) (l : Level) (k : Nat) : s.Moves (s.evict l k) := by
  unfold State.evict
  split
  · exact refl s
  case h_2 x _ =>
    cases l with
    | rdc e => exact purgeRdc s e _ _ _
    | l2 e => exact purge s e _ _
    | l1 c =>
      have hdrop := dropLine s (.l1 c) k
      refine ite (ite ((hdrop.trans (dirty _ _ _ _)).trans (performLine _ _ _ _)) ?_) hdrop
      split
      · exact (hdrop.trans (setLine _ _ _ _)).trans (performLine _ _ _ _)
      · exact hdrop.trans (performLine _ _ _ _)

theorem victim {s u : State} {l : Level} {va k : Nat} {mask : Nat → Bool} (h : s.victim l va mask = some (k, u)) : s.Moves u := by
  unfold State.victim at h
  dsimp only at h
  split at h
  · cases h; exact refl s
  · obtain ⟨w, -, hw⟩ := Option.map_eq_some_iff.1 h
    cases hw
    refine foldl (fun u w => ?_) _ s
    split
    · exact setLine u _ _ _
    · exact refl u

theorem filterIn (s : State) (ctx va pa : Nat) : s.Moves (s.filterIn ctx va pa) := by
  unfold State.filterIn
  split
  · exact refl s
  · split <;> exact of_bytes ⟨rfl, rfl, fun _ => rfl⟩ rfl rfl

theorem filterRoom (s : State) (pa : Nat) : s.Moves (s.filterRoom pa) := by
  unfold State.filterRoom
  refine ite (refl s) (ite (refl s) ?_)
  split
  · exact refl s
  · exact recallGranule s _

theorem fill (s : State) (l : Level) (p : Place) (cpid rrpv : Nat) (st : CState) : s.Moves (s.fill l p cpid rrpv st).1 := by
  unfold State.fill
  split
  · exact refl s
  · split
    · exact refl s
    case h_2 k u hvictim =>
      have hevict := (victim hvictim).trans (evict u l k)
      dsimp only
      split
      · dsimp only
        exact (hevict.trans (filterIn _ _ _ _)).trans (setLine _ _ _ _)
      · exact hevict.trans (setLine _ _ _ _)

theorem fillOut (s : State) (p : Place) (cpid rrpv : Nat) (own : Bool) (ls : List Level) : s.Moves (s.fillOut p cpid rrpv own ls) := by
  induction ls generalizing s with
  | nil => exact refl s
  | cons l r ih =>
    have hfill := fill s l p cpid rrpv (match l with | .l2 _ => .clean | _ => if own then .e else .s)
    exact ite (hfill.trans (ih _)) hfill

theorem fallTo (s : State) (l : Level) (d ctx va : Nat) : s.Moves (s.fallTo l d ctx va) := by
  unfold State.fallTo
  split
  · exact refl s
  case h_2 k x _ =>
    have hset := setLine s l k { x with state := .s }
    have hhome := (hset.trans (dirty _ d ctx va)).trans (performLine _ ctx va 4)
    refine ite ?_ hset
    cases l with
    | rdc _ => exact hhome
    | l2 _ => exact hhome
    | l1 c =>
      refine ite hhome ?_
      split
      · exact (hset.trans (setLine _ _ _ _)).trans (performLine _ _ _ _)
      · exact hhome

theorem shareLine (s : State) (c : Nat) (p : Place) : s.Moves (s.shareLine c p) :=
  foldl (fun u l => fallTo u l p.die p.ctx p.va) _ s

theorem cacheLoad (s : State) (c : Nat) (p : Place) (cpid rd hint : Nat) : s.Moves (s.cacheLoad c p cpid rd hint) := by
  unfold State.cacheLoad
  dsimp only
  split
  case h_1 l k x _ =>
    have hset := setLine s l k { x with rrpv := 0 }
    exact ite (refl s) (ite hset ((hset.trans (shareLine _ c p)).trans (fillOut _ p cpid rd false _)))
  case h_2 =>
    have hroom := filterRoom s p.pa
    split
    · exact hroom.trans (fillOut _ p cpid rd false _)
    · exact hroom.trans (fill _ _ p cpid rd _)
    · exact refl s

/-! ### Stores (R114, R119) -/

theorem ownLine (s : State) (c : Nat) (p : Place) : s.Moves (s.ownLine c p) := by
  have hrdc := foldl (fun u e => purgeRdc u e p.die p.ctx p.va) ([0, 1, 2, 3].filter (fun e => e != p.die && e != dieOf c)) s
  unfold State.ownLine
  dsimp only
  generalize ([0, 1, 2, 3].filter (fun e => e != p.die && e != dieOf c)).foldl (fun a e => a.purgeRdc e p.die p.ctx p.va) s = u at hrdc ⊢
  have hhome : s.Moves (if dieOf c = p.die then u else
      if (u.purgeL1 p.die p.ctx p.va).2 then ((u.purgeL1 p.die p.ctx p.va).1.dirty p.die p.ctx p.va).performLine p.ctx p.va 4
      else (u.purgeL1 p.die p.ctx p.va).1) := by
    have hl1 := hrdc.trans (purgeL1 u p.die p.ctx p.va)
    exact ite hrdc (ite ((hl1.trans (dirty _ _ _ _)).trans (performLine _ _ _ _)) hl1)
  have hpath := hhome.trans (foldl (f := fun (a : State) i =>
      let l := Level.l1 (60 * dieOf c + i)
      let b := a.fallTo l p.die p.ctx p.va
      match b.find l p.ctx p.va with
      | some (k, _) => b.dropLine l k
      | none => b) (fun u i => by
    have hfall := fallTo u (.l1 (60 * dieOf c + i)) p.die p.ctx p.va
    dsimp only
    split
    · exact hfall.trans (dropLine _ _ _)
    · exact hfall) ((List.range 60).filter (fun i => 60 * dieOf c + i != c)) _)
  split
  · exact ite (hpath.trans (setLine _ _ _ _)) hpath
  · exact hpath

theorem cleanPath (s : State) (c : Nat) (p : Place) (l : Level) : s.Moves (s.cleanPath c p l) := by
  refine (foldl (fun u y => ?_) _ s).trans (performLine _ p.ctx p.va 4)
  split
  · exact setLine u _ _ _
  · exact refl u

theorem storeHome (s : State) (p : Place) (cpid rd : Nat) : s.Moves (s.storeHome p cpid rd) := by
  have habove := purgeAbove s p.die p.ctx p.va
  unfold State.storeHome
  dsimp only
  split
  · exact habove.trans (dirty _ _ _ _)
  · exact (habove.trans (filterRoom _ _)).trans (fill _ _ p cpid rd _)

theorem cleanHome (s : State) (p : Place) (rrpv : Option Nat) : s.Moves (s.cleanHome p rrpv) := by
  unfold State.cleanHome
  split
  · exact setLine s _ _ _
  · exact refl s

/-- A store that its caches do not hold obtains its line, and is merged as near as the line has come. -/
theorem obtains {s v : State} (hv : s.Moves v) (c : Nat) (p : Place) (cpid rd : Nat) :
    s.Moves (match v.find (.l1 c) p.ctx p.va with
      | some (k, x) => (v.setLine (.l1 c) k { x with state := .m }, 1)
      | none =>
        match (if dieOf c = p.die then none else v.find (.rdc (dieOf c)) p.ctx p.va) with
        | some (k, x) => (v.setLine (.rdc (dieOf c)) k { x with state := .m }, 2)
        | none => (v.storeHome p cpid rd, 4) : State × Nat).1 := by
  split
  · dsimp only
    exact hv.trans (setLine v _ _ _)
  · split
    · dsimp only
      exact hv.trans (setLine v _ _ _)
    · dsimp only
      exact hv.trans (storeHome v p cpid rd)

theorem cacheStore (s : State) (c : Nat) (p : Place) (cpid rd hint : Nat) : s.Moves (s.cacheStore c p cpid rd hint).1 := by
  have hown := ownLine s c p
  unfold State.cacheStore
  dsimp only
  split
  case h_1 =>
    dsimp only
    split
    · exact hown.trans (setLine _ _ _ _)
    · exact hown
  case h_2 =>
    refine obtains ?_ c p cpid rd
    split
    case h_1 l k x _ =>
      have hset := hown.trans (setLine _ l k { x with rrpv := 0 })
      exact ite hset (hset.trans (fillOut _ p cpid rd true _))
    case h_2 => exact (hown.trans (filterRoom _ p.pa)).trans (fillOut _ p cpid rd true _)
  case h_3 l _ _ _ =>
    dsimp only
    exact (hown.trans (cleanPath _ c p l)).trans (dirty _ _ _ _)
  case h_4 =>
    dsimp only
    exact storeHome s p cpid rd
  case h_5 l _ _ _ _ _ =>
    dsimp only
    exact (hown.trans (cleanPath _ c p l)).trans (cleanHome _ _ _)
  case h_6 =>
    dsimp only
    exact (purgeAbove s _ _ _).trans (cleanHome _ _ _)

end State.Moves

end Sys2Proof.Machine
end

section
namespace Sys2Proof.Machine

/-! ## What a checked access leaves (R267 to R283) -/

/-- From `s` to `t` accesses have passed through the caches and been tracked: `State.KeepsBytes`, and every core stays but for its L1D and
I-cache. -/
structure State.Accessed (s t : State) : Prop where
  bytes : s.KeepsBytes t
  core : ∀ c, t.core c = { s.core c with l1d := (t.core c).l1d, icache := (t.core c).icache }

theorem State.Moves.accessed {s t : State} (h : s.Moves t) : s.Accessed t := ⟨h.bytes, h.core⟩

namespace State.Accessed

/-- A step that leaves the cores. -/
theorem of_bytes {s t : State} (h : s.KeepsBytes t) (hcores : t.cores = s.cores) : s.Accessed t :=
  ⟨h, fun c => by rw [State.core, State.core, hcores]⟩

theorem refl (s : State) : s.Accessed s := of_bytes (.refl s) rfl

theorem trans {s t u : State} (h : s.Accessed t) (h' : t.Accessed u) : s.Accessed u where
  bytes := h.bytes.trans h'.bytes
  core c := by rw [h'.core c, h.core c]

theorem stream {s t : State} (h : s.Accessed t) (g : Nat) : t.stream g = s.stream g := by
  rw [State.stream, h.core]; rfl

theorem sp {s t : State} (h : s.Accessed t) (c : Nat) : (t.core c).sp = (s.core c).sp := by rw [h.core]

theorem line {s t : State} (h : s.Accessed t) (c i : Nat) : (t.core c).line i = (s.core c).line i := by
  rw [Core.line, Core.line, h.sp]

theorem mem {s t : State} (h : s.Accessed t) (hs : s.NoFormat) : t.mem = s.mem := h.bytes.mem hs

theorem noFormat {s t : State} (h : s.Accessed t) (hs : s.NoFormat) : t.NoFormat := h.bytes.noFormat hs

theorem holdTrans (s : State) (d va : Nat) (t : Trans) : s.Accessed (s.holdTrans d va t) := of_bytes ⟨rfl, rfl, fun _ => rfl⟩ rfl

theorem track (s : State) (w : Who) (p : Place) (va n : Nat) (write plain : Bool) (lv : Nat) : s.Accessed (s.track w p va n write plain lv) :=
  of_bytes ⟨rfl, rfl, fun _ => rfl⟩ rfl

theorem endsHeads (s : State) (pa n : Nat) : s.Accessed (s.endsHeads pa n) := by
  refine of_bytes (.endsHeads s pa n) ?_
  unfold State.endsHeads
  split <;> rfl

theorem foldl {α : Type} {f : State → α → State} (hf : ∀ (u : State) (a : α), u.Accessed (f u a)) (l : List α) (s : State) :
    s.Accessed (l.foldl f s) :=
  List.foldlRecOn l f (.refl s) (fun u hu a _ => hu.trans (hf u a))

theorem trackRange (s : State) (w : Who) (p : Place) (va : Word) (n : Nat) (write plain : Bool) (lv : Nat) :
    s.Accessed (s.trackRange w p va n write plain lv) := by
  have hheads : s.Accessed (if write && plain then s.endsHeads p.pa n else s) := by
    split
    · exact endsHeads s _ _
    · exact refl s
  unfold State.trackRange
  split
  · exact refl s
  · refine hheads.trans ?_
    generalize (if write && plain then s.endsHeads p.pa n else s) = u
    dsimp only
    split
    · exact track _ _ _ _ _ _ _ _
    · exact foldl (fun u i => track u _ _ _ _ _ _ _) _ _

theorem look {s h : State} {c : Nat} {va : Word} {k : AccKind} {p : Place} (hlook : s.look c va k = .ok (p, h)) : s.Accessed h := by
  unfold State.look at hlook
  dsimp only at hlook
  split at hlook
  · split at hlook
    · cases hlook; exact refl s
    · cases hlook
  · split at hlook
    · cases hlook
    · cases hlook; exact holdTrans s _ _ _

theorem touchRead (s : State) (c : Nat) (w : Who) (p : Place) (n : Nat) : s.Accessed (s.touchRead c w p n) := by
  unfold State.touchRead
  split
  · exact (Moves.recallFor s p n).accessed
  · exact (Moves.cacheLoad s c p _ _ _).accessed

theorem touchWrite (s : State) (c : Nat) (w : Who) (p : Place) (n : Nat) : s.Accessed (s.touchWrite c w p n).1 := by
  unfold State.touchWrite
  split
  · exact (Moves.recallFor s p n).accessed
  · exact (Moves.cacheStore s c p _ _ _).accessed

/-- A plain read that is checked. -/
theorem plainRead {s u : State} {w : Who} {va : Word} {n : Nat} {p : Place} (hread : s.plainRead w va n = .ok (p, u)) : s.Accessed u := by
  unfold State.plainRead at hread
  split at hread
  · cases hread
  case h_2 p' h hlook =>
    split at hread
    · cases hread
    · split at hread
      · cases hread
      · dsimp only at hread
        split at hread
        · cases hread
        · cases hread
          exact ((look hlook).trans (touchRead h _ w p n)).trans (trackRange _ w p va n _ _ _)

/-- A plain write that is checked. -/
theorem plainWrite {s u : State} {w : Who} {va : Word} {n scp : Nat} {p : Place} (hwrite : s.plainWrite w va n scp = .ok (p, u)) :
    s.Accessed u := by
  unfold State.plainWrite at hwrite
  split at hwrite
  · cases hwrite
  case h_2 p' h hlook =>
    split at hwrite
    · cases hwrite
    · split at hwrite
      · cases hwrite
      · dsimp only at hwrite
        split at hwrite
        · cases hwrite
        · cases hwrite
          exact ((look hlook).trans (touchWrite h _ w p n)).trans (trackRange _ w p va n _ _ _)

end State.Accessed

end Sys2Proof.Machine
end

section
namespace Sys2Proof.Machine

/-! ## A chain unit of a stream -/

@[simp] theorem Stream.chain_modChain (t : Stream) (ld : Bool) (f : Chain → Chain) : (t.modChain ld f).chain ld = f (t.chain ld) := by
  cases ld <;> rfl
@[simp] theorem Stream.status_modChain (t : Stream) (ld : Bool) (f : Chain → Chain) : (t.modChain ld f).status = t.status := by
  cases ld <;> rfl
/-- Changing the region of a stream leaves its chain units. -/
@[simp] theorem Stream.chain_region (t : Stream) (ld : Bool) (r : Nat) : ({ t with region := r } : Stream).chain ld = t.chain ld := rfl
/-- Parking a stream leaves its chain units. -/
@[simp] theorem Stream.chain_parkedWith (t : Stream) (ld : Bool) (r : FRec) : (t.parkedWith r).chain ld = t.chain ld := rfl

/-- An operation that has held no fault is not behind another. -/
@[simp] theorem Stream.turn_zero (t : Stream) (q : Nat) : t.turn q 0 = true := rfl

/-- A change of a stream leaves what its core has beside streams. -/
theorem State.core_modStream (s : State) (g c : Nat) (f : Stream → Stream) :
    (s.modStream g f).core c = { s.core c with streams := ((s.modStream g f).core c).streams } := by
  by_cases h : c = g / 4
  · rw [h, State.modStream, State.core_modCore_same]; rfl
  · rw [State.modStream, State.core_modCore_ne _ _ _ _ h]

@[simp] theorem State.core_modStream_rings (s : State) (g c : Nat) (f : Stream → Stream) : ((s.modStream g f).core c).rings = (s.core c).rings := by
  rw [State.core_modStream]

/-- A held fault parks a stream that runs. -/
theorem State.parkHeld_running {s : State} {g : Nat} (hrun : (s.stream g).status = .running) (f : FaultInfo) :
    s.parkHeld g f = s.park g 0 f := if_neg (by rw [hrun]; decide)

/-- The fault that a chain unit holds at entry `c`. -/
def Chain.faultOf (c : Chain) (ld : Bool) (f : FaultInfo) : FaultInfo :=
  { f with src := if f.src = 4 then 4 else 3, unit := if ld then 0 else 2, word := c.cur,
           prog := match c.entry with | some e => (chainJob ld e).progress c.prog | none => 0 }

/-- The unit holds the fault and its stream parks. -/
theorem State.chainFault_parks {s : State} {g : Nat} {f : FaultInfo} (hsrc : f.src ≠ 4) (hrun : (s.stream g).status = .running) (ld : Bool)
    (c : Chain) :
    ((s.chainFault g ld c f).stream g).status = .parked ∧ (((s.chainFault g ld c f).stream g).chain ld).fault = some (c.faultOf ld f) := by
  have hsrc' : (if f.src = 4 then 4 else 3) = 3 := if_neg hsrc
  have heq : s.chainFault g ld c f = (s.modStream g (fun t => t.modChain ld (fun c' =>
      { c' with fault := some (c.faultOf ld f), faultAt := s.cycle + 1 }))).parkHeld g (c.faultOf ld f) := by
    rw [State.chainFault, Chain.faultOf]
    simp only [hsrc', show ¬ (3 = 4) by decide, if_false] <;> rfl
  rw [heq, State.parkHeld_running (by rw [State.stream_modStream_same, Stream.status_modChain, hrun]), State.stream_park,
    State.stream_modStream_same, Stream.chain_parkedWith, Stream.chain_modChain]
  exact ⟨rfl, rfl⟩

theorem Chain.faultOf_src (c : Chain) (ld : Bool) {f : FaultInfo} (hsrc : f.src ≠ 4) : (c.faultOf ld f).src = 3 := if_neg hsrc

section
variable {s : State} {g : Nat} {ld : Bool} {c : Chain} (hg : s.site.unit = g) (hsub : (s.site.sub == 0) = ld)
  (hc : (s.stream g).chain ld = c) (hrun : c.run = true) (hfault : c.fault = none) (hat : c.faultAt = 0)
include hg hsub hc hrun hfault hat

/-! ### The fetch of an entry (R155) -/

section
variable (hentry : c.entry = none) (hskip : c.skip = false) (hlanded : (s.stream g).landedBy c.kicked = true)
include hentry hskip hlanded

theorem exec_chainEntryFetch :
    exec .chainEntryFetch s = .next (match s.plainRead ((s.stream g).chainWho g fetchQ c 3 0) c.cur 64 with
      | .error f => s.chainFault g ld c f
      | .ok (p, u) =>
        if (u.lineAt p.pa).poison then s.chainFault g ld c { code := .poison, addr := c.cur, info := 2 }
        else if chainBad (u.lineAt p.pa).data then s.chainFault g ld c (ringFault 0 0 false)
        else (u.modCore (g / 4) (fun k => { k with orders := k.orders + 1 })).modStream g (fun t => t.modChain ld (fun c =>
          (c.fetched (chainJob ld (u.lineAt p.pa).data) ((s.core (g / 4)).indices (chainJob ld (u.lineAt p.pa).data)) (s.core (g / 4)).orders
            t.cpid.toNat).holding (u.lineAt p.pa).data))) := by
  have harm : exec .chainEntryFetch s = execChainEntryFetch s := rfl
  rw [harm, execChainEntryFetch]
  dsimp only
  rw [hg, hsub, hc, if_neg (by simp [hskip]), if_neg (by simp [hrun, hentry, hfault, hlanded, hat])]
  cases s.plainRead ((s.stream g).chainWho g fetchQ c 3 0) c.cur 64 with
  | error f => rfl
  | ok r =>
    dsimp only
    split
    · rfl
    · split <;> rfl

omit hg hsub hc hrun hfault hat hentry hskip hlanded in
/-- A unit whose entry has not waited holds what it fetched, at its start. -/
theorem Chain.fetched_holding (c : Chain) (j : CopyJob) (idx : List Nat) (order cpid : Nat) (e : Row) (hwaited : c.waited = false) :
    ((c.fetched j idx order cpid).holding e).entry = some e ∧ ((c.fetched j idx order cpid).holding e).waited = false
      ∧ ((c.fetched j idx order cpid).holding e).prog = 0 ∧ ((c.fetched j idx order cpid).holding e).cur = c.cur := by
  unfold Chain.fetched
  cases c.fp.isSome <;> simp [Chain.holding, hwaited]

/-- An entry that can be read and is sound is held, and its wait is still to come. -/
theorem chainEntryFetch_holds (hwaited : c.waited = false) {p : Place} {u : State}
    (hread : s.plainRead ((s.stream g).chainWho g fetchQ c 3 0) c.cur 64 = .ok (p, u)) (hclean : (u.lineAt p.pa).poison = false)
    (hsound : chainBad (u.lineAt p.pa).data = false) :
    ∃ t, exec .chainEntryFetch s = .next t ∧ ((t.stream g).chain ld).entry = some (u.lineAt p.pa).data
      ∧ ((t.stream g).chain ld).waited = false ∧ ((t.stream g).chain ld).prog = 0 ∧ ((t.stream g).chain ld).cur = c.cur := by
  have hexec := exec_chainEntryFetch hg hsub hc hrun hfault hat hentry hskip hlanded
  rw [hread] at hexec
  dsimp only at hexec
  rw [hclean, hsound] at hexec
  rw [if_neg (by decide), if_neg (by decide)] at hexec
  have hstream : (u.modCore (g / 4) (fun k => { k with orders := k.orders + 1 })).stream g = s.stream g :=
    (u.stream_modCore (g / 4) g (fun k => { k with orders := k.orders + 1 }) (fun _ => rfl)).trans ((State.Accessed.plainRead hread).stream g)
  have hheld := Chain.fetched_holding c (chainJob ld (u.lineAt p.pa).data) ((s.core (g / 4)).indices (chainJob ld (u.lineAt p.pa).data))
    (s.core (g / 4)).orders (s.stream g).cpid.toNat (u.lineAt p.pa).data hwaited
  refine ⟨_, hexec, ?_⟩
  rw [State.stream_modStream_same, hstream, Stream.chain_modChain, hc]
  exact hheld

/-- An entry that cannot be read parks the stream, with the fault of the read. -/
theorem chainEntryFetch_unreadable {f : FaultInfo} (hstatus : (s.stream g).status = .running)
    (hread : s.plainRead ((s.stream g).chainWho g fetchQ c 3 0) c.cur 64 = .error f) (hsrc : f.src = 0) :
    ∃ t, exec .chainEntryFetch s = .next t ∧ (t.stream g).status = .parked ∧ ((t.stream g).chain ld).fault = some (c.faultOf ld f) := by
  have hexec := exec_chainEntryFetch hg hsub hc hrun hfault hat hentry hskip hlanded
  rw [hread] at hexec
  exact ⟨_, hexec, State.chainFault_parks (by rw [hsrc]; decide) hstatus ld c⟩

/-- The fault of an entry that is poisoned, or that has an invalid field. -/
def Chain.entryFault (c : Chain) (poison : Bool) : FaultInfo :=
  if poison then { code := .poison, addr := c.cur, info := 2 } else ringFault 0 0 false

omit hg hsub hc hrun hfault hat hentry hskip hlanded in
theorem Chain.entryFault_src (c : Chain) (poison : Bool) : (c.entryFault poison).src = 0 := by
  cases poison <;> rfl

/-- An entry that is poisoned or unsound parks the stream. -/
theorem chainEntryFetch_refused {p : Place} {u : State} (hstatus : (s.stream g).status = .running)
    (hread : s.plainRead ((s.stream g).chainWho g fetchQ c 3 0) c.cur 64 = .ok (p, u))
    (hbad : (u.lineAt p.pa).poison = true ∨ chainBad (u.lineAt p.pa).data = true) :
    ∃ t, exec .chainEntryFetch s = .next t ∧ (t.stream g).status = .parked
      ∧ ((t.stream g).chain ld).fault = some (c.faultOf ld (c.entryFault (u.lineAt p.pa).poison)) := by
  have hexec : exec .chainEntryFetch s = .next (s.chainFault g ld c (c.entryFault (u.lineAt p.pa).poison)) := by
    rw [exec_chainEntryFetch hg hsub hc hrun hfault hat hentry hskip hlanded, hread]
    dsimp only
    cases hpoison : (u.lineAt p.pa).poison with
    | true => rfl
    | false =>
      rw [if_neg (by decide), if_pos (hbad.resolve_left (by rw [hpoison]; decide))]
      rfl
  exact ⟨_, hexec, State.chainFault_parks (by rw [Chain.entryFault_src]; decide) hstatus ld c⟩

end

/-! ### The wait and the end of an entry (R155) -/

/-- An entry whose wait holds, that nothing earlier meets and whose first checks pass begins its copy. -/
theorem chainWaitSatisfied_begins {e : Row} (hentry : c.entry = some e) (hwaited : c.waited = false) (hskip : c.skip = false)
    (hcharge : entryByte e 11 % 2 = 1 → (s.stream g).charge = none) (hready : (s.core (g / 4)).chainReady e = true)
    (htracked : (s.core (g / 4)).tracked c.order ((s.stream g).slotOf (chainJob ld e).fp) = false)
    (hchecks : (s.core (g / 4)).copyChecks (chainJob ld e) ((s.stream g).slotOf (chainJob ld e).fp) = none) :
    ∃ t, exec .chainWaitSatisfied s = .next t ∧ ((t.stream g).chain ld).waited = true ∧ ((t.stream g).chain ld).entry = some e ∧ t.mem = s.mem := by
  have hexec : exec .chainWaitSatisfied s = .next (s.modStream g (fun t =>
      (if entryByte e 11 % 2 = 1 then { t with region := t.region + 1 } else t).modChain ld (fun c =>
        { c with waited := true, idx := (s.core (g / 4)).indices (chainJob ld e), faultAt := 0,
                 clock := c.clock.acquire (s.entrySeen (g / 4) e) }))) := by
    have harm : exec .chainWaitSatisfied s = execChainWaitSatisfied s := rfl
    have hnone : (if entryByte e 11 % 2 = 1 then (s.stream g).charge else none) = none := by
      split
      · exact hcharge ‹_›
      · rfl
    rw [harm, execChainWaitSatisfied]
    dsimp only
    rw [hg, hsub, hc, hentry]
    dsimp only
    rw [if_neg (by simp [hrun, hwaited, hfault, hat, hready, htracked]), if_neg (by simp [hskip]), hnone, hchecks]
  refine ⟨_, hexec, ?_, ?_, rfl⟩
  all_goals rw [State.stream_modStream_same, Stream.chain_modChain]
  split <;> exact hc ▸ hentry

section
variable {e : Row} (hentry : c.entry = some e) (hwaited : c.waited = true) (hmoved : (chainJob ld e).lines ≤ c.prog)
  (hskip : c.skip = false) (hcharge : (s.stream g).charge = none)
include hentry hwaited hmoved

/-- An entry that posts nothing only moves its unit on. -/
theorem exec_chainEntryRetire_silent (hpost : entryByte e 11 / 4 % 2 = 0) :
    exec .chainEntryRetire s = .next (s.modStream g (fun t => t.modChain ld (fun c => c.moveOn (entryWord e 0)))) := by
  have harm : exec .chainEntryRetire s = execChainEntryRetire s := rfl
  rw [harm, execChainEntryRetire]
  dsimp only
  rw [hg, hsub, hc, hentry]
  dsimp only
  rw [if_neg (by simp [hrun, hwaited, hfault, hat]), if_neg (by simp [hmoved]), if_pos hpost]

/-- The unit goes on to NEXT, or to HEAD where it has been linked anew, and stops at 0. -/
theorem chainEntryRetire_silent (hpost : entryByte e 11 / 4 % 2 = 0) {next : Word} (hnext : next = if c.pend then c.head else entryWord e 0) :
    ∃ t, exec .chainEntryRetire s = .next t ∧ ((t.stream g).chain ld).cur = next
      ∧ ((t.stream g).chain ld).run = (next != 0) ∧ ((t.stream g).chain ld).entry = none ∧ ((t.stream g).chain ld).pend = false
      ∧ (t.core (g / 4)).rings = (s.core (g / 4)).rings ∧ t.mem = s.mem := by
  refine ⟨_, exec_chainEntryRetire_silent hg hsub hc hrun hfault hat hentry hwaited hmoved hpost, ?_, ?_, ?_, ?_, ?_, rfl⟩
  case refine_5 => exact State.core_modStream_rings s g (g / 4) _
  all_goals rw [State.stream_modStream_same, Stream.chain_modChain, hc]
  · exact hnext.symm
  · rw [hnext]; rfl
  · rfl
  · rfl

include hskip hcharge

/-- An entry that posts advances its ring and ends the stream's region. -/
theorem exec_chainEntryRetire_posts (hpost : entryByte e 11 / 4 % 2 = 1) {r : Ring}
    (hring : ((s.core (g / 4)).ring (entryByte e 13)).advance (entryByte e 13) (entryHalf e 16) (entryByte e 11 / 8 % 2 == 0) = .ok r) :
    exec .chainEntryRetire s = .next ((((s.ringMoves (g / 4) (entryByte e 13) (entryHalf e 16) (entryByte e 11 / 8 % 2 == 0)
        ((s.core (g / 4)).ring (entryByte e 13)) (s.carries g c.region c.clock)).modCore (g / 4)
        (fun k => { k with rings := k.rings.put (entryByte e 13) r })).modStream g (fun t => { t with region := t.region + 1 })).modStream g
        (fun t => t.modChain ld (fun c => c.moveOn (entryWord e 0)))) := by
  have harm : exec .chainEntryRetire s = execChainEntryRetire s := rfl
  rw [harm, execChainEntryRetire]
  dsimp only
  rw [hg, hsub, hc, hentry]
  dsimp only
  rw [if_neg (by simp [hrun, hwaited, hfault, hat]), if_neg (by simp [hmoved]), if_neg (by rw [hpost]; decide),
    if_neg (by simp [hskip]), hcharge, hring]

/-- The ring holds what the post made of it, and the unit has moved on. -/
theorem chainEntryRetire_posts (hpost : entryByte e 11 / 4 % 2 = 1) {r : Ring}
    (hring : ((s.core (g / 4)).ring (entryByte e 13)).advance (entryByte e 13) (entryHalf e 16) (entryByte e 11 / 8 % 2 == 0) = .ok r)
    {next : Word} (hnext : next = if c.pend then c.head else entryWord e 0) :
    ∃ t, exec .chainEntryRetire s = .next t ∧ (t.core (g / 4)).ring (entryByte e 13) = r ∧ ((t.stream g).chain ld).cur = next
      ∧ ((t.stream g).chain ld).entry = none ∧ t.mem = s.mem := by
  have hstream (v : State) : (v.modCore (g / 4) (fun k => { k with rings := k.rings.put (entryByte e 13) r })).stream g = v.stream g :=
    v.stream_modCore (g / 4) g _ (fun _ => rfl)
  refine ⟨_, exec_chainEntryRetire_posts hg hsub hc hrun hfault hat hentry hwaited hmoved hskip hcharge hpost hring, ?_, ?_, ?_, rfl⟩
  · rw [Core.ring, State.core_modStream_rings, State.core_modStream_rings, State.core_modCore_same]
    exact Tbl.get_put_same ..
  all_goals
    rw [State.stream_modStream_same, State.stream_modStream_same, Stream.chain_modChain, Stream.chain_region, hstream]
  · exact (congrArg (fun c => (c.moveOn (entryWord e 0)).cur) hc).trans hnext.symm
  · rfl

end
end

/-- Settles O43, event by event; the place that the read of an entry gives changes no stream (`State.Accessed`). -/
theorem chainUnitEvents : Obligations.ChainUnitEvents := by
  unfold Obligations.ChainUnitEvents
  intro s g ld c hg hsub hc hrun hfault hat
  have hld : (s.site.sub == 0) = ld := by
    rw [hsub]; cases ld <;> rfl
  refine ⟨?_, ?_, ?_, ?_, ?_⟩
  · intro p u hentry hskip hwaited hlanded hread hclean hsound
    exact chainEntryFetch_holds hg hld hc hrun hfault hat hentry hskip hlanded hwaited hread hclean hsound
  · intro f hentry hskip hlanded hstatus hread hsrc
    obtain ⟨t, hexec, hparked, hheld⟩ := chainEntryFetch_unreadable hg hld hc hrun hfault hat hentry hskip hlanded hstatus hread hsrc
    exact ⟨t, hexec, hparked, _, hheld, rfl, Chain.faultOf_src c ld (by rw [hsrc]; decide), rfl, rfl⟩
  · intro p u hentry hskip hlanded hstatus hread hbad
    obtain ⟨t, hexec, hparked, hheld⟩ := chainEntryFetch_refused hg hld hc hrun hfault hat hentry hskip hlanded hstatus hread hbad
    refine ⟨t, hexec, hparked, _, hheld, Chain.faultOf_src c ld (by rw [Chain.entryFault_src]; decide), rfl, rfl, ?_, ?_⟩
    · intro hpoison
      rw [hpoison]
      exact ⟨rfl, rfl, rfl⟩
    · intro hclean
      rw [hclean]
      exact ⟨rfl, rfl, rfl⟩
  · intro e hentry hwaited hskip hcharge hready htracked hchecks
    exact chainWaitSatisfied_begins hg hld hc hrun hfault hat hentry hwaited hskip hcharge hready htracked hchecks
  · intro e hentry hwaited hskip hcharge hmoved next
    exact ⟨fun hpost => chainEntryRetire_silent hg hld hc hrun hfault hat hentry hwaited hmoved hpost rfl,
      fun r hpost hring => chainEntryRetire_posts hg hld hc hrun hfault hat hentry hwaited hmoved hskip hcharge hpost hring rfl⟩

end Sys2Proof.Machine
end

section
namespace Sys2Proof.Machine

/-! ## The entries of a queue -/

@[simp] theorem Stream.queue_setQueue (t : Stream) (q : Nat) (l : List QEntry) : (t.setQueue q l).queue q = l := by
  rcases q with _ | _ | _ | q <;> rfl

/-- Changing entry `n` of a queue changes the entries of that number there. -/
@[simp] theorem Stream.modEntry_queue (t : Stream) (q n : Nat) (f : QEntry → QEntry) :
    (t.modEntry q n f).queue q = (t.queue q).map (fun e => if e.number = n then f e else e) := t.queue_setQueue q _

/-- The head of a queue changed. -/
theorem Stream.modEntry_head {t : Stream} {q : Nat} {e : QEntry} {r : List QEntry} (hqueue : t.queue q = e :: r) (f : QEntry → QEntry) :
    ∃ r', (t.modEntry q e.number f).queue q = f e :: r' := by
  rw [Stream.modEntry_queue, hqueue, List.map_cons, if_pos rfl]
  exact ⟨_, rfl⟩

@[simp] theorem Stream.dropEntry_queue (t : Stream) (q n : Nat) : (t.dropEntry q n).queue q = (t.queue q).filter (fun e => e.number != n) :=
  t.queue_setQueue q _

@[simp] theorem Stream.modEntry_status (t : Stream) (q n : Nat) (f : QEntry → QEntry) : (t.modEntry q n f).status = t.status :=
  Stream.setQueue_status _ _ _

/-- What an entry has learned is no part of its queue. -/
@[simp] theorem Stream.retired_queue (t : Stream) (q p : Nat) (e : QEntry) : (t.retired p e).queue q = t.queue q := rfl

@[simp] theorem Stream.parkedWith_queue (t : Stream) (q : Nat) (r : FRec) : (t.parkedWith r).queue q = t.queue q := rfl

/-- An entry without pops has nothing to wait for. -/
theorem Stream.popTokens_none (t : Stream) (q : Nat) {i : Instr} (hleft : (tokenBits i).1 = false) (hright : (tokenBits i).2.1 = false) :
    t.popTokens q i = some t := by
  simp [Stream.popTokens, hleft, hright]

/-- An entry without pushes needs no room. -/
theorem Stream.pushTokens_none (t : Stream) (room : Nat → Nat) (q : Nat) {i : Instr} (c : Clock) (hleft : (tokenBits i).2.2.1 = false)
    (hright : (tokenBits i).2.2.2 = false) : t.pushTokens room q i c = some t := by
  simp [Stream.pushTokens, hleft, hright]

theorem State.modStream_sp (s : State) (g c : Nat) (f : Stream → Stream) : ((s.modStream g f).core c).sp = (s.core c).sp := by
  rw [State.core_modStream]

/-! ## The start of a copy command (R147) -/

theorem QEntry.spared_number (e : QEntry) (now : Nat) : (e.spared now).number = e.number := by
  unfold QEntry.spared; split <;> rfl

theorem QEntry.spared_skip (e : QEntry) (now : Nat) : (e.spared now).skip = e.skip := by
  unfold QEntry.spared; split <;> rfl

/-- An entry that no QCUT has reached starts as it stands. -/
theorem QEntry.spared_live {e : QEntry} (hlive : e.cancel = false) (now : Nat) : e.spared now = e :=
  if_neg (by simp [hlive])

/-- The entry as its start leaves it, with the index list `idx`. -/
def QEntry.begun (e : QEntry) (now : Nat) (idx : List Nat) : QEntry :=
  { ({ e with popped := true } : QEntry).spared now with started := true, faultAt := 0, idx := idx }

theorem QEntry.begun_number (e : QEntry) (now : Nat) (idx : List Nat) : (e.begun now idx).number = e.number :=
  QEntry.spared_number _ now

/-- The state in which the tokens of entry `n` are popped. -/
def State.popsEntry (s : State) (g q n : Nat) : State := s.modStream g (fun _ => (s.stream g).modEntry q n (fun e => { e with popped := true }))

/-- The state in which entry `n` has begun. -/
def State.beginsEntry (s : State) (g q n : Nat) (idx : List Nat) : State :=
  (s.popsEntry g q n).modStream g (fun t => t.modEntry q n (fun e => { e.spared s.cycle with started := true, faultAt := 0, idx := idx }))

theorem State.popsEntry_stream (s : State) (g q n : Nat) :
    (s.popsEntry g q n).stream g = (s.stream g).modEntry q n (fun e => { e with popped := true }) := State.stream_modStream_same _ _ _

theorem State.popsEntry_head {s : State} {g q : Nat} {e : QEntry} {r : List QEntry} (hqueue : (s.stream g).queue q = e :: r) :
    ∃ r', ((s.popsEntry g q e.number).stream g).queue q = { e with popped := true } :: r' := by
  rw [State.popsEntry_stream]
  exact Stream.modEntry_head hqueue _

theorem State.popsEntry_sp (s : State) (g q n c : Nat) : ((s.popsEntry g q n).core c).sp = (s.core c).sp := State.modStream_sp _ _ _ _

/-- A command that begins stays at the head of its queue, and moves no byte. -/
theorem State.beginsEntry_head {s : State} {g q : Nat} {e : QEntry} {r : List QEntry} (hqueue : (s.stream g).queue q = e :: r) (idx : List Nat) :
    ∃ r', ((s.beginsEntry g q e.number idx).stream g).queue q = e.begun s.cycle idx :: r' := by
  obtain ⟨r', hpopped⟩ := State.popsEntry_head hqueue
  rw [State.beginsEntry, State.stream_modStream_same]
  exact Stream.modEntry_head hpopped _

theorem State.beginsEntry_sp (s : State) (g q n : Nat) (idx : List Nat) (c : Nat) :
    ((s.beginsEntry g q n idx).core c).sp = (s.core c).sp := (State.modStream_sp _ _ _ _).trans (s.popsEntry_sp g q n c)

theorem State.parkHeld_mem (s : State) (g : Nat) (f : FaultInfo) : (s.parkHeld g f).mem = s.mem := by
  unfold State.parkHeld
  split
  · rfl
  · exact s.park_mem g 0 f

/-- A command that takes a fault holds it at the head of its queue, and its stream parks. -/
theorem State.commandFault_head {s : State} {g q : Nat} {e e' : QEntry} {r : List QEntry} {f : FaultInfo} (hsrc : f.src = 0)
    (hrun : (s.stream g).status = .running) (hqueue : (s.stream g).queue q = e' :: r) (hnumber : e'.number = e.number) :
    ((s.commandFault g q e 0 f).stream g).status = .parked ∧ (s.commandFault g q e 0 f).mem = s.mem
      ∧ ∃ r', ((s.commandFault g q e 0 f).stream g).queue q
          = { e' with fault := some { f with src := 2, unit := q, word := e.va, prog := e.prog }, faultAt := s.cycle + 1 } :: r' := by
  have heq : s.commandFault g q e 0 f = (s.holdFault g q e.number { f with src := 2, unit := q, word := e.va, prog := e.prog }).parkHeld g
      { f with src := 2, unit := q, word := e.va, prog := e.prog } := by
    rw [State.commandFault]
    simp only [hsrc, if_true]
    rfl
  have hheld := State.stream_modStream_same s g (fun t => t.modEntry q e.number (fun x =>
    { x with fault := some { f with src := 2, unit := q, word := e.va, prog := e.prog }, faultAt := s.cycle + 1 }))
  refine ⟨?_, heq ▸ State.parkHeld_mem _ _ _, ?_⟩
  all_goals rw [heq, State.holdFault, State.parkHeld_running (by rw [hheld, Stream.modEntry_status, hrun]), State.stream_park, hheld]
  · rfl
  · rw [Stream.parkedWith_queue, ← hnumber]
    exact Stream.modEntry_head hqueue _

section
variable {s : State} {g q : Nat} {e : QEntry} {r : List QEntry} {j : CopyJob} (hg : s.site.unit = g) (hq : s.site.sub = q)
  (hqueue : (s.stream g).queue q = e :: r) (hfault : e.fault = none) (hat : e.faultAt = 0) (hjob : e.job = some j)
include hg hq hqueue hfault hat hjob

section
variable (hstarted : e.started = false) (hentered : e.entered < s.cycle) (hleft : (tokenBits e.instr).1 = false)
  (hright : (tokenBits e.instr).2.1 = false)
include hstarted hentered hleft hright

/-- The start of a command that pops no token. -/
theorem exec_copyCommandStart :
    exec .copyCommandStart s = .next (
      if (e.spared s.cycle).skip || (e.spared s.cycle).cancel then s.beginsEntry g q e.number []
      else if (s.core (g / 4)).tracked (e.spared s.cycle).order ((s.stream g).slotOf j.fp) || !(s.stream g).landedBy (e.spared s.cycle).entered then
        s.popsEntry g q e.number
      else match (s.core (g / 4)).copyChecks j ((s.stream g).slotOf j.fp) with
        | some f => if (e.spared s.cycle).cutAt = s.cycle then s.popsEntry g q e.number
            else (s.popsEntry g q e.number).commandFault g q (e.spared s.cycle) 0 f
        | none => s.beginsEntry g q e.number ((s.core (g / 4)).indices j)) := by
  have harm : exec .copyCommandStart s = execCopyCommandStart s := rfl
  have hpops : (if e.popped then some (s.stream g) else (s.stream g).popTokens q e.instr) = some (s.stream g) := by
    rw [Stream.popTokens_none _ _ hleft hright, ite_self]
  rw [harm, execCopyCommandStart]
  dsimp only
  rw [hg, hq, hqueue]
  dsimp only
  rw [hjob]
  dsimp only
  rw [if_neg (by simp [hstarted, hfault, hat, hentered]), hpops]
  dsimp only
  rw [QEntry.spared_number]
  split
  · rfl
  · split
    · rfl
    · cases (s.core (g / 4)).copyChecks j ((s.stream g).slotOf j.fp) with
      | none => rfl
      | some f => rfl

/-- A skipped command starts at once. -/
theorem copyCommandStart_skipped (hskip : e.skip = true) :
    ∃ t e' r', exec .copyCommandStart s = .next t ∧ (t.stream g).queue q = e' :: r' ∧ e'.started = true ∧ e'.number = e.number
      ∧ t.mem = s.mem ∧ (t.core (g / 4)).sp = (s.core (g / 4)).sp := by
  have hexec := exec_copyCommandStart hg hq hqueue hfault hat hjob hstarted hentered hleft hright
  rw [if_pos (by rw [QEntry.spared_skip, hskip]; rfl)] at hexec
  obtain ⟨r', hhead⟩ := State.beginsEntry_head hqueue []
  exact ⟨_, _, r', hexec, hhead, rfl, e.begun_number _ _, rfl, s.beginsEntry_sp ..⟩

section
variable (hskip : e.skip = false) (hcancel : e.cancel = false) (htracked : (s.core (g / 4)).tracked e.order ((s.stream g).slotOf j.fp) = false)
  (hlanded : (s.stream g).landedBy e.entered = true)
include hskip hcancel htracked hlanded

/-- A command that may start and passes its first checks starts. -/
theorem copyCommandStart_passes (hchecks : (s.core (g / 4)).copyChecks j ((s.stream g).slotOf j.fp) = none) :
    ∃ t e' r', exec .copyCommandStart s = .next t ∧ (t.stream g).queue q = e' :: r' ∧ e'.started = true ∧ e'.number = e.number
      ∧ e'.idx = (s.core (g / 4)).indices j ∧ t.mem = s.mem ∧ (t.core (g / 4)).sp = (s.core (g / 4)).sp := by
  have hexec := exec_copyCommandStart hg hq hqueue hfault hat hjob hstarted hentered hleft hright
  rw [QEntry.spared_live hcancel, if_neg (by simp [hskip, hcancel]), if_neg (by simp [htracked, hlanded]), hchecks] at hexec
  obtain ⟨r', hhead⟩ := State.beginsEntry_head hqueue ((s.core (g / 4)).indices j)
  exact ⟨_, _, r', hexec, hhead, rfl, e.begun_number _ _, rfl, rfl, s.beginsEntry_sp ..⟩

/-- A command whose first checks fail holds the fault, and its stream parks. -/
theorem copyCommandStart_refused {f : FaultInfo} (hchecks : (s.core (g / 4)).copyChecks j ((s.stream g).slotOf j.fp) = some f) (hsrc : f.src = 0)
    (hrun : (s.stream g).status = .running) (hcut : e.cutAt ≠ s.cycle) :
    ∃ t e' r', exec .copyCommandStart s = .next t ∧ (t.stream g).queue q = e' :: r' ∧ e'.started = false ∧ (t.stream g).status = .parked
      ∧ (∃ f', e'.fault = some f' ∧ f'.code = f.code ∧ f'.src = 2 ∧ f'.unit = q ∧ f'.word = e.va) ∧ t.mem = s.mem := by
  have hexec := exec_copyCommandStart hg hq hqueue hfault hat hjob hstarted hentered hleft hright
  rw [QEntry.spared_live hcancel, if_neg (by simp [hskip, hcancel]), if_neg (by simp [htracked, hlanded]), hchecks] at hexec
  dsimp only at hexec
  rw [if_neg hcut] at hexec
  obtain ⟨r', hpopped⟩ := State.popsEntry_head hqueue
  obtain ⟨hparked, hmem, r', hhead⟩ := State.commandFault_head (e := e) hsrc
    (by rw [State.popsEntry_stream, Stream.modEntry_status, hrun]) hpopped rfl
  exact ⟨_, _, r', hexec, hhead, hstarted, hparked, ⟨_, rfl, rfl, rfl, rfl, rfl⟩, hmem⟩

end
end

/-! ## The end of a copy command (R147) -/

/-- A started command that is skipped, or whose lines have all moved, leaves its queue. -/
theorem copyCommandRetire_leaves (hstarted : e.started = true) (hleft : (tokenBits e.instr).2.2.1 = false)
    (hright : (tokenBits e.instr).2.2.2 = false) (hmoved : e.skip = true ∨ e.cancel = true ∨ j.lines ≤ e.prog) :
    ∃ t, exec .copyCommandRetire s = .next t ∧ (t.stream g).queue q = ((s.stream g).queue q).filter (fun x => x.number != e.number)
      ∧ t.mem = s.mem ∧ (t.core (g / 4)).sp = (s.core (g / 4)).sp := by
  have hexec : exec .copyCommandRetire s = .next (s.modStream g (fun _ => ((s.stream g).retired q e).dropEntry q e.number)) := by
    have harm : exec .copyCommandRetire s = execCopyCommandRetire s := rfl
    rw [harm, execCopyCommandRetire]
    rw [hg, hq, hqueue]
    dsimp only
    rw [hjob]
    dsimp only
    rw [if_neg (by simp [hstarted, hfault, hat]), if_pos (by simpa [or_assoc] using hmoved), Stream.pushTokens_none _ _ _ _ hleft hright]
  refine ⟨_, hexec, ?_, rfl, State.modStream_sp _ _ _ _⟩
  rw [State.stream_modStream_same, Stream.dropEntry_queue, Stream.retired_queue]

end

/-! ## A marker (R145) -/

/-- A marker at the head of its queue leaves it, and pushes a reply token. -/
theorem tokenMarkerStart_pushes {s : State} {g q : Nat} {e : QEntry} {r : List QEntry} (hg : s.site.unit = g) (hq : s.site.sub = q)
    (hqueue : (s.stream g).queue q = e :: r) (hlow : q < 3) (hmarker : isMarker e.instr = true)
    (hroom : ((s.stream g).replies.get [] q).length < 16) :
    ∃ t c, exec .tokenMarkerStart s = .next t ∧ (t.stream g).queue q = r
      ∧ (t.stream g).replies.get [] q = (s.stream g).replies.get [] q ++ [c] ∧ t.mem = s.mem := by
  have hexec : exec .tokenMarkerStart s = execTokenMarkerStart s := rfl
  have hmark : (isMarker e.instr && decide (q < 3) && decide (((s.stream g).replies.get [] q).length < replySize)) = true := by
    simp [hmarker, hlow, hroom, replySize]
  refine ⟨_, ((s.stream g).before q e).raise q e.number, hexec, ?_, ?_, rfl⟩
  all_goals
    rw [hg, hq, State.stream_modStream_same, hqueue]
    dsimp only
    rw [if_pos hmark]
  · exact Stream.queue_setQueue _ _ _
  · exact Tbl.get_put_same _ _ _ _

end Sys2Proof.Machine
end

section
namespace Sys2Proof.Machine

/-! ## Bytes of lines and of scratchpad (R132, R152) -/

theorem bytes_modulus (n : Nat) : 256 ^ n = 2 ^ (8 * n) := by rw [show 256 = 2 ^ 8 from rfl, ← pow_mul]

/-- The bits of a byte of a number. -/
theorem testBit_byte (x i b : Nat) : (x / 256 ^ i % 256).testBit b = (decide (b < 8) && x.testBit (8 * i + b)) := by
  rw [bytes_modulus, show 256 = 2 ^ 8 from rfl, Nat.testBit_mod_two_pow, Nat.testBit_div_two_pow, Nat.add_comm]

theorem setBytes_getLsbD (old v : Row) (o n b : Nat) (hfit : o + n ≤ 64) :
    (setBytes old o n v).getLsbD b = if 8 * o ≤ b ∧ b < 8 * (o + n) then v.getLsbD (b - 8 * o) else old.getLsbD b := by
  by_cases hb : b < 512
  · simp only [setBytes, BitVec.getLsbD_or, BitVec.getLsbD_and, BitVec.getLsbD_not, BitVec.getLsbD_shiftLeft, BitVec.getLsbD_ofNat,
      Nat.testBit_two_pow_sub_one, hb, decide_true, Bool.true_and]
    by_cases hlow : b < 8 * o
    · rw [if_neg (by omega)]
      simp [hlow]
    · by_cases hhigh : b < 8 * (o + n)
      · rw [if_pos (by omega), decide_eq_false hlow, decide_eq_true (show b - 8 * o < 512 by omega),
          decide_eq_true (show b - 8 * o < 8 * n by omega)]
        simp
      · rw [if_neg (by omega), decide_eq_false hlow, decide_eq_false (show ¬ b - 8 * o < 8 * n by omega)]
        simp
  · rw [if_neg (by omega), BitVec.getLsbD_of_ge _ _ (by omega), BitVec.getLsbD_of_ge _ _ (by omega)]

/-- The bytes written are those of the value, and the others stay. -/
theorem setBytes_byte (old v : Row) {o n : Nat} (i : Nat) (hfit : o + n ≤ 64) :
    (setBytes old o n v).toNat / 256 ^ i % 256
      = if o ≤ i ∧ i < o + n then v.toNat / 256 ^ (i - o) % 256 else old.toNat / 256 ^ i % 256 := by
  refine Nat.eq_of_testBit_eq fun b => ?_
  rw [testBit_byte, apply_ite (fun x => Nat.testBit x b), testBit_byte, testBit_byte, BitVec.testBit_toNat, setBytes_getLsbD _ _ _ _ _ hfit]
  by_cases hb : b < 8
  · by_cases hin : o ≤ i ∧ i < o + n
    · rw [if_pos hin, if_pos (by omega), BitVec.testBit_toNat, show 8 * i + b - 8 * o = 8 * (i - o) + b by omega]
    · rw [if_neg hin, if_neg (by omega), BitVec.testBit_toNat]
  · simp [hb]

/-- A byte of scratchpad. -/
theorem Core.spGet_byte (k : Core) (b : Nat) : k.spGet b 1 = (k.line (b / 64)).data.toNat / 256 ^ (b % 64) % 256 := by
  rw [Core.spGet, BitVec.toNat_ushiftRight, Nat.shiftRight_eq_div_pow, bytes_modulus]
  rfl

/-- A core whose lines hold the same data reads the same. -/
theorem Core.spGet_congr {k k' : Core} (h : ∀ i, (k'.line i).data = (k.line i).data) (a n : Nat) : k'.spGet a n = k.spGet a n := by
  rw [Core.spGet, Core.spGet, h]

theorem Core.line_congr {k k' : Core} (h : k'.sp = k.sp) (i : Nat) : k'.line i = k.line i := by rw [Core.line, Core.line, h]

theorem PutsSp.congr {k k' m m' : Core} {a n v : Nat} (h : PutsSp k k' a n v) (hk : m.sp = k.sp) (hk' : ∀ i, (m'.line i).data = (k'.line i).data) :
    PutsSp m m' a n v := by
  obtain ⟨hin, hout⟩ := h
  have hsame := Core.spGet_congr fun i => congrArg Line.data (Core.line_congr hk i)
  exact ⟨fun i hi => (Core.spGet_congr hk' _ _).trans (hin i hi),
    fun b hb => (Core.spGet_congr hk' _ _).trans ((hout b hb).trans (hsame _ _).symm)⟩

/-- A line of scratchpad replaced. -/
theorem Core.line_put (k : Core) (a : Nat) (l : Line) (i : Nat) : ({ k with sp := k.sp.put a l } : Core).line i = if i = a then l else k.line i := by
  by_cases h : i = a
  · rw [if_pos h, h]
    exact Tbl.get_put_same _ _ _ _
  · rw [if_neg h]
    exact Tbl.get_put_ne _ _ _ _ _ h

theorem Core.spSet_byte (k : Core) {a n : Nat} (v : Row) (hfit : a % 64 + n ≤ 64) (b : Nat) :
    (k.spSet a n v).spGet b 1 = if a ≤ b ∧ b < a + n then v.toNat / 256 ^ (b - a) % 256 else k.spGet b 1 := by
  rw [Core.spGet_byte, Core.spGet_byte, Core.spSet, Core.line_put]
  by_cases hline : b / 64 = a / 64
  · rw [if_pos hline, setBytes_byte _ _ _ hfit, hline]
    by_cases hin : a ≤ b ∧ b < a + n
    · rw [if_pos (by omega), if_pos hin, show b % 64 - a % 64 = b - a by omega]
    · rw [if_neg (by omega), if_neg hin]
  · rw [if_neg hline, if_neg (by omega)]

/-- Data put into a line of scratchpad. -/
theorem Core.spSet_puts (k : Core) {a n : Nat} (v : Row) (hfit : a % 64 + n ≤ 64) : PutsSp k (k.spSet a n v) a n v.toNat := by
  refine ⟨fun i hi => ?_, fun b hb => ?_⟩
  · rw [k.spSet_byte v hfit, if_pos (by omega), Nat.add_sub_cancel_left]
  · rw [k.spSet_byte v hfit, if_neg (by omega)]

/-- Data put into a line of scratchpad, with poison where the source has it. -/
theorem Core.writeSp_puts (k : Core) {a n : Nat} (v : Row) (bad : Bool) (hfit : a % 64 + n ≤ 64) :
    PutsSp k (k.writeSp a n v none bad) a n v.toNat := by
  refine (k.spSet_puts v hfit).congr rfl fun i => ?_
  unfold Core.writeSp
  dsimp only
  split
  · rw [Core.line_put]
    split
    · next h => rw [h]
    · rfl
  · rfl

/-- A whole line put into scratchpad. -/
theorem Core.writeSp_line (k : Core) (a n : Nat) (v : Row) (l : Line) (bad : Bool) (i : Nat) :
    (k.writeSp a n v (some l) bad).line i = if i = a / 64 then l else k.line i := k.line_put _ l i

/-- The bytes of a whole line put into scratchpad. -/
theorem Core.writeSp_line_puts (k : Core) {a : Nat} (v : Row) (l : Line) (bad : Bool) (haligned : a % 64 = 0) :
    PutsSp k (k.writeSp a 64 v (some l) bad) a 64 l.data.toNat := by
  refine ⟨fun i hi => ?_, fun b hb => ?_⟩
  · rw [Core.spGet_byte, Core.writeSp_line, if_pos (by omega), show (a + i) % 64 = i by omega]
  · rw [Core.spGet_byte, Core.spGet_byte, Core.writeSp_line, if_neg (by omega)]

/-! ### The value of the bytes that move (R147, R150) -/

theorem Memory.getNat_lt (m : List Host.Cell) (a n : Nat) : Memory.getNat m a n < 2 ^ (8 * n) := by
  induction n generalizing a with
  | zero => exact Nat.one_pos
  | succ n ih =>
    have hbyte := (Memory.get m a).isLt
    have hrest := ih (a + 1)
    rw [Memory.getNat, show 8 * (n + 1) = 8 * n + 8 by ring, pow_add]
    omega

theorem Core.spGet_lt (k : Core) (a n : Nat) : k.spGet a n < 2 ^ (8 * n) := Nat.mod_lt _ (Nat.two_pow_pos _)

/-- A number of `n` bytes as a word that holds them. -/
theorem toNat_ofNat_bytes {w x n : Nat} (hn : 8 * n ≤ w) (hx : x < 2 ^ (8 * n)) : (BitVec.ofNat w x).toNat = x :=
  (BitVec.toNat_ofNat x w).trans (Nat.mod_eq_of_lt (hx.trans_le (Nat.pow_le_pow_right (by decide) hn)))

/-- Bytes in two pieces. -/
theorem toNat_append_bytes {w x y n₁ n : Nat} (hn : 8 * n ≤ w) (hle : n₁ ≤ n) (hx : x < 2 ^ (8 * n₁)) (hy : y < 2 ^ (8 * (n - n₁))) :
    (BitVec.ofNat w x ||| BitVec.ofNat w y <<< (8 * n₁)).toNat = x + 2 ^ (8 * n₁) * y := by
  have hlt : y * 2 ^ (8 * n₁) < 2 ^ w :=
    calc y * 2 ^ (8 * n₁) < 2 ^ (8 * (n - n₁)) * 2 ^ (8 * n₁) := Nat.mul_lt_mul_of_pos_right hy (Nat.two_pow_pos _)
      _ = 2 ^ (8 * n) := by rw [← pow_add, ← Nat.mul_add, Nat.sub_add_cancel hle]
      _ ≤ 2 ^ w := Nat.pow_le_pow_right (by decide) hn
  rw [BitVec.toNat_or, BitVec.toNat_shiftLeft, toNat_ofNat_bytes (by omega) hx, toNat_ofNat_bytes (by omega) hy, Nat.shiftLeft_eq,
    Nat.mod_eq_of_lt hlt, Nat.or_comm, Nat.mul_comm, ← Nat.two_pow_add_eq_or_of_lt hx, Nat.add_comm]

/-- Digits gathered from the right, as `fillBytes` gathers its bytes. -/
theorem foldr_byte (f : Nat → Nat) {n i : Nat} (hi : i < n) :
    (List.range n).foldr (fun i a => f i % 256 + 256 * a) 0 / 256 ^ i % 256 = f i % 256 := by
  induction n generalizing f i with
  | zero => omega
  | succ n ih =>
    rw [List.range_succ_eq_map, List.foldr_cons, List.foldr_map]
    cases i with
    | zero => omega
    | succ i =>
      rw [pow_succ', ← Nat.div_div_eq_div_mul, show ∀ a, (f 0 % 256 + 256 * a) / 256 = a by omega]
      exact ih (fun i => f (i + 1)) (by omega)

theorem foldr_byte_lt (f : Nat → Nat) (n : Nat) : (List.range n).foldr (fun i a => f i % 256 + 256 * a) 0 < 2 ^ (8 * n) := by
  induction n generalizing f with
  | zero => exact Nat.one_pos
  | succ n ih =>
    rw [List.range_succ_eq_map, List.foldr_cons, List.foldr_map, show 8 * (n + 1) = 8 * n + 8 by ring, pow_add]
    have hrest := ih fun i => f i.succ
    omega

/-- Byte `i` of a FILL's piece is byte `(o + i) mod 8` of its pattern. -/
theorem fillBytes_byte (p : Word) (o : Nat) {n i : Nat} (hn : n ≤ 64) (hi : i < n) :
    (fillBytes p o n).toNat / 256 ^ i % 256 = p.toNat / 256 ^ ((o + i) % 8) % 256 := by
  rw [fillBytes, toNat_ofNat_bytes (by omega) (foldr_byte_lt _ n), foldr_byte _ hi, BitVec.toNat_ushiftRight, Nat.shiftRight_eq_div_pow, bytes_modulus]

end Sys2Proof.Machine
end

section
namespace Sys2Proof.Machine

/-! ## The lines of a copy (R147, R150) -/

/-- A line of CPY and FILL. -/
theorem CopyJob.piece_line {j : CopyJob} (hkind : j.kind ≠ .rows) (idx : List Nat) (i : Nat) :
    j.piece idx i =
      { dst := if i = 0 then j.dest.toNat else (j.dest.toNat / 64 + i) * 64,
        src := (j.src.toNat + ((if i = 0 then j.dest.toNat else (j.dest.toNat / 64 + i) * 64) - j.dest.toNat)) % 2 ^ 64,
        n := min (j.dest.toNat + j.len.toNat) ((j.dest.toNat / 64 + i + 1) * 64) - if i = 0 then j.dest.toNat else (j.dest.toNat / 64 + i) * 64 } := by
  unfold CopyJob.piece
  split
  · next h => exact absurd h hkind
  · rfl

/-- The lines of CPY and FILL cover the destination range. -/
theorem CopyJob.line_lt {j : CopyJob} (hkind : j.kind ≠ .rows) {i : Nat} (hi : i < j.lines) :
    0 < j.len.toNat ∧ i < (j.dest.toNat % 64 + j.len.toNat + 63) / 64 := by
  unfold CopyJob.lines at hi
  split at hi
  · next h => exact absurd h hkind
  · split at hi
    · omega
    · next h => exact ⟨Nat.pos_of_ne_zero fun h0 => h (BitVec.eq_of_toNat_eq h0), hi⟩

theorem CopyJob.piece_line_range {j : CopyJob} (idx : List Nat) {i : Nat} (hi : i < j.lines) (hkind : j.kind ≠ .rows) :
    (j.piece idx i).dst = (if i = 0 then j.dest.toNat else (j.dest.toNat / 64 + i) * 64)
      ∧ (j.piece idx i).dst + (j.piece idx i).n = min (j.dest.toNat + j.len.toNat) ((j.dest.toNat / 64 + i + 1) * 64)
      ∧ 0 < (j.piece idx i).n ∧ (j.piece idx i).dst % 64 + (j.piece idx i).n ≤ 64
      ∧ (j.piece idx i).src = (j.src.toNat + ((j.piece idx i).dst - j.dest.toNat)) % 2 ^ 64 := by
  obtain ⟨hlen, hlt⟩ := CopyJob.line_lt hkind hi
  rw [CopyJob.piece_line hkind]
  refine ⟨rfl, ?_, ?_, ?_, rfl⟩
  all_goals
    dsimp only
    split <;> omega

/-- A line of a row of GATH and SCAT. -/
theorem CopyJob.piece_row {j : CopyJob} (hkind : j.kind = .rows) (idx : List Nat) (r : Nat) {o : Nat} (ho : o ≤ j.rowl) :
    j.piece idx (r * (j.rowl + 1) + o) =
      if j.ld then ⟨j.spad.toNat + r * j.rowBytes + 64 * o, (j.va.toNat + idx.getD r 0 * j.rowBytes + 64 * o) % 2 ^ 64, 64⟩
      else ⟨(j.va.toNat + idx.getD r 0 * j.rowBytes + 64 * o) % 2 ^ 64, j.spad.toNat + r * j.rowBytes + 64 * o, 64⟩ := by
  have hrow : (r * (j.rowl + 1) + o) / (j.rowl + 1) = r := by
    rw [Nat.add_comm, Nat.add_mul_div_right _ _ (Nat.succ_pos _), Nat.div_eq_of_lt (Nat.lt_succ_of_le ho), Nat.zero_add]
  have hline : (r * (j.rowl + 1) + o) % (j.rowl + 1) = o := by
    rw [Nat.add_comm, Nat.add_mul_mod_self_right, Nat.mod_eq_of_lt (Nat.lt_succ_of_le ho)]
  unfold CopyJob.piece
  split
  · dsimp only
    rw [hrow, hline]
  · next h => exact absurd hkind h

theorem CopyJob.piece_row_range {j : CopyJob} (idx : List Nat) (r : Nat) {o : Nat} (hkind : j.kind = .rows) (ho : o ≤ j.rowl) :
    (j.piece idx (r * (j.rowl + 1) + o)).n = 64
      ∧ (if j.ld then (j.piece idx (r * (j.rowl + 1) + o)).dst else (j.piece idx (r * (j.rowl + 1) + o)).src)
          = j.spad.toNat + r * j.rowBytes + 64 * o
      ∧ (if j.ld then (j.piece idx (r * (j.rowl + 1) + o)).src else (j.piece idx (r * (j.rowl + 1) + o)).dst)
          = (j.va.toNat + idx.getD r 0 * j.rowBytes + 64 * o) % 2 ^ 64 := by
  rw [CopyJob.piece_row hkind idx r ho]
  cases j.ld <;> exact ⟨rfl, rfl, rfl⟩

/-! ## The source of a line -/

/-- Bytes of memory that lie within one line. -/
theorem State.readPiece_one {s u : State} {w : Who} {foot : Foot} {fp a n : Nat} {p : Place} (hn : n ≤ 64 - a % 64)
    (hcheck : vaCheck foot fp a n false = none) (hread : s.plainRead w (BitVec.ofNat 64 a) n = .ok (p, u)) :
    s.readPiece w foot fp a n = .ok (BitVec.ofNat 512 (Memory.getNat u.mem p.pa n), u.lineAt p.pa, (u.lineAt p.pa).poison, u) := by
  rw [State.readPiece, Nat.min_eq_left hn]
  dsimp only
  rw [hcheck]
  dsimp only
  rw [hread]
  dsimp only
  rw [if_pos rfl]

/-- Bytes of memory that cross a line are read by two accesses. -/
theorem State.readPiece_two {s u u' : State} {w : Who} {foot : Foot} {fp a n : Nat} {p p' : Place} (hn : 64 - a % 64 < n)
    (hcheck : vaCheck foot fp a (64 - a % 64) false = none) (hread : s.plainRead w (BitVec.ofNat 64 a) (64 - a % 64) = .ok (p, u))
    (hcheck' : vaCheck foot fp (a + (64 - a % 64)) (n - (64 - a % 64)) false = none)
    (hread' : u.plainRead w (BitVec.ofNat 64 (a + (64 - a % 64))) (n - (64 - a % 64)) = .ok (p', u')) :
    s.readPiece w foot fp a n = .ok (BitVec.ofNat 512 (Memory.getNat u.mem p.pa (64 - a % 64))
        ||| BitVec.ofNat 512 (Memory.getNat u'.mem p'.pa (n - (64 - a % 64))) <<< (8 * (64 - a % 64)), u.lineAt p.pa,
      (u.lineAt p.pa).poison || (u'.lineAt p'.pa).poison, u') := by
  rw [State.readPiece, Nat.min_eq_right hn.le]
  dsimp only
  rw [hcheck]
  dsimp only
  rw [hread]
  dsimp only
  rw [if_neg hn.ne, hcheck']
  dsimp only
  rw [hread']

/-- The value of bytes of scratchpad. -/
theorem Core.readSp_value (k : Core) (a : Nat) {n : Nat} (hn : n ≤ 64) :
    (k.readSp a n).1.toNat = if n ≤ 64 - a % 64 then k.spGet a n
      else k.spGet a (64 - a % 64) + 2 ^ (8 * (64 - a % 64)) * k.spGet (a + (64 - a % 64)) (n - (64 - a % 64)) := by
  unfold Core.readSp
  dsimp only
  by_cases hone : n ≤ 64 - a % 64
  · rw [if_pos hone, Nat.min_eq_left hone, if_pos rfl]
    exact toNat_ofNat_bytes (by omega) (k.spGet_lt a n)
  · rw [if_neg hone, Nat.min_eq_right (by omega), if_neg (by omega)]
    exact toNat_append_bytes (by omega) (by omega) (k.spGet_lt _ _) (k.spGet_lt _ _)

theorem Core.readSp_line (k : Core) (a n : Nat) : (k.readSp a n).2.1 = k.line (a / 64) := by
  unfold Core.readSp
  dsimp only
  split <;> rfl

/-- A whole line of scratchpad. -/
theorem Core.readSp_whole (k : Core) {a n : Nat} (hn : n = 64) (haligned : a % 64 = 0) : (k.line (a / 64)).data = (k.readSp a n).1 := by
  refine BitVec.eq_of_toNat_eq ?_
  rw [k.readSp_value a hn.le, if_pos (by rw [haligned]; exact hn.le), Core.spGet, haligned]
  subst hn
  exact (Nat.mod_eq_of_lt (BitVec.isLt _)).symm

/-! ## The destination of a line -/

/-- A piece put into scratchpad, whole where `P` holds. -/
theorem Core.writeSp_piece (k : Core) {P : Prop} [Decidable P] {a n : Nat} {v : Row} {l : Line} (bad : Bool) (hfit : a % 64 + n ≤ 64)
    (hn : P → n = 64) (hdata : P → l.data = v) : PutsSp k (k.writeSp a n v (if P then some l else none) bad) a n v.toNat := by
  by_cases h : P
  · obtain rfl := hn h
    rw [if_pos h, ← hdata h]
    exact k.writeSp_line_puts l.data l bad (by omega)
  · rw [if_neg h]
    exact k.writeSp_puts v bad hfit

theorem Memory.setNat_puts {m : List Host.Cell} (hwf : Memory.wf m = true) (a n v : Nat) : PutsMem m (Memory.setNat m a n v) a n v := by
  refine ⟨?_, fun b hb => ?_⟩
  · rw [Memory.getNat_setNat_same _ _ _ _ hwf, bytes_modulus]
  · rw [Memory.get_setNat _ _ _ _ _ hwf, if_neg (by omega)]

/-- The state in which memory holds line `x` at `p`, with its side field, tag and poison. -/
def State.holdsLine (s : State) (p : Place) (x : Line) : State :=
  let u := (s.pset (p.pa / 64 * 64) 64 x.data.toNat).setPoison (p.pa / 64 * 64) x.poison
  { u with sides := u.sides.put (p.pa / 64 * 64 / 64) (x.side, x.tag) }

theorem State.holdsLine_mem (s : State) (p : Place) (x : Line) :
    (s.holdsLine p x).mem = Memory.setNat s.mem (p.pa / 64 * 64) 64 x.data.toNat := by
  simp only [State.holdsLine, State.setPoison, State.pset]

theorem State.holdsLine_core (s : State) (p : Place) (x : Line) (c : Nat) : (s.holdsLine p x).core c = s.core c := by
  have hcores : (s.holdsLine p x).cores = s.cores := by simp only [State.holdsLine, State.setPoison, State.pset]
  rw [State.core, State.core, hcores]

/-- A whole-line write, after which the side field may have been written back. -/
theorem State.writeLine_eq (s : State) (p : Place) (x : Line) :
    s.writeLine p x = s.holdsLine p x ∨ s.writeLine p x = (s.holdsLine p x).flushSide (p.pa / 64 * 64) := by
  have heq : s.writeLine p x =
      if s.memorySide p then (s.holdsLine p x).flushSide (p.pa / 64 * 64)
      else if ((s.holdsLine p x).find (.l2 p.die) p.ctx p.va).isSome then s.holdsLine p x
      else (s.holdsLine p x).flushSide (p.pa / 64 * 64) := rfl
  rw [heq]
  split
  · exact .inr rfl
  · split
    · exact .inl rfl
    · exact .inr rfl

/-- A whole-line write writes the line's data. -/
theorem State.writeLine_mem {s : State} (hs : s.NoFormat) (p : Place) (x : Line) :
    (s.writeLine p x).mem = Memory.setNat s.mem (p.pa / 64 * 64) 64 x.data.toNat := by
  have hformat : (s.holdsLine p x).NoFormat := by
    have hbase : (s.holdsLine p x).fmtBase = s.fmtBase := by simp only [State.holdsLine, State.setPoison, State.pset]
    rw [State.NoFormat, hbase]
    exact hs
  rcases s.writeLine_eq p x with heq | heq
  · rw [heq, State.holdsLine_mem]
  · rw [heq, (State.KeepsBytes.flushSide _ _).mem hformat, State.holdsLine_mem]

theorem State.writeBytes_mem (s : State) (pa n v : Nat) (bad : Bool) : (s.writeBytes pa n v bad).mem = Memory.setNat s.mem pa n v := by
  unfold State.writeBytes
  dsimp only
  split <;> rfl

/-- A piece put into memory, a whole line where `P` holds. -/
theorem State.writeOut_piece {s : State} {P : Prop} [Decidable P] (hs : s.NoFormat) (hwf : Memory.wf s.mem = true) (p : Place) {n : Nat} {v : Row}
    {l : Line} (bad : Bool) (hn : P → n = 64) (hdata : P → l.data = v) :
    PutsMem s.mem (s.writeOut p n v (if P then some l else none) bad).mem (if P then p.pa / 64 * 64 else p.pa) n v.toNat := by
  by_cases h : P
  · obtain rfl := hn h
    rw [if_pos h, if_pos h, ← hdata h, State.writeOut, State.writeLine_mem hs]
    exact Memory.setNat_puts hwf _ _ _
  · rw [if_neg h, if_neg h, State.writeOut, State.writeBytes_mem]
    exact Memory.setNat_puts hwf _ _ _

/-- A write of bytes leaves the cores but for their caches. -/
theorem State.writeOut_core (s : State) (p : Place) (n : Nat) (v : Row) (whole : Option Line) (bad : Bool) (c : Nat) :
    (s.writeOut p n v whole bad).core c
      = { s.core c with l1d := ((s.writeOut p n v whole bad).core c).l1d, icache := ((s.writeOut p n v whole bad).core c).icache } := by
  cases whole with
  | none =>
    rw [State.writeOut, State.writeBytes]
    split <;> rfl
  | some l =>
    rw [State.writeOut]
    rcases s.writeLine_eq p l with heq | heq
    · rw [heq, State.holdsLine_core]
    · rw [heq, (State.Moves.flushSide (s.holdsLine p l) _).core, State.holdsLine_core]

theorem State.writeOut_stream (s : State) (p : Place) (n : Nat) (v : Row) (whole : Option Line) (bad : Bool) (g : Nat) :
    (s.writeOut p n v whole bad).stream g = s.stream g := by
  rw [State.stream, State.writeOut_core]; rfl

theorem State.writeOut_sp (s : State) (p : Place) (n : Nat) (v : Row) (whole : Option Line) (bad : Bool) (c : Nat) :
    ((s.writeOut p n v whole bad).core c).sp = (s.core c).sp := by
  rw [State.writeOut_core]

end Sys2Proof.Machine
end

section
namespace Sys2Proof.Machine

/-! ## A copy moves its next line (R131, R147, R150) -/

/-- The state in which the engine of `j` has the banks of `ls` for this cycle. -/
def State.takesBanks (s : State) (g : Nat) (j : CopyJob) (ls : List Nat) : State :=
  s.modCore (g / 4) (fun k => k.useBanks (copyEngine j.ld) ls s.cycle)

theorem State.takesBanks_stream (s : State) (g : Nat) (j : CopyJob) (ls : List Nat) (i : Nat) : (s.takesBanks g j ls).stream i = s.stream i :=
  s.stream_modCore (g / 4) i _ (fun _ => rfl)

theorem State.takesBanks_sp (s : State) (g : Nat) (j : CopyJob) (ls : List Nat) :
    ((s.takesBanks g j ls).core (g / 4)).sp = (s.core (g / 4)).sp := by
  rw [State.takesBanks, State.core_modCore_same]; rfl

theorem Core.writeSp_streams (k : Core) (a n : Nat) (v : Row) (whole : Option Line) (bad : Bool) :
    (k.writeSp a n v whole bad).streams = k.streams := by
  unfold Core.writeSp
  split
  · rfl
  · dsimp only
    split <;> rfl

/-- What line `p` of a copy takes from its source: its bytes, the line that they begin in, whether they are poisoned, and the state after. -/
def CopyJob.source (j : CopyJob) (s : State) (w : Who) (foot : Foot) (p : Piece) : Except FaultInfo (Row × Line × Bool × State) :=
  if j.kind = .fill then .ok (fillBytes j.src (p.dst - j.dest.toNat) p.n, { data := fillBytes j.src (p.dst - j.dest.toNat) p.n }, false, s)
  else if j.ld then s.readPiece w foot j.fp p.src p.n
  else .ok (((s.core (w.gsid / 4)).readSp p.src p.n).1, ((s.core (w.gsid / 4)).readSp p.src p.n).2.1,
    ((s.core (w.gsid / 4)).readSp p.src p.n).2.2, s)

theorem CopyJob.source_fill {j : CopyJob} (hkind : j.kind = .fill) (s : State) (w : Who) (foot : Foot) (p : Piece) :
    j.source s w foot p
      = .ok (fillBytes j.src (p.dst - j.dest.toNat) p.n, { data := fillBytes j.src (p.dst - j.dest.toNat) p.n }, false, s) := if_pos hkind

theorem CopyJob.source_ld {j : CopyJob} (hkind : j.kind ≠ .fill) (hld : j.ld = true) (s : State) (w : Who) (foot : Foot) (p : Piece) :
    j.source s w foot p = s.readPiece w foot j.fp p.src p.n := (if_neg hkind).trans (if_pos hld)

theorem CopyJob.source_st {j : CopyJob} (hkind : j.kind ≠ .fill) (hld : j.ld = false) (s : State) (w : Who) (foot : Foot) (p : Piece) :
    j.source s w foot p = .ok (((s.core (w.gsid / 4)).readSp p.src p.n).1, ((s.core (w.gsid / 4)).readSp p.src p.n).2.1,
      ((s.core (w.gsid / 4)).readSp p.src p.n).2.2, s) := (if_neg hkind).trans (if_neg (by simp [hld]))

section
variable {s : State} {w : Who} {j : CopyJob} {foot : Foot} {idx : List Nat} {i : Nat} {p : Piece} (hp : j.piece idx i = p)
  {v : Row} {l : Line} {bad : Bool} {u : State} (hsource : j.source s w foot p = .ok (v, l, bad, u))
include hp hsource

/-- A line of the LD engine. -/
theorem State.copyLine_ld (hld : j.ld = true) :
    s.copyLine w j foot idx i = .ok (u.modCore (w.gsid / 4) (fun k => k.writeSp p.dst p.n v
      (if p.n = 64 ∧ (j.kind = .fill ∨ p.src % 64 = 0) then some l else none) bad)) := by
  rw [CopyJob.source] at hsource
  rw [State.copyLine, hp]
  dsimp only
  rw [hsource]
  dsimp only
  rw [if_pos hld]

/-- A line of the ST engine. -/
theorem State.copyLine_st (hld : j.ld = false) (hcheck : vaCheck foot j.fp p.dst p.n true = none) {m : Place} {u' : State}
    (hwrite : u.plainWrite w (BitVec.ofNat 64 p.dst) p.n = .ok (m, u')) :
    s.copyLine w j foot idx i
      = .ok (u'.writeOut m p.n v (if p.n = 64 ∧ (j.kind = .fill ∨ p.src % 64 = 0) then some l else none) bad) := by
  rw [CopyJob.source] at hsource
  rw [State.copyLine, hp]
  dsimp only
  rw [hsource]
  dsimp only
  rw [if_neg (by simp [hld]), hcheck]
  dsimp only
  rw [hwrite]

end

/-- The event of a started command `e` of queue `q` leads to `t`, where the head of the queue counts one line more. -/
def CopyMoves (s : State) (g q : Nat) (e : QEntry) (t : State) : Prop :=
  exec .copyCommandRetire s = .next t ∧ ∃ e' r', (t.stream g).queue q = e' :: r' ∧ e'.number = e.number ∧ e'.prog = e.prog + 1

section
variable {s : State} {g q : Nat} {e : QEntry} {r : List QEntry} {j : CopyJob} (hg : s.site.unit = g) (hq : s.site.sub = q)
  (hqueue : (s.stream g).queue q = e :: r) (hfault : e.fault = none) (hat : e.faultAt = 0) (hjob : e.job = some j)
  (hstarted : e.started = true) (hskip : e.skip = false) (hcancel : e.cancel = false) (hmore : e.prog < j.lines)
  (hbank : (s.core (g / 4)).bankFree (copyEngine j.ld) (j.spLines e.idx e.prog) s.cycle = true)
include hg hq hqueue hfault hat hjob hstarted hskip hcancel hmore hbank

/-- A line that moves is counted, and the command stays at the head of its queue. -/
theorem copyCommandRetire_moves {u : State}
    (hline : (s.takesBanks g j (j.spLines e.idx e.prog)).copyLine ((s.stream g).copyWho g q e j) j ((s.stream g).slotOf j.fp) e.idx e.prog = .ok u)
    (hstream : u.stream g = s.stream g) :
    ∃ t, CopyMoves s g q e t
      ∧ t.mem = u.mem ∧ ∀ c, (t.core c).sp = (u.core c).sp := by
  have hexec : exec .copyCommandRetire s
      = .next (u.modStream g (fun t => t.modEntry q e.number (fun e => { e with prog := e.prog + 1, faultAt := 0 }))) := by
    have harm : exec .copyCommandRetire s = execCopyCommandRetire s := rfl
    rw [harm, execCopyCommandRetire, hg, hq, hqueue]
    dsimp only
    rw [hjob]
    dsimp only
    rw [if_neg (by simp [hstarted, hfault, hat]), if_neg (by simp [hskip, hcancel, hmore]), if_neg (by simp [hbank])]
    rw [State.takesBanks] at hline
    rw [hline]
  obtain ⟨r', hhead⟩ := Stream.modEntry_head hqueue (fun e => { e with prog := e.prog + 1, faultAt := 0 })
  refine ⟨_, ⟨hexec, { e with prog := e.prog + 1, faultAt := 0 }, r', ?_, rfl, rfl⟩, rfl, fun c => State.modStream_sp _ _ _ _⟩
  rw [State.stream_modStream_same, hstream, hhead]

section
variable {p : Piece} (hp : j.piece e.idx e.prog = p) {v : Row} {l : Line} {bad : Bool} {u : State}
  (hsource : j.source (s.takesBanks g j (j.spLines e.idx e.prog)) ((s.stream g).copyWho g q e j) ((s.stream g).slotOf j.fp) p = .ok (v, l, bad, u))
include hp hsource

/-- A line that the LD engine moves stands in scratchpad. -/
theorem copyCommandRetire_loads (hld : j.ld = true) (hfit : p.dst % 64 + p.n ≤ 64) (hpassed : (s.takesBanks g j (j.spLines e.idx e.prog)).Accessed u) :
    ∃ t, CopyMoves s g q e t
      ∧ t.mem = u.mem
      ∧ ((p.n = 64 ∧ (j.kind = .fill ∨ p.src % 64 = 0)) → (t.core (g / 4)).line (p.dst / 64) = l
          ∧ ∀ i, i ≠ p.dst / 64 → (t.core (g / 4)).line i = (s.core (g / 4)).line i)
      ∧ ((p.n = 64 ∧ (j.kind = .fill ∨ p.src % 64 = 0) → l.data = v) → PutsSp (s.core (g / 4)) (t.core (g / 4)) p.dst p.n v.toNat) := by
  have hline : _ = Except.ok (u.modCore (g / 4) (fun k => k.writeSp p.dst p.n v
      (if p.n = 64 ∧ (j.kind = .fill ∨ p.src % 64 = 0) then some l else none) bad)) := State.copyLine_ld hp hsource hld
  have hstream : (u.modCore (g / 4) (fun k => k.writeSp p.dst p.n v
      (if p.n = 64 ∧ (j.kind = .fill ∨ p.src % 64 = 0) then some l else none) bad)).stream g = s.stream g :=
    (u.stream_modCore (g / 4) g _ (fun k => k.writeSp_streams _ _ _ _ _)).trans ((hpassed.stream g).trans (s.takesBanks_stream _ _ _ _))
  obtain ⟨t, hmoved, hmem, hsp⟩ := copyCommandRetire_moves hg hq hqueue hfault hat hjob hstarted hskip hcancel hmore hbank hline hstream
  have hfrom : (u.core (g / 4)).sp = (s.core (g / 4)).sp := (hpassed.sp _).trans (s.takesBanks_sp _ _ _)
  have hto : (t.core (g / 4)).sp = ((u.core (g / 4)).writeSp p.dst p.n v
      (if p.n = 64 ∧ (j.kind = .fill ∨ p.src % 64 = 0) then some l else none) bad).sp := by
    rw [hsp, State.core_modCore_same]
  refine ⟨t, hmoved, hmem, fun hwhole => ?_, fun hdata => ?_⟩
  · rw [if_pos hwhole] at hto
    refine ⟨?_, fun i hi => ?_⟩
    · rw [Core.line_congr hto, Core.writeSp_line, if_pos rfl]
    · rw [Core.line_congr hto, Core.writeSp_line, if_neg hi, Core.line_congr hfrom]
  · exact ((u.core (g / 4)).writeSp_piece bad hfit (fun h => h.1) hdata).congr hfrom.symm (fun i => congrArg Line.data (Core.line_congr hto i))

/-- A line that the ST engine moves stands in memory. -/
theorem copyCommandRetire_stores (hld : j.ld = false) (hs : s.NoFormat) (hwf : Memory.wf s.mem = true)
    (hu : u = s.takesBanks g j (j.spLines e.idx e.prog)) (hcheck : vaCheck ((s.stream g).slotOf j.fp) j.fp p.dst p.n true = none) {m : Place}
    {u' : State} (hwrite : u.plainWrite ((s.stream g).copyWho g q e j) (BitVec.ofNat 64 p.dst) p.n = .ok (m, u'))
    (hdata : p.n = 64 ∧ (j.kind = .fill ∨ p.src % 64 = 0) → l.data = v) :
    ∃ t, CopyMoves s g q e t
      ∧ (t.core (g / 4)).sp = (s.core (g / 4)).sp
      ∧ PutsMem s.mem t.mem (if p.n = 64 ∧ (j.kind = .fill ∨ p.src % 64 = 0) then m.pa / 64 * 64 else m.pa) p.n v.toNat := by
  have hline := State.copyLine_st hp hsource hld hcheck hwrite
  have hpassed := State.Accessed.plainWrite hwrite
  subst hu
  have hformat : (s.takesBanks g j (j.spLines e.idx e.prog)).NoFormat := hs
  have hmem : u'.mem = s.mem := hpassed.mem hformat
  obtain ⟨t, hmoved, htmem, hsp⟩ := copyCommandRetire_moves hg hq hqueue hfault hat hjob hstarted hskip hcancel hmore hbank hline
    ((State.writeOut_stream _ _ _ _ _ _ _).trans ((hpassed.stream g).trans (s.takesBanks_stream _ _ _ _)))
  refine ⟨t, hmoved, ?_, ?_⟩
  · rw [hsp, State.writeOut_sp, hpassed.sp, State.takesBanks_sp]
  · rw [htmem, ← hmem]
    exact State.writeOut_piece (hpassed.noFormat hformat) (hmem ▸ hwf) m bad (fun h => h.1) hdata

end

end

/-- Settles O42: a command starts and ends as its queue's head (`State.beginsEntry`, `copyCommandRetire_leaves`); the line that it moves is a piece
put whole or in part into scratchpad or into memory (`copyCommandRetire_loads`, `copyCommandRetire_stores`). -/
theorem copyEngineEvents : Obligations.CopyEngineEvents := by
  unfold Obligations.CopyEngineEvents
  intro s g q e r hg hq hqueues hqueue hfault hat
  refine ⟨fun j hjob hstarted hentered hleft hright => ⟨fun hskip => ?skipped, fun hskip hcancel htracked hlanded => ⟨fun hchecks => ?starts,
    fun f hchecks hsrc hrun hcut => ?refused⟩⟩, fun j hjob hstarted hleft hright hmoved => ?leaves,
    fun j hjob hstarted hskip hcancel hmore hwf hbank hs => ?moves,
    fun j idx i hi hkind => CopyJob.piece_line_range idx hi hkind, fun j idx r o hkind ho => CopyJob.piece_row_range idx r hkind ho,
    fun hmarker hroom => ?marker⟩
  case skipped => exact copyCommandStart_skipped hg hq hqueue hfault hat hjob hstarted hentered hleft hright hskip
  case starts =>
    exact copyCommandStart_passes hg hq hqueue hfault hat hjob hstarted hentered hleft hright hskip hcancel htracked hlanded hchecks
  case refused =>
    exact copyCommandStart_refused hg hq hqueue hfault hat hjob hstarted hentered hleft hright hskip hcancel htracked hlanded hchecks hsrc hrun hcut
  case leaves => exact copyCommandRetire_leaves hg hq hqueue hfault hat hjob hstarted hleft hright hmoved
  case marker =>
    exact tokenMarkerStart_pushes hg hq hqueue (by rcases hqueues with rfl | rfl <;> decide) hmarker hroom
  case moves =>
    dsimp only
    obtain ⟨p, hp⟩ : ∃ p, j.piece e.idx e.prog = p := ⟨_, rfl⟩
    rw [hp]
    intro hfit
    have hn : p.n ≤ 64 := by omega
    have hpattern (i : Nat) (hi : i < p.n) := fillBytes_byte j.src (p.dst - j.dest.toNat) hn hi
    have hformat : (s.takesBanks g j (j.spLines e.idx e.prog)).NoFormat := hs
    refine ⟨fun hkind hld => ?fillLd, fun m u hkind hld hcheck hwrite => ?fillSt, fun m u hkind hld hone hcheck hread => ?loadOne,
      fun m u m' u' hkind hld htwo hcheck hread hcheck' hread' => ?loadTwo, fun m u hkind hld hcheck hwrite => ?store⟩
    case fillLd =>
      obtain ⟨t, hmoved, hmem, -, hputs⟩ := copyCommandRetire_loads hg hq hqueue hfault hat hjob hstarted hskip hcancel hmore hbank hp
        (CopyJob.source_fill hkind _ _ _ p) hld hfit (.refl _)
      exact ⟨t, _, hmoved, hmem, hpattern, hputs fun _ => rfl⟩
    case fillSt =>
      obtain ⟨t, hmoved, hsp, hputs⟩ := copyCommandRetire_stores hg hq hqueue hfault hat hjob hstarted hskip hcancel hmore hbank hp
        (CopyJob.source_fill hkind _ _ _ p) hld hs hwf.1 rfl hcheck hwrite fun _ => rfl
      refine ⟨t, _, hmoved, hsp, hpattern, ?_⟩
      rwa [if_congr (and_iff_left (Or.inl hkind)) rfl rfl] at hputs
    case loadOne =>
      have hpassed := State.Accessed.plainRead hread
      obtain ⟨t, hmoved, hmem, hline, hputs⟩ := copyCommandRetire_loads hg hq hqueue hfault hat hjob hstarted hskip hcancel hmore hbank hp
        ((CopyJob.source_ld hkind hld _ _ _ p).trans (State.readPiece_one hone hcheck hread)) hld hfit hpassed
      refine ⟨t, hmoved, hmem.trans (hpassed.mem hformat), hline, fun hpart => ?_⟩
      have hvalue := hputs fun h => absurd h hpart
      rwa [toNat_ofNat_bytes (by omega) (Memory.getNat_lt _ _ _), hpassed.mem hformat] at hvalue
    case loadTwo =>
      have hpassed := State.Accessed.plainRead hread
      have hpassed' := State.Accessed.plainRead hread'
      have hmem' := (hpassed'.mem (hpassed.noFormat hformat)).trans (hpassed.mem hformat)
      obtain ⟨t, hmoved, hmem, -, hputs⟩ := copyCommandRetire_loads hg hq hqueue hfault hat hjob hstarted hskip hcancel hmore hbank hp
        ((CopyJob.source_ld hkind hld _ _ _ p).trans (State.readPiece_two htwo hcheck hread hcheck' hread')) hld hfit (hpassed.trans hpassed')
      refine ⟨t, hmoved, hmem.trans hmem', ?_⟩
      have hpart : ¬ (p.n = 64 ∧ (j.kind = .fill ∨ p.src % 64 = 0)) := fun h => by
        rcases h.2 with h' | h'
        · exact hkind h'
        · omega
      have hvalue := hputs fun h => absurd h hpart
      rwa [toNat_append_bytes (by omega) htwo.le (Memory.getNat_lt _ _ _) (Memory.getNat_lt _ _ _), hpassed.mem hformat, hmem'] at hvalue
    case store =>
      have hreads : ∀ a n, ((s.takesBanks g j (j.spLines e.idx e.prog)).core (g / 4)).spGet a n = (s.core (g / 4)).spGet a n :=
        Core.spGet_congr fun i => congrArg Line.data (Core.line_congr (s.takesBanks_sp g j _) i)
      obtain ⟨t, hmoved, hsp, hputs⟩ := copyCommandRetire_stores hg hq hqueue hfault hat hjob hstarted hskip hcancel hmore hbank hp
        (CopyJob.source_st hkind hld _ _ _ p) hld hs hwf.1 rfl hcheck hwrite fun hwhole => by
          rw [Core.readSp_line, hwhole.1]
          exact Core.readSp_whole _ rfl (hwhole.2.resolve_left hkind)
      refine ⟨t, hmoved, hsp, ?_⟩
      have hvalue := Core.readSp_value ((s.takesBanks g j (j.spLines e.idx e.prog)).core (g / 4)) p.src hn
      simp only [hreads] at hvalue
      exact hvalue ▸ hputs

end Sys2Proof.Machine
end

section
namespace Sys2Proof.Machine

/-! ## Places and cores (R76 to R84) -/

/-- The state with other cores and tracks: translation reads neither. -/
def State.besides (s : State) (cs : Tbl Core) (ts : List Track) : State := { s with cores := cs, tracks := ts }

theorem State.modStream_besides (s : State) (g : Nat) (f : Stream → Stream) : s.modStream g f = s.besides (s.modStream g f).cores s.tracks := rfl

theorem State.release_besides (s : State) (w : Who) (scp : Nat) : s.release w scp = s.besides s.cores (s.release w scp).tracks := rfl

theorem State.walk_besides (s : State) (cs : Tbl Core) (ts : List Track) (ctx va n table : Nat) :
    (s.besides cs ts).walk ctx va n table = s.walk ctx va n table := by
  have hword (a : Nat) : (s.besides cs ts).pword a = s.pword a := rfl
  induction n generalizing table with
  | zero => simp only [State.walk, hword]
  | succ n ih =>
    cases n with
    | zero => simp only [State.walk, hword]
    | succ n => simp only [State.walk, hword, ih]

theorem State.translate_besides (s : State) (cs : Tbl Core) (ts : List Track) (ctx : Nat) (va : Word) (k : AccKind) :
    (s.besides cs ts).translate ctx va k = s.translate ctx va k := by
  have hhome : (s.besides cs ts).homeFor ctx va k = s.homeFor ctx va k := rfl
  have hleaf (d pa : Nat) : (s.besides cs ts).leafOk d pa = s.leafOk d pa := rfl
  have hroot : (s.besides cs ts).ctxroots = s.ctxroots := rfl
  have htrans : (s.besides cs ts).trans = s.trans := rfl
  simp only [State.translate, hhome, hleaf, hroot, htrans, State.walk_besides]

theorem State.place_besides (s : State) (cs : Tbl Core) (ts : List Track) (ctx : Nat) (va : Word) (k : AccKind) :
    (s.besides cs ts).place ctx va k = s.place ctx va k := by
  have hname (v pa : Nat) : (s.besides cs ts).canonical ctx v pa = s.canonical ctx v pa := rfl
  simp only [State.place, State.translate_besides, hname]

/-- A change of a stream leaves where an address is. -/
theorem State.place_modStream (s : State) (g : Nat) (f : Stream → Stream) (ctx : Nat) (va : Word) (k : AccKind) :
    (s.modStream g f).place ctx va k = s.place ctx va k := by
  rw [State.modStream_besides, State.place_besides]

theorem State.place_release (s : State) (w : Who) (scp ctx : Nat) (va : Word) (k : AccKind) :
    (s.release w scp).place ctx va k = s.place ctx va k := by
  rw [State.release_besides, State.place_besides]

theorem State.ctxOf_modStream (s : State) (g c : Nat) (f : Stream → Stream) : (s.modStream g f).ctxOf c = s.ctxOf c := by
  rw [State.ctxOf, State.ctxOf, State.launchOf_modStream]

theorem State.lines_modStream (s : State) (g : Nat) (f : Stream → Stream) (l : Level) : (s.modStream g f).lines l = s.lines l := by
  cases l with
  | l1 c => rw [State.lines, State.core_modStream]; rfl
  | rdc d => rfl
  | l2 d => rfl

theorem State.cached_modStream (s : State) (g c : Nat) (f : Stream → Stream) (va : Word) : (s.modStream g f).cached c va = s.cached c va := by
  have hhome (ctx : Nat) : (s.modStream g f).homeFor ctx va .read = s.homeFor ctx va .read := rfl
  simp only [State.cached, State.find, State.lines_modStream, State.ctxOf_modStream, hhome]

/-- A change of a stream leaves what an access meets on its way. -/
theorem State.look_modStream_error {s : State} {g c : Nat} {f : Stream → Stream} {va : Word} {k : AccKind} {x : FaultInfo}
    (hlook : s.look c va k = .error x) : (s.modStream g f).look c va k = .error x := by
  rw [State.look, State.cached_modStream, State.ctxOf_modStream, State.place_modStream]
  rw [State.look] at hlook
  dsimp only at hlook ⊢
  split at hlook
  · split at hlook
    · cases hlook
    · next h => rw [if_neg h]; exact hlook
  · split at hlook
    · exact hlook
    · cases hlook

/-! ## The next operation of an access queue (R271, R431) -/

/-- The operation that performs next has neither started nor performed. -/
theorem nextOf_some {ws : QEntry → List Nat} {ms l : List QEntry} {e : QEntry} (hnext : nextOf ws ms l = some e) :
    e ∈ l ∧ e.done = false ∧ e.started = false := by
  induction l generalizing ms with
  | nil => cases hnext
  | cons x r ih =>
    rw [nextOf] at hnext
    have hlater {ms' : List QEntry} (h : nextOf ws ms' r = some e) : e ∈ x :: r ∧ e.done = false ∧ e.started = false := by
      obtain ⟨hmem, hrest⟩ := ih h
      exact ⟨List.mem_cons_of_mem _ hmem, hrest⟩
    split at hnext
    · exact hlater hnext
    next hdone =>
      split at hnext
      · split at hnext
        · exact hlater hnext
        · cases hnext
      next hstarted =>
        split at hnext
        · cases hnext
          exact ⟨List.mem_cons_self, by simpa using hdone, by simpa using hstarted⟩
        · cases hnext

/-! ## What a performing operation does to its entry (R271, R272) -/

theorem Stream.modEntry_aq (t : Stream) (n : Nat) (f : QEntry → QEntry) :
    (t.modEntry 3 n f).aq = t.aq.map (fun e => if e.number = n then f e else e) := t.modEntry_queue 3 n f

/-- An entry of the access queue that is changed. -/
theorem Stream.mem_modEntry_aq {t : Stream} {e : QEntry} {n : Nat} (hmem : e ∈ t.aq) (hn : e.number = n) (f : QEntry → QEntry) :
    f e ∈ (t.modEntry 3 n f).aq := by
  rw [Stream.modEntry_aq]
  exact List.mem_map.2 ⟨e, hmem, if_pos hn⟩

/-- An operation that has performed and pushes no token is done, and holds its reply. -/
theorem State.aqFinish_entry {s : State} {g : Nat} {x e : QEntry} (hmem : x ∈ (s.stream g).aq) (hnumber : x.number = e.number)
    (hpf : ∀ h a, e.instr ≠ .pf h a) (htokens : tokenBits e.instr = (false, false, false, false)) (reply : Option (BitVec 128)) :
    ∃ c, ({ x with done := true, reply := reply, since := s.cycle, clock := c } : QEntry) ∈ ((s.aqFinish g e reply).stream g).aq := by
  refine ⟨((s.stream g).before 3 e).raise 3 e.number, ?_⟩
  rw [State.aqFinish]
  dsimp only
  rw [State.stream_modStream_same, Stream.pushTokens_none _ _ _ _ (by rw [htokens]) (by rw [htokens])]
  split
  · next h => exact absurd h (hpf _ _)
  · rw [Stream.modEntry_aq]
    exact List.mem_map.2 ⟨x, hmem, if_pos hnumber⟩

/-- An operation that takes a fault holds it where it stands, with no effect. -/
theorem State.aqHold_entry {s : State} {g : Nat} {x e : QEntry} (hmem : x ∈ (s.stream g).aq) (hnumber : x.number = e.number) {f : FaultInfo}
    (hsrc : f.src ≠ 4) :
    ({ x with fault := some { f with src := 1, unit := 3, word := e.va }, faultAt := s.cycle + 1 } : QEntry) ∈ ((s.aqHold g e f).stream g).aq
      ∧ (s.aqHold g e f).mem = s.mem := by
  have heq : s.aqHold g e f = s.holdFault g 3 e.number { f with src := 1, unit := 3, word := e.va } := by
    rw [State.aqHold, if_neg hsrc, if_neg hsrc]
  rw [heq, State.holdFault]
  refine ⟨?_, rfl⟩
  rw [State.stream_modStream_same]
  exact Stream.mem_modEntry_aq hmem hnumber _

section
variable {s : State} {g : Nat} {e : QEntry} (hskip : e.skip = false) (hcancel : e.cancel = false)
  (hcharge : (if aqSyncs e.instr then (s.stream g).charge else none) = none)
include hskip hcancel hcharge

/-- An operation that is neither skipped nor abandoned, and that meets no race of its stream, performs. -/
theorem State.aqMake_done {r : Option (BitVec 128)} {u : State} (hact : s.aqAct g e = .done r u) : s.aqMake g e = u.aqFinish g e r := by
  rw [State.aqMake, if_neg (by simp [hskip, hcancel]), hcharge]
  dsimp only
  rw [hact]

theorem State.aqMake_fault {f : FaultInfo} (hact : s.aqAct g e = .fault f) : s.aqMake g e = s.aqHold g e f := by
  rw [State.aqMake, if_neg (by simp [hskip, hcancel]), hcharge]
  dsimp only
  rw [hact]
  exact if_neg (by simp [hcancel])

end

/-- A skipped operation is done. -/
theorem State.aqMake_skipped {s : State} {g : Nat} {e : QEntry} (hskip : e.skip = true) (hkeeps : keepsWork e.instr = false) :
    s.aqMake g e = s.aqFinish g e none := if_pos (by simp [hskip, hkeeps])

/-- A synchronisation operation of a stream with no race pending meets none. -/
theorem noCharge {s : State} {g : Nat} (hcharge : (s.stream g).charge = none) (i : Instr) :
    (if aqSyncs i then (s.stream g).charge else none) = none := by
  rw [hcharge, ite_self]

/-- What an atomic comes to. -/
theorem State.aqAct_atomic {s : State} {g : Nat} {e : QEntry} {o : AtOp × Nat × Bool} {a : Aq} (ho : atomicOf e.instr = some o)
    (ha : aqBody e.instr = some a) : s.aqAct g e = s.atomic g e a o.1 o.2.1 o.2.2 := by
  unfold State.aqAct
  split
  case h_28 => rw [ho, ha]
  all_goals
    next h =>
      rw [h] at ho
      cases ho

end Sys2Proof.Machine
end

section
namespace Sys2Proof.Machine

/-- An entry whose tokens are popped. -/
def QEntry.taken (e : QEntry) : QEntry := { e with popped := true }

/-! ## Faults of an operation's own check (R272, R283, R286) -/

section
variable {s : State} {g : Nat} {e : QEntry} {a : Aq} {f : FaultInfo}

theorem State.gld_plain_fault (hord : a.ord = 0) (hlook : s.look (g / 4) (e.addr a) .read = .error f) : s.gld g e a = .fault f := by
  have hacq : acqOrd a = false := by rw [acqOrd, hord]; decide
  rw [State.gld, hacq]
  dsimp only
  rw [if_neg (by decide), hlook]
  rfl

theorem State.gld_acq_fault (hord : a.ord = 1) (hplace : s.place (s.ctxOf (g / 4)) (e.addr a) .read = .error f) : s.gld g e a = .fault f := by
  have hacq : acqOrd a = true := by rw [acqOrd, hord]; decide
  rw [State.gld, hacq]
  dsimp only
  rw [if_pos rfl, hplace]

theorem State.gst_plain_fault (hord : a.ord = 0) (hlook : s.look (g / 4) (e.addr a) .write = .error f) : s.gst g e a = .fault f := by
  have hrel : relOrd a = false := by rw [relOrd, hord]; decide
  rw [State.gst, hrel]
  dsimp only
  rw [if_neg (by decide), hlook]
  rfl

theorem relOrd_of_two (hord : a.ord = 2) : relOrd a = true := by rw [relOrd, hord]; decide
theorem acqOrd_of_two (hord : a.ord = 2) : acqOrd a = false := by rw [acqOrd, hord]; decide

theorem State.gst_rel_fault (hord : a.ord = 2) (hplace : s.place (s.ctxOf (g / 4)) (e.addr a) .write = .error f) : s.gst g e a = .fault f := by
  rw [State.gst, relOrd_of_two hord]
  dsimp only
  rw [if_pos rfl, hplace]

theorem State.marked_fault {w : Who} {va : Word} {k : AccKind} (n : Nat) (hplace : s.place (s.ctxOf (w.gsid / 4)) va k = .error f) :
    s.marked w va n k = .error f := by
  rw [State.marked, hplace]

theorem State.atomic_fault (op : AtOp) (n : Nat) (signed : Bool) (hplace : s.place (s.ctxOf (g / 4)) (e.addr a) .atomic = .error f) :
    s.atomic g e a op n signed = .fault f := by
  have hmarked : (if relOrd a then s.release (s.aqWho g e a) a.scp.toNat else s).marked (s.aqWho g e a) (e.addr a) n .atomic = .error f := by
    refine State.marked_fault n ?_
    split
    · rw [State.place_release]; exact hplace
    · exact hplace
  rw [State.atomic]
  dsimp only
  rw [hmarked]

end

theorem State.aqAct_gld {s : State} {g : Nat} {e : QEntry} {h : Hdr} {a : Aq} (hinstr : e.instr = .gld h a) :
    s.aqAct g e.taken = s.gld g e.taken a := by
  have htaken : e.taken.instr = .gld h a := hinstr
  rw [State.aqAct, htaken]

theorem State.aqAct_gst {s : State} {g : Nat} {e : QEntry} {h : Hdr} {a : Aq} (hinstr : e.instr = .gst h a) :
    s.aqAct g e.taken = s.gst g e.taken a := by
  have htaken : e.taken.instr = .gst h a := hinstr
  rw [State.aqAct, htaken]

/-- Popping tokens leaves where an address is. -/
theorem State.popsEntry_place {s : State} {g q n c : Nat} {va : Word} {k : AccKind} :
    (s.popsEntry g q n).place ((s.popsEntry g q n).ctxOf c) va k = s.place (s.ctxOf c) va k := by
  rw [State.popsEntry, State.place_modStream, State.ctxOf_modStream]

/-- The perform event of stream `g` leaves entry `e` where it stands, holding fault `f`, and changes no memory. -/
def PerformFaults (s : State) (g : Nat) (e : QEntry) (f : FaultInfo) : Prop :=
  ∃ t, exec .aqOperationPerform s = .next t ∧ t.mem = s.mem
    ∧ ∃ e', e' ∈ (t.stream g).aq ∧ e'.number = e.number ∧ e'.done = false
      ∧ ∃ f', e'.fault = some f' ∧ f'.code = f.code ∧ f'.addr = f.addr ∧ f'.src = 1 ∧ f'.word = e.va

/-! ## The event of the next operation (R270 to R272, R282, R431) -/

theorem State.popsEntry_charge (s : State) (g q n : Nat) : ((s.popsEntry g q n).stream g).charge = (s.stream g).charge := by
  rw [State.popsEntry_stream, Stream.modEntry, Stream.setQueue_charge]

/-- The operation stands in its queue, its tokens popped. -/
theorem State.popsEntry_aq {s : State} {g : Nat} {e : QEntry} (hnext : s.nextAq g = some e) :
    e.taken ∈ ((s.popsEntry g 3 e.number).stream g).aq := by
  obtain ⟨hmem, -, -⟩ := nextOf_some hnext
  rw [State.popsEntry_stream]
  exact Stream.mem_modEntry_aq hmem rfl _

section
variable {s : State} {g : Nat} {e : QEntry} (hg : s.site.unit = g) (hnext : s.nextAq g = some e) (hentered : e.entered < s.cycle)
  (hfault : e.fault = none) (hat : e.faultAt = 0) (hturn : (s.stream g).aqAt ≠ s.cycle + 1 ∨ (s.stream g).mark = true)
  (htokens : tokenBits e.instr = (false, false, false, false))
include hg hnext hentered hfault hat hturn htokens

theorem exec_aqOperationPerform :
    exec .aqOperationPerform s = .next (
      if aqMarks e.instr && (s.stream g).mark && !e.skip && !e.cancel then
        (s.popsEntry g 3 e.number).modStream g (fun t => t.modEntry 3 e.number (fun e => { e with started := true }))
      else (s.popsEntry g 3 e.number).aqMake g e.taken) := by
  have harm : exec .aqOperationPerform s = execAqOperationPerform s := rfl
  have hpops : (if e.popped then some (s.stream g) else (s.stream g).popTokens 3 e.instr) = some (s.stream g) := by
    rw [Stream.popTokens_none _ _ (by rw [htokens]) (by rw [htokens]), ite_self]
  have hwaits : (!(decide (e.entered < s.cycle) && e.fault.isNone && (s.stream g).turn 3 e.faultAt)
      || ((s.stream g).aqAt == s.cycle + 1 && !(s.stream g).mark)) = false := by
    rcases hturn with h | h <;> simp [hentered, hfault, hat, h]
  rw [harm, execAqOperationPerform, hg, hnext]
  dsimp only
  rw [hwaits, hpops]
  dsimp only
  rw [if_neg (by decide), Stream.pushTokens_none _ _ _ _ (by rw [htokens]) (by rw [htokens])]
  rw [if_neg (by simp), State.popsEntry]
  split <;> rfl

/-- A skipped operation is done, with no reply and no effect on memory. -/
theorem aqOperationPerform_skips (hpf : ∀ h a, e.instr ≠ .pf h a) (hskip : e.skip = true) (hkeeps : keepsWork e.instr = false) :
    ∃ t, exec .aqOperationPerform s = .next t ∧ t.mem = s.mem
      ∧ ∃ e', e' ∈ (t.stream g).aq ∧ e'.number = e.number ∧ e'.done = true ∧ e'.reply = none ∧ e'.since = s.cycle := by
  have hexec := exec_aqOperationPerform hg hnext hentered hfault hat hturn htokens
  rw [if_neg (by simp [hskip]), State.aqMake_skipped (e := e.taken) hskip hkeeps] at hexec
  obtain ⟨c, hmem⟩ := State.aqFinish_entry (State.popsEntry_aq hnext) (e := e.taken) rfl hpf htokens none
  exact ⟨_, hexec, rfl, _, hmem, rfl, rfl, rfl, rfl⟩

section
variable (hskip : e.skip = false) (hcancel : e.cancel = false)
include hskip hcancel

/-- In marker mode a release is sent with a marker. -/
theorem aqOperationPerform_marks (hmarks : aqMarks e.instr = true) (hmark : (s.stream g).mark = true) :
    ∃ t, exec .aqOperationPerform s = .next t ∧ t.mem = s.mem
      ∧ ∃ e', e' ∈ (t.stream g).aq ∧ e'.number = e.number ∧ e'.started = true ∧ e'.done = e.done := by
  have hexec := exec_aqOperationPerform hg hnext hentered hfault hat hturn htokens
  rw [if_pos (by simp [hmarks, hmark, hskip, hcancel])] at hexec
  have hmem := Stream.mem_modEntry_aq (State.popsEntry_aq hnext) (n := e.number) rfl
    (fun e => { e with started := true })
  refine ⟨_, hexec, rfl, { e.taken with started := true }, ?_, rfl, rfl, rfl⟩
  rw [State.stream_modStream_same]
  exact hmem

section
variable (hstays : (aqMarks e.instr && (s.stream g).mark) = false)
  (hcharge : (if aqSyncs e.instr then (s.stream g).charge else none) = none)
include hstays hcharge

/-- An operation that performs is done. -/
theorem aqOperationPerform_performs (hpf : ∀ h a, e.instr ≠ .pf h a) {r : Option (BitVec 128)} {u : State}
    (hact : (s.popsEntry g 3 e.number).aqAct g e.taken = .done r u)
    (haq : (u.stream g).aq = ((s.popsEntry g 3 e.number).stream g).aq) :
    ∃ t, exec .aqOperationPerform s = .next t ∧ t.mem = u.mem ∧ ∃ e', e' ∈ (t.stream g).aq ∧ e'.number = e.number ∧ e'.done = true := by
  have hexec := exec_aqOperationPerform hg hnext hentered hfault hat hturn htokens
  rw [if_neg (by simp [hstays]), State.aqMake_done (e := e.taken) hskip hcancel (by rw [State.popsEntry_charge]; exact hcharge) hact] at hexec
  obtain ⟨c, hmem⟩ := State.aqFinish_entry (haq ▸ State.popsEntry_aq hnext) (e := e.taken) rfl hpf htokens r
  exact ⟨_, hexec, rfl, _, hmem, rfl, rfl⟩

/-- An operation whose check fails holds its fault, and changes no memory. -/
theorem aqOperationPerform_faults {f : FaultInfo} (hact : (s.popsEntry g 3 e.number).aqAct g e.taken = .fault f)
    (hsrc : f.src ≠ 4) :
    PerformFaults s g e f := by
  have hexec := exec_aqOperationPerform hg hnext hentered hfault hat hturn htokens
  rw [if_neg (by simp [hstays]), State.aqMake_fault (e := e.taken) hskip hcancel (by rw [State.popsEntry_charge]; exact hcharge) hact] at hexec
  obtain ⟨-, hdone, -⟩ := nextOf_some hnext
  obtain ⟨hmem, hkept⟩ := State.aqHold_entry (State.popsEntry_aq hnext) (e := e.taken) rfl hsrc
  exact ⟨_, hexec, hkept, _, hmem, rfl, hdone, _, rfl, rfl, rfl, rfl, rfl⟩

end

/-- A FENCE that only acquires performs, and leaves memory alone. -/
theorem aqOperationPerform_fence {h : Hdr} {a : Aq} (hinstr : e.instr = .fence h a) (hord : a.ord = 1) (hcharge : (s.stream g).charge = none) :
    ∃ t, exec .aqOperationPerform s = .next t ∧ t.mem = s.mem ∧ ∃ e', e' ∈ (t.stream g).aq ∧ e'.number = e.number ∧ e'.done = true := by
  have hrel : relOrd a = false := by rw [relOrd, hord]; decide
  have hstays : (aqMarks e.instr && (s.stream g).mark) = false := by rw [hinstr, aqMarks, hrel]; rfl
  have hact : ∃ k, (s.popsEntry g 3 e.number).aqAct g e.taken
      = .done none ((s.popsEntry g 3 e.number).acquire g e.entered k) := by
    have htaken : e.taken.instr = .fence h a := hinstr
    rw [State.aqAct, htaken]
    dsimp only
    rw [State.fence, hrel]
    exact ⟨_, rfl⟩
  obtain ⟨k, hact⟩ := hact
  have hkeeps : (((s.popsEntry g 3 e.number).acquire g e.entered k).stream g).aq = ((s.popsEntry g 3 e.number).stream g).aq
      ∧ ((s.popsEntry g 3 e.number).acquire g e.entered k).mem = s.mem := by
    rw [State.acquire]
    split
    · exact ⟨rfl, rfl⟩
    · rw [State.stream_modStream_same]
      exact ⟨rfl, rfl⟩
  obtain ⟨haq, hmem⟩ := hkeeps
  obtain ⟨t, hexec, htmem, hentry⟩ := aqOperationPerform_performs hg hnext hentered hfault hat hturn htokens hskip hcancel hstays
    (noCharge hcharge _) (by rw [hinstr]; exact fun _ _ h => nomatch h) hact haq
  exact ⟨t, hexec, htmem.trans hmem, hentry⟩

/-- A plain GLD or GST whose check fails. -/
theorem aqOperationPerform_plain_faults {h : Hdr} {a : Aq} {f : FaultInfo} (hord : a.ord = 0)
    (hfails : e.instr = .gld h a ∧ s.look (g / 4) (e.addr a) .read = .error f ∨ e.instr = .gst h a ∧ s.look (g / 4) (e.addr a) .write = .error f)
    (hsrc : f.src ≠ 4) :
    PerformFaults s g e f := by
  have hplain : (a.ord != 0) = false := by rw [hord]; rfl
  rcases hfails with ⟨hinstr, hlook⟩ | ⟨hinstr, hlook⟩
  · exact aqOperationPerform_faults hg hnext hentered hfault hat hturn htokens hskip hcancel (by rw [hinstr]; rfl)
      (by rw [hinstr, aqSyncs, hplain]; rfl)
      ((State.aqAct_gld hinstr).trans (State.gld_plain_fault hord (State.look_modStream_error hlook))) hsrc
  · have hrel : relOrd a = false := by rw [relOrd, hord]; decide
    exact aqOperationPerform_faults hg hnext hentered hfault hat hturn htokens hskip hcancel (by rw [hinstr, aqMarks, hrel]; rfl)
      (by rw [hinstr, aqSyncs, hplain]; rfl)
      ((State.aqAct_gst hinstr).trans (State.gst_plain_fault hord (State.look_modStream_error hlook))) hsrc

section
variable (hcharge : (s.stream g).charge = none) (hmark : (s.stream g).mark = false)
include hcharge hmark

/-- A GLD.ACQ or GST.REL whose check fails. -/
theorem aqOperationPerform_ordered_faults {h : Hdr} {a : Aq} {f : FaultInfo}
    (hfails : e.instr = .gld h a ∧ a.ord = 1 ∧ s.place (s.ctxOf (g / 4)) (e.addr a) .read = .error f
      ∨ e.instr = .gst h a ∧ a.ord = 2 ∧ s.place (s.ctxOf (g / 4)) (e.addr a) .write = .error f) (hsrc : f.src ≠ 4) :
    PerformFaults s g e f := by
  rcases hfails with ⟨hinstr, hord, hplace⟩ | ⟨hinstr, hord, hplace⟩
  · exact aqOperationPerform_faults hg hnext hentered hfault hat hturn htokens hskip hcancel (by rw [hmark, Bool.and_false])
      (noCharge hcharge _) ((State.aqAct_gld hinstr).trans (State.gld_acq_fault hord (State.popsEntry_place.trans hplace))) hsrc
  · exact aqOperationPerform_faults hg hnext hentered hfault hat hturn htokens hskip hcancel (by rw [hmark, Bool.and_false])
      (noCharge hcharge _) ((State.aqAct_gst hinstr).trans (State.gst_rel_fault hord (State.popsEntry_place.trans hplace))) hsrc

/-- An atomic whose check fails. -/
theorem aqOperationPerform_atomic_faults {a : Aq} {f : FaultInfo} (hbody : aqBody e.instr = some a) (hatomic : (atomicOf e.instr).isSome = true)
    (hplace : s.place (s.ctxOf (g / 4)) (e.addr a) .atomic = .error f) (hsrc : f.src ≠ 4) :
    PerformFaults s g e f := by
  obtain ⟨o, ho⟩ := Option.isSome_iff_exists.1 hatomic
  exact aqOperationPerform_faults hg hnext hentered hfault hat hturn htokens hskip hcancel (by rw [hmark, Bool.and_false])
    (noCharge hcharge _) ((State.aqAct_atomic (e := e.taken) ho hbody).trans
      (State.atomic_fault _ _ _ (State.popsEntry_place.trans hplace))) hsrc

end
end
end

end Sys2Proof.Machine
end

section
namespace Sys2Proof.Machine

/-! ## Writes performed at a scope (R279) -/

/-- Every write of stream `g`'s access queue up to number `n` has been performed at level `lv`. -/
def State.PerformedTo (s : State) (g n lv : Nat) : Prop :=
  ∀ k ∈ s.tracks, k.gsid = g → k.write = true → k.queue = 3 → k.number ≤ n → lv ≤ k.level

theorem State.PerformedTo.of_tracks {s t : State} {g n lv : Nat} (h : s.PerformedTo g n lv) (htracks : t.tracks = s.tracks) :
    t.PerformedTo g n lv := by
  rw [State.PerformedTo, htracks]; exact h

/-- Lines that move do not undo a write's performance. -/
theorem State.PerformedTo.moves {s t : State} {g n lv : Nat} (h : s.PerformedTo g n lv) (hmoves : s.Moves t) : t.PerformedTo g n lv := by
  intro k hk hgsid hwrite hqueue hnumber
  obtain ⟨k₀, hk₀, hle, heq⟩ := hmoves.tracks k hk
  rw [heq] at hgsid hwrite hqueue hnumber
  exact (h k₀ hk₀ hgsid hwrite hqueue hnumber).trans hle

/-- A release performs the writes before it in its queue. -/
theorem State.release_performedTo (s : State) (w : Who) (scp : Nat) : (s.release w scp).PerformedTo w.gsid w.number (scopeLevel scp) := by
  intro k hk hgsid hwrite hqueue hnumber
  obtain ⟨k₀, hk₀, rfl⟩ := List.mem_map.1 hk
  split
  · exact le_rfl
  · next h =>
    rw [if_neg h] at hgsid hwrite hqueue hnumber
    exact not_lt.1 fun hlow => h ⟨hgsid, hwrite, hlow, .inr ⟨hqueue, hnumber⟩⟩

theorem scopeLevel_le (scp : Nat) : scopeLevel scp ≤ 4 := by
  unfold scopeLevel
  split
  · decide
  · split <;> decide

/-- An access performed at the point of coherence is tracked as such. -/
theorem State.PerformedTo.track {s : State} {g m lv : Nat} (h : s.PerformedTo g m lv) (hlv : lv ≤ 4) (w : Who) (p : Place) (va n : Nat)
    (write plain : Bool) : (s.track w p va n write plain 4).PerformedTo g m lv := by
  intro k hk hgsid hwrite hqueue hnumber
  rcases List.mem_append.1 hk with hold | hnew
  · exact h k hold hgsid hwrite hqueue hnumber
  · rw [List.mem_singleton.1 hnew]
    exact hlv.trans_eq (ite_self 4).symm

theorem State.PerformedTo.trackRange {s : State} {g m lv : Nat} (h : s.PerformedTo g m lv) (hlv : lv ≤ 4) (w : Who) (p : Place) (va : Word) (n : Nat)
    (write : Bool) : (s.trackRange w p va n write false 4).PerformedTo g m lv := by
  rw [State.trackRange, Bool.and_false]
  split
  · exact h
  · dsimp only
    rw [if_neg Bool.false_ne_true]
    split
    · exact h.track hlv _ _ _ _ _ _
    · exact List.foldlRecOn _ _ (motive := fun u : State => u.PerformedTo g m lv) h fun u hu i _ => hu.track hlv _ _ _ _ _ _

/-! ## What is recorded of an ordered access (R280, R281, R289) -/

/-- From `s` to `t` only what is known of orders has changed: cores, memory and tracks stay. -/
structure State.Notes (s t : State) : Prop where
  cores : t.cores = s.cores
  mem : t.mem = s.mem
  tracks : t.tracks = s.tracks

namespace State.Notes

theorem trans {s t u : State} (h : s.Notes t) (h' : t.Notes u) : s.Notes u :=
  ⟨h'.cores.trans h.cores, h'.mem.trans h.mem, h'.tracks.trans h.tracks⟩

theorem stream {s t : State} (h : s.Notes t) (g : Nat) : t.stream g = s.stream g := by
  rw [State.stream, State.stream, State.core, State.core, h.cores]

theorem promote (s : State) (w : Who) (ks : List Nat) (scp : Nat) : s.Notes (s.promote w ks scp) := by
  rw [State.promote]
  split <;> exact ⟨rfl, rfl, rfl⟩

theorem headsNew (s : State) (ks : List Nat) (h : Head) : s.Notes (s.headsNew ks h) := ⟨rfl, rfl, rfl⟩

theorem continues (s : State) (g scp : Nat) (ks : List Nat) (own : Option Head) : s.Notes (s.continues g scp ks own) := ⟨rfl, rfl, rfl⟩

theorem fences (s : State) (g scp : Nat) (k : Tbl Nat) : s.Notes (s.fences g scp k) := ⟨rfl, rfl, rfl⟩

theorem readsOwed (s : State) (g : Nat) (ks : List Nat) : s.Notes (s.readsOwed g ks) := by
  rw [State.readsOwed]
  split <;> exact ⟨rfl, rfl, rfl⟩

/-- The same bytes written in both. -/
theorem writeBytes {s t : State} (h : s.Notes t) (pa n v : Nat) : (s.writeBytes pa n v false).Notes (t.writeBytes pa n v false) :=
  ⟨h.cores, by rw [State.writeBytes_mem, State.writeBytes_mem, h.mem], h.tracks⟩

end State.Notes

/-! ## A marked write (R282, R285) -/

/-- The state in which a marked write of `n` bytes at `p` has been checked: the lines in its way recalled, and itself tracked. -/
def State.markedWrite (s : State) (w : Who) (p : Place) (va : Word) (n : Nat) : State :=
  ((s.holdTrans p.die va.toNat p.leaf).recallFor p n).trackRange w p va n true false 4

theorem State.markedWrite_accessed (s : State) (w : Who) (p : Place) (va : Word) (n : Nat) : s.Accessed (s.markedWrite w p va n) :=
  ((State.Accessed.holdTrans s _ _ _).trans (State.Moves.recallFor _ p n).accessed).trans (State.Accessed.trackRange _ w p va n _ _ _)

theorem State.PerformedTo.markedWrite {s : State} {g m lv : Nat} (h : s.PerformedTo g m lv) (hlv : lv ≤ 4) (w : Who) (p : Place) (va : Word) (n : Nat) :
    (s.markedWrite w p va n).PerformedTo g m lv :=
  ((h.of_tracks rfl : (s.holdTrans p.die va.toNat p.leaf).PerformedTo g m lv).moves (State.Moves.recallFor _ p n)).trackRange hlv w p va n true

theorem State.release_accessed (s : State) (w : Who) (scp : Nat) : s.Accessed (s.release w scp) := .of_bytes ⟨rfl, rfl, fun _ => rfl⟩ rfl

theorem State.marked_ok {s : State} {w : Who} {va : Word} {n : Nat} {k : AccKind} {p : Place} (hk : k ≠ .read)
    (hplace : s.place (s.ctxOf (w.gsid / 4)) va k = .ok p) (hdevice : p.isDevice = false) (hrace : s.raceRange w p va n true false = none)
    (hshadow : s.noShadow w ((s.holdTrans p.die va.toNat p.leaf).recallFor p n) = false) :
    s.marked w va n k = .ok (p, s.markedWrite w p va n) := by
  rw [State.marked, hplace]
  dsimp only
  rw [if_neg (by rw [hdevice]; decide), decide_eq_true hk, hrace]
  dsimp only
  rw [if_neg (by rw [hshadow]; decide)]
  rfl

theorem widthOf_eq_wkBytes (wk : BitVec 4) : widthOf wk = wkBytes wk := by
  revert wk; decide

section
variable {s : State} {g : Nat} {e : QEntry} {a : Aq} (hord : a.ord = 2)
include hord

/-- A FENCE that releases. -/
theorem State.fence_rel : ∃ u, s.fence g e a = .done none u ∧ (s.release (s.aqWho g e a) a.scp.toNat).Notes u := by
  rw [State.fence, relOrd_of_two hord, acqOrd_of_two hord]
  exact ⟨_, rfl, .fences _ _ _ _⟩

variable {p : Place} {n : Nat} {k : AccKind} (hk : k ≠ .read) (hplace : s.place (s.ctxOf (g / 4)) (e.addr a) k = .ok p)
  (hdevice : p.isDevice = false)
  (hrace : (s.release (s.aqWho g e a) a.scp.toNat).raceRange (s.aqWho g e a) p (e.addr a) n true false = none)
  (hshadow : (s.release (s.aqWho g e a) a.scp.toNat).noShadow (s.aqWho g e a)
    (((s.release (s.aqWho g e a) a.scp.toNat).holdTrans p.die (e.addr a).toNat p.leaf).recallFor p n) = false)
include hk hplace hdevice hrace hshadow

omit hord in
theorem State.release_marked_ok :
    (s.release (s.aqWho g e a) a.scp.toNat).marked (s.aqWho g e a) (e.addr a) n k
      = .ok (p, (s.release (s.aqWho g e a) a.scp.toNat).markedWrite (s.aqWho g e a) p (e.addr a) n) :=
  State.marked_ok hk ((State.place_release _ _ _ _ _ _).trans hplace) hdevice hrace hshadow

/-- A GST that releases writes its bytes. -/
theorem State.gst_rel (hwrite : k = .write) (hn : n = wkBytes a.wk) :
    ∃ u, s.gst g e a = .done none u
      ∧ (((s.release (s.aqWho g e a) a.scp.toNat).markedWrite (s.aqWho g e a) p (e.addr a) n).writeBytes p.pa n (e.y.toNat % 2 ^ (8 * n)) false).Notes u := by
  have hmarked := State.release_marked_ok hk hplace hdevice hrace hshadow
  rw [hn, hwrite] at hmarked
  rw [hwrite] at hplace
  rw [State.gst, relOrd_of_two hord]
  dsimp only
  rw [if_pos rfl, hplace]
  dsimp only
  rw [if_neg (by rw [hdevice]; decide), if_pos rfl, hmarked, hn]
  exact ⟨_, rfl, (State.Notes.promote _ _ _ _).trans (State.Notes.headsNew _ _ _)⟩

/-- An atomic that releases writes the operation's new value, where it writes one. -/
theorem State.atomic_rel (hatomic : k = .atomic) (op : AtOp) (signed : Bool)
    (hclean : (((s.release (s.aqWho g e a) a.scp.toNat).markedWrite (s.aqWho g e a) p (e.addr a) n).lineAt p.pa).poison = false) :
    ∃ r u, s.atomic g e a op n signed = .done r u
      ∧ match atomicNew op n signed
            (Memory.getNat ((s.release (s.aqWho g e a) a.scp.toNat).markedWrite (s.aqWho g e a) p (e.addr a) n).mem p.pa n)
            ((e.y.toNat + e.y2.toNat * 2 ^ 64) % 2 ^ (8 * n)) ((e.z.toNat + e.z2.toNat * 2 ^ 64) % 2 ^ (8 * n)) with
        | some v => (((s.release (s.aqWho g e a) a.scp.toNat).markedWrite (s.aqWho g e a) p (e.addr a) n).writeBytes p.pa n v false).Notes u
        | none => ((s.release (s.aqWho g e a) a.scp.toNat).markedWrite (s.aqWho g e a) p (e.addr a) n).Notes u := by
  have hmarked := State.release_marked_ok hk hplace hdevice hrace hshadow
  rw [hatomic] at hmarked
  rw [State.atomic, relOrd_of_two hord, acqOrd_of_two hord]
  dsimp only
  rw [if_pos rfl, hmarked]
  dsimp only
  rw [if_neg (by rw [hclean]; decide), if_neg (by decide)]
  have howed := State.Notes.readsOwed ((s.release (s.aqWho g e a) a.scp.toNat).markedWrite (s.aqWho g e a) p (e.addr a) n) g (wordsOf p.pa n)
  cases atomicNew op n signed _ _ _ with
  | none => exact ⟨_, _, rfl, howed⟩
  | some v => exact ⟨_, _, rfl, ((howed.writeBytes _ _ _).trans (State.Notes.continues _ _ _ _ _)).trans (State.Notes.promote _ _ _ _)⟩

end

/-! ## The event of a release marker (R282) -/

/-- The event of the release marker of stream `g` performs entry `e`, and every earlier write of its queue at level `lv`. -/
def MarkerPerforms (s : State) (g : Nat) (e : QEntry) (lv : Nat) (t : State) : Prop :=
  exec .releaseMarkerPerform s = .next t ∧ (∃ e', e' ∈ (t.stream g).aq ∧ e'.number = e.number ∧ e'.done = true) ∧ t.PerformedTo g e.number lv

/-- An atomic is no barrier. -/
theorem isBarg_atomic {i : Instr} {o : AtOp × Nat × Bool} (ho : atomicOf i = some o) : isBarg i = false := by
  unfold isBarg
  split
  · cases ho
  · cases ho
  · rfl

theorem not_pf_atomic {i : Instr} {o : AtOp × Nat × Bool} (ho : atomicOf i = some o) (h : Hdr) (a : Aq) : i ≠ .pf h a := by
  rintro rfl
  cases ho

section
variable {s : State} {g : Nat} {e : QEntry} (hg : s.site.unit = g) (htokens : tokenBits e.instr = (false, false, false, false))
  (hskip : e.skip = false) (hcancel : e.cancel = false) (hfault : e.fault = none) (hat : e.faultAt = 0) (hcharge : (s.stream g).charge = none)
  (hfind : (s.stream g).aq.find? (fun e => e.started && !e.done) = some e)
include hg htokens hskip hcancel hfault hat hcharge hfind

/-- The release that its marker stands for performs. -/
theorem releaseMarkerPerform_performs (hbarg : isBarg e.instr = false) (hpf : ∀ h a, e.instr ≠ .pf h a) {r : Option (BitVec 128)} {u : State} {lv : Nat}
    (hact : s.aqAct g e = .done r u) (hstream : u.stream g = s.stream g) (hperformed : u.PerformedTo g e.number lv) :
    ∃ t, MarkerPerforms s g e lv t ∧ t.mem = u.mem := by
  have hexec : exec .releaseMarkerPerform s = .next (u.aqFinish g e r) := by
    have harm : exec .releaseMarkerPerform s = execReleaseMarkerPerform s := rfl
    rw [harm, execReleaseMarkerPerform, hg]
    rw [hfind]
    dsimp only
    rw [Stream.pushTokens_none _ _ _ _ (by rw [htokens]) (by rw [htokens]), if_pos (by simp [hbarg, hfault, hat]),
      State.aqMake_done hskip hcancel (noCharge hcharge _) hact]
  obtain ⟨c, hmem⟩ := State.aqFinish_entry (hstream ▸ List.mem_of_find?_eq_some hfind) rfl hpf htokens r
  exact ⟨_, ⟨hexec, ⟨_, hmem, rfl, rfl⟩, hperformed.of_tracks rfl⟩, rfl⟩

/-- A FENCE that releases leaves memory alone. -/
theorem releaseMarkerPerform_fence {h : Hdr} {a : Aq} (hinstr : e.instr = .fence h a) (hord : a.ord = 2) :
    ∃ t, MarkerPerforms s g e (scopeLevel a.scp.toNat) t ∧ t.mem = s.mem := by
  obtain ⟨u, hfence, hnotes⟩ := State.fence_rel (s := s) (g := g) (e := e) hord
  have hact : s.aqAct g e = .done none u := by rw [State.aqAct, hinstr]; exact hfence
  obtain ⟨t, hperforms, hmem⟩ := releaseMarkerPerform_performs hg htokens hskip hcancel hfault hat hcharge hfind (by rw [hinstr]; rfl)
    (by rw [hinstr]; exact fun _ _ h => nomatch h) hact (hnotes.stream g)
    ((s.release_performedTo (s.aqWho g e a) a.scp.toNat).of_tracks hnotes.tracks)
  exact ⟨t, hperforms, hmem.trans hnotes.mem⟩

section
variable {a : Aq} {p : Place} {n : Nat} {k : AccKind} (hwf : Memory.wf s.mem = true) (hs : s.NoFormat) (hord : a.ord = 2) (hk : k ≠ .read)
  (hplace : s.place (s.ctxOf (g / 4)) (e.addr a) k = .ok p)
  (hdevice : p.isDevice = false)
  (hrace : (s.release (s.aqWho g e a) a.scp.toNat).raceRange (s.aqWho g e a) p (e.addr a) n true false = none)
  (hshadow : (s.release (s.aqWho g e a) a.scp.toNat).noShadow (s.aqWho g e a)
    (((s.release (s.aqWho g e a) a.scp.toNat).holdTrans p.die (e.addr a).toNat p.leaf).recallFor p n) = false)
include hwf hs hord hk hplace hdevice hrace hshadow

/-- A GST that releases writes its bytes, and no others. -/
theorem releaseMarkerPerform_gst {h : Hdr} (hinstr : e.instr = .gst h a) (hwrite : k = .write) (hn : n = wkBytes a.wk) :
    ∃ t, MarkerPerforms s g e (scopeLevel a.scp.toNat) t ∧ PutsMem s.mem t.mem p.pa n (e.y.toNat % 2 ^ (8 * n)) := by
  obtain ⟨u, hgst, hnotes⟩ := State.gst_rel hord hk hplace hdevice hrace hshadow hwrite hn
  have hact : s.aqAct g e = .done none u := by rw [State.aqAct, hinstr]; exact hgst
  have hpassed := (s.release_accessed (s.aqWho g e a) a.scp.toNat).trans (State.markedWrite_accessed _ (s.aqWho g e a) p (e.addr a) n)
  obtain ⟨t, hperforms, hmem⟩ := releaseMarkerPerform_performs hg htokens hskip hcancel hfault hat hcharge hfind (by rw [hinstr]; rfl)
    (by rw [hinstr]; exact fun _ _ h => nomatch h) hact ((hnotes.stream g).trans (hpassed.stream g))
    (((s.release_performedTo (s.aqWho g e a) a.scp.toNat).markedWrite (scopeLevel_le _) (s.aqWho g e a) p (e.addr a) n).of_tracks hnotes.tracks)
  refine ⟨t, hperforms, ?_⟩
  rw [hmem, hnotes.mem, State.writeBytes_mem, hpassed.mem hs]
  exact Memory.setNat_puts hwf _ _ _

/-- An atomic that releases writes the operation's new value, where it writes one, and no other byte. -/
theorem releaseMarkerPerform_atomic {op : AtOp} {signed : Bool} (ho : atomicOf e.instr = some (op, n, signed)) (hbody : aqBody e.instr = some a)
    (hatomic : k = .atomic) (hclean : s.poisoned p.pa = false) :
    ∃ t, MarkerPerforms s g e (scopeLevel a.scp.toNat) t
      ∧ match atomicNew op n signed (Memory.getNat s.mem p.pa n) ((e.y.toNat + e.y2.toNat * 2 ^ 64) % 2 ^ (8 * n))
          ((e.z.toNat + e.z2.toNat * 2 ^ 64) % 2 ^ (8 * n)) with
        | some v => PutsMem s.mem t.mem p.pa n v
        | none => t.mem = s.mem := by
  have hpassed := (s.release_accessed (s.aqWho g e a) a.scp.toNat).trans (State.markedWrite_accessed _ (s.aqWho g e a) p (e.addr a) n)
  obtain ⟨r, u, hdone, hnotes⟩ := State.atomic_rel hord hk hplace hdevice hrace hshadow hatomic op signed
    (by rw [State.lineAt_poison (hpassed.noFormat hs), hpassed.bytes.poisoned, hclean])
  have hact : s.aqAct g e = .done r u := (State.aqAct_atomic ho hbody).trans hdone
  have hperformed := (s.release_performedTo (s.aqWho g e a) a.scp.toNat).markedWrite (scopeLevel_le _) (s.aqWho g e a) p (e.addr a) n
  have hperforms (hstream : u.stream g = s.stream g) (htracks : u.PerformedTo g e.number (scopeLevel a.scp.toNat)) :=
    releaseMarkerPerform_performs hg htokens hskip hcancel hfault hat hcharge hfind (isBarg_atomic ho) (not_pf_atomic ho) hact hstream htracks
  rw [hpassed.mem hs] at hnotes
  cases hnew : atomicNew op n signed (Memory.getNat s.mem p.pa n) ((e.y.toNat + e.y2.toNat * 2 ^ 64) % 2 ^ (8 * n))
      ((e.z.toNat + e.z2.toNat * 2 ^ 64) % 2 ^ (8 * n)) with
  | none =>
    rw [hnew] at hnotes
    obtain ⟨t, hperforms, hmem⟩ := hperforms ((hnotes.stream g).trans (hpassed.stream g)) (hperformed.of_tracks hnotes.tracks)
    exact ⟨t, hperforms, hmem.trans (hnotes.mem.trans (hpassed.mem hs))⟩
  | some v =>
    rw [hnew] at hnotes
    obtain ⟨t, hperforms, hmem⟩ := hperforms ((hnotes.stream g).trans (hpassed.stream g)) (hperformed.of_tracks hnotes.tracks)
    refine ⟨t, hperforms, ?_⟩
    dsimp only
    rw [hmem, hnotes.mem, State.writeBytes_mem, hpassed.mem hs]
    exact Memory.setNat_puts hwf _ _ _

end

end

/-- Settles O37: the event of the next operation (`exec_aqOperationPerform`) skips it, performs it or holds its fault; that of a release marker performs
the release (`releaseMarkerPerform_performs`), whose tracks say at what level the writes before it have been performed (`State.PerformedTo`). -/
theorem queueHeadPerforms : Obligations.QueueHeadPerforms := by
  unfold Obligations.QueueHeadPerforms
  constructor
  · intro s g e hg hnext hentered hfault hat hturn htokens honly hpf
    refine ⟨fun hskip hkeeps => ?_, fun h a hinstr hskip hcancel hord hcharge => ?_, fun a f hbody hskip hcancel hsrc => ⟨?_, ?_, ?_⟩,
      fun hmarks hskip hcancel hmark => ?_⟩
    · exact aqOperationPerform_skips hg hnext hentered hfault hat hturn htokens hpf hskip hkeeps
    · exact aqOperationPerform_fence hg hnext hentered hfault hat hturn htokens hskip hcancel hinstr hord hcharge
    · intro h hord hfails
      exact aqOperationPerform_plain_faults hg hnext hentered hfault hat hturn htokens hskip hcancel hord hfails hsrc
    · intro h hcharge hmark hfails
      exact aqOperationPerform_ordered_faults hg hnext hentered hfault hat hturn htokens hskip hcancel hcharge hmark hfails hsrc
    · intro hcharge hmark hatomic hplace
      exact aqOperationPerform_atomic_faults hg hnext hentered hfault hat hturn htokens hskip hcancel hcharge hmark hbody hatomic hplace hsrc
    · exact aqOperationPerform_marks hg hnext hentered hfault hat hturn htokens hskip hcancel hmarks hmark
  · intro s g e a hok hg hbody hord htokens honly hskip hcancel hfault hat hcharge hfind
    refine ⟨fun h hinstr => ?_, fun p n k hplace hdevice hrace hshadow hs => ⟨fun h hinstr hwrite hn => ?_, fun op sg ho hatomic hclean => ?_⟩⟩
    · exact releaseMarkerPerform_fence hg htokens hskip hcancel hfault hat hcharge hfind hinstr hord
    · obtain ⟨t, hperforms, hin, hout⟩ := releaseMarkerPerform_gst hg htokens hskip hcancel hfault hat hcharge hfind hok.1 hs hord
        (by rw [hwrite]; decide) hplace hdevice hrace hshadow hinstr hwrite (hn.trans (widthOf_eq_wkBytes _))
      exact ⟨t, hperforms, by rw [hin, Nat.mod_mod], hout⟩
    · obtain ⟨t, hperforms, hnew⟩ := releaseMarkerPerform_atomic hg htokens hskip hcancel hfault hat hcharge hfind hok.1 hs hord
        (by rw [hatomic]; decide) hplace hdevice hrace hshadow ho hbody hatomic hclean
      refine ⟨t, hperforms, ?_⟩
      cases hvalue : atomicNew op n sg (Memory.getNat s.mem p.pa n) ((e.y.toNat + e.y2.toNat * 2 ^ 64) % 2 ^ (8 * n))
          ((e.z.toNat + e.z2.toNat * 2 ^ 64) % 2 ^ (8 * n)) with
      | none =>
        rw [hvalue] at hnew
        have hmem : t.mem = s.mem := hnew
        exact ⟨fun b _ => by rw [hmem], by rw [hmem]⟩
      | some v =>
        rw [hvalue] at hnew
        obtain ⟨hin, hout⟩ := hnew
        exact ⟨hout, hin⟩

end Sys2Proof.Machine
end

section
namespace Sys2Proof.Machine

/-! ## LOOP (R256) -/

theorem exec_loop (h : Hdr) (j : BitVec 3) (s : State) :
    exec (.loop h j) s = (s.nested (s.slot h [] [] (.go (s.depart none false))
      (s.goTo j (loopNext s.me.lc s.me.ec).2.2.2.2 false (fun u => u.modMe Stream.rotate)))).done s := rfl

theorem loopNext_counts {lc : BitVec 32} (hlc : lc ≠ 0) (ec : BitVec 8) : loopNext lc ec = (lc - 1, ec, true, true, true) := if_pos hlc

theorem loopNext_drains {lc : BitVec 32} {ec : BitVec 8} (hlc : lc = 0) (hec : 1 < ec.toNat) : loopNext lc ec = (lc, ec - 1, false, true, true) :=
  hlc ▸ if_pos hec

theorem loopNext_last {lc : BitVec 32} {ec : BitVec 8} (hlc : lc = 0) (hec : ec = 1) : loopNext lc ec = (lc, 0, false, true, false) :=
  hlc ▸ hec ▸ rfl

theorem loopNext_ended {lc : BitVec 32} {ec : BitVec 8} (hlc : lc = 0) (hec : ec = 0) : loopNext lc ec = (lc, ec, false, false, false) :=
  hlc ▸ hec ▸ rfl

/-- Counters that go on rotate, and write the stage to the predicate that Q4 then names. -/
theorem Stream.rotate_departed {t : Stream} {lc : BitVec 32} {ec : BitVec 8} {stage goes : Bool}
    (hnext : loopNext t.lc t.ec = (lc, ec, stage, true, goes)) (now : Nat) (target : Option Word) (call : Bool) :
    (t.departed now target call).rotate = { t.departed now target call with
      lc := lc, ec := ec, rotb := t.rotb - 1, q := t.q.put (physQ (t.rotb - 1) 4) stage } := by
  simp [Stream.rotate, Stream.departed, hnext, physQ]

/-- Counters that have ended leave the stream. -/
theorem Stream.rotate_departed_ended {t : Stream} {lc : BitVec 32} {ec : BitVec 8} {stage goes : Bool}
    (hnext : loopNext t.lc t.ec = (lc, ec, stage, false, goes)) (now : Nat) (target : Option Word) (call : Bool) :
    (t.departed now target call).rotate = t.departed now target call := by
  simp [Stream.rotate, Stream.departed, hnext]

section
variable {h : Hdr} {j : BitVec 3} {s : State}

/-- A LOOP that goes on leaves a transfer to Jk, and its counters counted and rotated. -/
theorem loop_goes (hx : s.me.xfer.left = 0) (hready : s.ready h [] []) (hfar : (s.me.jreg j).toNat < 2 ^ 48)
    (hgo : (loopNext s.me.lc s.me.ec).2.2.2.2 = true) :
    Leaves (.loop h j) s (s.me.departed s.cycle (some (s.me.jreg j)) false).rotate := by
  refine Leaves.of (f := fun t => (t.departed s.cycle (some (s.me.jreg j)) false).rotate) ?_ rfl
  rw [exec_loop, State.nested_idle hx, State.slot_ready hready, hgo, State.goTo_taken hfar, Act.done_go, State.depart, State.modMe_modMe]
  rfl

/-- A LOOP that executes and does not go on leaves its delay groups without a transfer, and its counters counted and rotated. -/
theorem loop_stays (hx : s.me.xfer.left = 0) (hready : s.ready h [] []) (hstay : (loopNext s.me.lc s.me.ec).2.2.2.2 = false) :
    Leaves (.loop h j) s (s.me.departed s.cycle none false).rotate := by
  refine Leaves.of (f := fun t => (t.departed s.cycle none false).rotate) ?_ rfl
  rw [exec_loop, State.nested_idle hx, State.slot_ready hready, hstay, State.goTo, Bool.not_false, if_pos rfl, Act.done_go, State.depart,
    State.modMe_modMe]
  rfl

/-- A LOOP that goes on to a Jk with bits 63:48 not zero takes PERM. -/
theorem loop_far (hx : s.me.xfer.left = 0) (hready : s.ready h [] []) (hfar : ¬ (s.me.jreg j).toNat < 2 ^ 48)
    (hgo : (loopNext s.me.lc s.me.ec).2.2.2.2 = true) : Faults (.loop h j) s { code := .perm, addr := s.me.jreg j, info := 10 } := by
  rw [Faults, exec_loop, State.nested_idle hx, State.slot_ready hready, hgo, State.goTo_far hfar, Act.done_fault]

/-- Predicated off, LOOP leaves its delay groups alone. -/
theorem loop_off (hx : s.me.xfer.left = 0) (hoff : s.off h) : Leaves (.loop h j) s (s.me.departed s.cycle none false) := by
  refine Leaves.of_depart ?_
  rw [exec_loop, State.nested_idle hx, State.slot_off hoff, Act.done_go]

end

/-- Settles O17: LOOP departs as its counters say (`loop_goes`, `loop_stays`), in the four cases of `loopNext`. -/
theorem loopCountsAndRotates : Obligations.LoopCountsAndRotates := by
  intro h j s hx
  refine ⟨fun hready hfar => ⟨fun hlc => ?_, fun hlc hec => ?_, fun hlc hec => ?_, fun hlc hec => ?_⟩, fun hready hfar hgo => ?_,
    fun hoff => loop_off hx hoff⟩
  · have hnext := loopNext_counts hlc s.me.ec
    exact Stream.rotate_departed hnext .. ▸ loop_goes hx hready hfar (by rw [hnext])
  · have hnext := loopNext_drains hlc hec
    exact Stream.rotate_departed hnext .. ▸ loop_goes hx hready hfar (by rw [hnext])
  · have hnext := loopNext_last hlc hec
    exact Stream.rotate_departed hnext .. ▸ loop_stays hx hready (by rw [hnext])
  · have hnext := loopNext_ended hlc hec
    have hleaves := loop_stays (j := j) hx hready (by rw [hnext])
    rw [Stream.rotate_departed_ended hnext] at hleaves
    exact hleaves
  · refine loop_far hx hready hfar ?_
    by_cases hlc : s.me.lc = 0
    · rw [loopNext_drains hlc (hgo.resolve_left (not_not.2 hlc))]
    · rw [loopNext_counts hlc]

end Sys2Proof.Machine
end

section
namespace Sys2Proof.Machine

/-! ## Reads inside a landing window (R165) -/

/-- A latent write of an earlier group to `r` that has not landed is found. -/
theorem Stream.windowOf_isSome {t : Stream} {c : Nat} {r : PReg} {l : Latent} (hl : l ∈ t.latents) (hreg : l.reg = r) (hissued : l.issued < c)
    (hdue : c < l.due) : (t.windowOf c c r).isSome := by
  rw [Stream.windowOf, List.find?_isSome]
  exact ⟨l, hl, by simp [hreg, hissued, hdue]⟩

/-- What is found is a latent write to `r` that lands after cycle `after`. -/
theorem Stream.windowOf_some {t : Stream} {c after : Nat} {r : PReg} {l : Latent} (h : t.windowOf c after r = some l) :
    l ∈ t.latents ∧ l.reg = r ∧ after < l.due := by
  have hp := List.find?_some h
  simp only [Bool.and_eq_true, decide_eq_true_eq] at hp
  obtain ⟨⟨hreg, -⟩, hdue⟩ := hp
  exact ⟨List.mem_of_find?_eq_some h, hreg, hdue⟩

/-- The LATENCY fault that a window of latent write `l` raises in cycle `c` (R373). -/
def Latent.fault (l : Latent) (c : Nat) (word : Word) : FaultInfo :=
  { code := .latency, word := word, addr := l.reg.addr, info := BitVec.ofNat 64 (l.due - c) }

/-- With EXPCHK set, a read of a register inside its window raises LATENCY for such a window, whatever the word writes. -/
theorem Stream.windowFault_read {t : Stream} (hchk : t.expchk = true) {c : Nat} {rs : List PReg} {l : Latent} (hl : l ∈ t.latents)
    (hreg : l.reg ∈ rs) (hissued : l.issued < c) (hdue : c < l.due) (word : Word) :
    ∃ k ∈ t.latents, k.reg ∈ rs ∧ c < k.due ∧ ∀ ws, t.windowFault c word rs ws = some (k.fault c word) := by
  have hsome : (rs.findSome? (fun r => t.windowOf c c r)).isSome :=
    List.findSome?_isSome_iff.2 ⟨l.reg, hreg, Stream.windowOf_isSome hl rfl hissued hdue⟩
  obtain ⟨k, hk⟩ := Option.isSome_iff_exists.1 hsome
  obtain ⟨r, hr, hwin⟩ := List.exists_of_findSome?_eq_some hk
  obtain ⟨hmem, hkreg, hkdue⟩ := Stream.windowOf_some hwin
  refine ⟨k, hmem, hkreg ▸ hr, hkdue, fun ws => ?_⟩
  simp only [Stream.windowFault, hchk, if_true, hk, Latent.fault]

/-- An executing word whose own sources are inside a window takes LATENCY where its body would issue, or take a fault of its operands. -/
theorem State.plain_window {s : State} {h : Hdr} {rs : List PReg} {ws : List (PReg × Nat)} {f : FaultInfo} (hexec : s.me.executes h = true)
    (hopen : s.me.windowFault s.cycle s.word [s.me.qp h.qs] [] = none) (hwin : s.me.windowFault s.cycle s.word rs ws = some f) (body : Act) :
    s.plain h rs ws body = body.orLatency f := by
  simp only [State.plain, State.slot, hopen, hexec, if_true, hwin]

section
variable {s : State} {h : Hdr} {sd sa sb : BitVec 5} {f : FaultInfo} (hexec : s.me.executes h = true)
  (hopen : s.me.windowFault s.cycle s.word [s.me.qp h.qs] [] = none)
  (hwin : ∀ ws, s.me.windowFault s.cycle s.word [s.me.sp sa, s.me.sp sb] ws = some f)
include hexec hopen hwin

theorem State.alu_window (lat : Nat) (v : Word) : s.alu h [sa, sb] sd lat v = .fault f :=
  State.plain_window hexec hopen (hwin _) _

/-- The window comes before a zero divisor. -/
theorem State.divide_window (v : Word) : s.divide h sd sa sb v = .fault f := by
  refine (State.plain_window hexec hopen (hwin _) _).trans ?_
  split <;> rfl

end

/-- Settles O12: the window of one of the two sources is found (`Stream.windowFault_read`), and every form with these sources takes its fault. -/
theorem windowReadsFault : Obligations.WindowReadsFault := by
  intro h sd sa sb s l hexec hchk hopen hl hissued hdue hreg
  have hpred : s.me.windowFault s.cycle s.word [s.me.qp h.qs] [] = none := State.windowFault_none (fun _ => hopen) _
  obtain ⟨k, hk, hkreg, hkdue, hwin⟩ := Stream.windowFault_read hchk (rs := [s.me.sp sa, s.me.sp sb]) hl (by simpa using hreg) hissued hdue s.word
  have hkreg : k.reg = s.me.sp sa ∨ k.reg = s.me.sp sb := by simpa using hkreg
  refine ⟨k.fault s.cycle s.word, rfl, hkreg.imp (congrArg PReg.addr) (congrArg PReg.addr), ⟨k, hk, rfl, hkdue, rfl⟩, fun i hi => ?_⟩
  have halu (lat : Nat) (v : Word) : (s.alu h [sa, sb] sd lat v).done s = .next (s.faultMe (k.fault s.cycle s.word)) := by
    rw [State.alu_window hexec hpred hwin, Act.done_fault]
  have hdiv (v : Word) : (s.divide h sd sa sb v).done s = .next (s.faultMe (k.fault s.cycle s.word)) := by
    rw [State.divide_window hexec hpred hwin, Act.done_fault]
  simp only [List.mem_cons, List.not_mem_nil, or_false] at hi
  rcases hi with rfl | rfl | rfl | rfl | rfl | rfl | rfl | rfl | rfl | rfl | rfl | rfl | rfl | rfl | rfl | rfl | rfl | rfl
  iterate 5 exact halu _ _
  iterate 2 exact hdiv _
  all_goals exact halu _ _

end Sys2Proof.Machine
end

section
namespace Sys2Proof.Machine

/-! ## The order in which latent writes land (R164) -/

theorem mem_insertLatent {l m : Latent} {ls : List Latent} : m ∈ insertLatent l ls ↔ m = l ∨ m ∈ ls := by
  induction ls with
  | nil => simp [insertLatent]
  | cons x r ih =>
    rw [insertLatent]
    split
    · exact List.mem_cons
    · rw [List.mem_cons, ih, List.mem_cons]; tauto

/-- A list in landing order, with the writes that land last at its end. -/
def InLandingOrder (ls : List Latent) : Prop := ls.Pairwise (fun a b => a.due ≤ b.due)

theorem InLandingOrder.insertLatent {ls : List Latent} (h : InLandingOrder ls) (l : Latent) : InLandingOrder (insertLatent l ls) := by
  induction ls with
  | nil => exact List.pairwise_singleton _ _
  | cons x r ih =>
    obtain ⟨hx, hr⟩ := List.pairwise_cons.1 h
    rw [Machine.insertLatent]
    split
    case isTrue hlt =>
      refine List.pairwise_cons.2 ⟨fun m hm => ?_, h⟩
      rcases List.mem_cons.1 hm with rfl | hm
      · exact hlt.le
      · exact hlt.le.trans (hx m hm)
    case isFalse hge =>
      refine List.pairwise_cons.2 ⟨fun m hm => ?_, ih hr⟩
      rcases mem_insertLatent.1 hm with rfl | hm
      · exact not_lt.1 hge
      · exact hx m hm

/-- Into a list in landing order a write is put before those alone that are due later. -/
theorem InLandingOrder.insertLatent_eq {ls : List Latent} (h : InLandingOrder ls) (l : Latent) :
    ∃ x y, Machine.insertLatent l ls = x ++ l :: y ∧ ∀ m ∈ y, m ∈ ls ∧ l.due < m.due := by
  induction ls with
  | nil => exact ⟨[], [], rfl, List.forall_mem_nil _⟩
  | cons x r ih =>
    obtain ⟨hx, hr⟩ := List.pairwise_cons.1 h
    rw [Machine.insertLatent]
    split
    case isTrue hlt =>
      refine ⟨[], x :: r, rfl, fun m hm => ⟨hm, ?_⟩⟩
      rcases List.mem_cons.1 hm with rfl | hm
      · exact hlt
      · exact hlt.trans_le (hx m hm)
    case isFalse =>
      obtain ⟨y, z, heq, hz⟩ := ih hr
      exact ⟨x :: y, z, by rw [heq]; rfl, fun m hm => ⟨List.mem_cons_of_mem _ (hz m hm).1, (hz m hm).2⟩⟩

/-- A write that is due before one of the list does not come after it. -/
theorem insertLatent_before {l m : Latent} (hdue : m.due < l.due) (x y : List Latent) :
    ∃ x', insertLatent m (x ++ l :: y) = x' ++ l :: y := by
  induction x with
  | nil => exact ⟨[m], by simp [insertLatent, hdue]⟩
  | cons a x ih =>
    obtain ⟨x', hx'⟩ := ih
    rw [List.cons_append, insertLatent, hx']
    split
    · exact ⟨m :: a :: x, rfl⟩
    · exact ⟨a :: x', rfl⟩

/-- A write put into a list comes before or after one that the list holds. -/
theorem insertLatent_around (m l : Latent) (x y : List Latent) :
    ∃ x' y', insertLatent m (x ++ l :: y) = x' ++ l :: y' ∧ ∀ k ∈ y', k = m ∨ k ∈ y := by
  induction x with
  | nil =>
    rw [List.nil_append, insertLatent]
    split
    · exact ⟨[m], y, rfl, fun k hk => .inr hk⟩
    · exact ⟨[], insertLatent m y, rfl, fun k hk => mem_insertLatent.1 hk⟩
  | cons a x ih =>
    obtain ⟨x', y', heq, hy'⟩ := ih
    rw [List.cons_append, insertLatent, heq]
    split
    · exact ⟨m :: a :: x, y, rfl, fun k hk => .inr hk⟩
    · exact ⟨a :: x', y', rfl, hy'⟩

theorem foldl_insertLatent_mem {m : Latent} (ls acc : List Latent) :
    m ∈ ls.foldl (fun acc l => insertLatent l acc) acc ↔ m ∈ ls ∨ m ∈ acc := by
  induction ls generalizing acc with
  | nil => simp
  | cons l r ih => rw [List.foldl_cons, ih, mem_insertLatent, List.mem_cons]; tauto

theorem mem_landingOrder {m : Latent} {ls : List Latent} : m ∈ landingOrder ls ↔ m ∈ ls := by
  rw [landingOrder, foldl_insertLatent_mem]; simp

theorem inLandingOrder_landingOrder (ls : List Latent) : InLandingOrder (landingOrder ls) :=
  List.foldlRecOn ls _ (motive := InLandingOrder) List.Pairwise.nil fun _ h l _ => h.insertLatent l

/-- Writes to `r` that are due before `l`, put into a list that holds `l` as its last write to `r`, leave it so. -/
theorem foldl_insertLatent_last {l : Latent} (b : List Latent) {r : PReg} (hb : ∀ m ∈ b, m.reg = r → m.due < l.due) (x y : List Latent)
    (hy : ∀ m ∈ y, m.reg ≠ r) :
    ∃ x' y', b.foldl (fun acc l => insertLatent l acc) (x ++ l :: y) = x' ++ l :: y' ∧ ∀ m ∈ y', m.reg ≠ r := by
  induction b generalizing x y with
  | nil => exact ⟨x, y, rfl, hy⟩
  | cons m b ih =>
    obtain ⟨hm, hb⟩ := List.forall_mem_cons.1 hb
    rw [List.foldl_cons]
    by_cases hreg : m.reg = r
    · obtain ⟨x', heq⟩ := insertLatent_before (hm hreg) x y
      rw [heq]
      exact ih hb x' y hy
    · obtain ⟨x', y', heq, hy'⟩ := insertLatent_around m l x y
      rw [heq]
      exact ih hb x' y' fun k hk => (hy' k hk).elim (fun e => e ▸ hreg) (hy k)

/-- Of the writes to `r` one lands last: no earlier one of the list is due later than it, and no later one is due as late. -/
theorem landingOrder_last {a b : List Latent} {l : Latent} (ha : ∀ m ∈ a, m.reg = l.reg → m.due ≤ l.due)
    (hb : ∀ m ∈ b, m.reg = l.reg → m.due < l.due) :
    ∃ x y, landingOrder (a ++ [l] ++ b) = x ++ l :: y ∧ ∀ m ∈ y, m.reg ≠ l.reg := by
  obtain ⟨x, y, heq, hy⟩ := (inLandingOrder_landingOrder a).insertLatent_eq l
  have hlast : ∀ m ∈ y, m.reg ≠ l.reg := fun m hm hreg =>
    absurd (ha m (mem_landingOrder.1 (hy m hm).1) hreg) (not_le.2 (hy m hm).2)
  obtain ⟨x', y', heq', hy'⟩ := foldl_insertLatent_last b hb x y hlast
  refine ⟨x', y', ?_, hy'⟩
  rw [← heq', ← heq, landingOrder, List.foldl_append, List.foldl_append]
  rfl

/-! ## What a register holds after writes have landed (R160, R164) -/

/-- Register `r` of the stream holds `v`, as a landing leaves it; S0 and Q0 discard what lands. -/
def Stream.Holds (t : Stream) (r : PReg) (v : Row) : Prop :=
  match r with
  | .s n => n ≠ 0 → t.s.get 0 n = v.setWidth 64
  | .q n => n ≠ 0 → t.q.get false n = v.getLsbD 0
  | .m n => t.m.get 0 n = v
  | .j n => t.j.get 0 n = codeAddr (v.setWidth 64)

/-- Register `r` reads the same in both. -/
def Stream.SameAt (t u : Stream) (r : PReg) : Prop :=
  match r with
  | .s n => u.s.get 0 n = t.s.get 0 n
  | .q n => u.q.get false n = t.q.get false n
  | .m n => u.m.get 0 n = t.m.get 0 n
  | .j n => u.j.get 0 n = t.j.get 0 n

theorem Stream.SameAt.refl (t : Stream) (r : PReg) : t.SameAt t r := by cases r <;> rfl

theorem Stream.SameAt.trans {t u w : Stream} {r : PReg} (h : t.SameAt u r) (h' : u.SameAt w r) : t.SameAt w r := by
  cases r <;> exact Eq.trans h' h

theorem Stream.Holds.sameAt {t u : Stream} {r : PReg} {v : Row} (h : t.Holds r v) (h' : t.SameAt u r) : u.Holds r v := by
  cases r with
  | s n => exact fun hn => Eq.trans h' (h hn)
  | q n => exact fun hn => Eq.trans h' (h hn)
  | m n => exact Eq.trans h' h
  | j n => exact Eq.trans h' h

/-- What has landed in a register is held there. -/
theorem Stream.land_holds (t : Stream) (r : PReg) (v : Row) : (t.land r v).Holds r v := by
  cases r with
  | s n => exact fun hn => by simp [Stream.land, hn]
  | q n => exact fun hn => by simp [Stream.land, hn]
  | m n => simp [Stream.Holds, Stream.land]
  | j n => simp [Stream.Holds, Stream.land]

/-- A landing leaves every other register. -/
theorem Stream.land_sameAt (t : Stream) {r r' : PReg} (hr : r' ≠ r) (v : Row) : t.SameAt (t.land r' v) r := by
  cases r' with
  | s n =>
    rw [Stream.land]
    split
    · exact .refl t r
    · cases r with
      | s m => exact Tbl.get_put_ne _ _ _ _ _ fun e => hr (e ▸ rfl)
      | q m => rfl
      | m m => rfl
      | j m => rfl
  | q n =>
    rw [Stream.land]
    split
    · exact .refl t r
    · cases r with
      | q m => exact Tbl.get_put_ne _ _ _ _ _ fun e => hr (e ▸ rfl)
      | s m => rfl
      | m m => rfl
      | j m => rfl
  | m n =>
    cases r with
    | m m => exact Tbl.get_put_ne _ _ _ _ _ fun e => hr (e ▸ rfl)
    | s m => rfl
    | q m => rfl
    | j m => rfl
  | j n =>
    cases r with
    | j m => exact Tbl.get_put_ne _ _ _ _ _ fun e => hr (e ▸ rfl)
    | s m => rfl
    | q m => rfl
    | m m => rfl

/-- The stream after the writes of a list have landed one by one. -/
def Stream.landAll (t : Stream) (ls : List Latent) : Stream :=
  ls.foldl (fun u l => match l.val with | some v => u.land l.reg v | none => u) t

/-- A register to which none of them is made keeps its value. -/
theorem Stream.landAll_sameAt {r : PReg} (ls : List Latent) (t : Stream) (h : ∀ l ∈ ls, l.reg ≠ r) : t.SameAt (t.landAll ls) r := by
  induction ls generalizing t with
  | nil => exact .refl t r
  | cons l ls ih =>
    obtain ⟨hl, hls⟩ := List.forall_mem_cons.1 h
    refine Stream.SameAt.trans ?_ (ih _ hls)
    dsimp only
    cases l.val with
    | none => exact .refl t r
    | some v => exact t.land_sameAt hl v

/-- A register holds the last of those that are made to it. -/
theorem Stream.landAll_holds (t : Stream) (x y : List Latent) {l : Latent} {v : Row} (hv : l.val = some v) (hy : ∀ m ∈ y, m.reg ≠ l.reg) :
    (t.landAll (x ++ l :: y)).Holds l.reg v := by
  have heq : t.landAll (x ++ l :: y) = ((t.landAll x).land l.reg v).landAll y := by
    rw [Stream.landAll, List.foldl_append, List.foldl_cons, hv]; rfl
  rw [heq]
  exact (Stream.land_holds _ _ _).sameAt (Stream.landAll_sameAt y _ hy)

theorem Stream.land_control (t : Stream) (r : PReg) (v : Row) : (t.land r v).pc = t.pc ∧ (t.land r v).status = t.status := by
  cases r with
  | s n => rw [Stream.land]; split <;> exact ⟨rfl, rfl⟩
  | q n => rw [Stream.land]; split <;> exact ⟨rfl, rfl⟩
  | m n => exact ⟨rfl, rfl⟩
  | j n => exact ⟨rfl, rfl⟩

/-- Landings move neither the program counter nor the status. -/
theorem Stream.landAll_control (t : Stream) (ls : List Latent) : (t.landAll ls).pc = t.pc ∧ (t.landAll ls).status = t.status := by
  refine List.foldlRecOn ls _ (motive := fun u : Stream => u.pc = t.pc ∧ u.status = t.status) ⟨rfl, rfl⟩ fun u hu l _ => ?_
  cases l.val with
  | none => exact hu
  | some v => exact ⟨(u.land_control l.reg v).1.trans hu.1, (u.land_control l.reg v).2.trans hu.2⟩

/-! ## The landing event (R164, R311) -/

/-- A latent write lands in cycle `now`: it is due and has its value. -/
def Latent.lands (l : Latent) (now : Nat) : Bool := decide (l.due ≤ now) && l.val.isSome

theorem Latent.lands_iff {l : Latent} {now : Nat} : l.lands now = true ↔ l.due ≤ now ∧ l.val.isSome = true := by simp [Latent.lands]

theorem Stream.landDue_eq (t : Stream) (now : Nat) :
    t.landDue now = { t.landAll (landingOrder (t.latents.filter (·.lands now))) with latents := t.latents.filter (fun l => !l.lands now) } := rfl

/-- The landings of a cycle leave a register to which none is made. -/
theorem Stream.landDue_sameAt {t : Stream} {now : Nat} {r : PReg} (h : ∀ l ∈ t.latents, l.reg = r → now < l.due ∨ l.val = none) :
    t.SameAt (t.landDue now) r := by
  have hnone : ∀ l ∈ landingOrder (t.latents.filter (·.lands now)), l.reg ≠ r := by
    intro l hl hreg
    obtain ⟨hl, hlands⟩ := List.mem_filter.1 (mem_landingOrder.1 hl)
    obtain ⟨hdue, hval⟩ := Latent.lands_iff.1 hlands
    rcases h l hl hreg with hlate | hempty
    · exact absurd hdue (not_le.2 hlate)
    · rw [hempty] at hval; cases hval
  have hsame := Stream.landAll_sameAt _ t hnone
  rw [Stream.landDue_eq]
  cases r <;> exact hsame

/-- A register holds the write that lands in it last. -/
theorem Stream.landDue_holds {t : Stream} {now : Nat} {a b : List Latent} {l : Latent} {v : Row} (hls : t.latents = a ++ [l] ++ b)
    (hv : l.val = some v) (hdue : l.due ≤ now) (ha : ∀ m ∈ a, m.reg = l.reg → m.val.isSome → m.due ≤ now → m.due ≤ l.due)
    (hb : ∀ m ∈ b, m.reg = l.reg → m.val.isSome → m.due ≤ now → m.due < l.due) : (t.landDue now).Holds l.reg v := by
  have hlands : l.lands now = true := Latent.lands_iff.2 ⟨hdue, by rw [hv]; rfl⟩
  have hfilter : t.latents.filter (·.lands now) = a.filter (·.lands now) ++ [l] ++ b.filter (·.lands now) := by
    rw [hls, List.filter_append, List.filter_append, List.filter_singleton, hlands, cond_true]
  have hmem {m : Latent} {c : List Latent} (hm : m ∈ c.filter (·.lands now)) : m ∈ c ∧ m.due ≤ now ∧ m.val.isSome = true :=
    ⟨(List.mem_filter.1 hm).1, Latent.lands_iff.1 (List.mem_filter.1 hm).2⟩
  obtain ⟨x, y, horder, hy⟩ := landingOrder_last (l := l) (a := a.filter (·.lands now)) (b := b.filter (·.lands now))
    (fun m hm hreg => ha m (hmem hm).1 hreg (hmem hm).2.2 (hmem hm).2.1) (fun m hm hreg => hb m (hmem hm).1 hreg (hmem hm).2.2 (hmem hm).2.1)
  have hholds : (t.landAll (x ++ l :: y)).Holds l.reg v := Stream.landAll_holds t x y hv hy
  rw [Stream.landDue_eq, hfilter, horder]
  cases hreg : l.reg <;> exact hreg ▸ hholds

theorem exec_latentWriteLanding (s : State) : exec .latentWriteLanding s = .next
    (if (s.core (s.site.unit / 4)).mbState = 2 then s else s.modStream s.site.unit (fun t => t.landDue s.cycle)) := rfl

/-! ## Rotating names (R162) -/

theorem physS_fixed (b : BitVec 4) {n : Nat} (hn : n < 16) : physS b n = n := if_pos hn
theorem physQ_fixed (b : BitVec 4) {n : Nat} (hn : n < 4) : physQ b n = n := if_pos hn
theorem physS_rotating (b : BitVec 4) {n : Nat} (hn : 16 ≤ n) : physS b n = 16 + (n - 16 + b.toNat) % 16 := if_neg (not_lt.2 hn)
theorem physQ_rotating (b : BitVec 4) {n : Nat} (hn : 4 ≤ n) : physQ b n = 4 + (n - 4 + b.toNat % 4) % 4 := if_neg (not_lt.2 hn)

theorem rotb_down (b : BitVec 4) : (b - 1).toNat = (b.toNat + 15) % 16 := by
  rw [BitVec.toNat_sub]; exact congrArg (· % 16) (Nat.add_comm _ _)

theorem physS_next (b : BitVec 4) {n : Nat} (hn : 16 ≤ n) : physS (b - 1) (n + 1) = physS b n := by
  rw [physS_rotating _ hn, physS_rotating _ (hn.trans n.le_succ), rotb_down]; omega

theorem physQ_next (b : BitVec 4) {n : Nat} (hn : 4 ≤ n) : physQ (b - 1) (n + 1) = physQ b n := by
  rw [physQ_rotating _ hn, physQ_rotating _ (hn.trans n.le_succ), rotb_down]; omega

theorem physS_injective (b : BitVec 4) {m n : Nat} (hm : m < 32) (hn : n < 32) (h : physS b m = physS b n) : m = n := by
  rcases lt_or_ge m 16 with hm' | hm' <;> rcases lt_or_ge n 16 with hn' | hn'
  · rwa [physS_fixed b hm', physS_fixed b hn'] at h
  · rw [physS_fixed b hm', physS_rotating b hn'] at h; omega
  · rw [physS_rotating b hm', physS_fixed b hn'] at h; omega
  · rw [physS_rotating b hm', physS_rotating b hn'] at h; omega

theorem physQ_injective (b : BitVec 4) {m n : Nat} (hm : m < 8) (hn : n < 8) (h : physQ b m = physQ b n) : m = n := by
  rcases lt_or_ge m 4 with hm' | hm' <;> rcases lt_or_ge n 4 with hn' | hn'
  · rwa [physQ_fixed b hm', physQ_fixed b hn'] at h
  · rw [physQ_fixed b hm', physQ_rotating b hn'] at h; omega
  · rw [physQ_rotating b hm', physQ_fixed b hn'] at h; omega
  · rw [physQ_rotating b hm', physQ_rotating b hn'] at h; omega

/-- A write to a register that discards it leaves no latent write. -/
theorem State.latch_discards (s : State) {r : PReg} (hr : r.discards = true) (lat : Nat) (v : Row) : s.latch r lat v = s.modMe id := by
  rw [State.latch]
  exact congrArg s.modMe (funext fun t => if_pos hr)

/-- Settles O13: the writes that land do so in landing order (`landingOrder_last`), one register at a time (`Stream.Holds`, `Stream.SameAt`). -/
theorem latentWritesAndRotatingNames : Obligations.LatentWritesAndRotatingNames := by
  refine ⟨⟨fun s g hg => ?_, fun s lat v => ⟨s.latch_discards rfl lat v, s.latch_discards rfl lat v⟩, fun s r lat v hr => ?_⟩,
    fun b n hn => physS_fixed b hn, fun b n hn => physQ_fixed b hn, fun b n hn _ => physS_next b hn, fun b n hn _ => physQ_next b hn,
    fun b m n hm hn => physS_injective b hm hn, fun b m n hm hn => physQ_injective b hm hn, fun t => ⟨rfl, rfl⟩⟩
  · intro last quiet
    subst hg
    rw [exec_latentWriteLanding]
    refine ⟨fun hload => by rw [if_pos hload], fun hload => ⟨_, by rw [if_neg hload], ?_⟩⟩
    rw [State.stream_modStream_same]
    have hcontrol := (s.stream s.site.unit).landAll_control (landingOrder ((s.stream s.site.unit).latents.filter (·.lands s.cycle)))
    have hquiet (r : PReg) (h : quiet r) : (s.stream s.site.unit).SameAt ((s.stream s.site.unit).landDue s.cycle) r := Stream.landDue_sameAt h
    have hlast (r : PReg) (v : Row) : last r v → ((s.stream s.site.unit).landDue s.cycle).Holds r v := by
      rintro ⟨a, b, i, d, hls, hdue, ha, hb⟩
      exact Stream.landDue_holds hls rfl hdue ha hb
    refine ⟨rfl, hcontrol.1, hcontrol.2, rfl, fun g hg => State.stream_modStream_ne _ _ _ _ hg, fun n => ⟨?_, ?_, ?_, ?_⟩, fun n v => ⟨?_, ?_, ?_, ?_⟩⟩
    · exact hquiet (.s n)
    · exact hquiet (.q n)
    · exact hquiet (.m n)
    · exact hquiet (.j n)
    · exact fun hn h => hlast (.s n) v h hn
    · exact fun hn h => hlast (.q n) v h hn
    · exact hlast (.m n) v
    · exact hlast (.j n) v
  · rw [State.latch, State.me_modMe, Stream.latch, if_neg (by rw [hr]; decide)]

end Sys2Proof.Machine
end

section
namespace Sys2Proof.Machine

/-! ## What the check of one operand comes to (R168, R169) -/

theorem versionFault_is_version (t : Nat) (x : Tile) (ver : BitVec 4) (peek dst : Bool) :
    ∃ f, versionFault t x ver peek dst = .fault f ∧ f.code = .version := ⟨_, rfl, rfl⟩

/-- A check that waits where `w` holds, else takes VERSION where `v` holds, and otherwise passes. -/
structure Check.Decides (c : Check) (w v : Prop) : Prop where
  wait : w → c = .wait
  version : ¬ w → v → ∃ f, c = .fault f ∧ f.code = .version
  pass : ¬ w → ¬ v → c = .pass

section
variable {c : Check} {w v : Prop} (h : c.Decides w v)
include h

theorem Check.Decides.wait_iff : c = .wait ↔ w := by
  refine ⟨fun hc => by_contra fun hw => ?_, h.wait⟩
  by_cases hv : v
  · obtain ⟨f, hf, -⟩ := h.version hw hv
    rw [hf] at hc; cases hc
  · rw [h.pass hw hv] at hc; cases hc

theorem Check.Decides.version_iff : (∃ f, c = .fault f ∧ f.code = .version) ↔ ¬ w ∧ v := by
  refine ⟨fun ⟨f, hf, _⟩ => ?_, fun ⟨hw, hv⟩ => h.version hw hv⟩
  by_cases hw : w
  · rw [h.wait hw] at hf; cases hf
  · refine ⟨hw, by_contra fun hv => ?_⟩
    rw [h.pass hw hv] at hf; cases hf

theorem Check.Decides.pass_iff : c = .pass ↔ ¬ w ∧ ¬ v := by
  refine ⟨fun hc => ⟨fun hw => ?_, fun hv => ?_⟩, fun ⟨hw, hv⟩ => h.pass hw hv⟩
  · rw [h.wait hw] at hc; cases hc
  · by_cases hw : w
    · rw [h.wait hw] at hc; cases hc
    · obtain ⟨f, hf, -⟩ := h.version hw hv
      rw [hf] at hc; cases hc

end

/-- R168: a source whose register's reservation is of an earlier cycle. -/
theorem Core.checkSrc_decides {k : Core} {now : Nat} {o : TSrc} (hres : (k.tile o.t).resAt < now) :
    (k.checkSrc now o).Decides ((k.tile o.t).wpend = true ∨ 8 ≤ ((k.tile o.t).wcnt.setWidth 4 - o.ver).toNat)
      ((k.tile o.t).wcnt.setWidth 4 - o.ver ≠ 0
        ∨ o.peek = false ∧ (k.tile o.t).isOpen = false ∧ (k.tile o.t).rdrem.toNat ≤ (k.tile o.t).commit.toNat) := by
  simp only [Core.checkSrc, decide_eq_true hres, Bool.and_true, bne_iff_ne, Bool.and_eq_true, Bool.not_eq_true', decide_eq_true_eq, and_assoc]
  generalize (k.tile o.t).wcnt.setWidth 4 - o.ver = d
  constructor
  · rintro (hpend | hahead)
    · rw [if_pos hpend]
    · rw [if_pos hahead, ite_self]
  · intro hw hv
    obtain ⟨hpend, hahead⟩ := not_or.1 hw
    rw [if_neg hpend, if_neg hahead]
    split
    · exact versionFault_is_version _ _ _ _ _
    case isFalse hnow =>
      rw [if_pos (hv.resolve_left hnow)]
      exact versionFault_is_version _ _ _ _ _
  · intro hw hv
    obtain ⟨hpend, hahead⟩ := not_or.1 hw
    obtain ⟨hnow, hclaim⟩ := not_or.1 hv
    rw [if_neg hpend, if_neg hahead, if_neg hnow, if_neg hclaim]

/-- R169: a destination, where the instruction's own sources consume no claim on it. -/
theorem Core.checkDst_decides (k : Core) (p : TDst) :
    (k.checkDst p 0).Decides
      ((k.tile p.t).wpend = true ∨ 8 ≤ ((k.tile p.t).wcnt.setWidth 4 - (p.ver - 1)).toNat
        ∨ ((k.tile p.t).wcnt.setWidth 4 - (p.ver - 1) = 0 ∧ (k.tile p.t).isOpen = false ∧ ((k.tile p.t).rdrem ≠ 0 ∨ (k.tile p.t).held ≠ 0)))
      ((k.tile p.t).wcnt.setWidth 4 - (p.ver - 1) ≠ 0) := by
  have hclaims : 0 < (k.tile p.t).rdrem.toNat ↔ (k.tile p.t).rdrem ≠ 0 := by
    rw [Nat.pos_iff_ne_zero, ne_eq, ne_eq, BitVec.toNat_eq]; rfl
  simp only [Core.checkDst, bne_iff_ne, Bool.and_eq_true, Bool.not_eq_true', Bool.or_eq_true, decide_eq_true_eq, hclaims]
  generalize (k.tile p.t).wcnt.setWidth 4 - (p.ver - 1) = d
  constructor
  · rintro (hpend | hahead | ⟨hnext, hheld⟩)
    · rw [if_pos hpend]
    · rw [if_pos hahead, ite_self]
    · rw [if_pos hheld, if_neg (not_not.2 hnext), ite_self, ite_self]
  · intro hw hnext
    obtain ⟨hpend, hw⟩ := not_or.1 hw
    rw [if_neg hpend, if_neg (not_or.1 hw).1, if_pos hnext]
    exact versionFault_is_version _ _ _ _ _
  · intro hw hnext
    obtain ⟨hpend, hw⟩ := not_or.1 hw
    obtain ⟨hahead, hheld⟩ := not_or.1 hw
    rw [if_neg hpend, if_neg hahead, if_neg hnext, if_neg fun h => hheld ⟨not_not.1 hnext, h⟩]

/-- Settles O40: what each check decides (`Core.checkSrc_decides`, `Core.checkDst_decides`), read for its three outcomes. -/
theorem versionChecks : Obligations.VersionChecks := by
  intro k now o p hres x d y e vers
  have hsrc : (k.checkSrc now o).Decides (x.wpend = true ∨ 8 ≤ d.toNat)
      (d ≠ 0 ∨ o.peek = false ∧ x.isOpen = false ∧ x.rdrem.toNat ≤ x.commit.toNat) := Core.checkSrc_decides hres
  have hdst : (k.checkDst p 0).Decides (y.wpend = true ∨ 8 ≤ e.toNat ∨ (e = 0 ∧ y.isOpen = false ∧ (y.rdrem ≠ 0 ∨ y.held ≠ 0))) (e ≠ 0) :=
    Core.checkDst_decides k p
  have hzero {z : BitVec 4} (h : z = 0) : z.toNat < 8 := by rw [h]; decide
  refine ⟨hsrc.wait_iff, hsrc.version_iff.trans ?_, hsrc.pass_iff.trans ?_, hdst.wait_iff, hdst.version_iff.trans ?_, hdst.pass_iff.trans ?_⟩
  · rw [not_or, not_le, Bool.not_eq_true, and_assoc]
  · simp only [not_or, not_and_or, not_le, ne_eq, not_not, Bool.not_eq_true, Bool.not_eq_false]
    exact ⟨fun ⟨⟨hpend, _⟩, hnow, hclaim⟩ => ⟨hpend, hnow, hclaim⟩, fun ⟨hpend, hnow, hclaim⟩ => ⟨⟨hpend, hzero hnow⟩, hnow, hclaim⟩⟩
  · rw [not_or, not_or, not_le, Bool.not_eq_true]
    exact ⟨fun ⟨⟨hpend, hdone, _⟩, hnext⟩ => ⟨hpend, hdone, hnext⟩,
      fun ⟨hpend, hdone, hnext⟩ => ⟨⟨hpend, hdone, fun hheld => hnext hheld.1⟩, hnext⟩⟩
  · simp only [not_or, not_and_or, not_le, ne_eq, not_not, Bool.not_eq_true, Bool.not_eq_false]
    exact ⟨fun ⟨⟨hpend, _, hfree⟩, hnext⟩ => ⟨hpend, hnext, hfree.resolve_left (not_not.2 hnext)⟩,
      fun ⟨hpend, hnext, hfree⟩ => ⟨⟨hpend, hzero hnext, .inr hfree⟩, hnext⟩⟩

end Sys2Proof.Machine
end

section
namespace Sys2Proof.Machine

/-! ## Power states of banks (R173, R174) -/

/-- An event of a bank changes that bank and no other of its core. -/
theorem State.bank_modBank (s : State) (f : Bank → Bank) :
    ((s.modBank f).core s.site.unit).bank s.site.sub = f ((s.core s.site.unit).bank s.site.sub)
      ∧ ∀ x, x ≠ s.site.sub → ((s.modBank f).core s.site.unit).bank x = (s.core s.site.unit).bank x := by
  rw [State.modBank, State.core_modCore_same]
  exact ⟨Tbl.get_mod_same _ _ _ _, fun x hx => Tbl.get_mod_ne _ _ _ _ _ hx⟩

theorem exec_bankDrowsy (s : State) : exec .bankDrowsy s = .next
    (if (s.core s.site.unit).dozes s.site.sub s.cycle then s.modBank (fun b => { b with power := .drowsy }) else s) := rfl
theorem exec_bankGated (s : State) : exec .bankGated s = .next
    (if (s.core s.site.unit).gates s.site.sub s.cycle then s.modBank (fun b => { b with power := .gated }) else s) := rfl
theorem exec_bankWakeDone (s : State) : exec .bankWakeDone s = .next
    (if (s.core s.site.unit).wakes s.site.sub s.cycle then s.modBank (fun b => { b with power := .awake }) else s) := rfl
theorem exec_bankRefresh (s : State) : exec .bankRefresh s = .next
    (if (s.cycle + 1) % 2048 = 128 * s.site.sub then s.modBank (fun b =>
      if b.power = .awake ∨ b.power = .waking then { b with wake := max b.wake (s.cycle + 5) } else b) else s) := rfl

theorem Core.dozes_iff {k : Core} {b now : Nat} :
    k.dozes b now = true ↔ k.trsaw = false ∧ (k.bank b).power = .awake ∧ (k.bank b).last + 256 ≤ now := by
  simp [Core.dozes, and_assoc]
theorem Core.gates_iff {k : Core} {b now : Nat} :
    k.gates b now = true ↔ k.trsaw = false ∧ (k.bank b).power = .drowsy ∧ (k.bank b).last + 16384 ≤ now := by
  simp [Core.gates, and_assoc]
theorem Core.wakes_iff {k : Core} {b now : Nat} :
    k.wakes b now = true ↔ (k.bank b).power = .waking ∧ (k.bank b).wake ≤ now + 1 := by
  simp [Core.wakes]

/-! ## Probes of blocked heads (R332) -/

theorem exec_probeSend (s : State) : exec .probeSend s = .next
    (if (s.core (s.site.unit / 4)).probesNow (s.site.unit % 4) s.site.sub s.cycle then
      s.modCore (s.site.unit / 4) (fun k => { k with probes := k.probes
        ++ (k.blockedAt (s.site.unit % 4) s.site.sub s.cycle).map (fun f => (s.site.unit % 4, s.site.sub, f, consumerOf f)) })
    else s) := by
  have harm : exec .probeSend s = execProbeSend s := rfl
  rw [harm, execProbeSend]
  split <;> rfl

/-- The state with the probes on their way on core `c` replaced. -/
def State.setProbes (s : State) (c : Nat) (ps : List (Nat × Nat × Nat × Nat)) : State := s.modCore c (fun k => { k with probes := ps })

theorem State.core_setProbes (s : State) (c : Nat) (ps : List (Nat × Nat × Nat × Nat)) :
    (s.setProbes c ps).core c = { s.core c with probes := ps } := State.core_modCore_same _ _ _

section
variable {s : State} {c i q f a : Nat} (hc : s.site.unit = c) (hprobes : (s.core c).probes = [(i, q, f, a)])
include hc hprobes

/-- A probe at a queue other than its origin goes along the full FIFOs of the head there. -/
theorem exec_probeForward_away (haway : a ≠ q) : exec .probeForward s = .next
    (s.setProbes c (((s.core c).blockedAt i a s.cycle).map (fun f' => (i, q, f, consumerOf f'))).eraseDups) := by
  have harm : exec .probeForward s = execProbeForward s := rfl
  rw [harm, execProbeForward, hc, hprobes]
  simp only [List.foldl_cons, List.foldl_nil, if_neg haway, List.nil_append]
  rfl

/-- One that has come back to its origin is a proof. -/
theorem exec_probeForward_home (hhome : a = q) : exec .probeForward s = .next
    ((s.proved c (i, q, f, q)).1.setProbes c (s.proved c (i, q, f, q)).2.eraseDups) := by
  subst hhome
  have harm : exec .probeForward s = execProbeForward s := rfl
  rw [harm, execProbeForward, hc, hprobes]
  simp only [List.foldl_cons, List.foldl_nil, if_pos, List.nil_append]
  rfl

end

/-- A head blocked since `e.since`, counted anew from a grant, has been so for 256 cycles. -/
def QEntry.BlockedLong (e : QEntry) (now : Nat) : Prop := e.since ≠ 0 ∧ e.since + 256 ≤ now + 1

/-- No queue of the cycle of holds has started or retired anything since the last grant, which was to queue `q` of stream `i`. -/
def Core.Unmoved (k : Core) (i q f now : Nat) : Prop :=
  ∃ l, k.granted = some (i, q, l) ∧ ∀ p ∈ k.holds i q f now, l.getD p 0 = (k.stream i).progress p

theorem Core.granted_any_iff (k : Core) (i q f now : Nat) :
    k.granted.any (fun g => g.1 == i && g.2.1 == q && (k.holds i q f now).all (fun p => g.2.2.getD p 0 == (k.stream i).progress p)) = true
      ↔ k.Unmoved i q f now := by
  simp only [Option.any_eq_true, Bool.and_eq_true, beq_iff_eq, List.all_eq_true, Core.Unmoved]
  constructor
  · rintro ⟨⟨j, p, l⟩, hl, ⟨rfl, rfl⟩, hall⟩
    exact ⟨l, hl, hall⟩
  · rintro ⟨l, hl, hall⟩
    exact ⟨(i, q, l), hl, ⟨rfl, rfl⟩, hall⟩

section
variable {s : State} {c i q f : Nat} {e : QEntry} (hfin : (s.core c).finished i q s.cycle = some e)
  (hblocked : f ∈ (s.core c).blockedAt i q s.cycle)
include hfin

/-- A probe come back to a head that has not been blocked for long proves nothing. -/
theorem State.proved_early (hlong : ¬ e.BlockedLong s.cycle) : s.proved c (i, q, f, q) = (s, []) := by
  have hstop : (e.since == 0 || decide (s.cycle + 1 < e.since + 256)) = true := by
    rw [QEntry.BlockedLong, not_and_or, not_not, not_le] at hlong
    simpa using hlong
  simp only [State.proved, hfin]
  rw [Bool.or_assoc, hstop, Bool.or_true, if_pos rfl]

include hblocked

/-- Else it is decided by the last grant and by whether the slot is lent. -/
theorem State.proved_long (hlong : e.BlockedLong s.cycle) : s.proved c (i, q, f, q) =
    if (s.core c).granted.any (fun g => g.1 == i && g.2.1 == q
        && ((s.core c).holds i q f s.cycle).all (fun p => g.2.2.getD p 0 == ((s.core c).stream i).progress p)) = true then
      (s.parkHeld (4 * c + i) { code := .deadlock, src := if q = 3 then 1 else 2, unit := q, word := e.va, info := BitVec.ofNat 64 q }, [])
    else if (s.core c).lent.isSome then (s, [(i, q, f, q)])
    else (s.modCore c (fun k => { (k.modStream i (fun t => t.modEntry q e.number (fun x => { x with since := s.cycle + 1 }))) with
        lent := some (i, f), lentUsed := false, granted := some (i, q, [0, 1, 2, 3].map ((s.core c).stream i).progress) }), []) := by
  obtain ⟨hsince, hage⟩ := hlong
  have hgo : (!((s.core c).blockedAt i q s.cycle).contains f || e.since == 0 || decide (s.cycle + 1 < e.since + 256)) = false := by
    simp only [List.contains_iff_mem.2 hblocked, beq_eq_false_iff_ne.2 hsince, Bool.not_true, Bool.or_false, Bool.false_or]
    exact decide_eq_false (by omega)
  simp only [State.proved, hfin]
  rw [hgo, if_neg Bool.false_ne_true]

theorem State.proved_deadlock (hlong : e.BlockedLong s.cycle) (hstill : (s.core c).Unmoved i q f s.cycle) :
    s.proved c (i, q, f, q) =
      (s.parkHeld (4 * c + i) { code := .deadlock, src := if q = 3 then 1 else 2, unit := q, word := e.va, info := BitVec.ofNat 64 q }, []) := by
  rw [State.proved_long hfin hblocked hlong, if_pos ((Core.granted_any_iff _ _ _ _ _).2 hstill)]

theorem State.proved_waits (hlong : e.BlockedLong s.cycle) (hmoved : ¬ (s.core c).Unmoved i q f s.cycle) (hlent : (s.core c).lent ≠ none) :
    s.proved c (i, q, f, q) = (s, [(i, q, f, q)]) := by
  rw [State.proved_long hfin hblocked hlong, if_neg (mt (Core.granted_any_iff _ _ _ _ _).1 hmoved),
    if_pos (Option.isSome_iff_ne_none.2 hlent)]

theorem State.proved_lends (hlong : e.BlockedLong s.cycle) (hmoved : ¬ (s.core c).Unmoved i q f s.cycle) (hlent : (s.core c).lent = none) :
    (s.proved c (i, q, f, q)).2 = [] ∧ ((s.proved c (i, q, f, q)).1.core c).lent = some (i, f)
      ∧ ((s.proved c (i, q, f, q)).1.core c).granted = some (i, q, [0, 1, 2, 3].map ((s.core c).stream i).progress) := by
  rw [State.proved_long hfin hblocked hlong, if_neg (mt (Core.granted_any_iff _ _ _ _ _).1 hmoved),
    if_neg (by rw [hlent]; decide)]
  dsimp only
  rw [State.core_modCore_same]
  exact ⟨rfl, rfl, rfl⟩

end

/-- Stream `i` of core `c`, by its global number. -/
theorem State.stream_four (s : State) (c : Nat) {i : Nat} (hi : i < 4) : s.stream (4 * c + i) = (s.core c).stream i := by
  have hdiv : (4 * c + i) / 4 = c := by omega
  have hmod : (4 * c + i) % 4 = i := by omega
  rw [State.stream, hdiv, hmod]

/-- Settles O52: an event of a bank changes that bank (`State.bank_modBank`); a probe goes on (`exec_probeForward_away`) or is a proof, with the
four outcomes of `State.proved`. -/
theorem probesAndBanks : Obligations.ProbesAndBanks := by
  refine ⟨fun s c b hc hb => ?_, fun s g q hg hq => ?_, fun s c i q f a hc hi hprobes => ?_⟩
  · subst hc hb
    refine ⟨fun hon hpower hlast => ?_, fun hon hpower hlast => ?_, fun hoff => ⟨?_, ?_⟩, fun hpower hwake => ?_, fun hpower hslot => ?_⟩
    · rw [exec_bankDrowsy, if_pos (Core.dozes_iff.2 ⟨hon, hpower, hlast⟩)]
      exact ⟨_, rfl, s.bank_modBank _⟩
    · rw [exec_bankGated, if_pos (Core.gates_iff.2 ⟨hon, hpower, hlast⟩)]
      exact ⟨_, rfl, s.bank_modBank _⟩
    · rw [exec_bankDrowsy, if_neg fun h => Bool.false_ne_true ((Core.dozes_iff.1 h).1.symm.trans hoff)]
    · rw [exec_bankGated, if_neg fun h => Bool.false_ne_true ((Core.gates_iff.1 h).1.symm.trans hoff)]
    · rw [exec_bankWakeDone, if_pos (Core.wakes_iff.2 ⟨hpower, hwake⟩)]
      exact ⟨_, rfl, s.bank_modBank _⟩
    · rw [exec_bankRefresh, if_pos hslot]
      exact ⟨_, rfl, (s.bank_modBank _).1.trans (if_pos (.inl hpower))⟩
  · subst hg hq
    rw [exec_probeSend]
    refine ⟨fun hnow => ?_, fun hnot => ?_⟩
    · rw [if_pos hnow]
      exact ⟨_, rfl, rfl, by rw [State.core_modCore_same]⟩
    · rw [if_neg (by rw [hnot]; decide)]
  · intro k
    refine ⟨fun haway hnone => ?_, fun f' haway hone => ?_, fun e hhome hfin hblocked => ?_⟩
    · refine ⟨_, exec_probeForward_away hc hprobes haway, ?_⟩
      rw [State.core_setProbes, hnone]
      exact ⟨rfl, rfl⟩
    · refine ⟨_, exec_probeForward_away hc hprobes haway, ?_⟩
      rw [State.core_setProbes, hone]
      exact ⟨rfl, rfl⟩
    · intro unmoved long
      have hexec := exec_probeForward_home hc hprobes hhome
      refine ⟨fun hlong hmoved hlent => ?_, fun hlong hmoved hlent => ?_, fun hlong hstill hrun => ?_, fun hlong => ?_⟩
      · obtain ⟨hps, hslot, hgrant⟩ := State.proved_lends hfin hblocked hlong hmoved hlent
        refine ⟨_, hexec, ?_⟩
        rw [State.core_setProbes, hps]
        exact ⟨rfl, hslot, hgrant⟩
      · refine ⟨_, hexec, ?_⟩
        rw [State.core_setProbes, State.proved_waits hfin hblocked hlong hmoved hlent]
        exact ⟨rfl, rfl⟩
      · have hstatus : (s.stream (4 * c + i)).status = .running := by rw [State.stream_four s c hi]; exact hrun
        have hparked := State.stream_park s (4 * c + i) 0
          { code := .deadlock, src := if q = 3 then 1 else 2, unit := q, word := e.va, info := BitVec.ofNat 64 q }
        rw [State.stream_four _ c hi] at hparked
        refine ⟨_, hexec, ?_⟩
        rw [State.core_setProbes, State.proved_deadlock hfin hblocked hlong hstill, State.parkHeld_running hstatus]
        have hstream {u : State} {x : Stream} (hx : (u.core c).stream i = x) (ps : List (Nat × Nat × Nat × Nat)) :
            ({ u.core c with probes := ps } : Core).stream i = x := hx
        rw [hstream hparked]
        exact ⟨rfl, rfl, _, rfl, rfl, rfl, rfl⟩
      · refine ⟨_, hexec, ?_⟩
        rw [State.core_setProbes, State.proved_early hfin hlong]
        exact ⟨rfl, rfl⟩

end Sys2Proof.Machine
end

section
namespace Sys2Proof.Machine

/-! ## Accesses leave the launches (R83 to R109, R277) -/

theorem State.setLines_launches (s : State) (l : Level) (t : Tbl CLine) : (s.setLines l t).launches = s.launches := by
  cases l <;> rfl

theorem State.dropLine_launches (s : State) (l : Level) (k : Nat) : (s.dropLine l k).launches = s.launches := s.setLines_launches l _

theorem State.performLine_launches (s : State) (ctx va lv : Nat) : (s.performLine ctx va lv).launches = s.launches := rfl

theorem State.dirty_launches (s : State) (d ctx va : Nat) : (s.dirty d ctx va).launches = s.launches := by
  unfold State.dirty
  split
  · exact s.setLines_launches _ _
  · rfl

theorem State.unfilter_launches (s : State) (pa : Nat) : (s.unfilter pa).launches = s.launches := by
  obtain ⟨fs, h⟩ := s.unfilter_eq pa
  rw [h]

theorem State.dropIcache_launches (s : State) (hit : Nat → ILine → Bool) : (s.dropIcache hit).launches = s.launches := by
  obtain ⟨fs, h⟩ := s.dropIcache_eq hit
  rw [h]

theorem State.flushSide_launches (s : State) (pa : Nat) : (s.flushSide pa).launches = s.launches := by
  unfold State.flushSide
  dsimp only
  repeat' split
  all_goals rfl

theorem State.spill_launches (s : State) (ctx va : Nat) : (s.spill ctx va).launches = s.launches := by
  unfold State.spill
  split <;> rfl

/-- A row of steps that each leave the launches leaves them. -/
theorem State.foldl_launches {α : Type} {f : State → α → State} (hf : ∀ (u : State) (a : α), (f u a).launches = u.launches) (l : List α) (s : State) :
    (l.foldl f s).launches = s.launches :=
  List.foldlRecOn l f (motive := fun u : State => u.launches = s.launches) rfl fun u hu a _ => (hf u a).trans hu

theorem State.purgeL1_launches (s : State) (d ctx va : Nat) : (s.purgeL1 d ctx va).1.launches = s.launches := by
  unfold State.purgeL1
  refine List.foldlRecOn (List.range 60) _ (motive := fun a : State × Bool => a.1.launches = s.launches) rfl fun a ha i _ => ?_
  dsimp only
  split
  · rw [State.dropLine_launches, ha]
  · exact ha

theorem State.purgeRdc_launches (s : State) (e d ctx va : Nat) : (s.purgeRdc e d ctx va).launches = s.launches := by
  have hl1 := s.purgeL1_launches e ctx va
  unfold State.purgeRdc
  dsimp only
  split
  case h_1 k _ _ =>
    have hline : (((s.purgeL1 e ctx va).1.dropLine (.rdc e) k).performLine ctx va 4).launches = s.launches := by
      rw [State.performLine_launches, State.dropLine_launches, hl1]
    split
    · rw [State.dirty_launches, hline]
    · exact hline
  case h_2 => exact hl1

theorem State.purgeAbove_launches (s : State) (d ctx va : Nat) : (s.purgeAbove d ctx va).launches = s.launches := by
  have hrdc := State.foldl_launches (fun u e => u.purgeRdc_launches e d ctx va) ([0, 1, 2, 3].filter (· != d)) s
  unfold State.purgeAbove
  dsimp only
  split
  · rw [State.dirty_launches, State.performLine_launches, State.purgeL1_launches, hrdc]
  · rw [State.performLine_launches, State.purgeL1_launches, hrdc]

theorem State.purge_launches (s : State) (d ctx va : Nat) : (s.purge d ctx va).launches = s.launches := by
  have habove := s.purgeAbove_launches d ctx va
  unfold State.purge
  dsimp only
  split
  · rw [State.spill_launches, State.flushSide_launches, State.unfilter_launches, State.dropLine_launches, habove]
  · exact habove

theorem State.recallGranule_launches (s : State) (pa : Nat) : (s.recallGranule pa).launches = s.launches :=
  (State.dropIcache_launches _ _).trans (State.foldl_launches (fun u _ => u.purge_launches _ _ _) _ s)

theorem State.recallScaled_launches (s : State) (pa n : Nat) : (s.recallScaled pa n).launches = s.launches := by
  unfold State.recallScaled
  split
  · rfl
  · exact State.foldl_launches (fun u _ => u.purge_launches _ _ _) _ s

theorem State.recallFor_launches (s : State) (p : Place) (n : Nat) : (s.recallFor p n).launches = s.launches := by
  have hscaled := s.recallScaled_launches p.pa n
  unfold State.recallFor
  dsimp only
  split
  · rfl
  · split
    · split
      · exact (State.recallGranule_launches _ _).trans hscaled
      · exact hscaled
    · exact (State.purge_launches _ _ _ _).trans hscaled

theorem State.endsHeads_launches (s : State) (pa n : Nat) : (s.endsHeads pa n).launches = s.launches := by
  unfold State.endsHeads
  split <;> rfl

theorem State.trackRange_launches (s : State) (w : Who) (p : Place) (va : Word) (n : Nat) (write plain : Bool) (lv : Nat) :
    (s.trackRange w p va n write plain lv).launches = s.launches := by
  have hheads : (if write && plain then s.endsHeads p.pa n else s).launches = s.launches := by
    split
    · exact s.endsHeads_launches _ _
    · rfl
  unfold State.trackRange
  split
  · rfl
  · dsimp only
    split
    · exact hheads
    · rw [State.foldl_launches (fun _ _ => by rfl), hheads]

/-- A marked access that is checked leaves the launches, and every core but for its caches. -/
theorem State.marked_keeps {s u : State} {w : Who} {va : Word} {n : Nat} {k : AccKind} {p : Place} (h : s.marked w va n k = .ok (p, u)) :
    s.Accessed u ∧ u.launches = s.launches := by
  unfold State.marked at h
  split at h
  · cases h
  case h_2 p' hplace =>
    split at h
    · cases h
    · dsimp only at h
      split at h
      · cases h
      · split at h
        · cases h
        · cases h
          refine ⟨((State.Accessed.holdTrans s _ _ _).trans (State.Moves.recallFor _ _ n).accessed).trans (State.Accessed.trackRange _ w _ va n _ _ _), ?_⟩
          rw [State.trackRange_launches, State.recallFor_launches]
          rfl

/-! ## The end of an item (R328) -/

section
variable {s : State} {g : Nat} (hg : s.site.unit = g) (hstatus : (s.stream g).status = .atTend) (hfault : ∀ e ∈ (s.stream g).aq, e.fault = none)
include hg hstatus hfault

/-- A stream whose work has not drained stays at TEND. -/
theorem exec_itemEnd_undrained (hdrain : s.drained g = false) : exec .itemEnd s = .next s := by
  have harm : exec .itemEnd s = execItemEnd s := rfl
  rw [harm, execItemEnd, hg]
  simp only [hstatus, ne_eq, not_true_eq_false, if_false, Stream.aqFault_eq_none hfault, hdrain, Bool.not_false, if_true]

/-- With its work drained and no item active it performs its writes and goes idle, its task cleared. -/
theorem exec_itemEnd_drained (hdrain : s.drained g = true) (hactive : (s.stream g).task.active = false) :
    exec .itemEnd s = .next ((s.perform g 4).modStream g (fun t =>
      { t with aq := [], tokens := .empty, replies := .empty, task := {}, abandon := none, status := .idle, idleAt := s.cycle })) := by
  have harm : exec .itemEnd s = execItemEnd s := rfl
  have hkeep : ((s.perform g 4).modStream g (fun t => { t with aq := [], tokens := .empty, replies := .empty })).freeSlot g
      = (s.perform g 4).modStream g (fun t => { t with aq := [], tokens := .empty, replies := .empty }) := by
    have htask : ((s.perform g 4).stream g).task.active = false := hactive
    rw [State.freeSlot, State.stream_modStream_same]
    simp only [htask, Bool.false_eq_true, if_false]
  rw [harm, execItemEnd, hg]
  simp only [hstatus, ne_eq, not_true_eq_false, if_false, Stream.aqFault_eq_none hfault, hdrain, Bool.not_true, Bool.false_eq_true, hactive,
    false_and]
  rw [hkeep, State.modStream_modStream]

end

/-! ## The take and the start of an item (R318, R322, R323) -/

theorem exec_itemStart {s : State} {g : Nat} {k : Taken} (hg : s.site.unit = g) (hidle : (s.stream g).status = .idle)
    (htaken : (s.stream g).taken = some k) (hcharge : (s.stream g).charge = none) :
    exec .itemStart s = .next (s.modStream g (fun t => t.startItem k)) := by
  have harm : exec .itemStart s = execItemStart s := rfl
  rw [harm, execItemStart, hg]
  simp only [htaken, hidle, ne_eq, not_true_eq_false, if_false, hcharge]

/-- At the start S1 and S2 are the item's, and every other scalar register stands at its launch value. -/
theorem Stream.startItem_s (t : Stream) (k : Taken) : (t.startItem k).s.get 0 1 = k.s1 ∧ (t.startItem k).s.get 0 2 = k.s2
    ∧ ∀ n, n ≠ 1 → n ≠ 2 → (t.startItem k).s.get 0 n = t.sinit.get 0 n := by
  have hs : (t.startItem k).s = (t.sinit.put 1 k.s1).put 2 k.s2 := rfl
  rw [hs]
  refine ⟨?_, Tbl.get_put_same _ _ _ _, fun n h1 h2 => ?_⟩
  · rw [Tbl.get_put_ne _ _ _ _ _ (by decide), Tbl.get_put_same]
  · rw [Tbl.get_put_ne _ _ _ _ _ h2, Tbl.get_put_ne _ _ _ _ _ h1]

/-- The stage item `v` in slot `va` of stage queue `n` - 16 of launch `l`, as a stream takes it. -/
def Launch.stageItem (l : Launch) (n : Nat) (va : Word) (v : Nat) (seen : Tbl Nat) : Taken :=
  { code := codeAddr (l.stages.get 0 (n - 16)), s1 := BitVec.ofNat 64 v, s2 := BitVec.ofNat 64 (v / 2 ^ 64),
    task := { active := true, slot := va }, seen := seen }

/-- A stream that takes a stage item holds it. -/
theorem State.taken_takeStage (s : State) (g n : Nat) (va : Word) (v : Nat) (seen : Tbl Nat) :
    ((s.takeStage g n va v seen).stream g).taken = some ((s.launchOf (g / 4)).stageItem n va v seen) := by
  rw [State.takeStage, State.stream_modStream_same]
  rfl

/-- The manager serves the stream that has been idle longest from a stage queue whose slot can be read. -/
theorem exec_itemTake_stage {s u : State} {l g n : Nat} {p : Place} (hl : s.site.unit = l) (hfirst : s.firstIdle l = some g)
    (hpick : (s.launches.get {} l).pick (g % 4) = some n) (hstage : 16 ≤ n)
    (hread : s.marked (s.ownWho g) (((s.launches.get {} l).queue n).slot n ((s.launches.get {} l).queue n).head) (slotSize n) .read = .ok (p, u)) :
    exec .itemTake s = .next (u.takeStage g n (((s.launches.get {} l).queue n).slot n ((s.launches.get {} l).queue n).head)
      (Memory.getNat u.mem p.pa (slotSize n)) (headsSeen (u.known.headsOf (wordsOf p.pa (slotSize n))) g 3)) := by
  have harm : exec .itemTake s = execItemTake s := rfl
  rw [harm, execItemTake, hl]
  simp only [hfirst, hpick, hread]
  rw [if_neg (not_lt.2 hstage)]

/-! ## Barriers and shadows (R293, R341) -/

/-- Changes of streams leave launches and memory. -/
theorem State.foldl_modStream_keeps (ms : List Nat) (f : Stream → Stream) (s : State) :
    (ms.foldl (fun (u : State) m => u.modStream m f) s).launches = s.launches ∧ (ms.foldl (fun (u : State) m => u.modStream m f) s).mem = s.mem :=
  List.foldlRecOn ms _ (motive := fun u : State => u.launches = s.launches ∧ u.mem = s.mem) ⟨rfl, rfl⟩ fun _ hu _ _ => hu

/-- The group whose barrier has completed: its arrivals are clear, and its generation has gone up. -/
def Group.completed (x : Group) : Group := { x with arrived := [], waits := [], pend := 0, seen := .empty, gen := x.gen + 1 }

/-- The state in which the members of a group have been told that their barrier is done. -/
def State.tellArrived (s : State) (x : Group) : State :=
  x.arrived.foldl (fun (u : State) m => u.modStream m (fun t => t.barrierDone s.cycle x.seen)) s

/-- A group that has members reads as it is set. -/
theorem Launch.group_setGroup {l : Launch} {n : Nat} {x : Group} (hx : x.members ≠ []) : (l.setGroup n x).group n = x := by
  rw [Launch.setGroup, if_neg (by simpa using hx)]
  exact Tbl.get_put_same _ _ _ _

/-- A barrier at which every member has arrived and no counted byte is to come completes. -/
theorem exec_barrierComplete {s : State} {l n : Nat} {x : Group} (hl : s.site.unit = l) (hn : s.site.sub = n)
    (hx : (s.launches.get {} l).group n = x) (hmembers : x.members ≠ []) (harrived : ∀ m ∈ x.members, m ∈ x.arrived) (hpend : s.groupPend x = 0) :
    exec .barrierComplete s = .next { s.tellArrived x with launches := s.launches.mod {} l (fun l => l.setGroup n x.completed) } := by
  have harm : exec .barrierComplete s = execBarrierComplete s := rfl
  have hdone : (!x.members.isEmpty && x.members.all (fun m => x.arrived.contains m) && s.groupPend x == 0) = true := by
    simp only [Bool.and_eq_true, Bool.not_eq_true', List.isEmpty_eq_false_iff, List.all_eq_true, List.contains_iff_mem, beq_iff_eq]
    exact ⟨⟨hmembers, harrived⟩, hpend⟩
  rw [harm, execBarrierComplete, hl, hn, hx]
  dsimp only
  rw [if_pos hdone, ← (State.foldl_modStream_keeps x.arrived (fun t => t.barrierDone s.cycle x.seen) s).1]
  rfl

/-- The oldest broadcast on its way to a core reaches its shadow. -/
theorem exec_shadowUpdate {s : State} {c n : Nat} {v w : BitVec 32} {r : List (Nat × Nat × BitVec 32 × BitVec 32)} (hc : s.site.unit = c)
    (hms : s.shadowMs = (c, n, v, w) :: r) :
    exec .shadowUpdate s = .next
      (if Inc.better (s.incs.get {} n).cfg v (s.shadows.get (0, 0) (16 * c + n)).1 then
        { s with shadowMs := r, shadows := s.shadows.put (16 * c + n) (v, w) } else { s with shadowMs := r }) := by
  have harm : exec .shadowUpdate s = execShadowUpdate s := rfl
  have hfind : s.shadowMs.find? (fun m => m.1 == c) = some (c, n, v, w) := by rw [hms, List.find?_cons_of_pos (by simp)]
  have herase : s.shadowMs.erase (c, n, v, w) = r := by rw [hms, List.erase_cons_head]
  rw [harm, execShadowUpdate, hc]
  simp only [hfind, herase]

/-- Settles O45, event by event; the read of the slot at a take leaves the launches and the streams (`State.marked_keeps`). -/
theorem taskEvents : Obligations.TaskEvents := by
  refine ⟨fun s g hg hstatus hfault hdrain hactive => ?_, fun s g hg hstatus hfault hdrain => exec_itemEnd_undrained hg hstatus hfault hdrain,
    fun s g k hg hidle htaken hcharge => ?_, fun s l g n p u hl hfirst hpick hstage hlaunch hread => ?_,
    fun s l n x hl hn hx hmembers harrived hpend => ?_, fun s c n v w r hc hms => ?_⟩
  · refine ⟨_, exec_itemEnd_drained hg hstatus hfault hdrain hactive, ?_⟩
    rw [State.stream_modStream_same]
    exact ⟨rfl, rfl, rfl, rfl, fun k hk => State.perform_level hk, rfl⟩
  · refine ⟨_, exec_itemStart hg hidle htaken hcharge, ?_⟩
    rw [State.stream_modStream_same]
    obtain ⟨hs1, hs2, hs⟩ := (s.stream g).startItem_s k
    exact ⟨rfl, rfl, rfl, rfl, hs1, hs2, hs, fun _ => ⟨rfl, rfl, rfl⟩, rfl, rfl, rfl, rfl, rfl, rfl⟩
  · obtain ⟨haccessed, hlaunches⟩ := State.marked_keeps hread
    have hof : u.launchOf (g / 4) = s.launches.get {} l := by
      have hcore : (u.core (g / 4)).launch = some l := by rw [haccessed.core]; exact hlaunch
      rw [State.launchOf, hcore, hlaunches]
    refine ⟨_, _, exec_itemTake_stage hl hfirst hpick hstage hread, State.taken_takeStage .., ?_⟩
    rw [hof]
    exact ⟨rfl, rfl, rfl, rfl, rfl⟩
  · refine ⟨_, exec_barrierComplete hl hn hx hmembers harrived hpend, ?_⟩
    dsimp only
    rw [Tbl.get_mod_same, Launch.group_setGroup (x := x.completed) hmembers]
    exact ⟨rfl, rfl, rfl, (State.foldl_modStream_keeps x.arrived _ s).2⟩
  · intro old
    refine ⟨fun hbetter => ?_, fun hbetter => ?_⟩
    · refine ⟨_, exec_shadowUpdate hc hms, ?_⟩
      rw [if_pos hbetter]
      exact ⟨Tbl.get_put_same _ _ _ _, rfl⟩
    · refine ⟨_, exec_shadowUpdate hc hms, ?_⟩
      rw [if_neg (by rw [hbetter]; decide)]
      exact ⟨rfl, rfl⟩

end Sys2Proof.Machine
end

section
namespace Sys2Proof.Machine

/-! ## Elements of the block formats (R185, R186) -/

/-- An element whose magnitude fits reads back from its bits. -/
theorem BElem.ofBits_bits (four : Bool) {b : BElem} (hmag : b.mag < 2 ^ magBits four) : BElem.ofBits four (b.bits four) = b := by
  obtain ⟨s, n, m⟩ := b
  have hp := Nat.two_pow_pos (magBits four)
  have hbits : BElem.bits four ⟨s, n, m⟩ = 2 ^ magBits four * (2 * s.toNat + n.toNat) + m := by
    cases s <;> cases n <;> simp [BElem.bits, pow_succ] <;> omega
  simp only [BElem.ofBits, hbits, pow_succ, ← Nat.div_div_eq_div_mul, Nat.mul_add_div hp, Nat.mul_add_mod, Nat.div_eq_of_lt hmag,
    Nat.mod_eq_of_lt hmag]
  cases s <;> cases n <;> rfl

/-- No element stands for an infinity. -/
theorem BElem.value_ne_inf (four : Bool) (b : BElem) (ex : Exps) (neg : Bool) : b.value four ex ≠ .inf neg := by
  unfold BElem.value
  dsimp only
  split
  · exact nofun
  · split <;> exact nofun

/-- Settles O50: the bits named by R185 are those that `BElem.bits` writes, so the element read from them is the one of these fields. -/
theorem blockElementsDecode : Obligations.BlockElementsDecode := by
  intro four s sign m e0 e1 hm _ _ f bits e v
  have hmag : m < 2 ^ magBits four := by cases four <;> exact hm
  have hbits : bits = BElem.bits four ⟨s, sign, m⟩ := by cases four <;> rfl
  have hscale : f = magBits four := by cases four <;> rfl
  have hv : v = BElem.value four ⟨s, sign, m⟩ (e0, e1) := by
    show BElem.value four (BElem.ofBits four bits) (e0, e1) = _
    rw [hbits, BElem.ofBits_bits four hmag]
  refine ⟨fun he => ?_, fun he h0 => ?_, fun he h0 => ?_, fun neg => hv ▸ BElem.value_ne_inf four _ _ neg⟩
  · rw [hv]; exact if_pos he
  · rw [hv]; exact (if_neg he).trans (if_pos h0)
  · rw [hv, hscale]; exact (if_neg he).trans (if_neg h0)

/-! ## Infinities and saturation (R181, R182) -/

namespace Fmt

theorem overflow_le (f : Fmt) (mode : Nat) (neg : Bool) : f.overflow mode neg ≤ f.infBits := by
  unfold overflow
  split <;> (try split) <;> omega

/-- A number rounded in any mode leaves with its sign and a magnitude of at most infinity's. -/
theorem roundNum_magnitude (f : Fmt) (mode : Nat) (m e : Int) :
    ∃ k ≤ f.infBits, f.roundNum mode m e = k + (if decide (m < 0) then f.signBit else 0) := by
  have hmag (bits : Nat) (neg : Bool) : (if bits < f.infBits then bits else f.overflow mode neg) ≤ f.infBits := by
    split
    · omega
    · exact f.overflow_le mode neg
  exact ⟨_, hmag _ _, rfl⟩

theorem magnitude_mod_signBit (f : Fmt) {k : Nat} (hk : k < f.signBit) (b : Bool) : (k + (if b then f.signBit else 0)) % f.signBit = k := by
  cases b <;> simp [Nat.mod_eq_of_lt hk]

theorem signBit_le_iff (f : Fmt) {k : Nat} (hk : k < f.signBit) (b : Bool) : f.signBit ≤ k + (if b then f.signBit else 0) ↔ b = true := by
  cases b <;> simp [hk]

/-- Exactly the magnitude of infinity reads as one, with its sign. -/
theorem decode_eq_inf_iff (f : Fmt) {k : Nat} (hk : k < f.signBit) (b neg : Bool) :
    f.decode (k + (if b then f.signBit else 0)) = .inf neg ↔ k = f.infBits ∧ neg = b := by
  have hmod := f.magnitude_mod_signBit hk b
  have hsign := f.signBit_le_iff hk b
  generalize hx : k + (if b then f.signBit else 0) = x at hmod hsign
  have hlt : x < 2 * f.signBit := by split at hx <;> omega
  rw [mod_signBit] at hmod
  by_cases hones : f.expField x = 2 ^ f.ebits - 1
  case pos =>
    have hfrac : f.fracField x = 0 ↔ k = f.infBits := by rw [← hmod, hones, ← infBits]; omega
    have hneg : decide (f.signBit ≤ x) = b := by simp [hsign]
    rw [decode_of_ones hlt hones, hneg, ← hfrac]
    by_cases h0 : f.fracField x = 0
    · simp only [h0, if_true, FVal.inf.injEq, true_and, eq_comm]
    · simp [h0]
  case neg =>
    have hne : k ≠ f.infBits := fun h => absurd (magnitude_lt_infBits hones) (by omega)
    rw [decode_of_ne_ones hlt hones]
    split <;> simp [hne]

/-- The canonical NaN reads as a NaN. -/
theorem decode_nanBits {f : Fmt} (hf : 0 < f.fbits) : f.decode f.nanBits = .nan := by
  have hlt := nanBits_lt_signBit hf
  have hhalf : 2 ^ (f.fbits - 1) < 2 ^ f.fbits := Nat.pow_lt_pow_right (by omega) (by omega)
  have hpos := Nat.two_pow_pos (f.fbits - 1)
  have hexp : f.expField f.nanBits = 2 ^ f.ebits - 1 := by
    rw [expField, nanBits, infBits, Nat.add_comm, Nat.add_mul_div_right _ _ (Nat.two_pow_pos _), Nat.div_eq_of_lt hhalf, Nat.zero_add]
    exact Nat.mod_eq_of_lt (Nat.sub_lt (Nat.two_pow_pos _) Nat.one_pos)
  have hfrac : f.fracField f.nanBits = 2 ^ (f.fbits - 1) := by
    rw [fracField, nanBits, infBits, Nat.add_comm, Nat.add_mul_mod_self_right, Nat.mod_eq_of_lt hhalf]
  rw [decode_of_ones (by omega) hexp, hfrac, if_neg (by omega)]

/-- A result in any mode is the canonical NaN, or a magnitude of at most infinity's with a sign; .SAT makes infinity's the one below it. -/
theorem round_sat_cases {f : Fmt} (hinf : 0 < f.infBits) (mode : Nat) (x : FVal) :
    (f.round mode false x = f.nanBits ∧ f.round mode true x = f.nanBits)
    ∨ ∃ k ≤ f.infBits, ∃ b : Bool, f.round mode false x = k + (if b then f.signBit else 0)
        ∧ f.round mode true x = (if k = f.infBits then f.infBits - 1 else k) + (if b then f.signBit else 0) := by
  match x with
  | .nan => exact .inl ⟨rfl, rfl⟩
  | .inf b => exact .inr ⟨f.infBits, le_rfl, b, rfl, by rw [if_pos rfl]; rfl⟩
  | .zero b => exact .inr ⟨0, Nat.zero_le _, b, (Nat.zero_add _).symm, by rw [if_neg (by omega), Nat.zero_add]; rfl⟩
  | .num m e =>
    obtain ⟨k, hk, hround⟩ := f.roundNum_magnitude mode m e
    refine .inr ⟨k, hk, decide (m < 0), hround, ?_⟩
    have hmod := f.magnitude_mod_signBit (lt_of_le_of_lt hk f.infBits_lt_signBit) (decide (m < 0))
    simp only [round, Bool.true_and, hround, hmod, beq_iff_eq]
    by_cases h : k = f.infBits
    · rw [if_pos h, if_pos h]; omega
    · rw [if_neg h, if_neg h]

/-- No finite datum has a magnitude above the greatest one below infinity's. -/
theorem le_of_decode_num {f : Fmt} {z : Nat} (hz : z < f.signBit) {m k : Int} (h : f.decode z = .num m k) : z ≤ f.infBits - 1 := by
  have hfinite : f.Finite z := ⟨h ▸ nofun, fun b => h ▸ nofun⟩
  have hlt := magnitude_lt_infBits ((finite_iff (by omega)).1 hfinite)
  rw [← mod_signBit, Nat.mod_eq_of_lt hz] at hlt
  omega

end Fmt

/-- Settles O49: a result is the canonical NaN or a signed magnitude (`Fmt.round_sat_cases`), and a signed magnitude reads as an infinity
exactly where it is infinity's (`Fmt.decode_eq_inf_iff`). -/
theorem satReplacesInfinities : Obligations.SatReplacesInfinities := by
  intro f hf mode _ x y
  have hfields : 0 < f.fbits ∧ 0 < f.infBits := by
    simp only [List.mem_cons, List.not_mem_nil, or_false] at hf
    rcases hf with rfl | rfl | rfl <;> decide
  have hlast : ∀ z < f.signBit, (∃ m k, f.decode z = .num m k) → z ≤ f.infBits - 1 := fun z hz ⟨_, _, h⟩ => Fmt.le_of_decode_num hz h
  rcases Fmt.round_sat_cases hfields.2 mode x with ⟨hy, hsat⟩ | ⟨k, hk, b, hy, hsat⟩
  · have hnan : f.decode y = .nan := (congrArg f.decode hy).trans (Fmt.decode_nanBits hfields.1)
    exact ⟨fun neg h => absurd (hnan.symm.trans h) nofun, fun _ => hsat.trans hy.symm, rfl, hlast⟩
  · have hinf (neg : Bool) : f.decode y = .inf neg ↔ k = f.infBits ∧ neg = b := by
      rw [show y = _ from hy]; exact f.decode_eq_inf_iff (lt_of_le_of_lt hk f.infBits_lt_signBit) b neg
    refine ⟨fun neg h => ?_, fun h => ?_, rfl, hlast⟩
    · obtain ⟨hk, rfl⟩ := (hinf neg).1 h
      rw [hsat, if_pos hk]
    · have hne : k ≠ f.infBits := fun hk => h b ((hinf b).2 ⟨hk, rfl⟩)
      rw [hsat, if_neg hne]
      exact hy.symm

end Sys2Proof.Machine
end

section
namespace Sys2Proof.Machine

/-! ## Rows as elements (R201) -/

/-- An element in the row read as a number. -/
theorem elemOf_eq (w : Nat) (x : Row) (i : Nat) : elemOf w x i = x.toNat / 2 ^ (w * i) % 2 ^ w := by
  rw [elemOf, BitVec.toNat_ushiftRight, Nat.shiftRight_eq_div_pow]

theorem elemOf_lt (w : Nat) (x : Row) (i : Nat) : elemOf w x i < 2 ^ w := Nat.mod_lt _ (Nat.two_pow_pos w)

theorem testBit_elemOf (w : Nat) (x : Row) (i b : Nat) : (elemOf w x i).testBit b = (decide (b < w) && x.getLsbD (w * i + b)) := by
  rw [elemOf, Nat.testBit_mod_two_pow, BitVec.testBit_toNat, BitVec.getLsbD_ushiftRight]

/-- Digits gathered from the last down make the number of these digits. -/
theorem foldr_digits (w : Nat) (g : Nat → Nat) (n init : Nat) :
    (List.range n).foldr (fun i a => a * 2 ^ w + g i) init = init * 2 ^ (w * n) + packed w g n := by
  induction n generalizing init with
  | zero => simp [packed]
  | succ n ih =>
    rw [List.range_succ, List.foldr_append, List.foldr_cons, List.foldr_nil, ih, packed_succ, Nat.mul_succ, pow_add]
    ring

/-- A number of digits that fits a row has them as its elements. -/
theorem elemOf_packed {w n i : Nat} {g : Nat → Nat} (hg : ∀ j, g j < 2 ^ w) (hn : w * n ≤ 512) (hi : i < n) :
    elemOf w (BitVec.ofNat 512 (packed w g n)) i = g i := by
  have hlt : packed w g n < 2 ^ 512 := lt_of_lt_of_le (packed_lt hg n) (Nat.pow_le_pow_right (by decide) hn)
  rw [elemOf_eq, BitVec.toNat_ofNat, Nat.mod_eq_of_lt hlt, packed_digit hg hi]

theorem rowOf_eq (w n : Nat) (f : Nat → Nat) : rowOf w n f = BitVec.ofNat 512 (packed w (fun i => f i % 2 ^ w) n) := by
  rw [rowOf, foldr_digits, Nat.zero_mul, Nat.zero_add]

/-- An element of a row of elements. -/
theorem elemOf_rowOf {w n i : Nat} (f : Nat → Nat) (hn : w * n ≤ 512) (hi : i < n) : elemOf w (rowOf w n f) i = f i % 2 ^ w := by
  rw [rowOf_eq, elemOf_packed (fun j => Nat.mod_lt _ (Nat.two_pow_pos w)) hn hi]

/-- The elements of a TYPE fill a row. -/
theorem tyBits_mul_tyEpr (ty : Nat) : tyBits ty * tyEpr ty = 512 := by
  unfold tyEpr tyBits
  split <;> rfl

theorem tyBits_pos (ty : Nat) : 0 < tyBits ty := by
  unfold tyBits
  split <;> decide

theorem elemOf_rowOfList (ty : Nat) (xs : List Nat) {i : Nat} (hi : i < tyEpr ty) :
    elemOf (tyBits ty) (rowOfList ty xs) i = xs.getD i 0 % 2 ^ tyBits ty :=
  elemOf_rowOf _ (tyBits_mul_tyEpr ty).le hi

/-! ## Integers of a width (R178) -/

theorem intBits_cast (w : Nat) (z : Int) : (intBits w z : Int) = z % 2 ^ w :=
  Int.toNat_of_nonneg (Int.emod_nonneg _ (by positivity))

theorem intBits_lt (w : Nat) (z : Int) : intBits w z < 2 ^ w := by
  have := Int.emod_lt_of_pos z (show (0 : Int) < 2 ^ w by positivity)
  rw [← intBits_cast] at this
  exact_mod_cast this

theorem intBits_mod (w : Nat) (z : Int) : intBits w z % 2 ^ w = intBits w z := Nat.mod_eq_of_lt (intBits_lt w z)

/-- The bits of an integer are those of any number that it equals modulo 2^w. -/
theorem intBits_of_modEq {w : Nat} {z : Int} {n : Nat} (h : z ≡ n [ZMOD 2 ^ w]) : intBits w z = n % 2 ^ w := by
  have hcast : (intBits w z : Int) = (n % 2 ^ w : Nat) := by rw [intBits_cast]; push_cast; exact h
  exact_mod_cast hcast

/-- What bits read as differs from them by a multiple of 2^w. -/
theorem intOf_modEq (w : Nat) (signed : Bool) (x : Nat) : intOf w signed x ≡ x [ZMOD 2 ^ w] := by
  have hx : ((x % 2 ^ w : Nat) : Int) ≡ x [ZMOD 2 ^ w] := by push_cast; exact Int.mod_modEq _ _
  unfold intOf
  dsimp only
  split
  · exact (Int.modEq_sub_modulus_iff.2 hx.symm).symm
  · exact hx

/-- 2^w is twice the weight of the sign bit. -/
theorem two_pow_eq_double {w : Nat} (hw : 0 < w) : 2 ^ w = 2 * 2 ^ (w - 1) := by
  rw [← pow_succ', Nat.sub_add_cancel hw]

theorem intOf_range {w : Nat} (hw : 0 < w) (signed : Bool) (x : Nat) : intMin w signed ≤ intOf w signed x ∧ intOf w signed x ≤ intMax w signed := by
  have hlt : x % 2 ^ w < 2 ^ w := Nat.mod_lt _ (Nat.two_pow_pos w)
  have hpow := two_pow_eq_double hw
  have hcast : (2 : Int) ^ w = (2 ^ w : Nat) := by push_cast; rfl
  have hcast' : (2 : Int) ^ (w - 1) = (2 ^ (w - 1) : Nat) := by push_cast; rfl
  unfold intOf intMin intMax
  rw [hcast, hcast']
  cases signed
  · simp; omega
  · simp only [Bool.true_and, decide_eq_true_eq, if_true]
    split <;> omega

/-- An integer in the range of a type reads back from its bits. -/
theorem intOf_intBits {w : Nat} (hw : 0 < w) {signed : Bool} {z : Int} (hmin : intMin w signed ≤ z) (hmax : z ≤ intMax w signed) :
    intOf w signed (intBits w z) = z := by
  obtain ⟨hlow, hhigh⟩ := intOf_range hw signed (intBits w z)
  have hmod : intOf w signed (intBits w z) ≡ z [ZMOD 2 ^ w] :=
    (intOf_modEq w signed _).trans (by rw [intBits_cast]; exact Int.mod_modEq _ _)
  have hspan : intMax w signed - intMin w signed < 2 ^ w := by
    have hpow : (2 : Int) ^ w = 2 * 2 ^ (w - 1) := by exact_mod_cast two_pow_eq_double hw
    unfold intMin intMax
    cases signed <;> simp only [Bool.false_eq_true, if_true, if_false] <;> omega
  obtain ⟨k, hk⟩ := hmod.dvd
  have hpos : (0 : Int) < 2 ^ w := by positivity
  have hk0 : k = 0 := by
    rcases lt_trichotomy k 0 with h | h | h
    · nlinarith
    · exact h
    · nlinarith
  rw [hk0] at hk
  omega

theorem clampInt_range {w : Nat} (hw : 0 < w) (signed : Bool) (z : Int) :
    intMin w signed ≤ clampInt w signed z ∧ clampInt w signed z ≤ intMax w signed := by
  obtain ⟨hlow, hhigh⟩ := intOf_range hw signed 0
  unfold clampInt
  omega

/-- An integer clamped reads back as it was clamped. -/
theorem intOf_clamped {w : Nat} (hw : 0 < w) (signed : Bool) (z : Int) : intOf w signed (intBits w (clampInt w signed z)) = clampInt w signed z :=
  intOf_intBits hw (clampInt_range hw signed z).1 (clampInt_range hw signed z).2

/-- Clamping leaves what is in range. -/
theorem clampInt_of_range {w : Nat} {signed : Bool} {z : Int} (hmin : intMin w signed ≤ z) (hmax : z ≤ intMax w signed) : clampInt w signed z = z := by
  unfold clampInt
  omega

end Sys2Proof.Machine
end

section
namespace Sys2Proof.Machine

/-! ## Elements of a form's result (R201, R205) -/

theorem tyF_integer {ty : Nat} (h : ty ≤ 5) : tyF ty = false := decide_eq_false (by omega)
theorem tyF_float {ty : Nat} (h : 6 ≤ ty) (h' : ty ≤ 8) : tyF ty = true := decide_eq_true ⟨h, h'⟩

/-- A floating-point TYPE and its format have the same width (R179). -/
theorem tyFmt_width {ty : Nat} (h : 6 ≤ ty) (h' : ty ≤ 8) : 0 < (tyFmt ty).fbits ∧ 2 * (tyFmt ty).signBit = 2 ^ tyBits ty := by
  interval_cases ty <;> exact ⟨by decide, rfl⟩

/-- The canonical NaN fits its TYPE. -/
theorem nanBits_mod_tyBits {ty : Nat} (h : 6 ≤ ty) (h' : ty ≤ 8) : (tyFmt ty).nanBits % 2 ^ tyBits ty = (tyFmt ty).nanBits := by
  obtain ⟨hf, hw⟩ := tyFmt_width h h'
  have := Fmt.nanBits_lt_signBit hf
  exact Nat.mod_eq_of_lt (by omega)

/-- Element `e` of row `r` of a form's result. -/
def outElem (i : Instr) (v : Tv) (x : VSrc) (r e : Nat) : Nat := elemOf (tyBits v.ty.toNat) (vrow i v x r).data e
/-- Element `e` of row `r` of a source, in the TYPE of the form. -/
def srcElem (v : Tv) (t : Tbl Line) (r e : Nat) : Nat := elemOf (tyBits v.ty.toNat) (t.get {} r).data e

section
variable {h : Hdr} {v : Tv} {x : VSrc} {r e : Nat} (he : e < tyEpr v.ty.toNat)
include he

/-- A result row given element by element. -/
theorem outElem_of_row {i : Instr} {f : Nat → Nat} (hrow : (vrow i v x r).data = rowOf (tyBits v.ty.toNat) (tyEpr v.ty.toNat) f) :
    outElem i v x r e = f e % 2 ^ tyBits v.ty.toNat := by
  rw [outElem, hrow, elemOf_rowOf f (tyBits_mul_tyEpr _).le he]

/-- An elementwise form gives its operation on the elements at the same place. -/
theorem outElem_elemOp {i : Instr} (hrow : (vrow i v x r).data = rowOf (tyBits v.ty.toNat) (tyEpr v.ty.toNat)
      (fun e => elemOp i v (srcElem v x.a r e) (srcElem v x.b r e) (srcElem v x.t r e))) :
    outElem i v x r e = elemOp i v (srcElem v x.a r e) (srcElem v x.b r e) (srcElem v x.t r e) % 2 ^ tyBits v.ty.toNat :=
  outElem_of_row he hrow

/-! ### Integer forms (R178, R205, R206) -/

/-- An elementwise form whose operation is an integer's bits. -/
theorem outElem_intBits {i : Instr} {z : Int} (hrow : (vrow i v x r).data = rowOf (tyBits v.ty.toNat) (tyEpr v.ty.toNat)
      (fun e => elemOp i v (srcElem v x.a r e) (srcElem v x.b r e) (srcElem v x.t r e)))
    (hop : elemOp i v (srcElem v x.a r e) (srcElem v x.b r e) (srcElem v x.t r e) = intBits (tyBits v.ty.toNat) z) :
    outElem i v x r e = intBits (tyBits v.ty.toNat) z := by
  rw [outElem_elemOp he hrow, hop, intBits_mod]

/-- Without .SAT, the integer arithmetic wraps. -/
theorem integerForms_wrap (hty : v.ty.toNat ≤ 5) (hsat : v.sat = 0) :
    outElem (.vaddI h v) v x r e = (srcElem v x.a r e + srcElem v x.b r e) % 2 ^ tyBits v.ty.toNat
    ∧ outElem (.vsubI h v) v x r e = (srcElem v x.a r e + 2 ^ tyBits v.ty.toNat - srcElem v x.b r e) % 2 ^ tyBits v.ty.toNat
    ∧ outElem (.vmulI h v) v x r e = (srcElem v x.a r e * srcElem v x.b r e) % 2 ^ tyBits v.ty.toNat
    ∧ outElem (.vneg h v) v x r e = (2 ^ tyBits v.ty.toNat - srcElem v x.a r e) % 2 ^ tyBits v.ty.toNat := by
  have hires (z : Int) : ires v z = intBits (tyBits v.ty.toNat) z := by
    rw [ires, if_neg (by rw [hsat]; decide)]
  have hneg : elemOp (.vneg h v) v (srcElem v x.a r e) (srcElem v x.b r e) (srcElem v x.t r e) = ires v (-(ival v (srcElem v x.a r e))) := by
    rw [elemOp, tyF_integer hty]; rfl
  have ha : ival v (srcElem v x.a r e) ≡ srcElem v x.a r e [ZMOD 2 ^ tyBits v.ty.toNat] := intOf_modEq _ _ _
  have hb : ival v (srcElem v x.b r e) ≡ srcElem v x.b r e [ZMOD 2 ^ tyBits v.ty.toNat] := intOf_modEq _ _ _
  have halt : srcElem v x.a r e ≤ 2 ^ tyBits v.ty.toNat := (elemOf_lt _ _ _).le
  have hblt : srcElem v x.b r e ≤ 2 ^ tyBits v.ty.toNat := (elemOf_lt _ _ _).le
  have hself : (2 : Int) ^ tyBits v.ty.toNat ≡ 0 [ZMOD 2 ^ tyBits v.ty.toNat] := Int.emod_self
  refine ⟨?_, ?_, ?_, ?_⟩
  · rw [outElem_intBits he (i := .vaddI h v) rfl (hires _)]
    exact intBits_of_modEq (by push_cast; exact ha.add hb)
  · rw [outElem_intBits he (i := .vsubI h v) rfl (hires _)]
    refine intBits_of_modEq ?_
    rw [Nat.cast_sub (by omega)]
    push_cast
    simpa only [add_zero] using (ha.add hself.symm).sub hb
  · rw [outElem_intBits he (i := .vmulI h v) rfl (hires _)]
    exact intBits_of_modEq (by push_cast; exact ha.mul hb)
  · rw [outElem_intBits he (i := .vneg h v) rfl (hneg.trans (hires _))]
    refine intBits_of_modEq ?_
    rw [Nat.cast_sub halt]
    push_cast
    simpa only [zero_sub] using hself.symm.sub ha

/-- With .SAT, it clamps. -/
theorem integerForms_clamp (hty : v.ty.toNat ≤ 5) (hsat : v.sat = 1) :
    ival v (outElem (.vaddI h v) v x r e) = clampInt (tyBits v.ty.toNat) (tySigned v.ty.toNat) (ival v (srcElem v x.a r e) + ival v (srcElem v x.b r e))
    ∧ ival v (outElem (.vsubI h v) v x r e) = clampInt (tyBits v.ty.toNat) (tySigned v.ty.toNat) (ival v (srcElem v x.a r e) - ival v (srcElem v x.b r e))
    ∧ ival v (outElem (.vmulI h v) v x r e) = clampInt (tyBits v.ty.toNat) (tySigned v.ty.toNat) (ival v (srcElem v x.a r e) * ival v (srcElem v x.b r e))
    ∧ ival v (outElem (.vneg h v) v x r e) = clampInt (tyBits v.ty.toNat) (tySigned v.ty.toNat) (-ival v (srcElem v x.a r e))
    ∧ ival v (outElem (.vabs h v) v x r e) = clampInt (tyBits v.ty.toNat) (tySigned v.ty.toNat) (ival v (srcElem v x.a r e)).natAbs := by
  have hires (z : Int) : ires v z = intBits (tyBits v.ty.toNat) (clampInt (tyBits v.ty.toNat) (tySigned v.ty.toNat) z) := by
    rw [ires, if_pos hsat]
  have hclamp {i : Instr} {z : Int} (hi : outElem i v x r e = intBits (tyBits v.ty.toNat) (clampInt (tyBits v.ty.toNat) (tySigned v.ty.toNat) z)) :
      ival v (outElem i v x r e) = clampInt (tyBits v.ty.toNat) (tySigned v.ty.toNat) z := by
    rw [hi]; exact intOf_clamped (tyBits_pos _) _ _
  have hneg : elemOp (.vneg h v) v (srcElem v x.a r e) (srcElem v x.b r e) (srcElem v x.t r e) = ires v (-(ival v (srcElem v x.a r e))) := by
    rw [elemOp, tyF_integer hty]; rfl
  have habs : elemOp (.vabs h v) v (srcElem v x.a r e) (srcElem v x.b r e) (srcElem v x.t r e) = ires v (ival v (srcElem v x.a r e)).natAbs := by
    rw [elemOp, tyF_integer hty]; rfl
  exact ⟨hclamp (outElem_intBits he rfl (hires _)), hclamp (outElem_intBits he rfl (hires _)), hclamp (outElem_intBits he rfl (hires _)),
    hclamp (outElem_intBits he rfl (hneg.trans (hires _))), hclamp (outElem_intBits he rfl (habs.trans (hires _)))⟩

/-- Minimum and maximum are exact: they lie in the range of their operands. -/
theorem minMaxI_exact :
    ival v (outElem (.vminI h v) v x r e) = min (ival v (srcElem v x.a r e)) (ival v (srcElem v x.b r e))
    ∧ ival v (outElem (.vmaxI h v) v x r e) = max (ival v (srcElem v x.a r e)) (ival v (srcElem v x.b r e)) := by
  have ha := intOf_range (tyBits_pos v.ty.toNat) (tySigned v.ty.toNat) (srcElem v x.a r e)
  have hb := intOf_range (tyBits_pos v.ty.toNat) (tySigned v.ty.toNat) (srcElem v x.b r e)
  rw [outElem_intBits he (i := .vminI h v) rfl rfl, outElem_intBits he (i := .vmaxI h v) rfl rfl]
  unfold ival
  exact ⟨intOf_intBits (tyBits_pos _) (le_min ha.1 hb.1) (min_le_of_left_le ha.2), intOf_intBits (tyBits_pos _) (le_max_of_le_left ha.1) (max_le ha.2 hb.2)⟩

/-- Shifts of bits: zeros come in, and nothing is left of an element shifted by its width or more. -/
theorem shiftForms :
    outElem (.vshl h v) v x r e = (if tyBits v.ty.toNat ≤ srcElem v x.b r e then 0 else srcElem v x.a r e * 2 ^ srcElem v x.b r e % 2 ^ tyBits v.ty.toNat)
    ∧ outElem (.vshrN h v) v x r e = (if tyBits v.ty.toNat ≤ srcElem v x.b r e then 0 else srcElem v x.a r e / 2 ^ srcElem v x.b r e) := by
  refine ⟨?_, ?_⟩
  · refine (outElem_elemOp he (i := .vshl h v) rfl).trans (Nat.mod_eq_of_lt ?_)
    simp only [elemOp]
    split
    · exact Nat.two_pow_pos _
    · exact Nat.mod_lt _ (Nat.two_pow_pos _)
  · refine (outElem_elemOp he (i := .vshrN h v) rfl).trans (Nat.mod_eq_of_lt ?_)
    simp only [elemOp]
    split
    · exact Nat.two_pow_pos _
    · exact lt_of_le_of_lt (Nat.div_le_self _ _) (elemOf_lt _ _ _)

/-- The arithmetic shift divides by a power of two, towards minus infinity; from the width on it gives copies of the sign. -/
theorem shiftRightI :
    ival v (outElem (.vshrI h v) v x r e) = ival v (srcElem v x.a r e) / 2 ^ (min (srcElem v x.b r e) (tyBits v.ty.toNat)) := by
  obtain ⟨hlow, hhigh⟩ := intOf_range (tyBits_pos v.ty.toNat) (tySigned v.ty.toNat) (srcElem v x.a r e)
  rw [outElem_intBits he (i := .vshrI h v) rfl rfl]
  unfold ival
  have hpow : (0 : Int) < 2 ^ (min (srcElem v x.b r e) (tyBits v.ty.toNat)) := by positivity
  have hmin : intMin (tyBits v.ty.toNat) (tySigned v.ty.toNat) ≤ 0 := by
    unfold intMin; split
    · exact neg_nonpos.2 (by positivity)
    · exact le_rfl
  have hmax : 0 ≤ intMax (tyBits v.ty.toNat) (tySigned v.ty.toNat) := by
    unfold intMax; split
    · exact sub_nonneg.2 (one_le_pow₀ (by decide))
    · exact sub_nonneg.2 (one_le_pow₀ (by decide))
  refine intOf_intBits (tyBits_pos _) (Int.le_ediv_of_mul_le hpow ?_) ((Int.ediv_le_iff_le_mul hpow).2 ?_)
  · nlinarith
  · nlinarith

/-- Whole elements moved: from the place that the second source names, or from the S register. -/
theorem moveForms :
    outElem (.vpermT h v) v x r e = srcElem v x.a r (srcElem v x.b r e % tyEpr v.ty.toNat)
    ∧ outElem (.vbcastS h v) v x r e = x.sval.toNat % 2 ^ tyBits v.ty.toNat :=
  ⟨(outElem_of_row he (i := .vpermT h v) rfl).trans (Nat.mod_eq_of_lt (elemOf_lt _ _ _)), outElem_of_row he (i := .vbcastS h v) rfl⟩

/-- VPERM with an immediate: rotated, reversed, exchanged along one bit of the index, or one element everywhere. -/
theorem vpermImm_moves :
    outElem (.vpermImm h v) v x r e
      = srcElem v x.a r (permIndex (v.imm.extractLsb' 8 3).toNat (v.imm.extractLsb' 0 8).toNat (tyEpr v.ty.toNat) e) :=
  (outElem_of_row he rfl).trans (Nat.mod_eq_of_lt (elemOf_lt _ _ _))

/-! ### Floating-point forms (R205) -/

/-- The floating-point absolute value and negation. -/
theorem floatSigns (hty : tyF v.ty.toNat = true) :
    outElem (.vabs h v) v x r e = fres v (fval v (srcElem v x.a r e)).abs % 2 ^ tyBits v.ty.toNat
    ∧ outElem (.vneg h v) v x r e = fres v (fval v (srcElem v x.a r e)).negate % 2 ^ tyBits v.ty.toNat := by
  rw [outElem_elemOp he (i := .vabs h v) rfl, outElem_elemOp he (i := .vneg h v) rfl]
  simp only [elemOp, hty, if_true, and_self]

/-! ### The transcendental unit (R196) -/

/-- A transcendental form gives its function at each element. -/
theorem outElem_unit {i : Instr} {f : XFun} (hfun : xfunOf i = some f) :
    outElem i v x r e = f.eval (tyFmt v.ty.toNat) v.rnd.toNat (v.sat == 1) (fval v (srcElem v x.a r e)) % 2 ^ tyBits v.ty.toNat := by
  have hrow : (vrow i v x r).data = rowOf (tyBits v.ty.toNat) (tyEpr v.ty.toNat)
      (fun e => f.eval (tyFmt v.ty.toNat) v.rnd.toNat (v.sat == 1) (fval v (srcElem v x.a r e))) := by
    unfold xfunOf at hfun
    split at hfun
    all_goals cases hfun
    all_goals rfl
  exact outElem_of_row he hrow

/-- A NaN gives the canonical NaN in every form of the unit. -/
theorem unitForms_nan {i : Instr} (hi : i ∈ unitForms h v) (hty : 6 ≤ v.ty.toNat) (hty' : v.ty.toNat ≤ 8) (hd : fval v (srcElem v x.a r e) = .nan) :
    outElem i v x r e = (tyFmt v.ty.toNat).nanBits := by
  obtain ⟨f, hfun⟩ := Option.isSome_iff_exists.1 (unitForms_spec hi).2.1
  rw [outElem_unit he hfun, hd]
  exact nanBits_mod_tyBits hty hty'

/-- The limits of the functions at the infinities. -/
theorem unitForms_inf (hty : 6 ≤ v.ty.toNat) (hty' : v.ty.toNat ≤ 8) {n : Bool} (hd : fval v (srcElem v x.a r e) = .inf n) :
    let rd (y : FVal) : Nat := fres v y % 2 ^ tyBits v.ty.toNat
    let nan := (tyFmt v.ty.toNat).nanBits
    outElem (.vexp h v) v x r e = (if n then 0 else rd (.inf false)) ∧ outElem (.vlog h v) v x r e = (if n then nan else rd (.inf false))
    ∧ outElem (.vsin h v) v x r e = nan ∧ outElem (.vcos h v) v x r e = nan ∧ outElem (.vtanh h v) v x r e = rd (.num (if n then -1 else 1) 0)
    ∧ outElem (.vrsq h v) v x r e = (if n then nan else 0) ∧ outElem (.vrcp h v) v x r e = rd (.zero n)
    ∧ outElem (.vsig h v) v x r e = (if n then 0 else rd (.num 1 0)) := by
  have hnan := nanBits_mod_tyBits hty hty'
  rw [outElem_unit he (i := .vexp h v) rfl, outElem_unit he (i := .vlog h v) rfl, outElem_unit he (i := .vsin h v) rfl,
    outElem_unit he (i := .vcos h v) rfl, outElem_unit he (i := .vtanh h v) rfl, outElem_unit he (i := .vrsq h v) rfl,
    outElem_unit he (i := .vrcp h v) rfl, outElem_unit he (i := .vsig h v) rfl, hd]
  cases n <;> simp [XFun.eval, fres, hnan, Fmt.round]

/-- The values at the zeros. -/
theorem unitForms_zero {n : Bool} (hd : fval v (srcElem v x.a r e) = .zero n) :
    let rd (y : FVal) : Nat := fres v y % 2 ^ tyBits v.ty.toNat
    outElem (.vexp h v) v x r e = rd (.num 1 0) ∧ outElem (.vlog h v) v x r e = rd (.inf true) ∧ outElem (.vsin h v) v x r e = rd (.zero n)
    ∧ outElem (.vcos h v) v x r e = rd (.num 1 0) ∧ outElem (.vtanh h v) v x r e = rd (.zero n) ∧ outElem (.vrsq h v) v x r e = rd (.inf n)
    ∧ outElem (.vrcp h v) v x r e = rd (.inf n) ∧ outElem (.vsig h v) v x r e = rd (.num 1 (-1)) := by
  rw [outElem_unit he (i := .vexp h v) rfl, outElem_unit he (i := .vlog h v) rfl, outElem_unit he (i := .vsin h v) rfl,
    outElem_unit he (i := .vcos h v) rfl, outElem_unit he (i := .vtanh h v) rfl, outElem_unit he (i := .vrsq h v) rfl,
    outElem_unit he (i := .vrcp h v) rfl, outElem_unit he (i := .vsig h v) rfl, hd]
  exact ⟨rfl, rfl, rfl, rfl, rfl, rfl, rfl, rfl⟩

/-- Neither the logarithm nor the reciprocal root has a value below zero. -/
theorem unitForms_negative (hty : 6 ≤ v.ty.toNat) (hty' : v.ty.toNat ≤ 8) {m k : Int} (hd : fval v (srcElem v x.a r e) = .num m k) (hm : m < 0) :
    outElem (.vlog h v) v x r e = (tyFmt v.ty.toNat).nanBits ∧ outElem (.vrsq h v) v x r e = (tyFmt v.ty.toNat).nanBits := by
  have hnan := nanBits_mod_tyBits hty hty'
  rw [outElem_unit he (i := .vlog h v) rfl, outElem_unit he (i := .vrsq h v) rfl, hd]
  simp only [XFun.eval, if_pos hm, hnan, and_self]

/-- The logarithm of 1 is +0. -/
theorem vlog_one {j : Nat} (hj : j ≤ 23) (hd : fval v (srcElem v x.a r e) = .num (2 ^ j) (-j)) : outElem (.vlog h v) v x r e = 0 := by
  have hfix : fixOf 200 (2 ^ j) (-j) = 2 ^ 200 := by
    rw [fixOf, if_pos (by omega), ← pow_add]
    congr 1
    omega
  have hpos : ¬ (2 : Int) ^ j < 0 := not_lt.2 (by positivity)
  rw [outElem_unit he (i := .vlog h v) rfl, hd]
  simp only [XFun.eval, if_neg hpos, if_pos hfix]
  exact Nat.zero_mod _

/-- The reciprocal is exact where it is a finite binary fraction. -/
theorem vrcp_exact {m k : Int} (hd : fval v (srcElem v x.a r e) = .num m k) (hdvd : 2 ^ 64 % m.natAbs = 0) :
    outElem (.vrcp h v) v x r e = fres v (.num (m.sign * (2 * (2 ^ 64 / m.natAbs : Nat))) (-65 - k)) % 2 ^ tyBits v.ty.toNat := by
  have hm : m ≠ 0 := by rintro rfl; simp at hdvd
  have hq : 2 ^ 64 / m.natAbs * m.natAbs = 2 ^ 64 := Nat.div_mul_cancel (Nat.dvd_of_mod_eq_zero hdvd)
  have hvalue : rcpValue m k = .num (m.sign * (2 * (2 ^ 64 / m.natAbs : Nat))) (-65 - k) := by
    simp only [rcpValue, if_pos hq, Nat.add_zero, FVal.num.injEq, and_true]
    rcases lt_or_gt_of_ne hm with h | h
    · rw [if_pos h, Int.sign_eq_neg_one_of_neg h]; push_cast; ring
    · rw [if_neg (by omega), Int.sign_eq_one_of_pos h]; push_cast; ring
  rw [outElem_unit he (i := .vrcp h v) rfl, hd, XFun.eval, hvalue]
  rfl

end

end Sys2Proof.Machine
end

section
namespace Sys2Proof.Machine

/-! ## Selection and comparison (R160, R206) -/

/-- A bit of a number of digits is a bit of a digit. -/
theorem testBit_packed {w n b : Nat} {g : Nat → Nat} (hg : ∀ i, g i < 2 ^ w) (hb : b < w * n) :
    (packed w g n).testBit b = (g (b / w)).testBit (b % w) := by
  have hw : 0 < w := Nat.pos_of_mul_pos_right (Nat.zero_lt_of_lt hb)
  rw [← packed_digit hg (Nat.div_lt_of_lt_mul hb), Nat.testBit_mod_two_pow, Nat.testBit_div_two_pow, decide_eq_true (Nat.mod_lt b hw), Bool.true_and,
    Nat.mod_add_div]

/-- A bit of a mask register governs the four bytes of its group. -/
theorem getLsbD_rowMask (m : Row) (r : Nat) {b : Nat} (hb : b < 64) : (rowMask m r).getLsbD b = m.getLsbD (16 * r + b / 4) := by
  have hstep (a i : Nat) : (if m.getLsbD (16 * r + i) then a + 15 * 2 ^ (4 * i) else a)
      = a + (if m.getLsbD (16 * r + i) then 15 else 0) * 2 ^ (4 * i) := by split <;> simp
  have hpacked : rowMask m r = BitVec.ofNat 64 (packed 4 (fun i => if m.getLsbD (16 * r + i) then 15 else 0) 16) := by
    simp only [rowMask, hstep, packed]
  have hdigit (i : Nat) : (if m.getLsbD (16 * r + i) then 15 else 0) < 2 ^ 4 := by split <;> decide
  rw [hpacked, BitVec.getLsbD_ofNat, decide_eq_true hb, Bool.true_and, testBit_packed hdigit (by omega)]
  split
  case isTrue hset => rw [hset, show 15 = 2 ^ 4 - 1 from rfl, Nat.testBit_two_pow_sub_one, decide_eq_true (Nat.mod_lt b (by decide))]
  case isFalse hclear => rw [Nat.zero_testBit, Bool.eq_false_iff.2 hclear]

/-- VSEL takes a whole group from one source. -/
theorem vsel_group (h : Hdr) (v : Tv) (x : VSrc) (r : Nat) {g : Nat} (hg : g < 16) :
    elemOf 32 (vrow (.vsel h v) v x r).data g
      = if x.mask.getLsbD (16 * r + g) then elemOf 32 (x.a.get {} r).data g else elemOf 32 (x.b.get {} r).data g := by
  refine Nat.eq_of_testBit_eq fun b => ?_
  rw [apply_ite (Nat.testBit · b), testBit_elemOf, testBit_elemOf, testBit_elemOf]
  by_cases hb : b < 32
  case neg => simp [hb]
  case pos =>
    have hmask : (wideMask (rowMask x.mask r)).getLsbD (32 * g + b) = x.mask.getLsbD (16 * r + g) := by
      rw [getLsbD_wideMask _ (by omega), getLsbD_rowMask _ _ (by omega), show (32 * g + b) / 8 / 4 = g by omega]
    have hlt : 32 * g + b < 512 := by omega
    simp only [vrow, BitVec.getLsbD_or, BitVec.getLsbD_and, BitVec.getLsbD_not, hmask, hlt, decide_true, Bool.true_and, hb]
    cases x.mask.getLsbD (16 * r + g) <;> simp

/-- Bit `g` of VCMP's mask: the condition over the elements of group `g`, or the old bit where the mask leaves the group. -/
theorem getLsbD_vcmpMask (i : Instr) (v : Tv) (x : VSrc) (old : Row) {g : Nat} (hg : g < 512) :
    (vcmpMask i v x old).getLsbD g = if v.men = 1 ∧ !x.mask.getLsbD g then old.getLsbD g
      else (List.range (32 / tyBits v.ty.toNat)).all (fun j =>
        elemCond i v (srcElem v x.a (g / 16) (g % 16 * (32 / tyBits v.ty.toNat) + j)) (srcElem v x.b (g / 16) (g % 16 * (32 / tyBits v.ty.toNat) + j))) := by
  have hfold (bit : Nat → Bool) : (List.range 512).foldr (fun g a => 2 * a + if bit g then 1 else 0) 0
      = packed 1 (fun g => if bit g then 1 else 0) 512 := by
    have hdigits := foldr_digits 1 (fun g => if bit g then 1 else 0) 512 0
    rw [Nat.zero_mul, Nat.zero_add] at hdigits
    simpa only [pow_one, Nat.mul_comm 2] using hdigits
  have hdigit (bit : Nat → Bool) (g : Nat) : (if bit g then 1 else 0) < 2 ^ 1 := by split <;> decide
  have hbit (b : Bool) : (if b then 1 else 0 : Nat).testBit 0 = b := by cases b <;> rfl
  rw [vcmpMask, hfold, BitVec.getLsbD_ofNat, decide_eq_true hg, Bool.true_and, testBit_packed (hdigit _) (by omega), Nat.div_one, Nat.mod_one, hbit]
  rfl

/-- The condition of an integer comparison is the one that its number lists. -/
theorem elemCond_integer (h : Hdr) (v : Tv) (a b : Nat) (hc : v.cond.toNat < 6) : elemCond (.vcmpI h v) v a b = true ↔
    [ival v a = ival v b, ival v a ≠ ival v b, ival v a < ival v b, ival v a ≤ ival v b, ival v b < ival v a, ival v b ≤ ival v a].getD
      v.cond.toNat True := by
  unfold elemCond
  generalize v.cond.toNat = c at hc
  interval_cases c <;> simp

section
variable {h : Hdr} {v : Tv} {x : VSrc} {g : Nat} (old : Row) (hg : g < 512)
include hg

theorem vcmpMask_left (i : Instr) (hmen : v.men = 1) (hclear : x.mask.getLsbD g = false) : (vcmpMask i v x old).getLsbD g = old.getLsbD g := by
  rw [getLsbD_vcmpMask i v x old hg, if_pos ⟨hmen, by rw [hclear]; rfl⟩]

/-- Where the mask lets a group in, its bit says that the condition holds of each of its elements. -/
theorem vcmpMask_compared (i : Instr) (hin : v.men = 0 ∨ x.mask.getLsbD g = true) : (vcmpMask i v x old).getLsbD g = true ↔
    ∀ j < 32 / tyBits v.ty.toNat, elemCond i v (srcElem v x.a (g / 16) (g % 16 * (32 / tyBits v.ty.toNat) + j))
      (srcElem v x.b (g / 16) (g % 16 * (32 / tyBits v.ty.toNat) + j)) = true := by
  have hnot : ¬ (v.men = 1 ∧ !x.mask.getLsbD g) := by
    rintro ⟨hmen, hclear⟩
    rcases hin with h0 | hset
    · rw [h0] at hmen; exact absurd hmen (by decide)
    · rw [hset] at hclear; exact absurd hclear (by decide)
  rw [getLsbD_vcmpMask i v x old hg, if_neg hnot]
  simp only [List.all_eq_true, List.mem_range]

end

/-! ## Conversion (R184, R207) -/

/-- The exact value of a source element, by its TYPE. -/
theorem sourceVal_eq (st : Nat) (l : Line) (e : Nat) : sourceVal st l e =
    if 6 ≤ st ∧ st ≤ 8 then (tyFmt st).decode (elemOf (tyBits st) l.data e)
    else if st = 9 then (BElem.ofBits false (elemOf (tyBits st) l.data e)).value false (sideExps l.side (e / 32))
    else if st = 10 then (BElem.ofBits true (elemOf (tyBits st) l.data e)).value true (sideExps l.side (e / 32))
    else .ofInt (intOf (tyBits st) (tySigned st) (elemOf (tyBits st) l.data e)) := by
  simp only [sourceVal, tyF, decide_eq_true_eq]

section
variable {h : Hdr} {v : Tv} {x : VSrc} {r e : Nat}

/-- The number of a result element in the order of conversion. -/
def convIndex (v : Tv) (r e : Nat) : Nat := r * tyEpr v.ty.toNat + e
/-- The source row of a converted element. -/
def convLine (v : Tv) (x : VSrc) (r e : Nat) : Line := x.a.get {} (convIndex v r e / tyEpr v.srcTy.toNat)
/-- The place of a converted element in its source row. -/
def convPlace (v : Tv) (r e : Nat) : Nat := convIndex v r e % tyEpr v.srcTy.toNat
/-- A source element of an integer TYPE. -/
def convInt (v : Tv) (x : VSrc) (r e : Nat) : Int :=
  intOf (tyBits v.srcTy.toNat) (tySigned v.srcTy.toNat) (elemOf (tyBits v.srcTy.toNat) (convLine v x r e).data (convPlace v r e))

variable (he : e < tyEpr v.ty.toNat) {i : Instr} (hi : i ∈ [Instr.vcvtF h v, .vcvtI h v])
include he hi

theorem outElem_vcvt : outElem i v x r e
    = (if convIndex v r e < convCount v.srcTy.toNat v.ty.toNat then convert v v.srcTy.toNat (convLine v x r e) (convPlace v r e) else 0)
        % 2 ^ tyBits v.ty.toNat := by
  have hrow : (vrow i v x r).data = rowOf (tyBits v.ty.toNat) (tyEpr v.ty.toNat) (fun e =>
      if convIndex v r e < convCount v.srcTy.toNat v.ty.toNat then convert v v.srcTy.toNat (convLine v x r e) (convPlace v r e) else 0) := by
    simp only [List.mem_cons, List.not_mem_nil, or_false] at hi
    rcases hi with rfl | rfl <;> rfl
  exact outElem_of_row he hrow

theorem vcvt_beyond (hk : convCount v.srcTy.toNat v.ty.toNat ≤ convIndex v r e) : outElem i v x r e = 0 := by
  rw [outElem_vcvt he hi, if_neg (by omega), Nat.zero_mod]

variable (hk : convIndex v r e < convCount v.srcTy.toNat v.ty.toNat)
include hk

theorem vcvt_toFloat (hty : 6 ≤ v.ty.toNat) (hty' : v.ty.toNat ≤ 8) :
    outElem i v x r e = fres v (sourceVal v.srcTy.toNat (convLine v x r e) (convPlace v r e)) % 2 ^ tyBits v.ty.toNat := by
  rw [outElem_vcvt he hi, if_pos hk, convert, if_pos (tyF_float hty hty')]

theorem vcvt_toInteger (hty : v.ty.toNat ≤ 5) (hst : 6 ≤ v.srcTy.toNat) :
    ival v (outElem i v x r e) = clampInt (tyBits v.ty.toNat) (tySigned v.ty.toNat)
      (FVal.toInteger v.rnd.toNat (sourceVal v.srcTy.toNat (convLine v x r e) (convPlace v r e))) := by
  rw [outElem_vcvt he hi, if_pos hk, convert, if_neg (by rw [tyF_integer hty]; decide)]
  dsimp only
  rw [if_neg (by omega), intBits_mod]
  exact intOf_clamped (tyBits_pos _) _ _

section
variable (hty : v.ty.toNat ≤ 5) (hst : v.srcTy.toNat ≤ 5)
include hty hst

theorem outElem_vcvt_integers : outElem i v x r e = intBits (tyBits v.ty.toNat) (if v.sat = 1 ∧ tyBits v.ty.toNat ≤ tyBits v.srcTy.toNat
    then clampInt (tyBits v.ty.toNat) (tySigned v.ty.toNat) (convInt v x r e) else convInt v x r e) := by
  rw [outElem_vcvt he hi, if_pos hk, convert, if_neg (by rw [tyF_integer hty]; decide)]
  dsimp only
  rw [if_pos hst, intBits_mod]
  rfl

/-- Between integer TYPEs, bits are cut or extended without .SAT or where the destination is wider. -/
theorem vcvt_integers_wrap (hkept : v.sat = 0 ∨ tyBits v.srcTy.toNat < tyBits v.ty.toNat) :
    (outElem i v x r e : Int) = convInt v x r e % 2 ^ tyBits v.ty.toNat := by
  have hnot : ¬ (v.sat = 1 ∧ tyBits v.ty.toNat ≤ tyBits v.srcTy.toNat) := by
    rintro ⟨hsat, hw⟩
    rcases hkept with h0 | hlt
    · rw [h0] at hsat; exact absurd hsat (by decide)
    · omega
  rw [outElem_vcvt_integers he hi hk hty hst, if_neg hnot, intBits_cast]

/-- Otherwise the value is clamped. -/
theorem vcvt_integers_clamp (hsat : v.sat = 1) (hw : tyBits v.ty.toNat ≤ tyBits v.srcTy.toNat) :
    ival v (outElem i v x r e) = clampInt (tyBits v.ty.toNat) (tySigned v.ty.toNat) (convInt v x r e) := by
  rw [outElem_vcvt_integers he hi hk hty hst, if_pos ⟨hsat, hw⟩]
  exact intOf_clamped (tyBits_pos _) _ _

end

end

/-! ## Quantised blocks (R185, R188, R208) -/

theorem topExp_le (four : Bool) (mode : Nat) (xs : List FVal) : topExp four mode xs ≤ 254 := by
  unfold topExp
  dsimp only
  split
  · exact le_rfl
  · omega
  · exact Nat.zero_le _

/-- The exponents of a block are bytes. -/
theorem quantise_exps_lt (four : Bool) (mode : Nat) (xs : List FVal) : (quantise four mode xs).1.1 < 256 ∧ (quantise four mode xs).1.2 < 256 := by
  have hle := topExp_le four mode xs
  unfold quantise
  split
  · exact ⟨Nat.lt_succ_self 255, Nat.lt_succ_self 255⟩
  · dsimp only
    omega

theorem quantise_length (four : Bool) (mode : Nat) (xs : List FVal) : (quantise four mode xs).2.length = xs.length := by
  unfold quantise
  split
  · exact List.length_map _
  · exact List.length_map _

/-- The magnitudes of a block fit their bits. -/
theorem quantise_mag_lt {four : Bool} {mode : Nat} {xs : List FVal} {b : BElem} (hb : b ∈ (quantise four mode xs).2) : b.mag < 2 ^ magBits four := by
  have hpos := Nat.two_pow_pos (magBits four)
  have hmin (c : Prop) [Decidable c] (m n : Nat) :
      (if c then min m (2 ^ magBits four - 1) else min n (2 ^ magBits four - 1)) < 2 ^ magBits four := by split <;> omega
  unfold quantise at hb
  split at hb
  · obtain ⟨_, _, rfl⟩ := List.mem_map.1 hb
    exact hpos
  · obtain ⟨y, _, rfl⟩ := List.mem_map.1 hb
    exact hmin _ _ _

/-- An element whose magnitude fits is two bits wider than it. -/
theorem BElem.bits_lt {four : Bool} {b : BElem} (hmag : b.mag < 2 ^ magBits four) : b.bits four < 2 ^ (magBits four + 2) := by
  simp only [BElem.bits, pow_succ]
  split <;> split <;> omega

theorem quantise_bits_lt {four : Bool} {mode : Nat} {xs : List FVal} {b : BElem} (hb : b ∈ (quantise four mode xs).2) :
    b.bits four < 2 ^ tyBits (if four then 10 else 9) := by
  have hlt := BElem.bits_lt (quantise_mag_lt hb)
  cases four <;> exact hlt

/-- The number of the exponents of blocks, those of the first lowest. -/
def packSide (bs : List (Exps × List BElem)) : Nat := bs.foldr (fun b t => b.1.1 + 256 * b.1.2 + 65536 * t) 0

theorem packSide_digit {bs : List (Exps × List BElem)} (hbs : ∀ b ∈ bs, b.1.1 < 256 ∧ b.1.2 < 256) {j : Nat} {b : Exps × List BElem}
    (hj : bs[j]? = some b) : packSide bs / 2 ^ (16 * j) % 2 ^ 16 = b.1.1 + 256 * b.1.2 := by
  induction bs generalizing j with
  | nil => simp at hj
  | cons c bs ih =>
    have hc := hbs c List.mem_cons_self
    have hunfold : packSide (c :: bs) = c.1.1 + 256 * c.1.2 + 2 ^ 16 * packSide bs := rfl
    rw [hunfold]
    cases j with
    | zero =>
      obtain rfl : c = b := by simpa using hj
      rw [Nat.mul_zero, pow_zero, Nat.div_one, Nat.add_mul_mod_self_left, Nat.mod_eq_of_lt (by omega)]
    | succ j =>
      have hrest : (c.1.1 + 256 * c.1.2 + 2 ^ 16 * packSide bs) / 2 ^ 16 = packSide bs := by omega
      rw [Nat.mul_succ, Nat.add_comm (16 * j), pow_add, ← Nat.div_div_eq_div_mul, hrest]
      exact ih (fun b hb => hbs b (List.mem_cons_of_mem _ hb)) (by simpa using hj)

theorem packSide_lt {bs : List (Exps × List BElem)} (hbs : ∀ b ∈ bs, b.1.1 < 256 ∧ b.1.2 < 256) : packSide bs < 2 ^ (16 * bs.length) := by
  induction bs with
  | nil => exact Nat.one_pos
  | cons c bs ih =>
    have hc := hbs c List.mem_cons_self
    have hrest := ih fun b hb => hbs b (List.mem_cons_of_mem _ hb)
    have hunfold : packSide (c :: bs) = c.1.1 + 256 * c.1.2 + 2 ^ 16 * packSide bs := rfl
    rw [hunfold, List.length_cons, Nat.mul_succ, pow_add]
    omega

/-- The exponents of block `j` in a side field that holds up to four. -/
theorem side_digit {bs : List (Exps × List BElem)} (hbs : ∀ b ∈ bs, b.1.1 < 256 ∧ b.1.2 < 256) (hlen : bs.length ≤ 4) {j : Nat} {b : Exps × List BElem}
    (hj : bs[j]? = some b) : ((BitVec.ofNat 64 (packSide bs)) >>> (16 * j)).toNat % 65536 = b.1.1 + 256 * b.1.2 := by
  have hlt : packSide bs < 2 ^ 64 := lt_of_lt_of_le (packSide_lt hbs) (Nat.pow_le_pow_right (by decide) (by omega))
  rw [BitVec.toNat_ushiftRight, Nat.shiftRight_eq_div_pow, BitVec.toNat_ofNat, Nat.mod_eq_of_lt hlt]
  exact packSide_digit hbs hj

theorem sideExps_of_digit {side : BitVec 64} {j e0 e1 : Nat} (h0 : e0 < 256) (_ : e1 < 256)
    (hdigit : (side >>> (16 * j)).toNat % 65536 = e0 + 256 * e1) : sideExps side j = (e0, e1) := by
  have hhigh : (side >>> (16 * j + 8)).toNat = (side >>> (16 * j)).toNat / 256 := by
    rw [BitVec.toNat_ushiftRight, BitVec.toNat_ushiftRight, Nat.shiftRight_add, Nat.shiftRight_eq_div_pow _ 8]
  rw [sideExps, hhigh, Prod.mk.injEq]
  omega

/-- Lists of one length, joined: element `m` of list `j`. -/
theorem getElem?_flatMap_of_length {α β : Type} {f : α → List β} {n : Nat} (l : List α) (hlen : ∀ a ∈ l, (f a).length = n) {j m : Nat} (hm : m < n) :
    (l.flatMap f)[n * j + m]? = l[j]?.bind (fun a => (f a)[m]?) := by
  induction l generalizing j with
  | nil => simp
  | cons a l ih =>
    have ha := hlen a List.mem_cons_self
    rw [List.flatMap_cons]
    cases j with
    | zero => rw [Nat.mul_zero, Nat.zero_add, List.getElem?_append_left (by omega)]; rfl
    | succ j =>
      rw [List.getElem?_append_right (by rw [ha, Nat.mul_succ]; omega), ha, show n * (j + 1) + m - n = n * j + m by rw [Nat.mul_succ]; omega]
      exact ih fun b hb => hlen b (List.mem_cons_of_mem _ hb)

/-- A row of blocks of 32 elements: element `m` of block `j`. -/
theorem elemOf_blocks {α : Type} {ty : Nat} {bs : List α} {f : α → List Nat} (hlen : ∀ b ∈ bs, (f b).length = 32) {j m : Nat} {b : α}
    (hj : bs[j]? = some b) (hm : m < 32) (hfit : 32 * j + m < tyEpr ty) :
    elemOf (tyBits ty) (rowOfList ty (bs.flatMap f)) (32 * j + m) = (f b).getD m 0 % 2 ^ tyBits ty := by
  rw [elemOf_rowOfList _ _ hfit, List.getD_eq_getElem?_getD, getElem?_flatMap_of_length bs hlen hm, hj, Option.bind_some, List.getD_eq_getElem?_getD]

/-! ### VQNT (R208) -/

/-- Block `j` of row `r` of VQNT: beyond the last element of the conversion it is empty. -/
def qntBlock (v : Tv) (a : Nat → Line) (r j : Nat) : Exps × List BElem :=
  let st := v.srcTy.toNat
  let k := (r * (tyEpr v.ty.toNat / 32) + j) * 32
  if k < convCount st v.ty.toNat then
    quantise (v.ty.toNat == 10) v.rnd.toNat ((List.range 32).map (fun i => sourceVal st (a ((k + i) / tyEpr st)) ((k + i) % tyEpr st)))
  else ((0, 0), [])

/-- The bits of a block's elements, 0 where it has none. -/
def qntBits (v : Tv) (b : Exps × List BElem) : List Nat :=
  (List.range 32).map (fun i => ((b.2[i]?).map (BElem.bits (v.ty.toNat == 10))).getD 0)

theorem qntRow_eq (v : Tv) (a : Nat → Line) (r : Nat) : qntRow v a r =
    { data := rowOfList v.ty.toNat (((List.range (tyEpr v.ty.toNat / 32)).map (qntBlock v a r)).flatMap (qntBits v)),
      side := BitVec.ofNat 64 (packSide ((List.range (tyEpr v.ty.toNat / 32)).map (qntBlock v a r))),
      tag := if v.ty.toNat == 10 then 2 else 1 } := rfl

theorem qntBlock_exps_lt (v : Tv) (a : Nat → Line) (r j : Nat) : (qntBlock v a r j).1.1 < 256 ∧ (qntBlock v a r j).1.2 < 256 := by
  unfold qntBlock
  dsimp only
  split
  · exact quantise_exps_lt _ _ _
  · exact ⟨by decide, by decide⟩

section
variable {v : Tv} {a : Nat → Line} {r j : Nat} (hj : j < tyEpr v.ty.toNat / 32) (hblocks : tyEpr v.ty.toNat / 32 ≤ 4)
include hj hblocks

/-- The exponents and elements of block `j`, as the row keeps them. -/
theorem qntRow_block :
    ((qntRow v a r).side >>> (16 * j)).toNat % 65536 = (qntBlock v a r j).1.1 + 256 * (qntBlock v a r j).1.2
    ∧ ∀ m < 32, elemOf (tyBits v.ty.toNat) (qntRow v a r).data (32 * j + m)
        = (((qntBlock v a r j).2[m]?).map (BElem.bits (v.ty.toNat == 10))).getD 0 % 2 ^ tyBits v.ty.toNat := by
  have hget : ((List.range (tyEpr v.ty.toNat / 32)).map (qntBlock v a r))[j]? = some (qntBlock v a r j) := by
    rw [List.getElem?_map, List.getElem?_range hj]; rfl
  have hexps : ∀ b ∈ (List.range (tyEpr v.ty.toNat / 32)).map (qntBlock v a r), b.1.1 < 256 ∧ b.1.2 < 256 := fun b hb => by
    obtain ⟨_, _, rfl⟩ := List.mem_map.1 hb
    exact qntBlock_exps_lt _ _ _ _
  have hlen : ∀ b ∈ (List.range (tyEpr v.ty.toNat / 32)).map (qntBlock v a r), (qntBits v b).length = 32 := fun b _ => by
    rw [qntBits, List.length_map, List.length_range]
  rw [qntRow_eq]
  refine ⟨side_digit hexps (by rwa [List.length_map, List.length_range]) hget, fun m hm => ?_⟩
  rw [elemOf_blocks hlen hget hm (by omega), qntBits, List.getD_eq_getElem?_getD, List.getElem?_map, List.getElem?_range hm]
  rfl

/-- Up to the last element, a block is the quantisation of its 32 source values. -/
theorem qntRow_quantised (hty : v.ty.toNat = 9 ∨ v.ty.toNat = 10) (hk : (r * (tyEpr v.ty.toNat / 32) + j) * 32 < convCount v.srcTy.toNat v.ty.toNat) :
    let q := qntBlock v a r j
    ((qntRow v a r).side >>> (16 * j)).toNat % 65536 = q.1.1 + 256 * q.1.2
    ∧ ∀ m < 32, ∃ b, q.2[m]? = some b ∧ elemOf (tyBits v.ty.toNat) (qntRow v a r).data (32 * j + m) = b.bits (v.ty.toNat == 10) := by
  obtain ⟨hside, hels⟩ := qntRow_block (a := a) (r := r) hj hblocks
  refine ⟨hside, fun m hm => ?_⟩
  have hq : qntBlock v a r j = quantise _ _ _ := if_pos hk
  have hlen : m < (qntBlock v a r j).2.length := by rw [hq, quantise_length, List.length_map, List.length_range]; exact hm
  have hbits : (qntBlock v a r j).2[m].bits (v.ty.toNat == 10) < 2 ^ tyBits v.ty.toNat := by
    have hlt : ∀ b ∈ (qntBlock v a r j).2, b.bits (v.ty.toNat == 10) < 2 ^ tyBits (if v.ty.toNat == 10 then 10 else 9) := by
      rw [hq]; exact fun b => quantise_bits_lt
    have hwidth : (if v.ty.toNat == 10 then 10 else 9) = v.ty.toNat := by rcases hty with h | h <;> rw [h] <;> rfl
    rw [hwidth] at hlt
    exact hlt _ (List.getElem_mem hlen)
  refine ⟨_, List.getElem?_eq_getElem hlen, ?_⟩
  rw [hels m hm, List.getElem?_eq_getElem hlen, Option.map_some, Option.getD_some, Nat.mod_eq_of_lt hbits]

/-- Beyond it, nothing. -/
theorem qntRow_beyond (hk : convCount v.srcTy.toNat v.ty.toNat ≤ (r * (tyEpr v.ty.toNat / 32) + j) * 32) :
    ((qntRow v a r).side >>> (16 * j)).toNat % 65536 = 0 ∧ ∀ m < 32, elemOf (tyBits v.ty.toNat) (qntRow v a r).data (32 * j + m) = 0 := by
  obtain ⟨hside, hels⟩ := qntRow_block (a := a) (r := r) hj hblocks
  have hq : qntBlock v a r j = ((0, 0), []) := if_neg (Nat.not_lt.2 hk)
  exact ⟨by simp only [hside, hq, Nat.mul_zero], fun m hm => by rw [hels m hm, hq]; exact Nat.zero_mod _⟩

end

end Sys2Proof.Machine
end

section
namespace Sys2Proof.Machine

/-! ## The operands of a reduction (R161, R209) -/

/-- What is kept of the values of a function, where each is kept or left. -/
theorem filterMap_guard {α β : Type} (p : α → Prop) [DecidablePred p] (f : α → β) (l : List α) :
    (l.map (fun a => if p a then some (f a) else none)).filterMap id = (l.filter (fun a => p a)).map f := by
  induction l with
  | nil => rfl
  | cons a l ih =>
    rw [List.map_cons, List.filter_cons]
    by_cases h : p a
    · rw [if_pos h, if_pos (decide_eq_true h), List.map_cons, ← ih]; rfl
    · rw [if_neg h, if_neg (by simpa using h), ← ih]; rfl

/-- Element `e` of row `r` takes part in the form. -/
def TakesPart (v : Tv) (x : VSrc) (r e : Nat) : Prop := v.men = 0 ∨ maskBit x.mask (tyBits v.ty.toNat) r e = true

/-- The operands of a reduction over the elements below `n`, in order. -/
def operands (v : Tv) (x : VSrc) (r n : Nat) : List Nat :=
  ((List.range n).filter (fun j => v.men = 0 ∨ maskBit x.mask (tyBits v.ty.toNat) r j)).map (srcElem v x.a r)

/-- The elements of a row, absent where masked off. -/
def present (v : Tv) (x : VSrc) (r e : Nat) : Option Nat :=
  if v.men = 0 ∨ maskBit x.mask (tyBits v.ty.toNat) r e then some (srcElem v x.a r e) else none

theorem present_of_takesPart {v : Tv} {x : VSrc} {r e : Nat} (h : TakesPart v x r e) : present v x r e = some (srcElem v x.a r e) := if_pos h

theorem filterMap_present (v : Tv) (x : VSrc) (r n : Nat) : ((List.range n).map (present v x r)).filterMap id = operands v x r n :=
  filterMap_guard _ _ _

theorem operands_lt {v : Tv} {x : VSrc} {r n y : Nat} (hy : y ∈ operands v x r n) : y < 2 ^ tyBits v.ty.toNat := by
  obtain ⟨_, _, rfl⟩ := List.mem_map.1 hy
  exact elemOf_lt _ _ _

/-! ## Sums, maxima and minima (R178, R209) -/

theorem foldl_add_eq_sum (x : Int) (l : List Int) : l.foldl (redI 0) x = (x :: l).sum := by
  induction l generalizing x with
  | nil => simp
  | cons y l ih => rw [List.foldl_cons, ih, redI, List.sum_cons, List.sum_cons, List.sum_cons, Int.add_assoc]

/-- A fold that keeps one of its two operands, the one that `le` puts above the other, keeps one above all. -/
theorem foldl_choice {op : Int → Int → Int} {le : Int → Int → Prop} (hrefl : ∀ a, le a a) (htrans : ∀ a b c, le a b → le b c → le a c)
    (hop : ∀ a b, (op a b = a ∨ op a b = b) ∧ le a (op a b) ∧ le b (op a b)) (x : Int) (l : List Int) :
    l.foldl op x ∈ x :: l ∧ ∀ y ∈ x :: l, le y (l.foldl op x) := by
  induction l generalizing x with
  | nil => simpa using hrefl x
  | cons z l ih =>
    obtain ⟨hmem, hall⟩ := ih (op x z)
    obtain ⟨hchoice, hx, hz⟩ := hop x z
    have hop := hall _ List.mem_cons_self
    rw [List.foldl_cons]
    refine ⟨?_, fun y hy => ?_⟩
    · rcases List.mem_cons.1 hmem with h | h
      · rcases hchoice with hc | hc <;> rw [h, hc] <;> simp
      · simp [h]
    · rcases List.mem_cons.1 hy with rfl | hy
      · exact htrans _ _ _ hx hop
      · rcases List.mem_cons.1 hy with rfl | hy
        · exact htrans _ _ _ hz hop
        · exact hall y (List.mem_cons_of_mem _ hy)

theorem foldl_max_greatest (x : Int) (l : List Int) : l.foldl (redI 1) x ∈ x :: l ∧ ∀ y ∈ x :: l, y ≤ l.foldl (redI 1) x :=
  foldl_choice (le := (· ≤ ·)) le_refl (fun _ _ _ => le_trans)
    (fun a b => ⟨max_choice a b, le_max_left a b, le_max_right a b⟩) x l

theorem foldl_min_least (x : Int) (l : List Int) : l.foldl (redI 2) x ∈ x :: l ∧ ∀ y ∈ x :: l, l.foldl (redI 2) x ≤ y :=
  foldl_choice (le := (· ≥ ·)) le_refl (fun _ _ _ h h' => le_trans h' h)
    (fun a b => ⟨min_choice a b, min_le_left a b, min_le_right a b⟩) x l

/-- An integer in the range of the TYPE reads back, whether or not the form saturates. -/
theorem ival_ires_of_range {v : Tv} {z : Int} (hmin : intMin (tyBits v.ty.toNat) (tySigned v.ty.toNat) ≤ z)
    (hmax : z ≤ intMax (tyBits v.ty.toNat) (tySigned v.ty.toNat)) : ival v (ires v z) = z := by
  have hres : ires v z = intBits (tyBits v.ty.toNat) z := by
    rw [ires, clampInt_of_range hmin hmax, ite_self]
  rw [hres]
  exact intOf_intBits (tyBits_pos _) hmin hmax

theorem ires_wrapped {v : Tv} (hsat : v.sat = 0) (z : Int) : ires v z = intBits (tyBits v.ty.toNat) z := by
  rw [ires, if_neg (by rw [hsat]; decide)]

theorem ires_mod (v : Tv) (z : Int) : ires v z % 2 ^ tyBits v.ty.toNat = ires v z := intBits_mod _ _

/-- A list's values have `z` among them and above all. -/
def GreatestOf (v : Tv) (z : Int) (l : List Nat) : Prop := (∃ y ∈ l, z = ival v y) ∧ ∀ y ∈ l, ival v y ≤ z
/-- A list's values have `z` among them and below all. -/
def LeastOf (v : Tv) (z : Int) (l : List Nat) : Prop := (∃ y ∈ l, z = ival v y) ∧ ∀ y ∈ l, z ≤ ival v y

theorem greatestOf_foldl (v : Tv) (x : Nat) (l : List Nat) : GreatestOf v ((l.map (ival v)).foldl (redI 1) (ival v x)) (x :: l) := by
  obtain ⟨hmem, hall⟩ := foldl_max_greatest (ival v x) (l.map (ival v))
  rw [← List.map_cons] at hmem hall
  obtain ⟨y, hy, he⟩ := List.mem_map.1 hmem
  exact ⟨⟨y, hy, he.symm⟩, fun y hy => hall _ (List.mem_map_of_mem hy)⟩

theorem leastOf_foldl (v : Tv) (x : Nat) (l : List Nat) : LeastOf v ((l.map (ival v)).foldl (redI 2) (ival v x)) (x :: l) := by
  obtain ⟨hmem, hall⟩ := foldl_min_least (ival v x) (l.map (ival v))
  rw [← List.map_cons] at hmem hall
  obtain ⟨y, hy, he⟩ := List.mem_map.1 hmem
  exact ⟨⟨y, hy, he.symm⟩, fun y hy => hall _ (List.mem_map_of_mem hy)⟩

/-- The greatest or least of a list's values reads back from its bits: it is one of them. -/
theorem ival_ires_of_mem {v : Tv} {z : Int} {l : List Nat} (hz : ∃ y ∈ l, z = ival v y) : ival v (ires v z) = z := by
  obtain ⟨y, _, rfl⟩ := hz
  obtain ⟨hlow, hhigh⟩ := intOf_range (tyBits_pos v.ty.toNat) (tySigned v.ty.toNat) y
  exact ival_ires_of_range hlow hhigh

section
variable {h : Hdr} {v : Tv} {x : VSrc} {r e : Nat} (he : e < tyEpr v.ty.toNat)
include he

/-! ## VRED on integers (R209) -/

section
variable (hty : v.ty.toNat ≤ 5) (hne : operands v x r (tyEpr v.ty.toNat) ≠ [])
include hty hne

/-- The reduction folds the operands' values, from the first on. -/
theorem outElem_vredI : ∃ y l, operands v x r (tyEpr v.ty.toNat) = y :: l
    ∧ outElem (.vredI h v) v x r e = ires v ((l.map (ival v)).foldl (redI (redOpOf v)) (ival v y)) := by
  obtain ⟨y, l, hl⟩ := List.exists_cons_of_ne_nil hne
  refine ⟨y, l, hl, ?_⟩
  have hreduce : reduceRow v ((List.range (tyEpr v.ty.toNat)).map (present v x r)) = ires v ((l.map (ival v)).foldl (redI (redOpOf v)) (ival v y)) := by
    rw [reduceRow, tyF_integer hty, filterMap_present, hl]
    rfl
  have hrow : (vrow (.vredI h v) v x r).data = rowOf (tyBits v.ty.toNat) (tyEpr v.ty.toNat)
      (fun _ => reduceRow v ((List.range (tyEpr v.ty.toNat)).map (present v x r))) := rfl
  rw [outElem_of_row he hrow, hreduce, ires_mod]

theorem vredI_sum (hop : redOpOf v = 0) :
    (v.sat = 0 → (outElem (.vredI h v) v x r e : Int) = ((operands v x r (tyEpr v.ty.toNat)).map (ival v)).sum % 2 ^ tyBits v.ty.toNat)
    ∧ (v.sat = 1 → ival v (outElem (.vredI h v) v x r e)
        = clampInt (tyBits v.ty.toNat) (tySigned v.ty.toNat) ((operands v x r (tyEpr v.ty.toNat)).map (ival v)).sum) := by
  obtain ⟨y, l, hl, hout⟩ := outElem_vredI (h := h) he hty hne
  rw [hout, hop, foldl_add_eq_sum, ← List.map_cons, ← hl]
  refine ⟨fun hsat => ?_, fun hsat => ?_⟩
  · rw [ires_wrapped hsat, intBits_cast]
  · rw [ires, if_pos hsat]
    exact intOf_clamped (tyBits_pos _) _ _

theorem vredI_greatest (hop : redOpOf v = 1) : GreatestOf v (ival v (outElem (.vredI h v) v x r e)) (operands v x r (tyEpr v.ty.toNat)) := by
  obtain ⟨y, l, hl, hout⟩ := outElem_vredI (h := h) he hty hne
  have htop := greatestOf_foldl v y l
  rw [hout, hop, ival_ires_of_mem htop.1, hl]
  exact htop

theorem vredI_least (hop : redOpOf v = 2) : LeastOf v (ival v (outElem (.vredI h v) v x r e)) (operands v x r (tyEpr v.ty.toNat)) := by
  obtain ⟨y, l, hl, hout⟩ := outElem_vredI (h := h) he hty hne
  have hleast := leastOf_foldl v y l
  rw [hout, hop, ival_ires_of_mem hleast.1, hl]
  exact hleast

end

/-! ## VRED on floating-point numbers (R197, R209) -/

section
variable (hty : tyF v.ty.toNat = true)
include hty

theorem outElem_vredF : outElem (.vredF h v) v x r e = fres v (reduced (tyFmt v.ty.toNat) (operands v x r (tyEpr v.ty.toNat))
    ((tree (redF (tyFmt v.ty.toNat) v.rnd.toNat (redOpOf v)) (Nat.log2 (tyEpr v.ty.toNat)) ((List.range (tyEpr v.ty.toNat)).map (present v x r))).getD 0))
      % 2 ^ tyBits v.ty.toNat := by
  have hrow : (vrow (.vredF h v) v x r).data = rowOf (tyBits v.ty.toNat) (tyEpr v.ty.toNat)
      (fun _ => reduceRow v ((List.range (tyEpr v.ty.toNat)).map (present v x r))) := rfl
  rw [outElem_of_row he hrow, reduceRow, if_pos hty, filterMap_present]

end
end

/-- Infinities of one sign, and no NaN, leave a reduction as that infinity (R197). -/
theorem special_of_inf {f : Fmt} {b : Bool} {l : List Nat} (hnone : ∀ y ∈ l, f.decode y ≠ .nan ∧ f.decode y ≠ .inf (!b))
    (hsome : ∃ y ∈ l, f.decode y = .inf b) : special f l = some (.inf b) := by
  have hnan : FVal.nan ∉ l.map f.decode := fun hm => by
    obtain ⟨y, hy, he⟩ := List.mem_map.1 hm
    exact (hnone y hy).1 he
  have hother : FVal.inf (!b) ∉ l.map f.decode := fun hm => by
    obtain ⟨y, hy, he⟩ := List.mem_map.1 hm
    exact (hnone y hy).2 he
  have hthis : FVal.inf b ∈ l.map f.decode := List.mem_map.2 hsome
  cases b <;> simp_all [special, -List.mem_map]

/-- A full tree over 2^k operands: two halves combined, down to one operand. -/
theorem tree_full {g : Nat → Nat → Nat} {t : Nat → Nat → Nat} (hstep : ∀ k j, t (k + 1) j = g (t k (2 * j)) (t k (2 * j + 1))) (k j : Nat) :
    tree g k ((List.range (2 ^ k)).map (fun i => some (t 0 (2 ^ k * j + i)))) = some (t k j) := by
  induction k generalizing j with
  | zero => simp [tree]
  | succ k ih =>
    have hsplit : (List.range (2 ^ (k + 1))).map (fun i => some (t 0 (2 ^ (k + 1) * j + i)))
        = (List.range (2 ^ k)).map (fun i => some (t 0 (2 ^ k * (2 * j) + i)))
          ++ (List.range (2 ^ k)).map (fun i => some (t 0 (2 ^ k * (2 * j + 1) + i))) := by
      have hleft (i : Nat) : 2 ^ k * 2 * j + i = 2 ^ k * (2 * j) + i := by ring
      have hright (i : Nat) : 2 ^ k * (2 * j) + (2 ^ k + i) = 2 ^ k * (2 * j + 1) + i := by ring
      rw [pow_succ, Nat.mul_two (2 ^ k), List.range_add, List.map_append, List.map_map, ← Nat.mul_two]
      simp only [Function.comp_def, hleft, hright]
    rw [hsplit, tree, List.take_left' (by simp), List.drop_left' (by simp), ih, ih, hstep]

section
variable {h : Hdr} {v : Tv} {x : VSrc} {r e : Nat} (he : e < tyEpr v.ty.toNat) (hty : 6 ≤ v.ty.toNat) (hty' : v.ty.toNat ≤ 8)
include he hty hty'

theorem vredF_clashing (hnan : (tyFmt v.ty.toNat).Clashes (operands v x r (tyEpr v.ty.toNat))) :
    outElem (.vredF h v) v x r e = (tyFmt v.ty.toNat).nanBits := by
  rw [outElem_vredF he (tyF_float hty hty'), reduced, special_of_clashes hnan]
  exact nanBits_mod_tyBits hty hty'

theorem vredF_infinite {b : Bool}
    (hnone : ∀ y ∈ operands v x r (tyEpr v.ty.toNat), (tyFmt v.ty.toNat).decode y ≠ .nan ∧ (tyFmt v.ty.toNat).decode y ≠ .inf (!b))
    (hsome : ∃ y ∈ operands v x r (tyEpr v.ty.toNat), (tyFmt v.ty.toNat).decode y = .inf b) :
    outElem (.vredF h v) v x r e = fres v (.inf b) % 2 ^ tyBits v.ty.toNat := by
  rw [outElem_vredF he (tyF_float hty hty'), reduced, special_of_inf hnone hsome]
  rfl

/-- Finite operands, none masked off: the sum along the pairwise tree. -/
theorem vredF_sum (hmen : v.men = 0) (hop : redOpOf v = 0) (hfinite : ∀ y ∈ operands v x r (tyEpr v.ty.toNat), (tyFmt v.ty.toNat).Finite y)
    {t : Nat → Nat → Nat} (hleaf : ∀ j < tyEpr v.ty.toNat, t 0 j = srcElem v x.a r j)
    (hstep : ∀ k j, t (k + 1) j = redF (tyFmt v.ty.toNat) v.rnd.toNat 0 (t k (2 * j)) (t k (2 * j + 1))) :
    outElem (.vredF h v) v x r e
      = fres v ((tyFmt v.ty.toNat).decode (t (Nat.log2 (tyEpr v.ty.toNat)) 0)) % 2 ^ tyBits v.ty.toNat := by
  have hpow : 2 ^ Nat.log2 (tyEpr v.ty.toNat) = tyEpr v.ty.toNat := by
    generalize v.ty.toNat = ty at hty hty'
    interval_cases ty <;> rfl
  have hleaves : (List.range (tyEpr v.ty.toNat)).map (present v x r)
      = (List.range (2 ^ Nat.log2 (tyEpr v.ty.toNat))).map (fun i => some (t 0 (2 ^ Nat.log2 (tyEpr v.ty.toNat) * 0 + i))) := by
    rw [hpow]
    refine List.map_congr_left fun i hi => ?_
    rw [present_of_takesPart (.inl hmen), Nat.mul_zero, Nat.zero_add, hleaf i (List.mem_range.1 hi)]
  rw [outElem_vredF he (tyF_float hty hty'), reduced, special_of_finite hfinite, hop, hleaves, tree_full hstep]
  rfl

end

/-! ## VSCAN (R210) -/

/-- The running value of a scan over its operands so far. -/
def running (g : Nat → Nat → Nat) : List Nat → Option Nat
  | [] => none
  | y :: l => some (l.foldl g y)

/-- The running value after one more operand. -/
def runOn (g : Nat → Nat → Nat) (s : Option Nat) (z : Nat) : Nat := match s with | none => z | some y => g y z

theorem running_append_cons (g : Nat → Nat → Nat) (s : Option Nat) (z : Nat) (l : List Nat) :
    running g (s.toList ++ z :: l) = running g (runOn g s z :: l) := by
  cases s <;> rfl

/-- An integer scan's step: the TYPE's result of the operation. -/
def stepI (v : Tv) (y z : Nat) : Nat := ires v (redI (redOpOf v) (ival v y) (ival v z))
/-- A floating-point scan's step. -/
def stepF (v : Tv) : Nat → Nat → Nat := redF (tyFmt v.ty.toNat) v.rnd.toNat (redOpOf v)

theorem scanRow_some_integer {v : Tv} (hty : tyF v.ty.toNat = false) (z : Nat) (xs : List (Option Nat)) (seen : List Nat) (s : Option Nat) :
    scanRow v (some z :: xs) seen s = runOn (stepI v) s z :: scanRow v xs seen (some (runOn (stepI v) s z)) := by
  cases s <;> simp only [scanRow, hty, Bool.false_eq_true, if_false] <;> rfl

theorem scanRow_some_float {v : Tv} (hty : tyF v.ty.toNat = true) (z : Nat) (xs : List (Option Nat)) (seen : List Nat) (s : Option Nat) :
    scanRow v (some z :: xs) seen s = fres v (reduced (tyFmt v.ty.toNat) (z :: seen) (runOn (stepF v) s z))
      :: scanRow v xs (z :: seen) (some (runOn (stepF v) s z)) := by
  cases s <;> simp only [scanRow, hty, if_true] <;> rfl

/-- An integer scan's output where an element is present: its running value. -/
theorem scanRow_integer {v : Tv} (hty : tyF v.ty.toNat = false) (xs : List (Option Nat)) (seen : List Nat) (s : Option Nat) {e y : Nat}
    (hy : xs[e]? = some (some y)) :
    (scanRow v xs seen s)[e]? = running (stepI v) (s.toList ++ (xs.take (e + 1)).filterMap id) := by
  induction xs generalizing seen s e with
  | nil => simp at hy
  | cons z xs ih =>
    cases z with
    | none =>
      cases e with
      | zero => simp at hy
      | succ e => exact ih seen s (by simpa using hy)
    | some z =>
      rw [scanRow_some_integer hty, List.take_succ_cons, List.filterMap_cons_some (show id (some z) = some z from rfl), running_append_cons]
      cases e with
      | zero => rfl
      | succ e => exact ih seen (some _) (by simpa using hy)

/-- A floating-point scan's: the reduction of the operands so far. -/
theorem scanRow_float {v : Tv} (hty : tyF v.ty.toNat = true) (xs : List (Option Nat)) (seen : List Nat) (s : Option Nat) {e y : Nat}
    (hy : xs[e]? = some (some y)) :
    (scanRow v xs seen s)[e]? = (running (stepF v) (s.toList ++ (xs.take (e + 1)).filterMap id)).map
      (fun z => fres v (reduced (tyFmt v.ty.toNat) (((xs.take (e + 1)).filterMap id).reverse ++ seen) z)) := by
  induction xs generalizing seen s e with
  | nil => simp at hy
  | cons z xs ih =>
    cases z with
    | none =>
      cases e with
      | zero => simp at hy
      | succ e => exact ih seen s (by simpa using hy)
    | some z =>
      rw [scanRow_some_float hty, List.take_succ_cons, List.filterMap_cons_some (show id (some z) = some z from rfl), running_append_cons,
        List.reverse_cons, List.append_assoc]
      cases e with
      | zero => rfl
      | succ e => exact ih (z :: seen) (some _) (by simpa using hy)

/-- A running sum that wraps is the sum modulo 2^w. -/
theorem foldl_stepI_sum {v : Tv} (hop : redOpOf v = 0) (hsat : v.sat = 0) (l : List Nat) {y : Nat} (hy : y < 2 ^ tyBits v.ty.toNat) :
    ((l.foldl (stepI v) y : Nat) : Int) = ((y :: l).map (ival v)).sum % 2 ^ tyBits v.ty.toNat := by
  induction l generalizing y with
  | nil =>
    have hmod : ival v y ≡ y [ZMOD 2 ^ tyBits v.ty.toNat] := intOf_modEq _ _ _
    have hcast : (y : Int) % 2 ^ tyBits v.ty.toNat = y := by exact_mod_cast congrArg Nat.cast (Nat.mod_eq_of_lt hy)
    simpa using hcast.symm.trans hmod.symm
  | cons z l ih =>
    have hstep : stepI v y z = intBits (tyBits v.ty.toNat) (ival v y + ival v z) := by rw [stepI, hop, ires_wrapped hsat]; rfl
    have hmod : ival v (stepI v y z) ≡ ival v y + ival v z [ZMOD 2 ^ tyBits v.ty.toNat] := by
      rw [hstep]
      exact (intOf_modEq _ _ _).trans (by rw [intBits_cast]; exact Int.mod_modEq _ _)
    rw [List.foldl_cons, ih (by rw [hstep]; exact intBits_lt _ _), List.map_cons, List.map_cons, List.map_cons, List.sum_cons, List.sum_cons,
      List.sum_cons, ← Int.add_assoc]
    exact hmod.add_right _

/-- A running maximum or minimum never leaves the TYPE's range: its value is that of the values. -/
theorem ival_foldl_stepI {v : Tv} (hop : ∀ a b, redI (redOpOf v) a b = a ∨ redI (redOpOf v) a b = b) (l : List Nat) (y : Nat) :
    ival v (l.foldl (stepI v) y) = (l.map (ival v)).foldl (redI (redOpOf v)) (ival v y) := by
  induction l generalizing y with
  | nil => rfl
  | cons z l ih =>
    have hstep : ival v (stepI v y z) = redI (redOpOf v) (ival v y) (ival v z) := by
      refine ival_ires_of_mem (l := [y, z]) ?_
      rcases hop (ival v y) (ival v z) with h | h
      · exact ⟨y, by simp, h⟩
      · exact ⟨z, by simp, h⟩
    rw [List.foldl_cons, ih, hstep, List.map_cons, List.foldl_cons]

section
variable {h : Hdr} {v : Tv} {x : VSrc} {r e : Nat} (he : e < tyEpr v.ty.toNat) (hin : TakesPart v x r e)
include he hin

omit he in
/-- The operands up to a present element begin somewhere. -/
theorem operands_cons : ∃ y l, operands v x r (e + 1) = y :: l := by
  refine List.exists_cons_of_ne_nil fun hnil => ?_
  have hmem : srcElem v x.a r e ∈ operands v x r (e + 1) :=
    List.mem_map_of_mem (List.mem_filter.2 ⟨List.mem_range.2 (Nat.lt_succ_self e), decide_eq_true hin⟩)
  rw [hnil] at hmem
  exact List.not_mem_nil hmem

/-- The elements up to the present one, and it. -/
theorem present_prefix :
    ((List.range (tyEpr v.ty.toNat)).map (present v x r))[e]? = some (some (srcElem v x.a r e))
    ∧ (((List.range (tyEpr v.ty.toNat)).map (present v x r)).take (e + 1)).filterMap id = operands v x r (e + 1) := by
  refine ⟨?_, ?_⟩
  · rw [List.getElem?_map, List.getElem?_range he, Option.map_some, present_of_takesPart hin]
  · rw [← List.map_take, List.take_range, Nat.min_eq_left he, filterMap_present]

/-! ### On integers -/

theorem outElem_vscanI (hty : v.ty.toNat ≤ 5) : ∃ y l, operands v x r (e + 1) = y :: l ∧ outElem (.vscanI h v) v x r e = l.foldl (stepI v) y := by
  obtain ⟨y, l, hl⟩ := operands_cons hin
  obtain ⟨hget, hprefix⟩ := present_prefix he hin
  have hscan := scanRow_integer (tyF_integer hty) _ [] none hget
  rw [hprefix, hl] at hscan
  refine ⟨y, l, hl, ?_⟩
  have hrow : (vrow (.vscanI h v) v x r).data = rowOfList v.ty.toNat (scanRow v ((List.range (tyEpr v.ty.toNat)).map (present v x r)) [] none) := rfl
  have hlt (l : List Nat) : ∀ y < 2 ^ tyBits v.ty.toNat, l.foldl (stepI v) y < 2 ^ tyBits v.ty.toNat := by
    induction l with
    | nil => exact fun _ hy => hy
    | cons z l ih => exact fun y _ => ih _ (intBits_lt _ _)
  rw [outElem, hrow, elemOf_rowOfList _ _ he, List.getD_eq_getElem?_getD, hscan]
  exact Nat.mod_eq_of_lt (hlt l y (operands_lt (hl ▸ List.mem_cons_self)))

theorem vscanI_sum (hty : v.ty.toNat ≤ 5) (hop : redOpOf v = 0) (hsat : v.sat = 0) :
    (outElem (.vscanI h v) v x r e : Int) = ((operands v x r (e + 1)).map (ival v)).sum % 2 ^ tyBits v.ty.toNat := by
  obtain ⟨y, l, hl, hout⟩ := outElem_vscanI (h := h) he hin hty
  rw [hout, hl, foldl_stepI_sum hop hsat l (operands_lt (hl ▸ List.mem_cons_self))]

theorem vscanI_greatest (hty : v.ty.toNat ≤ 5) (hop : redOpOf v = 1) :
    GreatestOf v (ival v (outElem (.vscanI h v) v x r e)) (operands v x r (e + 1)) := by
  obtain ⟨y, l, hl, hout⟩ := outElem_vscanI (h := h) he hin hty
  rw [hout, ival_foldl_stepI (by rw [hop]; exact max_choice), hop, hl]
  exact greatestOf_foldl v y l

theorem vscanI_least (hty : v.ty.toNat ≤ 5) (hop : redOpOf v = 2) :
    LeastOf v (ival v (outElem (.vscanI h v) v x r e)) (operands v x r (e + 1)) := by
  obtain ⟨y, l, hl, hout⟩ := outElem_vscanI (h := h) he hin hty
  rw [hout, ival_foldl_stepI (by rw [hop]; exact min_choice), hop, hl]
  exact leastOf_foldl v y l

/-! ### On floating-point numbers -/

section
variable (hty : 6 ≤ v.ty.toNat) (hty' : v.ty.toNat ≤ 8)
include hty hty'

theorem outElem_vscanF : ∃ y l, operands v x r (e + 1) = y :: l ∧ outElem (.vscanF h v) v x r e
    = fres v (reduced (tyFmt v.ty.toNat) (operands v x r (e + 1)).reverse (l.foldl (stepF v) y)) % 2 ^ tyBits v.ty.toNat := by
  obtain ⟨y, l, hl⟩ := operands_cons hin
  obtain ⟨hget, hprefix⟩ := present_prefix he hin
  have hscan := scanRow_float (tyF_float hty hty') _ [] none hget
  rw [hprefix, List.append_nil] at hscan
  refine ⟨y, l, hl, ?_⟩
  have hrow : (vrow (.vscanF h v) v x r).data = rowOfList v.ty.toNat (scanRow v ((List.range (tyEpr v.ty.toNat)).map (present v x r)) [] none) := rfl
  rw [outElem, hrow, elemOf_rowOfList _ _ he, List.getD_eq_getElem?_getD, hscan, hl]
  rfl

theorem vscanF_clashing (hnan : (tyFmt v.ty.toNat).Clashes (operands v x r (e + 1))) : outElem (.vscanF h v) v x r e = (tyFmt v.ty.toNat).nanBits := by
  obtain ⟨y, l, _, hout⟩ := outElem_vscanF (h := h) he hin hty hty'
  have hreverse : (tyFmt v.ty.toNat).Clashes (operands v x r (e + 1)).reverse := by simpa only [Fmt.Clashes, List.mem_reverse] using hnan
  rw [hout, reduced, special_of_clashes hreverse]
  exact nanBits_mod_tyBits hty hty'

theorem vscanF_infinite {b : Bool}
    (hnone : ∀ y ∈ operands v x r (e + 1), (tyFmt v.ty.toNat).decode y ≠ .nan ∧ (tyFmt v.ty.toNat).decode y ≠ .inf (!b))
    (hsome : ∃ y ∈ operands v x r (e + 1), (tyFmt v.ty.toNat).decode y = .inf b) :
    outElem (.vscanF h v) v x r e = fres v (.inf b) % 2 ^ tyBits v.ty.toNat := by
  obtain ⟨y, l, _, hout⟩ := outElem_vscanF (h := h) he hin hty hty'
  rw [hout, reduced, special_of_inf (b := b) (by simpa only [List.mem_reverse] using hnone) (by simpa only [List.mem_reverse] using hsome)]
  rfl

end
end

/-- The sum ascends, rounded at each addition, where no element is masked off and all are finite. -/
theorem vscanF_sum {h : Hdr} {v : Tv} {x : VSrc} {r e : Nat} (he : e < tyEpr v.ty.toNat) (hty : 6 ≤ v.ty.toNat) (hty' : v.ty.toNat ≤ 8)
    (hmen : v.men = 0) (hop : redOpOf v = 0) (hfinite : ∀ y ∈ operands v x r (e + 1), (tyFmt v.ty.toNat).Finite y) {t : Nat → Nat}
    (hfirst : t 0 = srcElem v x.a r 0)
    (hnext : ∀ j, t (j + 1) = redF (tyFmt v.ty.toNat) v.rnd.toNat 0 (t j) (srcElem v x.a r (j + 1))) :
    outElem (.vscanF h v) v x r e = fres v ((tyFmt v.ty.toNat).decode (t e)) % 2 ^ tyBits v.ty.toNat := by
  obtain ⟨y, l, hl, hout⟩ := outElem_vscanF (h := h) he (.inl hmen) hty hty'
  have hall (n : Nat) : operands v x r n = (List.range n).map (srcElem v x.a r) := by
    rw [operands, List.filter_eq_self.2 fun _ _ => decide_eq_true (.inl hmen)]
  have hfold (n : Nat) : ((List.range n).map (fun j => srcElem v x.a r (j + 1))).foldl (stepF v) (srcElem v x.a r 0) = t n := by
    induction n with
    | zero => exact hfirst.symm
    | succ n ih => rw [List.range_succ, List.map_append, List.foldl_append, ih, hnext, stepF, hop]; rfl
  have hreverse : ∀ y ∈ (operands v x r (e + 1)).reverse, (tyFmt v.ty.toNat).Finite y := by simpa only [List.mem_reverse] using hfinite
  rw [hall, List.range_succ_eq_map, List.map_cons, List.map_map, List.cons.injEq] at hl
  obtain ⟨rfl, rfl⟩ := hl
  rw [hout, reduced, special_of_finite hreverse, ← hfold]
  rfl

end Sys2Proof.Machine
end

section
namespace Sys2Proof.Machine

/-! ## VTOPK (R213) -/

/-- `a` comes before `b` or in its place: a greater rank, or the same and no greater index. -/
def Before (a b : Int × Nat × Nat) : Prop := b.1 < a.1 ∨ b.1 = a.1 ∧ a.2.1 ≤ b.2.1

/-- The pass for the greatest rank, over entries in the order of their indices, finds the first of that rank. -/
theorem foldl_best (m : Int × Nat × Nat) (l : List (Int × Nat × Nat)) (hsorted : (m :: l).Pairwise (fun a b => a.2.1 < b.2.1)) :
    l.foldl (fun m y => if m.1 < y.1 then y else m) m ∈ m :: l ∧ ∀ y ∈ m :: l, Before (l.foldl (fun m y => if m.1 < y.1 then y else m) m) y := by
  induction l generalizing m with
  | nil => simp [Before]
  | cons z l ih =>
    obtain ⟨hm, hzl⟩ := List.pairwise_cons.1 hsorted
    have hmz : m.2.1 < z.2.1 := hm z List.mem_cons_self
    rw [List.foldl_cons]
    split
    case isTrue hlt =>
      obtain ⟨hmem, hall⟩ := ih z hzl
      have hz := hall z List.mem_cons_self
      refine ⟨List.mem_cons_of_mem _ hmem, fun y hy => ?_⟩
      rcases List.mem_cons.1 hy with rfl | hy
      · unfold Before at hz ⊢; omega
      · exact hall y hy
    case isFalse hle =>
      have hsorted' : (m :: l).Pairwise (fun a b => a.2.1 < b.2.1) :=
        List.pairwise_cons.2 ⟨fun y hy => hm y (List.mem_cons_of_mem _ hy), (List.pairwise_cons.1 hzl).2⟩
      obtain ⟨hmem, hall⟩ := ih m hsorted'
      have hbest := hall m List.mem_cons_self
      refine ⟨?_, fun y hy => ?_⟩
      · rcases List.mem_cons.1 hmem with h | h
        · rw [h]; exact List.mem_cons_self
        · exact List.mem_cons_of_mem _ (List.mem_cons_of_mem _ h)
      · rcases List.mem_cons.1 hy with rfl | hy
        · exact hbest
        · rcases List.mem_cons.1 hy with rfl | hy
          · unfold Before at hbest ⊢; omega
          · exact hall y (List.mem_cons_of_mem _ hy)

/-- The entry of VTOPK for the element of an index. -/
def rankEntry (rank : Nat → Int) (val : Nat → Nat) (q : Nat) : Int × Nat × Nat := (rank q, q, val q)

/-- Of `qs`, the list `ps` names the first in order, one after another: each is before every one not named earlier. -/
def PicksFirst (rank : Nat → Int) (val : Nat → Nat) (qs ps : List Nat) : Prop :=
  ∀ j q, ps[j]? = some q → q ∈ qs ∧ q ∉ ps.take j ∧ ∀ p ∈ qs, p ∉ ps.take j → Before (rankEntry rank val q) (rankEntry rank val p)

/-- VTOPK's selection from as many entries as it takes, or more. -/
theorem topk_picks (rank : Nat → Int) (val : Nat → Nat) (k : Nat) (qs : List Nat) (hsorted : qs.Pairwise (· < ·)) (hk : k ≤ qs.length) :
    ∃ ps, topk k (qs.map (rankEntry rank val)) = ps.map (fun q => (q, val q)) ∧ ps.length = k ∧ PicksFirst rank val qs ps := by
  induction k generalizing qs with
  | zero => exact ⟨[], rfl, rfl, fun j q hq => by simp at hq⟩
  | succ k ih =>
    obtain ⟨a, l, rfl⟩ := List.exists_cons_of_length_pos (show 0 < qs.length by omega)
    have hentries : ((a :: l).map (rankEntry rank val)).Pairwise (fun a b => a.2.1 < b.2.1) := List.pairwise_map.2 hsorted
    obtain ⟨hmem, hall⟩ := foldl_best (rankEntry rank val a) (l.map (rankEntry rank val)) hentries
    rw [← List.map_cons] at hmem hall
    obtain ⟨q, hq, hbest⟩ := List.mem_map.1 hmem
    have hstep : topk (k + 1) ((a :: l).map (rankEntry rank val))
        = (q, val q) :: topk k (((a :: l).map (rankEntry rank val)).filter (fun y => y.2.1 != q)) := by
      rw [List.map_cons, topk, ← hbest]
      rfl
    have hrest : ((a :: l).map (rankEntry rank val)).filter (fun y => y.2.1 != q) = ((a :: l).filter (· != q)).map (rankEntry rank val) := by
      rw [List.filter_map]; rfl
    have hlength : k ≤ ((a :: l).filter (· != q)).length := by
      have hnodup : (a :: l).Nodup := hsorted.imp Nat.ne_of_lt
      rw [← hnodup.erase_eq_filter, List.length_erase_of_mem hq]
      omega
    obtain ⟨ps, htop, hlen, hpicks⟩ := ih _ (hsorted.filter _) hlength
    refine ⟨q :: ps, ?_, by rw [List.length_cons, hlen], fun j p hp => ?_⟩
    · rw [hstep, hrest, htop]
      rfl
    · cases j with
      | zero =>
        obtain rfl : q = p := by simpa using hp
        refine ⟨hq, List.not_mem_nil, fun p hp _ => ?_⟩
        rw [hbest]
        exact hall _ (List.mem_map_of_mem hp)
      | succ j =>
        obtain ⟨hin, hnew, hfirst⟩ := hpicks j p (by simpa using hp)
        obtain ⟨hin, hne⟩ := List.mem_filter.1 hin
        have hne : p ≠ q := by simpa using hne
        rw [List.take_succ_cons]
        refine ⟨hin, by simp [hne, hnew], fun p' hp' hnew' => ?_⟩
        have hnot : p' ≠ q ∧ p' ∉ ps.take j := by simpa using hnew'
        exact hfirst p' (List.mem_filter.2 ⟨hp', by simpa using hnot.1⟩) hnot.2

/-- Element `j` of the tile that VTOPK ranks. -/
def topkElem (x : VSrc) (j : Nat) : Nat := elemOf 32 (x.a.get {} (j / 16)).data (j % 16)
theorem topkElem_lt (x : VSrc) (j : Nat) : topkElem x j < 2 ^ 32 := elemOf_lt _ _ _

/-- The value that VTOPK gives for an element: a NaN leaves as the canonical one. -/
def topkValue (v : Tv) (y : Nat) : Nat := if v.ty.toNat = 6 ∧ f32.decode y = .nan then 0x7FC00000 else y

theorem topkValue_lt (v : Tv) {y : Nat} (hy : y < 2 ^ 32) : topkValue v y < 2 ^ 32 := by
  unfold topkValue
  split
  · decide
  · exact hy

/-- The two rows of VTOPK: the values picked, and their indices; 0 beyond the last. -/
theorem vtopk_picks {h : Hdr} {v : Tv} {x : VSrc} (hk : v.imm.toNat ≤ 16) :
    ∃ ps, ps.length = v.imm.toNat ∧ PicksFirst (fun q => rankOf v.ty.toNat (topkElem x q)) (topkElem x) (List.range 512) ps
      ∧ ∀ j < 16, elemOf 32 (vrow (.vtopk h v) v x 1).data j = (ps[j]?).getD 0
          ∧ elemOf 32 (vrow (.vtopk h v) v x 0).data j = (ps[j]?.map (fun q => topkValue v (topkElem x q))).getD 0 := by
  obtain ⟨ps, htop, hlen, hpicks⟩ := topk_picks (fun q => rankOf v.ty.toNat (topkElem x q)) (topkElem x) v.imm.toNat (List.range 512)
    List.pairwise_lt_range (by rw [List.length_range]; omega)
  have hindices : (vrow (.vtopk h v) v x 1).data = rowOfList 5 (ps.map id) := by
    have hrow : (vrow (.vtopk h v) v x 1).data = rowOfList 5 ((topk v.imm.toNat ((List.range 512).map
      (rankEntry (fun q => rankOf v.ty.toNat (topkElem x q)) (topkElem x)))).map Prod.fst) := rfl
    rw [hrow, htop, List.map_map]; rfl
  have hvalues : (vrow (.vtopk h v) v x 0).data = rowOfList 5 (ps.map (fun q => topkValue v (topkElem x q))) := by
    have hrow : (vrow (.vtopk h v) v x 0).data = rowOfList 5 ((topk v.imm.toNat ((List.range 512).map
      (rankEntry (fun q => rankOf v.ty.toNat (topkElem x q)) (topkElem x)))).map (fun p => topkValue v p.2)) := rfl
    rw [hrow, htop, List.map_map]; rfl
  have hread (f : Nat → Nat) (hf : ∀ q ∈ ps, f q < 2 ^ 32) {j : Nat} (hj : j < 16) : elemOf 32 (rowOfList 5 (ps.map f)) j = (ps[j]?.map f).getD 0 := by
    refine (elemOf_rowOfList 5 _ hj).trans ?_
    rw [List.getD_eq_getElem?_getD, List.getElem?_map]
    refine Nat.mod_eq_of_lt ?_
    cases hget : ps[j]? with
    | none => exact Nat.two_pow_pos _
    | some q => exact hf q (List.mem_of_getElem? hget)
  have hbound : ∀ q ∈ ps, q < 2 ^ 32 := fun q hq => by
    obtain ⟨j, hj⟩ := List.mem_iff_getElem?.1 hq
    exact lt_trans (List.mem_range.1 (hpicks j q hj).1) (by decide)
  refine ⟨ps, hlen, hpicks, fun j hj => ⟨?_, ?_⟩⟩
  · rw [hindices, hread id hbound hj, Option.map_id]; rfl
  · rw [hvalues, hread (fun q => topkValue v (topkElem x q)) (fun q _ => topkValue_lt v (topkElem_lt x q)) hj]

/-! ## VRNG (R214, R215) -/

/-- An element within a wider one. -/
theorem elemOf_within {w k i : Nat} (x : Row) (q : Nat) (hi : i < k) : elemOf w x (k * q + i) = elemOf (w * k) x q / 2 ^ (w * i) % 2 ^ w := by
  refine Nat.eq_of_testBit_eq fun b => ?_
  rw [testBit_elemOf, Nat.testBit_mod_two_pow, Nat.testBit_div_two_pow, testBit_elemOf]
  by_cases hb : b < w
  case neg => simp [hb]
  case pos =>
    have hfit : b + w * i < w * k := by
      calc b + w * i < w * (i + 1) := by rw [Nat.mul_succ]; omega
        _ ≤ w * k := Nat.mul_le_mul_left w hi
    rw [decide_eq_true hfit, Bool.true_and]
    congr 2
    ring

/-- Group `j` of row `r` of the counter generator. -/
def rngGroup (x : VSrc) (r j : Nat) : Nat :=
  (icg ((x.a.get {} 0).data.setWidth 128) (((x.a.get {} 0).data >>> 128).setWidth 64 + BitVec.ofNat 64 (4 * r + j))).toNat

/-- The row of the four groups of the counter generator. -/
def rngRaw (x : VSrc) (r : Nat) : Row := BitVec.ofNat 512 (packed 128 (rngGroup x r) 4)

theorem elemOf_rngRaw (x : VSrc) (r : Nat) {j : Nat} (hj : j < 4) : elemOf 128 (rngRaw x r) j = rngGroup x r j :=
  elemOf_packed (w := 128) (n := 4) (fun _ => BitVec.isLt _) (by decide) hj

theorem vrng_row (h : Hdr) (v : Tv) (x : VSrc) (r : Nat) : (vrow (.vrng h v) v x r).data =
    if v.ty = 6 then rowOf 32 16 (fun i => if elemOf 32 (rngRaw x r) i / 256 = 0 then 0
      else f32.round 0 false (.num (elemOf 32 (rngRaw x r) i / 256 : Nat) (-24))) else rngRaw x r := by
  have hraw : BitVec.ofNat 512 (rngGroup x r 0 + 2 ^ 128 * (rngGroup x r 1 + 2 ^ 128 * (rngGroup x r 2 + 2 ^ 128 * rngGroup x r 3))) = rngRaw x r := by
    rw [rngRaw]
    congr 1
    simp only [packed_succ, show packed 128 (rngGroup x r) 0 = 0 from rfl, pow_mul]
    generalize 2 ^ 128 = p
    ring
  rw [← hraw]
  rfl

/-- VRNG.N32 gives the groups of the counter generator. -/
theorem vrng_groups {h : Hdr} {v : Tv} {x : VSrc} {r : Nat} (hty : v.ty.toNat ≠ 6) {j : Nat} (hj : j < 4) :
    elemOf 128 (vrow (.vrng h v) v x r).data j = rngGroup x r j := by
  rw [vrng_row, if_neg (fun h => hty (by rw [h]; rfl)), elemOf_rngRaw x r hj]

/-- VRNG.F32 scales the upper 24 bits of each word. -/
theorem vrng_uniform {h : Hdr} {v : Tv} {x : VSrc} {r : Nat} (hty : v.ty.toNat = 6) {j : Nat} (hj : j < 16) :
    elemOf 32 (vrow (.vrng h v) v x r).data j = (let z : Nat := rngGroup x r (j / 4) / 2 ^ (32 * (j % 4)) % 2 ^ 32 / 256;
      if z = 0 then 0 else f32.round 0 false (.num z (-24))) := by
  have hword : elemOf 32 (rngRaw x r) j = rngGroup x r (j / 4) / 2 ^ (32 * (j % 4)) % 2 ^ 32 := by
    have hwithin := elemOf_within (w := 32) (k := 4) (rngRaw x r) (j / 4) (Nat.mod_lt j (by decide))
    rw [Nat.div_add_mod] at hwithin
    rw [hwithin, elemOf_rngRaw x r (by omega)]
  rw [vrng_row, if_pos (BitVec.eq_of_toNat_eq hty), elemOf_rowOf _ (by decide) hj, hword]
  refine Nat.mod_eq_of_lt ?_
  split
  · decide
  · exact Fmt.round_lt (f := f32) (by decide) _

end Sys2Proof.Machine
end

section
namespace Sys2Proof.Machine

/-! ## The values of the vector forms (R205 to R215) -/

theorem vmovt_row (h : Hdr) (v : Tv) (x : VSrc) (r : Nat) :
    vrow (.vmovt h v) v x r = if x.tap then { data := (x.a.get {} r).data } else { x.a.get {} r with poison := false } := rfl

theorem vmovt_data (h : Hdr) (v : Tv) (x : VSrc) (r : Nat) : (vrow (.vmovt h v) v x r).data = (x.a.get {} r).data := by
  rw [vmovt_row]
  split <;> rfl

section
variable {h : Hdr} {v : Tv} {x : VSrc} {r : Nat}

/-- The clause of VQNT, of either block format. -/
theorem vqnt_block {i : Instr} (hi : vrow i v x r = qntRow v (x.a.get {}) r) {j : Nat}
    (hj : v.ty.toNat = 9 ∧ j < 2 ∨ v.ty.toNat = 10 ∧ j < 4) :
    let k := (r * (tyEpr v.ty.toNat / 32) + j) * 32
    let q := quantise (v.ty.toNat == 10) v.rnd.toNat ((List.range 32).map (fun i =>
      sourceVal v.srcTy.toNat (x.a.get {} ((k + i) / tyEpr v.srcTy.toNat)) ((k + i) % tyEpr v.srcTy.toNat)))
    let exps : Nat := ((vrow i v x r).side >>> (16 * j)).toNat % 65536
    (vrow i v x r).tag = (if v.ty.toNat = 10 then 2 else 1)
    ∧ (k < convCount v.srcTy.toNat v.ty.toNat → exps = q.1.1 + 256 * q.1.2
        ∧ ∀ m < 32, ∃ b, q.2[m]? = some b ∧ outElem i v x r (32 * j + m) = b.bits (v.ty.toNat == 10))
    ∧ (convCount v.srcTy.toNat v.ty.toNat ≤ k → exps = 0 ∧ ∀ m < 32, outElem i v x r (32 * j + m) = 0) := by
  intro k q exps
  have hper : j < tyEpr v.ty.toNat / 32 ∧ tyEpr v.ty.toNat / 32 ≤ 4 := by
    rcases hj with ⟨hty, hj⟩ | ⟨hty, hj⟩ <;> rw [hty] <;> exact ⟨hj, by decide⟩
  have hty : v.ty.toNat = 9 ∨ v.ty.toNat = 10 := hj.imp And.left And.left
  have helem (e : Nat) : outElem i v x r e = elemOf (tyBits v.ty.toNat) (qntRow v (x.a.get {}) r).data e := by rw [outElem, hi]
  have hexps : exps = ((qntRow v (x.a.get {}) r).side >>> (16 * j)).toNat % 65536 := by rw [← hi]
  refine ⟨?_, fun hk => ?_, fun hk => ?_⟩
  · rw [hi, qntRow_eq]
    rcases hty with hty | hty <;> rw [hty] <;> rfl
  · have hq : qntBlock v (x.a.get {}) r j = q := if_pos hk
    have hblock := qntRow_quantised (a := x.a.get {}) hper.1 hper.2 hty hk
    rw [hq] at hblock
    simp only [helem, hexps]
    exact hblock
  · simp only [helem, hexps]
    exact qntRow_beyond hper.1 hper.2 hk

/-- The clause of VTOPK: each element given is before every one not given earlier. -/
theorem vtopk_selects (hk : v.imm.toNat ≤ 16) :
    let el (j : Nat) : Nat := topkElem x j
    let rank (y : Nat) : Int := rankOf v.ty.toNat y
    let at' (q j : Nat) : Nat := elemOf 32 (vrow (.vtopk h v) v x q).data j
    (∀ j < v.imm.toNat, at' 1 j < 512 ∧ at' 0 j = topkValue v (el (at' 1 j)) ∧ (∀ i < j, at' 1 i ≠ at' 1 j)
      ∧ ∀ q < 512, (∀ i < j, at' 1 i ≠ q) → rank (el q) < rank (el (at' 1 j)) ∨ (rank (el q) = rank (el (at' 1 j)) ∧ at' 1 j ≤ q))
    ∧ (∀ j, v.imm.toNat ≤ j → j < 16 → at' 0 j = 0 ∧ at' 1 j = 0) := by
  intro el rank at'
  obtain ⟨ps, hlen, hpicks, hrows⟩ := vtopk_picks (h := h) (x := x) hk
  have hindex {i q : Nat} (hi : i < 16) (hq : ps[i]? = some q) : at' 1 i = q := by
    rw [show at' 1 i = _ from (hrows i hi).1, hq]; rfl
  have hnamed {i j : Nat} (hij : i < j) (hj : j < v.imm.toNat) : at' 1 i ∈ ps.take j := by
    have hget := List.getElem?_eq_getElem (show i < ps.length by omega)
    rw [hindex (by omega) hget]
    exact List.mem_of_getElem? (i := i) (by rw [List.getElem?_take_of_lt hij, hget])
  refine ⟨fun j hj => ?_, fun j hj hj16 => ?_⟩
  · have hget := List.getElem?_eq_getElem (show j < ps.length by omega)
    obtain ⟨hmem, hnew, hfirst⟩ := hpicks j _ hget
    have hat := hindex (by omega) hget
    rw [← hat] at hmem hnew hfirst
    refine ⟨List.mem_range.1 hmem, ?_, fun i hi heq => hnew (heq ▸ hnamed hi hj), fun q hq hother => hfirst q (List.mem_range.2 hq) fun hin => ?_⟩
    · rw [show at' 0 j = _ from (hrows j (by omega)).2, hget, hat]; rfl
    · obtain ⟨i, hi⟩ := List.mem_iff_getElem?.1 hin
      rw [List.getElem?_take] at hi
      split at hi
      case isTrue hij => exact hother i hij (hindex (by omega) hi)
      case isFalse => exact absurd hi nofun
  · have hget : ps[j]? = none := List.getElem?_eq_none (by omega)
    exact ⟨by rw [show at' 0 j = _ from (hrows j hj16).2, hget]; rfl, by rw [show at' 1 j = _ from (hrows j hj16).1, hget]; rfl⟩

end

/-- Settles O48, clause by clause from the values of the forms. -/
theorem vectorValues : Obligations.VectorValues := by
  intro h v x r e ty w a b out num clamp
  refine ⟨fun hty he => ?integers, fun hty hty' he => ?floats, fun hty hty' he => ?unit, fun hty hst he i hi => ?conversion, fun j hj _ => ?blocks,
    fun he => ?reductions, fun hty hk1 hk => ?top, ⟨fun hty j hj => ?groups, fun hty j hj => vrng_uniform hty hj⟩, fun he _ => ?permute, rfl, rfl, rfl,
    fun g hg _ => vsel_group h v x r hg, rfl, rfl, vmovt_data h v x r, ⟨⟨rfl, rfl⟩, ⟨rfl, rfl⟩, fun htap => ?moved, fun htap => ?tapped⟩,
    fun g old hg hty hc => ?compareI, fun g old hg hty hty' hin => vcmpMask_compared old hg (.vcmpF h v) hin⟩
  case integers =>
    obtain ⟨hmin, hmax⟩ := minMaxI_exact (h := h) (x := x) (r := r) he
    obtain ⟨hshl, hshr⟩ := shiftForms (h := h) (x := x) (r := r) he
    obtain ⟨hperm, hbcast⟩ := moveForms (h := h) (x := x) (r := r) he
    exact ⟨integerForms_wrap he hty, integerForms_clamp he hty, hmin, hmax, hshl, hshr, shiftRightI he, hperm, hbcast⟩
  case floats =>
    obtain ⟨habs, hneg⟩ := floatSigns (h := h) (x := x) (r := r) he (tyF_float hty hty')
    exact ⟨outElem_elemOp he (i := .vaddF h v) rfl, outElem_elemOp he (i := .vmulF h v) rfl, outElem_elemOp he (i := .vfma h v) rfl,
      outElem_elemOp he (i := .vsubF h v) rfl, outElem_elemOp he (i := .vminF h v) rfl, outElem_elemOp he (i := .vmaxF h v) rfl, habs, hneg⟩
  case unit =>
    exact ⟨fun hd i hi => unitForms_nan he hi hty hty' hd, fun n hd => unitForms_inf he hty hty' hd, fun n hd => unitForms_zero he hd,
      fun m k hd hm => unitForms_negative he hty hty' hd hm, fun j hj hd => vlog_one he hj hd, fun m k hd hdvd => vrcp_exact he hd hdvd⟩
  case conversion =>
    have hval := sourceVal_eq v.srcTy.toNat (convLine v x r e) (convPlace v r e)
    refine ⟨vcvt_beyond he hi, fun hk hty' => ?_, fun hk hty' hst' => ?_, fun hk hty' hst' => ?_⟩
    · exact (vcvt_toFloat he hi hk hty' hty).trans (by rw [hval]; rfl)
    · exact (vcvt_toInteger he hi hk hty' hst').trans (by rw [hval]; rfl)
    · exact ⟨vcvt_integers_wrap he hi hk hty' hst', vcvt_integers_clamp he hi hk hty' hst'⟩
  case blocks => exact vqnt_block (by split <;> rfl) hj
  case reductions =>
    refine ⟨fun hty hne => ?_, fun hty hin => ?_, fun hty hty' => ?_⟩
    · exact ⟨fun hop => (vredI_sum he hty hne hop).1, fun hop => (vredI_sum he hty hne hop).2, vredI_greatest he hty hne, vredI_least he hty hne⟩
    · exact ⟨vscanI_sum he hin hty, vscanI_greatest he hin hty, vscanI_least he hin hty⟩
    · exact ⟨vredF_clashing he hty hty', fun b hinf => vredF_infinite he hty hty' hinf.1 hinf.2,
        fun hin => ⟨vscanF_clashing he hin hty hty', fun b hinf => vscanF_infinite he hin hty hty' hinf.1 hinf.2⟩,
        fun t hmen hop hfinite hleaf hstep => vredF_sum he hty hty' hmen hop hfinite hleaf hstep,
        fun t hmen hop hfinite hfirst hnext => vscanF_sum he hty hty' hmen hop hfinite hfirst hnext⟩
  case top =>
    obtain ⟨hpicked, hrest⟩ := vtopk_selects (h := h) (x := x) hk
    refine ⟨hpicked, hrest, fun hr => ?_⟩
    exact congrArg Line.data (if_pos hr)
  case groups => exact vrng_groups (fun h6 => absurd (hty.symm.trans h6) (by decide)) hj
  case permute =>
    have hmoves := vpermImm_moves (h := h) (x := x) (r := r) he
    refine ⟨fun hk => hmoves.trans ?_, fun hk => hmoves.trans ?_, fun hk => hmoves.trans ?_, fun hk => hmoves.trans ?_⟩
    all_goals
      rw [show (v.imm.extractLsb' 8 3).toNat = _ from hk]
      rfl
  case moved => rw [vmovt_row, htap]; exact ⟨rfl, rfl⟩
  case tapped => rw [vmovt_row, htap]; exact ⟨rfl, rfl⟩
  case compareI =>
    refine ⟨fun hmen hclear => vcmpMask_left old hg _ hmen hclear, fun hin => ?_⟩
    exact (vcmpMask_compared old hg (.vcmpI h v) hin).trans (forall₂_congr fun j _ => elemCond_integer h v _ _ hc)
end Sys2Proof.Machine
end

section
namespace Sys2Proof.Machine

/-! ## Class sums (R190, R192) -/

/-- A sum gathered along a list. -/
theorem foldl_sum {α : Type} (g : α → Int) (l : List α) : l.foldl (fun s x => s + g x) 0 = (l.map g).sum := by
  rw [List.sum_eq_foldl, List.foldl_map]

/-- The contribution of a pair of elements to the class of selectors `u`, `v`. -/
def classTerm (u v : Bool) (p : BElem × BElem) : Int :=
  if p.1.sel = u ∧ p.2.sel = v then (if p.1.neg = p.2.neg then (1 : Int) else -1) * ((p.1.mag : Int) * (p.2.mag : Int)) else 0

/-- A class: the sum of its terms, at the sum of the exponents that it selects. -/
def kblockSum (four : Bool) (a b : KBlock) (u v : Bool) : ClassSum :=
  (((a.els.zip b.els).map (classTerm u v)).sum,
    ((if u then a.ex.2 else a.ex.1 : Nat) : Int) + ((if v then b.ex.2 else b.ex.1 : Nat) : Int) - 2 * (127 + magBits four))

theorem classSums_eq (four : Bool) (a b : KBlock) : classSums four a b =
    [kblockSum four a b false false, kblockSum four a b false true, kblockSum four a b true false, kblockSum four a b true true] := by
  have hterm (u v : Bool) (s : Int) (p : BElem × BElem) : (if p.1.sel = u ∧ p.2.sel = v then
      (if p.1.neg = p.2.neg then s + (p.1.mag * p.2.mag : Nat) else s - (p.1.mag * p.2.mag : Nat)) else s) = s + classTerm u v p := by
    unfold classTerm
    split
    · split <;> push_cast <;> ring
    · exact (Int.add_zero s).symm
  simp only [classSums, hterm, foldl_sum]
  rfl

theorem classSums_getD (four u v : Bool) (a b : KBlock) :
    (classSums four a b).getD ((if u then 2 else 0) + (if v then 1 else 0)) (0, 0) = kblockSum four a b u v := by
  rw [classSums_eq]
  cases u <;> cases v <;> rfl

theorem classSumI8_eq (a b : List Int) : classSumI8 a b = (((a.zip b).map (fun p => p.1 * p.2)).sum, 0) := by
  rw [classSumI8, foldl_sum]

/-! ## Accumulation (R191) -/

theorem profWidth_sub (prof : Nat) : (profWidth prof : Int) - 24 = if prof = 1 then 24 else 40 := by
  unfold profWidth
  split <;> rfl

/-- A sum over the entries that contribute is the sum over all. -/
theorem sum_filter_of_zero {α : Type} {p : α → Bool} {f : α → Int} (l : List α) (hzero : ∀ x ∈ l, p x = false → f x = 0) :
    ((l.filter p).map f).sum = (l.map f).sum := by
  induction l with
  | nil => rfl
  | cons x l ih =>
    have hrest := ih fun y hy => hzero y (List.mem_cons_of_mem _ hy)
    cases hp : p x with
    | false => rw [List.filter_cons_of_neg (by simp [hp]), List.map_cons, List.sum_cons, hzero x List.mem_cons_self hp, hrest, Int.zero_add]
    | true => rw [List.filter_cons_of_pos hp, List.map_cons, List.sum_cons, List.map_cons, List.sum_cons, hrest]

/-- A class sum in units of the last place of the window. -/
def inWindow (lsb : Int) (p : ClassSum) : Int := if lsb ≤ p.2 then p.1 * 2 ^ (p.2 - lsb).toNat else p.1.tdiv (2 ^ (lsb - p.2).toNat)

theorem inWindow_zero {lsb : Int} {p : ClassSum} (h : p.1 = 0) : inWindow lsb p = 0 := by
  unfold inWindow
  split
  · rw [h, Int.zero_mul]
  · rw [h, Int.zero_tdiv]

/-- The greatest exponent of a list, found along it. -/
theorem foldl_max_exp {p : ClassSum} {r : List ClassSum} {top : Int} (hmem : ∃ x ∈ p :: r, x.2 = top) (hle : ∀ x ∈ p :: r, x.2 ≤ top) :
    r.foldl (fun m x => max m x.2) p.2 = top := by
  have hfold : r.foldl (fun m x => max m x.2) p.2 = (r.map Prod.snd).foldl (redI 1) p.2 := by rw [List.foldl_map]; rfl
  obtain ⟨hin, hall⟩ := foldl_max_greatest p.2 (r.map Prod.snd)
  rw [← List.map_cons] at hin hall
  rw [hfold]
  obtain ⟨x, hx, rfl⟩ := hmem
  obtain ⟨y, hy, heq⟩ := List.mem_map.1 hin
  exact le_antisymm (heq ▸ hle y hy) (hall _ (List.mem_map_of_mem hx))

section
variable (prof acc : Nat) (ps : List ClassSum)

theorem accumulate_nan {nan : Bool} (h : nan = true ∨ f32.decode acc = .nan) : accumulate (profWidth prof) nan acc ps = 0x7FC00000 := if_pos h

variable (hacc : f32.decode acc ≠ .nan)
include hacc

/-- Nothing to add leaves the accumulator. -/
theorem accumulate_nothing (hzero : ∀ p ∈ ps, p.1 = 0) : accumulate (profWidth prof) false acc ps = acc := by
  have hnone : ps.filter (fun p => p.1 ≠ 0) = [] := List.filter_eq_nil_iff.2 fun p hp => by simp [hzero p hp]
  simp only [accumulate, hacc, Bool.false_eq_true, or_self, if_false, hnone]

/-- Otherwise the exact sum over the window is added, and rounded once. -/
theorem accumulate_sum {top : Int} (hmem : ∃ p ∈ ps, p.1 ≠ 0 ∧ p.2 = top) (hle : ∀ p ∈ ps, p.1 ≠ 0 → p.2 ≤ top) :
    let lsb := top - (if prof = 1 then 24 else 40)
    let sum := (ps.map (inWindow lsb)).sum
    accumulate (profWidth prof) false acc ps = f32.round 0 false (FVal.add 0 (f32.decode acc) (if sum = 0 then .zero false else .num sum lsb)) := by
  intro lsb sum
  have hfilter {p : ClassSum} : p ∈ ps.filter (fun p => p.1 ≠ 0) ↔ p ∈ ps ∧ p.1 ≠ 0 := by simp
  obtain ⟨q, hq, hne, htop⟩ := hmem
  obtain ⟨p, r, hl⟩ := List.exists_cons_of_ne_nil (List.ne_nil_of_mem (hfilter.2 ⟨hq, hne⟩))
  have hmax : r.foldl (fun m x => max m x.2) p.2 = top := by
    refine foldl_max_exp ⟨q, hl ▸ hfilter.2 ⟨hq, hne⟩, htop⟩ fun x hx => ?_
    obtain ⟨hx, hx0⟩ := hfilter.1 (hl ▸ hx)
    exact hle x hx hx0
  have hsum : (p :: r).foldl (fun t x => t + inWindow lsb x) 0 = sum := by
    rw [foldl_sum, ← hl, sum_filter_of_zero ps fun x _ hx => inWindow_zero (by simpa using hx)]
  have hunfold : accumulate (profWidth prof) false acc ps = (let s := (p :: r).foldl (fun t x => t + inWindow lsb x) 0
      f32.round 0 false (FVal.add 0 (f32.decode acc) (if s = 0 then .zero false else .num s lsb))) := by
    simp only [accumulate, hacc, Bool.false_eq_true, or_self, if_false, hl, hmax, profWidth_sub]
    rfl
  rw [hunfold, hsum]

end

/-! ## The Hadamard matrix (R194) -/

theorem foldl_count {α : Type} (p : α → Prop) [DecidablePred p] (l : List α) (n : Nat) :
    l.foldl (fun k b => if p b then k + 1 else k) n = n + l.countP (fun b => p b) := by
  induction l generalizing n with
  | nil => rfl
  | cons b l ih =>
    rw [List.foldl_cons, ih]
    by_cases h : p b
    · rw [if_pos h, List.countP_cons_of_pos (by simpa using h)]; omega
    · rw [if_neg h, List.countP_cons_of_neg (by simpa using h)]

theorem hadamard_eq (i j : Nat) : hadamard i j = (-1) ^ (List.range 6).countP (fun b => i.testBit b && j.testBit b) := by
  have hbits (b : Nat) : decide (i / 2 ^ b % 2 * (j / 2 ^ b % 2) = 1) = (i.testBit b && j.testBit b) := by
    rw [Nat.testBit_eq_decide_div_mod_eq, Nat.testBit_eq_decide_div_mod_eq, ← Bool.decide_and]
    exact decide_eq_decide.2 mul_eq_one
  unfold hadamard
  rw [foldl_count, Nat.zero_add]
  simp only [hbits]
  split
  case isTrue heven => exact ((Nat.even_iff.2 heven).neg_one_pow).symm
  case isFalse hodd => exact ((Nat.odd_iff.2 (by omega)).neg_one_pow).symm

end Sys2Proof.Machine
end

section
namespace Sys2Proof.Machine

/-! ## A run of table entries replaced -/

theorem Tbl.findIn_append {α : Type} (l l' : List (Nat × α)) (j : Nat) : Tbl.findIn (l ++ l') j = (Tbl.findIn l j).or (Tbl.findIn l' j) := by
  induction l with
  | nil => rfl
  | cons e l ih =>
    obtain ⟨a, v⟩ := e
    rw [List.cons_append, Tbl.findIn, Tbl.findIn]
    split
    · rfl
    · exact ih

theorem Tbl.findIn_filter {α : Type} (p : Nat → Bool) (l : List (Nat × α)) (j : Nat) :
    Tbl.findIn (l.filter (fun e => p e.1)) j = if p j then Tbl.findIn l j else none := by
  induction l with
  | nil => exact (ite_self _).symm
  | cons e l ih =>
    obtain ⟨a, v⟩ := e
    rw [List.filter_cons]
    by_cases hj : a = j
    · subst a
      cases hp : p j <;> simp [hp, Tbl.findIn, ih]
    · cases hp : p a <;> simp [Tbl.findIn, hj, ih]

theorem Tbl.findIn_zipIdx {α : Type} (vs : List α) (k j : Nat) :
    Tbl.findIn ((vs.zipIdx k).map (fun p => (p.2, p.1))) j = if k ≤ j then vs[j - k]? else none := by
  induction vs generalizing k with
  | nil => simp [Tbl.findIn]
  | cons v vs ih =>
    rw [List.zipIdx_cons, List.map_cons, Tbl.findIn, ih]
    rcases lt_trichotomy j k with h | rfl | h
    · rw [if_neg (by omega), if_neg (by omega), if_neg (by omega)]
    · simp
    · rw [if_neg (by omega), if_pos (by omega), if_pos (by omega), show j - k = j - (k + 1) + 1 by omega, List.getElem?_cons_succ]

theorem Tbl.find?_splice {α : Type} (t : Tbl α) (k : Nat) (vs : List α) (j : Nat) :
    (t.splice k vs).find? j = if k ≤ j ∧ j < k + vs.length then vs[j - k]? else t.find? j := by
  unfold Tbl.splice Tbl.find?
  rw [Tbl.findIn_append, Tbl.findIn_append, Tbl.findIn_filter (fun n => decide (n < k)), Tbl.findIn_filter (fun n => decide (k + vs.length ≤ n)),
    Tbl.findIn_zipIdx]
  simp only [decide_eq_true_eq]
  rcases lt_or_ge j k with h | h
  · rw [if_pos h, if_neg (by omega), if_neg (by omega), if_neg (by omega), Option.or_none, Option.or_none]
  · rw [if_neg (by omega), if_pos h, Option.none_or]
    by_cases hin : j < k + vs.length
    · rw [if_neg (by omega), if_pos ⟨h, hin⟩, Option.or_none]
    · rw [if_pos (by omega), if_neg (by omega), List.getElem?_eq_none (by omega), Option.none_or]

section
variable {α : Type} (t : Tbl α) (d : α) {k j : Nat}

theorem Tbl.get_splice_in {vs : List α} (hk : k ≤ j) (hj : j < k + vs.length) : (t.splice k vs).get d j = vs[j - k]'(by omega) := by
  rw [Tbl.get, Tbl.find?_splice, if_pos ⟨hk, hj⟩, List.getElem?_eq_getElem (by omega), Option.getD_some]

theorem Tbl.get_splice_out {vs : List α} (h : j < k ∨ k + vs.length ≤ j) : (t.splice k vs).get d j = t.get d j := by
  rw [Tbl.get, Tbl.find?_splice, if_neg (by omega), Tbl.get]

/-- A run of values given by their places. -/
theorem Tbl.get_splice_map_in {n : Nat} (f : Nat → α) (hk : k ≤ j) (hj : j < k + n) :
    (t.splice k ((List.range n).map f)).get d j = f (j - k) := by
  rw [Tbl.get_splice_in t d hk (by simpa using hj), List.getElem_map, List.getElem_range]

theorem Tbl.get_splice_map_out {n : Nat} (f : Nat → α) (h : j < k ∨ k + n ≤ j) : (t.splice k ((List.range n).map f)).get d j = t.get d j :=
  Tbl.get_splice_out t d (by simpa using h)

end

/-! ## A step of an MMA (R222, R230, R232) -/

/-- The slab after the read of row-quad `i` of A into the row buffer. -/
def Slab.readA (s : Slab) (w : WinEntry) (i : Nat) (f : MForm) (l0 l1 : Nat → Line) : Slab :=
  let hi := s.rowbuf.splice (4 * i) ((List.range 4).map (fun j => (bufferRows f (l0 (4 * i + j)) (l1 (4 * i + j))).1))
  { s with
    rowbuf := if f = .b16 then hi.splice (32 + 4 * i) ((List.range 4).map (fun j => (bufferRows f (l0 (4 * i + j)) (l1 (4 * i + j))).2)) else hi
    bad := s.bad.filter (fun k => !w.overwrites i k) }

section
variable (s : Slab) (w : WinEntry) {i : Nat} (f : MForm) (l0 l1 : Nat → Line)

theorem Slab.readA_row (_ : i < 8) {r : Nat} (hr : r / 4 = i) : (s.readA w i f l0 l1).rowbuf.get {} r = (bufferRows f (l0 r) (l1 r)).1 := by
  have hrow : (s.rowbuf.splice (4 * i) ((List.range 4).map (fun j => (bufferRows f (l0 (4 * i + j)) (l1 (4 * i + j))).1))).get {} r
      = (bufferRows f (l0 r) (l1 r)).1 := by
    rw [Tbl.get_splice_map_in _ _ _ (by omega) (by omega), show 4 * i + (r - 4 * i) = r by omega]
  unfold Slab.readA
  dsimp only
  split
  · rw [Tbl.get_splice_map_out _ _ _ (by omega), hrow]
  · exact hrow

theorem Slab.readA_row_lo (hf : f = .b16) {r : Nat} (hr : r / 4 = i) :
    (s.readA w i f l0 l1).rowbuf.get {} (32 + r) = (bufferRows f (l0 r) (l1 r)).2 := by
  unfold Slab.readA
  dsimp only
  rw [if_pos hf, Tbl.get_splice_map_in _ _ _ (by omega) (by omega), show 4 * i + (32 + r - (32 + 4 * i)) = r by omega]

theorem Slab.readA_row_other {r : Nat} (hr : r / 4 ≠ i) (hlo : f = .b16 → r / 4 ≠ i + 8) :
    (s.readA w i f l0 l1).rowbuf.get {} r = s.rowbuf.get {} r := by
  unfold Slab.readA
  dsimp only
  split
  case isTrue hf =>
    have := hlo hf
    rw [Tbl.get_splice_map_out _ _ _ (by omega), Tbl.get_splice_map_out _ _ _ (by omega)]
  case isFalse => rw [Tbl.get_splice_map_out _ _ _ (by omega)]

end

/-- The slab once the A read of step `i` of an MMA is done, where that step has one. -/
def Slab.afterRead (s : Slab) (w : WinEntry) (i : Nat) (f : MForm) (t : Nat) (a : Nat → Nat → Line) : Slab :=
  if i < 8 then s.readA w i f (a t) (a (t + 1)) else s

/-- Step `i` of an MMA: the read, and then the row that its last pass makes final. -/
theorem Slab.runStep_mma (s : Slab) {w : WinEntry} (i : Nat) {b : Nat} {f : MForm} {prof t : Nat} {ts peek : Bool} {tv : BitVec 4} (a : Nat → Nat → Line)
    (hw : mxOf w.instr = some (b, .mma f prof ts t tv peek)) : s.runStep w i a =
    match mmaRowAt f i with
    | some m => { s.afterRead w i f t a with
        acc := (s.afterRead w i f t a).acc.splice (512 * m) ((s.afterRead w i f t a).mmaRow f prof w.n.toNat w.planes m) }
    | none => s.afterRead w i f t a := by
  unfold Slab.runStep
  rw [hw]
  rfl

/-- The step that makes row `m` of the accumulator final. -/
def mmaLast (f : MForm) (m : Nat) : Nat := match f with | .db8 => 6 * m + 5 | .db4 => 2 * m + 1 | .i8 => 8 * m + 7 | .b16 => 384 + 6 * m + 5

theorem mmaRowAt_eq_some_iff (f : MForm) (i m : Nat) : mmaRowAt f i = some m ↔ i = mmaLast f m := by
  have hite (p : Prop) [Decidable p] (q : Nat) : (if p then some q else none) = some m ↔ p ∧ q = m := by split <;> simp [*]
  cases f
  all_goals
    refine (hite _ _).trans ?_
    simp only [passes, mmaLast]
    omega

theorem Slab.afterRead_acc (s : Slab) (w : WinEntry) (i : Nat) (f : MForm) (t : Nat) (a : Nat → Nat → Line) : (s.afterRead w i f t a).acc = s.acc := by
  unfold Slab.afterRead
  split <;> rfl

theorem Slab.afterRead_planes (s : Slab) (w : WinEntry) (i : Nat) (f : MForm) (t : Nat) (a : Nat → Nat → Line) :
    (s.afterRead w i f t a).p0 = s.p0 ∧ (s.afterRead w i f t a).p1 = s.p1 := by
  unfold Slab.afterRead
  split <;> exact ⟨rfl, rfl⟩

section
variable {s : Slab} {w : WinEntry} {i b : Nat} {f : MForm} {prof t : Nat} {ts peek : Bool} {tv : BitVec 4} {a : Nat → Nat → Line}
  (hw : mxOf w.instr = some (b, .mma f prof ts t tv peek))
include hw

/-- The arithmetic of a step leaves the row buffer and the planes. -/
theorem Slab.runStep_mma_keeps : (s.runStep w i a).rowbuf = (s.afterRead w i f t a).rowbuf
    ∧ (s.runStep w i a).p0 = s.p0 ∧ (s.runStep w i a).p1 = s.p1 := by
  obtain ⟨h0, h1⟩ := s.afterRead_planes w i f t a
  rw [s.runStep_mma i a hw]
  split <;> exact ⟨rfl, h0, h1⟩

/-- The new values of a row (R191, R222). -/
theorem Slab.runStep_mma_row {m : Nat} (hi : i = mmaLast f m) {j : Nat} (hj : j < w.n.toNat) :
    let u := s.runStep w i a
    let x := aVec f (u.rowbuf.get {} m) (u.rowbuf.get {} (32 + m))
    let y := bVec f ((s.plane (w.planes.getD 0 0)).get {} j) ((s.plane (w.planes.getD 1 0)).get {} j)
    u.acc.get 0 (512 * m + j) = BitVec.ofNat 32 (accumulate (profWidth prof) (x.blocks.any KBlock.hasNan || y.blocks.any KBlock.hasNan)
      (s.acc.get 0 (512 * m + j)).toNat (vecSums f x y)) := by
  obtain ⟨h0, h1⟩ := s.afterRead_planes w i f t a
  have hplane (p : Nat) : (s.afterRead w i f t a).plane p = s.plane p := by unfold Slab.plane; rw [h0, h1]
  intro u
  have hu : u = _ := s.runStep_mma i a hw
  rw [(mmaRowAt_eq_some_iff f i m).2 hi] at hu
  have hacc : u.acc.get 0 (512 * m + j) = _ :=
    (congrArg (fun u : Slab => u.acc.get 0 (512 * m + j)) hu).trans (Tbl.get_splice_map_in _ _ _ (by omega) (by omega))
  have hbuf : u.rowbuf = (s.afterRead w i f t a).rowbuf := (Slab.runStep_mma_keeps hw).1
  intro x y
  rw [hacc, Nat.add_sub_cancel_left, Slab.acc0, s.afterRead_acc, hplane, hplane, ← hbuf]

/-- Every other value of the accumulator stays. -/
theorem Slab.runStep_mma_others {k : Nat} (hk : ∀ m, i = mmaLast f m → k < 512 * m ∨ 512 * m + w.n.toNat ≤ k) :
    (s.runStep w i a).acc.get 0 k = s.acc.get 0 k := by
  rw [s.runStep_mma i a hw]
  split
  case h_1 m hm =>
    refine (Tbl.get_splice_map_out _ _ _ (hk m ((mmaRowAt_eq_some_iff f i m).1 hm))).trans ?_
    rw [s.afterRead_acc]
  case h_2 => rw [s.afterRead_acc]

end

end Sys2Proof.Machine
end

section
namespace Sys2Proof.Machine

/-! ## A step of an SLD (R221, R234) -/

theorem Slab.active_lt (s : Slab) : s.active < 2 := by unfold Slab.active; split <;> decide
theorem Slab.shadow_lt (s : Slab) : s.shadow < 2 := by unfold Slab.shadow; split <;> decide
theorem Slab.active_ne_shadow (s : Slab) : s.active ≠ s.shadow := by unfold Slab.active Slab.shadow; cases s.act <;> decide

theorem Slab.plane_setPlane (s : Slab) {p q : Nat} (hp : p < 2) (hq : q < 2) (t : Tbl PCol) (f : PFmt) :
    (s.setPlane p t f).plane q = if q = p then t else s.plane q := by
  interval_cases p <;> interval_cases q <;> rfl

/-- Setting a plane leaves ACT and the accumulator. -/
theorem Slab.setPlane_keeps (s : Slab) (p : Nat) (t : Tbl PCol) (f : PFmt) :
    (s.setPlane p t f).act = s.act ∧ (s.setPlane p t f).acc = s.acc := by
  unfold Slab.setPlane
  split <;> exact ⟨rfl, rfl⟩

/-- The slab with the columns of step `i` of an SLD written to plane `p`. -/
def Slab.putCols (s : Slab) (p w i : Nat) (g : Nat → PCol) : Slab :=
  s.setPlane p ((s.plane p).splice (w * i) ((List.range w).map (fun j => g (w * i + j)))) (s.pfmt p)

section
variable (s : Slab) {p q w i n : Nat} (hp : p < 2) (hq : q < 2) (g : Nat → PCol)
include hp hq

theorem Slab.putCols_in (hpq : q = p) (hn : w * i ≤ n) (hn' : n < w * i + w) : ((s.putCols p w i g).plane q).get {} n = g n := by
  rw [Slab.putCols, s.plane_setPlane hp hq, if_pos hpq, Tbl.get_splice_map_in _ _ _ hn hn', Nat.add_sub_cancel' hn]

theorem Slab.putCols_plane (hpq : q ≠ p) : (s.putCols p w i g).plane q = s.plane q := by
  rw [Slab.putCols, s.plane_setPlane hp hq, if_neg hpq]

theorem Slab.putCols_out (hn : n < w * i ∨ w * i + w ≤ n) : ((s.putCols p w i g).plane q).get {} n = (s.plane q).get {} n := by
  by_cases hpq : q = p
  · subst hpq
    rw [Slab.putCols, s.plane_setPlane hp hq, if_pos rfl, Tbl.get_splice_map_out _ _ _ hn]
  · rw [s.putCols_plane hp hq g hpq]

end

theorem Slab.loadStep_one (s : Slab) {f : MForm} (hf : f ≠ .b16) (ls : Nat → Line) (i : Nat) :
    s.loadStep f ls i = s.putCols s.shadow (sldWidth f) i (sldColumn f ls) := by
  cases f
  case b16 => exact absurd rfl hf
  all_goals rfl

theorem Slab.loadStep_both (s : Slab) (ls : Nat → Line) (i : Nat) : s.loadStep .b16 ls i =
    (s.putCols s.shadow 8 i (fun n => (sldSplit ls n).1)).putCols s.active 8 i (fun n => (sldSplit ls n).2) := rfl

section
variable (s : Slab) (ls : Nat → Line) {i n : Nat}

/-- A column of the shadow plane that a step writes. -/
theorem Slab.loadStep_column {f : MForm} (hf : f ≠ .b16) (hn : sldWidth f * i ≤ n) (hn' : n < sldWidth f * i + sldWidth f) :
    ((s.loadStep f ls i).plane s.shadow).get {} n = sldColumn f ls n := by
  rw [s.loadStep_one hf, s.putCols_in s.shadow_lt s.shadow_lt _ rfl hn hn']

/-- A column of each plane that a step of SLD.B16 writes. -/
theorem Slab.loadStep_columns (hn : 8 * i ≤ n) (hn' : n < 8 * i + 8) :
    ((s.loadStep .b16 ls i).plane s.shadow).get {} n = (sldSplit ls n).1 ∧ ((s.loadStep .b16 ls i).plane s.active).get {} n = (sldSplit ls n).2 := by
  rw [s.loadStep_both]
  refine ⟨?_, Slab.putCols_in _ s.active_lt s.active_lt _ rfl hn hn'⟩
  rw [Slab.putCols_plane _ s.active_lt s.shadow_lt _ s.active_ne_shadow.symm, s.putCols_in s.shadow_lt s.shadow_lt _ rfl hn hn']

theorem Slab.loadStep_out {f : MForm} (hn : n < sldWidth f * i ∨ sldWidth f * i + sldWidth f ≤ n) {p : Nat} (hp : p < 2) :
    ((s.loadStep f ls i).plane p).get {} n = (s.plane p).get {} n := by
  by_cases hf : f = .b16
  · subst hf
    rw [s.loadStep_both]
    exact (Slab.putCols_out _ s.active_lt hp _ hn).trans (s.putCols_out s.shadow_lt hp _ hn)
  · rw [s.loadStep_one hf, s.putCols_out s.shadow_lt hp _ hn]

theorem Slab.loadStep_active {f : MForm} (hf : f ≠ .b16) : (s.loadStep f ls i).plane s.active = s.plane s.active := by
  rw [s.loadStep_one hf, s.putCols_plane s.shadow_lt s.active_lt _ s.active_ne_shadow]

theorem Slab.loadStep_keeps (f : MForm) : (s.loadStep f ls i).acc = s.acc ∧ (s.loadStep f ls i).act = s.act := by
  by_cases hf : f = .b16
  · subst hf
    rw [s.loadStep_both]
    obtain ⟨hact, hacc⟩ := Slab.setPlane_keeps s s.shadow _ _
    obtain ⟨hact', hacc'⟩ := Slab.setPlane_keeps (s.putCols s.shadow 8 i (fun n => (sldSplit ls n).1)) s.active _ _
    exact ⟨hacc'.trans hacc, hact'.trans hact⟩
  · rw [s.loadStep_one hf]
    exact (Slab.setPlane_keeps s s.shadow _ _).symm

end

/-- An element of a DB4 column lies in its half of the line. -/
theorem sldColumn_db4_element (ls : Nat → Line) (n : Nat) {k : Nat} (hk : k < 64) :
    elemOf 8 (sldColumn .db4 ls n).els k = elemOf 4 (ls (n / 2)).data (64 * (n % 2) + k) := by
  have hels : (sldColumn .db4 ls n).els = BitVec.ofNat 512 (packed 8 (fun i => elemOf 4 ((ls (n / 2)).data >>> (256 * (n % 2))) i) 64) := by
    have hdigits := foldr_digits 8 (fun i => elemOf 4 ((ls (n / 2)).data >>> (256 * (n % 2))) i) 64 0
    rw [Nat.zero_mul, Nat.zero_add] at hdigits
    rw [← hdigits]
    simp only [sldColumn, Nat.add_comm (elemOf _ _ _), Nat.mul_comm 256]
    rfl
  have hhalf : elemOf 4 ((ls (n / 2)).data >>> (256 * (n % 2))) k = elemOf 4 (ls (n / 2)).data (64 * (n % 2) + k) := by
    rw [elemOf, elemOf, ← BitVec.shiftRight_add]
    congr 3
    omega
  rw [hels, elemOf_packed (fun i => lt_of_lt_of_le (elemOf_lt _ _ _) (by decide)) (by decide) hk, hhalf]

/-! ## A Hadamard pass (R194, R195) -/

/-- The 16-bit value of a column under the row's exponent. -/
def rotInt (k : Int) (y : FVal) : Int := match y with | .num c e => FVal.toInteger 0 (.num c (e - k)) | _ => 0

/-- A value that leaves its group without a transform: NaN or an infinity. -/
def FVal.isOpen : FVal → Bool | .nan => true | .inf _ => true | _ => false

theorem FVal.isOpen_iff (y : FVal) : y.isOpen = true ↔ y = .nan ∨ ∃ neg, y = .inf neg := by
  cases y <;> simp [FVal.isOpen]

/-- The transform of column `j` of a group of 64 values. -/
def rotSum (k : Int) (x : Nat → FVal) (j : Nat) : Int := ((List.range 64).map (fun l => hadamard j l * rotInt k (x l))).sum

/-- The result of column `j` of a group of 64 values. -/
def rotColumn (e : Option Int) (x : Nat → FVal) (j : Nat) : Nat :=
  if (List.range 64).any (fun l => (x l).isOpen) then 0x7FC00000
  else match e with
    | none => 0
    | some k => f32.round 0 false (if rotSum k x j = 0 then .zero false else .num (rotSum k x j) (k - 3))

theorem rotGroup_open (e : Option Int) {xs : List FVal} (h : xs.any FVal.isOpen = true) : rotGroup e xs = xs.map (fun _ => 0x7FC00000) := if_pos h

theorem rotGroup_none {xs : List FVal} (h : ¬ xs.any FVal.isOpen = true) : rotGroup none xs = xs.map (fun _ => 0) := if_neg h

theorem rotGroup_some (k : Int) {xs : List FVal} (h : ¬ xs.any FVal.isOpen = true) : rotGroup (some k) xs = (List.range 64).map (fun n =>
    let s := ((xs.map (rotInt k)).zip (List.range 64)).foldl (fun (t : Int) p => t + hadamard n p.2 * p.1) 0
    f32.round 0 false (if s = 0 then .zero false else .num s (k - 3))) := if_neg h

theorem rotGroup_eq (e : Option Int) (x : Nat → FVal) : rotGroup e ((List.range 64).map x) = (List.range 64).map (rotColumn e x) := by
  have hany : ((List.range 64).map x).any FVal.isOpen = (List.range 64).any (fun l => (x l).isOpen) := List.any_map
  have hsum (k : Int) (n : Nat) : ((((List.range 64).map x).map (rotInt k)).zip (List.range 64)).foldl
      (fun (t : Int) p => t + hadamard n p.2 * p.1) 0 = rotSum k x n := by
    rw [foldl_sum, List.map_map, ← List.map_prod_right_eq_zip, List.map_map]; rfl
  unfold rotColumn
  by_cases hopen : (List.range 64).any (fun l => (x l).isOpen) = true
  · simp only [rotGroup_open e (hany.trans hopen), if_pos hopen, List.map_map, Function.comp_def]
  · have hclosed : ¬ ((List.range 64).map x).any FVal.isOpen = true := by rwa [hany]
    cases e with
    | none => simp only [rotGroup_none hclosed, if_neg hopen, List.map_map, Function.comp_def]
    | some k => simp only [rotGroup_some k hclosed, if_neg hopen, hsum]

/-- The values of column `j`'s group in a row. -/
def groupOf (acc : Nat → Nat) (g l : Nat) : FVal := f32.decode (acc (g * 64 + l))

/-- A row after the pass: its groups of 64, transformed under one exponent. -/
theorem rotRow_eq (n : Nat) (acc : Nat → Nat) : rotRow ((List.range n).map acc) = (List.range (n / 64)).flatMap (fun g =>
    (List.range 64).map (rotColumn (rowExp ((List.range n).map (fun i => f32.decode (acc i)))) (groupOf acc g))) := by
  have hgroup (g : Nat) (hg : g < n / 64) : (((List.range n).map (fun i => f32.decode (acc i))).drop (64 * g)).take 64
      = (List.range 64).map (groupOf acc g) := by
    refine List.ext_getElem (by simp; omega) fun l h1 h2 => ?_
    simp only [List.getElem_take, List.getElem_drop, List.getElem_map, List.getElem_range, groupOf, Nat.mul_comm]
  unfold rotRow
  dsimp only
  rw [List.map_map, List.length_map, List.length_range, List.flatMap_def, List.flatMap_def]
  refine congrArg List.flatten (List.map_congr_left fun g hg => ?_)
  rw [← rotGroup_eq, ← hgroup g (List.mem_range.1 hg)]
  rfl

/-- Column `j` of a row after the pass: its group's transform (R195). -/
theorem rotRow_getElem? {n : Nat} (hn : n % 64 = 0) (acc : Nat → Nat) {j : Nat} (hj : j < n) : (rotRow ((List.range n).map acc))[j]?
    = some (rotColumn (rowExp ((List.range n).map (fun i => f32.decode (acc i)))) (groupOf acc (j / 64)) (j % 64)) := by
  have hjth := getElem?_flatMap_of_length (f := fun g => (List.range 64).map
    (rotColumn (rowExp ((List.range n).map (fun i => f32.decode (acc i)))) (groupOf acc g))) (n := 64) (List.range (n / 64))
    (fun g _ => by rw [List.length_map, List.length_range]) (j := j / 64) (Nat.mod_lt j (by decide))
  rw [Nat.div_add_mod] at hjth
  rw [rotRow_eq, hjth, List.getElem?_range (by omega), Option.bind_some, List.getElem?_map, List.getElem?_range (Nat.mod_lt j (by decide))]
  rfl

theorem rotRow_length {n : Nat} (hn : n % 64 = 0) (acc : Nat → Nat) : (rotRow ((List.range n).map acc)).length = n := by
  rw [rotRow_eq, List.length_flatMap]
  simp
  omega

section
variable {s : Slab} {w : WinEntry} {i b : Nat} {a : Nat → Nat → Line} (hw : mxOf w.instr = some (b, .mrot))
include hw

theorem Slab.runStep_mrot_idle (hi : i % 16 ≠ 15) : s.runStep w i a = s := by
  unfold Slab.runStep
  rw [hw]
  exact if_neg hi

/-- The last step of a row of a pass replaces the row. -/
theorem Slab.runStep_mrot_acc (hi : i % 16 = 15) :
    (s.runStep w i a).acc = s.acc.splice (512 * (i / 16)) (s.rotatedRow w.n.toNat (i / 16)) := by
  unfold Slab.runStep
  rw [hw]
  exact congrArg Slab.acc (if_pos hi)

variable (hi : i % 16 = 15) (hn : w.n.toNat % 64 = 0)
include hi hn

theorem Slab.runStep_mrot_column {j : Nat} (hj : j < w.n.toNat) : (s.runStep w i a).acc.get 0 (512 * (i / 16) + j)
    = BitVec.ofNat 32 (rotColumn (rowExp ((List.range w.n.toNat).map (fun j => f32.decode (s.acc0 (i / 16) j))))
        (groupOf (s.acc0 (i / 16)) (j / 64)) (j % 64)) := by
  have hlen : (s.rotatedRow w.n.toNat (i / 16)).length = w.n.toNat := by rw [Slab.rotatedRow, List.length_map, rotRow_length hn]
  have hget : (s.rotatedRow w.n.toNat (i / 16))[j]? = some (BitVec.ofNat 32 (rotColumn (rowExp ((List.range w.n.toNat).map
      (fun j => f32.decode (s.acc0 (i / 16) j)))) (groupOf (s.acc0 (i / 16)) (j / 64)) (j % 64))) := by
    rw [Slab.rotatedRow, List.getElem?_map, rotRow_getElem? hn _ hj]; rfl
  rw [Slab.runStep_mrot_acc hw hi, Tbl.get, Tbl.find?_splice, hlen, if_pos (by omega), Nat.add_sub_cancel_left, hget]
  rfl

theorem Slab.runStep_mrot_others {k : Nat} (hk : k < 512 * (i / 16) ∨ 512 * (i / 16) + w.n.toNat ≤ k) : (s.runStep w i a).acc.get 0 k = s.acc.get 0 k := by
  have hlen : (s.rotatedRow w.n.toNat (i / 16)).length = w.n.toNat := by rw [Slab.rotatedRow, List.length_map, rotRow_length hn]
  rw [Slab.runStep_mrot_acc hw hi, Tbl.get_splice_out _ _ (by rwa [hlen])]

end

section
variable {e : Option Int} {x : Nat → FVal} {j : Nat}

theorem rotColumn_open (h : ∃ l < 64, x l = .nan ∨ ∃ neg, x l = .inf neg) : rotColumn e x j = 0x7FC00000 := by
  obtain ⟨l, hl, hx⟩ := h
  exact if_pos (List.any_eq_true.2 ⟨l, List.mem_range.2 hl, (FVal.isOpen_iff _).2 hx⟩)

variable (h : ¬ ∃ l < 64, x l = .nan ∨ ∃ neg, x l = .inf neg)
include h

theorem rotColumn_closed : ¬ (List.range 64).any (fun l => (x l).isOpen) = true := fun hany => by
  obtain ⟨l, hl, hx⟩ := List.any_eq_true.1 hany
  exact h ⟨l, List.mem_range.1 hl, (FVal.isOpen_iff _).1 hx⟩

theorem rotColumn_none (he : e = none) : rotColumn e x j = 0 := by
  rw [he]
  exact if_neg (rotColumn_closed h)

theorem rotColumn_some {k : Int} (he : e = some k) :
    rotColumn e x j = f32.round 0 false (if rotSum k x j = 0 then .zero false else .num (rotSum k x j) (k - 3)) := by
  rw [he]
  exact if_neg (rotColumn_closed h)

end

/-! ## The fixer (R238) -/

/-- A column's value scaled, and +0 beyond N. -/
def Slab.scaled (s : Slab) (m c : Nat) : FVal :=
  if s.curn ≤ c then .zero false
  else match f32.decode (s.acc.get 0 (512 * m + c)).toNat with
    | .num a e => .num a (e + (s.fix.setWidth 8 : BitVec 8).toInt)
    | y => y

/-- A column's value as the fixer converts it: scaled, and rectified where it is so configured. -/
theorem Slab.fixValue_eq (s : Slab) (m c : Nat) : s.fixValue m c =
    if s.fix.getLsbD 8 = true ∧ s.scaled m c ≠ .nan ∧ (s.scaled m c).neg? = true then .zero false else s.scaled m c := by
  have hmatch : s.fixValue m c = if s.fix.getLsbD 8 then (match s.scaled m c with | .nan => .nan | y => if y.neg? then .zero false else y)
      else s.scaled m c := rfl
  rw [hmatch]
  cases s.fix.getLsbD 8
  · simp
  · cases s.scaled m c <;> simp

/-- The values of a row of an output tile. -/
def Slab.fixValues (s : Slab) (f : XForm) (c m : Nat) : List FVal := (List.range (fixWidth f)).map (fun i => s.fixValue m (c + i))

/-- Element `i` of a row of a TYPE, each from a value of the fixer. -/
theorem elemOf_fixValues {s : Slab} {f : XForm} {c m i ty : Nat} (hty : tyEpr ty = fixWidth f) (hi : i < fixWidth f) (g : FVal → Nat) :
    elemOf (tyBits ty) (rowOfList ty ((s.fixValues f c m).map g)) i = g (s.fixValue m (c + i)) % 2 ^ tyBits ty := by
  rw [elemOf_rowOfList _ _ (hty ▸ hi), Slab.fixValues, List.map_map, List.getD_eq_getElem?_getD, List.getElem?_map, List.getElem?_range hi]
  rfl

/-- The blocks of a row of an output tile (R189). -/
def Slab.fixBlock (s : Slab) (four : Bool) (c m j : Nat) : Exps × List BElem :=
  quantise four 0 ((List.range 32).map (fun k => s.fixValue m (c + (32 * j + k))))

/-- A row that the fixer quantises keeps each block's exponents and elements. -/
theorem Slab.fixRow_block (s : Slab) (four : Bool) (c m : Nat) {j : Nat} (hj : j < fixWidth (if four then .db4 else .db8) / 32) :
    let row := s.fixRow (if four then .db4 else .db8) c m
    row.tag = (if four then 2 else 1) ∧ sideExps row.side j = (s.fixBlock four c m j).1
    ∧ ∀ k < 32, elemOf (tyBits (if four then 10 else 9)) row.data (32 * j + k) = ((s.fixBlock four c m j).2.getD k ⟨false, false, 0⟩).bits four := by
  have hwidth : fixWidth (if four then .db4 else .db8) = tyEpr (if four then 10 else 9) ∧ fixWidth (if four then .db4 else .db8) / 32 ≤ 4 := by
    cases four <;> decide
  obtain ⟨hepr, hfour⟩ := hwidth
  have hblock (j : Nat) (hj : j < fixWidth (if four then .db4 else .db8) / 32) :
      quantise four 0 (((s.fixValues (if four then .db4 else .db8) c m).drop (32 * j)).take 32) = s.fixBlock four c m j := by
    refine congrArg (quantise four 0) (List.ext_getElem (by simp [Slab.fixValues]; omega) fun l h1 h2 => ?_)
    simp only [Slab.fixValues, List.getElem_take, List.getElem_drop, List.getElem_map, List.getElem_range]
  have hget : ((List.range (fixWidth (if four then .db4 else .db8) / 32)).map (s.fixBlock four c m))[j]? = some (s.fixBlock four c m j) := by
    rw [List.getElem?_map, List.getElem?_range hj]; rfl
  have hall : ∀ b ∈ (List.range (fixWidth (if four then .db4 else .db8) / 32)).map (s.fixBlock four c m),
      (b.1.1 < 256 ∧ b.1.2 < 256) ∧ b.2.length = 32 := fun b hb => by
    obtain ⟨j, _, rfl⟩ := List.mem_map.1 hb
    exact ⟨quantise_exps_lt _ _ _, by rw [Slab.fixBlock, quantise_length, List.length_map, List.length_range]⟩
  have hrow : s.fixRow (if four then .db4 else .db8) c m =
      (let bs := (List.range (fixWidth (if four then .db4 else .db8) / 32)).map (s.fixBlock four c m)
       { data := rowOfList (if four then 10 else 9) (bs.flatMap (fun b => b.2.map (BElem.bits four))),
         side := BitVec.ofNat 64 (packSide bs), tag := if four then 2 else 1 }) := by
    rw [← List.map_congr_left fun j hj => hblock j (List.mem_range.1 hj)]
    cases four <;> rfl
  have hexps := side_digit (fun b hb => (hall b hb).1) (by rwa [List.length_map, List.length_range]) hget
  obtain ⟨⟨h0, h1⟩, hlen⟩ := hall _ (List.mem_of_getElem? hget)
  intro row
  have hfit : row = _ := hrow
  rw [hfit]
  refine ⟨rfl, sideExps_of_digit h0 h1 hexps, fun k hk => ?_⟩
  have hkth : k < (s.fixBlock four c m j).2.length := hlen ▸ hk
  dsimp only
  rw [elemOf_blocks (fun b hb => by rw [List.length_map, (hall b hb).2]) hget hk (by omega), List.getD_eq_getElem?_getD,
    List.getD_eq_getElem?_getD, List.getElem?_map, List.getElem?_eq_getElem hkth, Option.map_some, Option.getD_some, Option.getD_some]
  exact Nat.mod_eq_of_lt (quantise_bits_lt (List.getElem_mem hkth))

/-- A row that the fixer rounds: each value at its element. -/
theorem Slab.fixRow_rounded (s : Slab) (c m : Nat) {i : Nat} :
    ((s.fixRow .f32 c m).tag = 0 ∧ (i < 16 → elemOf 32 (s.fixRow .f32 c m).data i = f32.round 0 false (s.fixValue m (c + i)) % 2 ^ 32))
    ∧ ((s.fixRow .b16 c m).tag = 0 ∧ (i < 32 → elemOf 16 (s.fixRow .b16 c m).data i = b16.round 0 false (s.fixValue m (c + i)) % 2 ^ 16))
    ∧ ((s.fixRow .i8 c m).tag = 0
      ∧ (i < 64 → intOf 8 true (elemOf 8 (s.fixRow .i8 c m).data i) = max (-128) (min 127 (FVal.toInteger 0 (s.fixValue m (c + i)))))) := by
  have hclamp (z : Int) : clampInt 8 true z = max (-128) (min 127 z) := rfl
  refine ⟨⟨rfl, fun hi => elemOf_fixValues (f := .f32) (ty := 6) rfl hi _⟩, ⟨rfl, fun hi => elemOf_fixValues (f := .b16) (ty := 8) rfl hi _⟩,
    rfl, fun hi => ?_⟩
  have helem : elemOf 8 (s.fixRow .i8 c m).data i = intBits 8 (clampInt 8 true (FVal.toInteger 0 (s.fixValue m (c + i)))) % 2 ^ 8 :=
    elemOf_fixValues (f := .i8) (ty := 0) rfl hi (fun v => intBits 8 (clampInt 8 true (FVal.toInteger 0 v)))
  rw [helem, intBits_mod, intOf_clamped (by decide), hclamp]

end Sys2Proof.Machine
end

section
namespace Sys2Proof.Machine

/-! ## The start event (R228) -/

/-- Candidates tried in turn up to the first that succeeds. -/
theorem foldl_until {f : State → Nat → Bool × State} {s : State} {j : Nat} {before after : List Nat} (hbefore : ∀ k ∈ before, f s k = (false, s))
    (hj : (f s j).1 = true) : (before ++ j :: after).foldl (fun a k => if a.1 then a else f a.2 k) (false, s) = f s j := by
  have hkeep : after.foldl (fun a k => if a.1 then a else f a.2 k) (f s j) = f s j := by
    induction after with
    | nil => rfl
    | cons k after ih => rw [List.foldl_cons, if_pos hj, ih]
  induction before with
  | nil => exact hkeep
  | cons k before ih =>
    have hk := hbefore k List.mem_cons_self
    rw [List.cons_append, List.foldl_cons, if_neg Bool.false_ne_true, hk]
    exact ih fun l hl => hbefore l (List.mem_cons_of_mem _ hl)

/-- The stream at which a round of starts begins. -/
def Core.mxFirst (k : Core) : Nat := match k.mxLast with | some i => i + 1 | none => 0

theorem exec_matrixCommandStart {s : State} {c j : Nat} (hc : s.site.unit = c) (hj : j < 4)
    (hbefore : ∀ k < j, s.tryMx c (((s.core c).mxFirst + k) % 4) = (false, s)) (hstart : (s.tryMx c (((s.core c).mxFirst + j) % 4)).1 = true) :
    exec .matrixCommandStart s = .next (s.tryMx c (((s.core c).mxFirst + j) % 4)).2 := by
  obtain ⟨after, hsplit⟩ : ∃ after, [0, 1, 2, 3] = List.range j ++ j :: after := ⟨[0, 1, 2, 3].drop (j + 1), by interval_cases j <;> rfl⟩
  have hunfold : exec .matrixCommandStart s
      = .next ([0, 1, 2, 3].foldl (fun a k => if a.1 then a else a.2.tryMx c (((s.core c).mxFirst + k) % 4)) (false, s)).2 := hc ▸ rfl
  rw [hunfold, hsplit, foldl_until (f := fun s' k => s'.tryMx c (((s.core c).mxFirst + k) % 4)) (fun k hk => hbefore k (List.mem_range.1 hk)) hstart]

/-! ## The head of an MX queue evaluated (R228, R236, R241) -/

/-- Sparing touches only the cancellation. -/
theorem QEntry.spared_eq (e : QEntry) (now : Nat) : e.spared now = { e with cancel := (e.spared now).cancel } := by
  unfold QEntry.spared; split <;> rfl

@[simp] theorem Core.slab_modSlab_same (k : Core) (b : Nat) (f : Slab → Slab) : (k.modSlab b f).slab b = f (k.slab b) := Tbl.get_mod_same _ _ _ _

theorem Core.slab_modSlab_ne (k : Core) {b d : Nat} (f : Slab → Slab) (h : d ≠ b) : (k.modSlab b f).slab d = k.slab d := Tbl.get_mod_ne _ _ _ _ _ h

/-- What the start event asks of a form on a slab: nothing to pop and no version operand. -/
structure PlainForm (i : Instr) (b fp : Nat) : Prop where
  mark : isMarker i = false
  left : (tokenBits i).1 = false
  right : (tokenBits i).2.1 = false
  plain : versioned i = false
  ops : versionsOf i = (none, [])
  slot : fpOf i = fp
  slab : (mxOf i).elim 0 (·.1) = b

theorem plainForm_sswap (h : Hdr) {ec : Ec} (b : BitVec 3) (hpbl : ec.pbl = 0) (hpbr : ec.pbr = 0) :
    PlainForm (.sswap h ec b) b.toNat ec.fp.toNat := ⟨rfl, by simp [tokenBits, hpbl], by simp [tokenBits, hpbr], rfl, rfl, rfl, rfl⟩

theorem plainForm_mzero (h : Hdr) {ec : Ec} (b : BitVec 3) (hpbl : ec.pbl = 0) (hpbr : ec.pbr = 0) :
    PlainForm (.mzero h ec b) b.toNat ec.fp.toNat := ⟨rfl, by simp [tokenBits, hpbl], by simp [tokenBits, hpbr], rfl, rfl, rfl, rfl⟩

section
variable {s : State} {c i b fp : Nat} {e : QEntry} (hhead : (s.stream (4 * c + i)).mxq.find? (fun e => !e.started) = some e) (hfault : e.fault = none)
  (hentered : e.entered < s.cycle) (hat : e.faultAt = 0) (hform : PlainForm e.instr b fp)
  (hfree : (e.spared s.cycle).skip = true ∨ (e.spared s.cycle).cancel = true
    ∨ (s.core c).tracked e.order ((s.stream (4 * c + i)).slotOf fp) = false)
include hhead hfault hentered hat hform hfree

/-- A head that nothing holds back starts with what its start gives. -/
theorem State.tryMx_go {k : Core} {x : MExec} (hstart : (s.core c).startMx s.cycle (4 * c + i) (e.spared s.cycle)
      ((s.stream (4 * c + i)).slotOf fp) ((s.stream (4 * c + i)).landedBy e.entered) = .go k x) :
    ∃ t, s.tryMx c i = (true, t) ∧ (∀ b, (t.core c).slab b = k.slab b) ∧ (t.core c).mxLast = some i ∧ t.mem = s.mem
      ∧ ∃ y ∈ (t.core c).mexec, y.slab = x.slab ∧ y.entry.number = e.number ∧ y.retire = x.retire := by
  obtain ⟨hmarker, hleft, hright, hplain, hops, rfl, -⟩ := hform
  have hpops : (if e.popped then some (s.stream (4 * c + i)) else (s.stream (4 * c + i)).popTokens 1 e.instr) = some (s.stream (4 * c + i)) := by
    rw [Stream.popTokens_none _ _ hleft hright, ite_self]
  have hheld : (!((e.spared s.cycle).skip || (e.spared s.cycle).cancel)
      && (s.core c).tracked e.order ((s.stream (4 * c + i)).slotOf (fpOf e.instr))) = false := by
    rcases hfree with h | h | h <;> simp [h]
  unfold State.tryMx
  dsimp only
  rw [hhead]
  dsimp only
  rw [QEntry.spared_eq] at hstart hheld ⊢
  dsimp only at hstart hheld ⊢
  rw [hheld, if_neg (by simp [hmarker, hfault, hentered, hat, Stream.turn]), if_neg Bool.false_ne_true, hpops]
  dsimp only
  rw [hstart]
  dsimp only
  rw [hplain, if_neg Bool.false_ne_true]
  dsimp only
  rw [hops]
  refine ⟨_, rfl, fun b => ?_, ?_, rfl, ?_⟩
  · rw [State.core_modCore_same]; rfl
  · rw [State.core_modCore_same]
  · rw [State.core_modCore_same]
    exact ⟨_, List.mem_append_right _ (List.mem_singleton_self _), rfl, QEntry.spared_number _ _, rfl⟩

/-- A head whose start faults takes the fault as a command of its stream. -/
theorem State.tryMx_fault {f : FaultInfo} (hlive : e.cancel = false) (hstart : (s.core c).startMx s.cycle (4 * c + i) e
      ((s.stream (4 * c + i)).slotOf fp) ((s.stream (4 * c + i)).landedBy e.entered) = .fault f) :
    s.tryMx c i = (false, s.commandFault (4 * c + i) 1 e b f) := by
  obtain ⟨hmarker, hleft, hright, -, -, rfl, rfl⟩ := hform
  have hpops : (if e.popped then some (s.stream (4 * c + i)) else (s.stream (4 * c + i)).popTokens 1 e.instr) = some (s.stream (4 * c + i)) := by
    rw [Stream.popTokens_none _ _ hleft hright, ite_self]
  rw [QEntry.spared_live hlive] at hfree
  have hheld : (!(e.skip || e.cancel) && (s.core c).tracked e.order ((s.stream (4 * c + i)).slotOf (fpOf e.instr))) = false := by
    rcases hfree with h | h | h <;> simp [h]
  unfold State.tryMx
  dsimp only
  rw [hhead]
  dsimp only
  rw [QEntry.spared_live hlive, hheld, if_neg (by simp [hmarker, hfault, hentered, hat, Stream.turn]), if_neg Bool.false_ne_true, hpops]
  dsimp only
  rw [hstart]
  dsimp only
  rw [hlive, Bool.false_and, if_neg Bool.false_ne_true]

end

/-! ### SSWAP and MZERO -/

section
variable {k : Core} {now g : Nat} {e : QEntry} {foot : Foot} {landed : Bool} {h : Hdr} {ec : Ec} {b : BitVec 3}
  (hidle : k.busy b.toNat (fun _ => true) = false)
include hidle

theorem Core.startMx_sswap (hinstr : e.instr = .sswap h ec b) : k.startMx now g e foot landed =
    if !(e.skip || e.cancel) && !foot.declared then .fault (footFault 0 ec.fp.toNat true false)
    else .go (if e.skip || e.cancel then k else k.modSlab b.toNat (fun s => { s with act := !s.act }))
      { entry := e, gsid := g, slab := b.toNat, load := false, start := now, retire := now } := by
  unfold Core.startMx
  rw [hinstr]
  exact if_neg (by simp [hidle])

theorem Core.startMx_mzero (hinstr : e.instr = .mzero h ec b) (hskip : e.skip = false) (hlive : e.cancel = false) (hdecl : foot.declared = true) :
    k.startMx now g e foot landed = .go ((k.startTile b.toNat e.conf e.conf2 false).modSlab b.toNat (fun s => { s with curn := 512 }))
      { entry := e, gsid := g, slab := b.toNat, load := false, start := now, retire := now + 7 } := by
  have hunit : k.busy b.toNat (fun x => !x.load) = false := by
    rw [Core.busy, List.any_eq_false] at hidle ⊢
    exact fun x hx hx' => hidle x hx (by rw [Bool.and_eq_true] at hx' ⊢; exact ⟨hx'.1, rfl⟩)
  unfold Core.startMx
  rw [hinstr]
  rw [hskip, hlive, hdecl]
  exact (if_neg (by rw [hunit]; decide)).trans (if_neg (by decide))

end

/-- A tile started on a closed slab. -/
theorem Core.startTile_closed {k : Core} {b : Nat} (hclosed : (k.slab b).tile = .closed) (fix cfg : Word) :
    (k.startTile b fix cfg false).slab b = { k.slab b with
      tile := .anchored, acc := .empty, bad := (k.slab b).bad.filter (fun a => decide (16384 ≤ a)), curs := 0, window := [], fix := fix, cfg := cfg,
      replayed := false } := by
  unfold Core.startTile
  rw [if_pos hclosed, Core.slab_modSlab_same]
  rfl

section
variable {s : State} {c i : Nat} {e : QEntry} {h : Hdr} {ec : Ec} {b : BitVec 3}
  (hhead : (s.stream (4 * c + i)).mxq.find? (fun e => !e.started) = some e) (hfault : e.fault = none) (hentered : e.entered < s.cycle)
  (hat : e.faultAt = 0) (hpbl : ec.pbl = 0) (hpbr : ec.pbr = 0) (hidle : (s.core c).busy b.toNat (fun _ => true) = false)
include hhead hfault hentered hat hpbl hpbr hidle

/-- A skipped SSWAP leaves its slab. -/
theorem State.tryMx_sswap_skipped (hinstr : e.instr = .sswap h ec b) (hskip : e.skip = true) :
    ∃ t, s.tryMx c i = (true, t) ∧ (t.core c).slab b.toNat = (s.core c).slab b.toNat := by
  have hform : PlainForm e.instr b.toNat ec.fp.toNat := hinstr ▸ plainForm_sswap h b hpbl hpbr
  have hskip' : (e.spared s.cycle).skip = true := (e.spared_skip s.cycle).trans hskip
  have hinstr' : (e.spared s.cycle).instr = .sswap h ec b := by rw [QEntry.spared_eq]; exact hinstr
  have hstart := Core.startMx_sswap (now := s.cycle) (g := 4 * c + i) (foot := (s.stream (4 * c + i)).slotOf ec.fp.toNat)
    (landed := (s.stream (4 * c + i)).landedBy e.entered) hidle hinstr'
  rw [hskip', if_neg (by simp), if_pos (Bool.true_or _)] at hstart
  obtain ⟨t, htry, hslab, -⟩ := State.tryMx_go hhead hfault hentered hat hform (.inl hskip') hstart
  exact ⟨t, htry, hslab _⟩

variable (hskip : e.skip = false) (hlive : e.cancel = false) (hfree : (s.core c).tracked e.order ((s.stream (4 * c + i)).slotOf ec.fp.toNat) = false)
include hskip hlive hfree

/-- An SSWAP on an idle slab toggles ACT (R236). -/
theorem State.tryMx_sswap (hinstr : e.instr = .sswap h ec b) (hdecl : ((s.stream (4 * c + i)).slotOf ec.fp.toNat).declared = true) :
    ∃ t, s.tryMx c i = (true, t) ∧ (t.core c).slab b.toNat = { (s.core c).slab b.toNat with act := !((s.core c).slab b.toNat).act }
      ∧ (t.core c).mxLast = some i ∧ t.mem = s.mem ∧ ∃ x ∈ (t.core c).mexec, x.slab = b.toNat ∧ x.entry.number = e.number ∧ x.retire = s.cycle := by
  have hform : PlainForm e.instr b.toNat ec.fp.toNat := hinstr ▸ plainForm_sswap h b hpbl hpbr
  have hstart := Core.startMx_sswap (now := s.cycle) (g := 4 * c + i) (foot := (s.stream (4 * c + i)).slotOf ec.fp.toNat)
    (landed := (s.stream (4 * c + i)).landedBy e.entered) hidle hinstr
  rw [hskip, hlive, hdecl, if_neg (by decide), if_neg (by decide)] at hstart
  obtain ⟨t, htry, hslab, hlast, hmem, hexec⟩ := State.tryMx_go hhead hfault hentered hat hform (.inr (.inr hfree))
    (by rw [QEntry.spared_live hlive]; exact hstart)
  exact ⟨t, htry, (hslab _).trans (Core.slab_modSlab_same _ _ _), hlast, hmem, hexec⟩

theorem State.tryMx_sswap_undeclared (hinstr : e.instr = .sswap h ec b) (hdecl : ((s.stream (4 * c + i)).slotOf ec.fp.toNat).declared = false) :
    s.tryMx c i = (false, s.commandFault (4 * c + i) 1 e b.toNat (footFault 0 ec.fp.toNat true false)) := by
  have hform : PlainForm e.instr b.toNat ec.fp.toNat := hinstr ▸ plainForm_sswap h b hpbl hpbr
  have hstart := Core.startMx_sswap (now := s.cycle) (g := 4 * c + i) (foot := (s.stream (4 * c + i)).slotOf ec.fp.toNat)
    (landed := (s.stream (4 * c + i)).landedBy e.entered) hidle hinstr
  rw [hskip, hlive, hdecl, if_pos (by decide)] at hstart
  exact State.tryMx_fault hhead hfault hentered hat hform (.inr (.inr hfree)) hlive hstart

/-- An MZERO on a closed slab opens an anchored tile with a cleared accumulator (R241). -/
theorem State.tryMx_mzero (hinstr : e.instr = .mzero h ec b) (hdecl : ((s.stream (4 * c + i)).slotOf ec.fp.toNat).declared = true)
    (hclosed : ((s.core c).slab b.toNat).tile = .closed) :
    ∃ t, s.tryMx c i = (true, t) ∧ ((t.core c).slab b.toNat).tile = .anchored ∧ ((t.core c).slab b.toNat).curn = 512
      ∧ (∀ v, ((t.core c).slab b.toNat).acc.get 0 v = 0) ∧ ((t.core c).slab b.toNat).fix = e.conf ∧ ((t.core c).slab b.toNat).cfg = e.conf2 := by
  have hform : PlainForm e.instr b.toNat ec.fp.toNat := hinstr ▸ plainForm_mzero h b hpbl hpbr
  have hstart := Core.startMx_mzero (now := s.cycle) (g := 4 * c + i) (foot := (s.stream (4 * c + i)).slotOf ec.fp.toNat)
    (landed := (s.stream (4 * c + i)).landedBy e.entered) hidle hinstr hskip hlive hdecl
  obtain ⟨t, htry, hslab, -⟩ := State.tryMx_go hhead hfault hentered hat hform (.inr (.inr hfree))
    (by rw [QEntry.spared_live hlive]; exact hstart)
  refine ⟨t, htry, ?_⟩
  rw [hslab, Core.slab_modSlab_same, Core.startTile_closed hclosed]
  exact ⟨rfl, rfl, fun _ => rfl, rfl, rfl⟩

end

end Sys2Proof.Machine
end

section
namespace Sys2Proof.Machine

/-! ## Retirement (R230, R234, R239) -/

/-- Changing tiles leaves the slabs. -/
theorem Core.foldl_modTile_slab (ts : List Nat) (f : Tile → Tile) (k : Core) (b : Nat) :
    (ts.foldl (fun (u : Core) t => u.modTile t f) k).slab b = k.slab b := by
  induction ts generalizing k with
  | nil => rfl
  | cons t ts ih => exact ih (k.modTile t f)

theorem Core.consumeMx_slab (k : Core) (x : MExec) (b : Nat) : (k.consumeMx x).slab b = k.slab b := by
  unfold Core.consumeMx
  split
  · rfl
  · exact Core.foldl_modTile_slab _ _ _ _

theorem Core.consumeMx_got {k : Core} {x : MExec} (hgot : x.got = true) : k.consumeMx x = k := if_pos hgot

/-! ### The end of a tile -/

theorem Core.endTile_slab (k : Core) (b : Nat) : (k.endTile b).slab b = { k.slab b with tile := .closed, window := [] } := by
  unfold Core.endTile Core.releaseWindow
  rw [Core.slab_modSlab_same, Core.slab_modSlab_same, Core.foldl_modTile_slab]

theorem Core.endTile_slab_ne (k : Core) {b d : Nat} (h : d ≠ b) : (k.endTile b).slab d = k.slab d := by
  unfold Core.endTile Core.releaseWindow
  rw [Core.slab_modSlab_ne _ _ h, Core.slab_modSlab_ne _ _ h, Core.foldl_modTile_slab]

/-! ### The formats that an SLD leaves -/

theorem Slab.loaded_keeps (s : Slab) (f : MForm) :
    (s.loaded f).p0 = s.p0 ∧ (s.loaded f).p1 = s.p1 ∧ (s.loaded f).acc = s.acc ∧ (s.loaded f).tile = s.tile := by
  have hfmt (s : Slab) (p : Nat) (x : PFmt) : let u := s.setPlane p (s.plane p) x
      u.p0 = s.p0 ∧ u.p1 = s.p1 ∧ u.acc = s.acc ∧ u.tile = s.tile := by
    unfold Slab.setPlane
    split
    case isTrue hp => subst hp; exact ⟨rfl, rfl, rfl, rfl⟩
    case isFalse hp => exact ⟨rfl, if_neg hp, rfl, rfl⟩
  cases f
  case b16 =>
    obtain ⟨h0, h1, hacc, htile⟩ := hfmt s s.shadow .b16hi
    obtain ⟨h0', h1', hacc', htile'⟩ := hfmt (s.setPlane s.shadow (s.plane s.shadow) .b16hi) s.active .b16lo
    exact ⟨h0'.trans h0, h1'.trans h1, hacc'.trans hacc, htile'.trans htile⟩
  all_goals exact hfmt s s.shadow _

theorem Slab.pfmt_setPlane (s : Slab) {p q : Nat} (hp : p < 2) (hq : q < 2) (t : Tbl PCol) (f : PFmt) :
    (s.setPlane p t f).pfmt q = if q = p then f else s.pfmt q := by
  interval_cases p <;> interval_cases q <;> rfl

theorem Slab.loaded_one (s : Slab) {f : MForm} (hf : f ≠ .b16) :
    (s.loaded f).act = s.act ∧ (s.loaded f).pfmt s.shadow = needFmt f ∧ (s.loaded f).pfmt s.active = s.pfmt s.active := by
  have hloaded : s.loaded f = s.setPlane s.shadow (s.plane s.shadow) (needFmt f) := by
    cases f
    case b16 => exact absurd rfl hf
    all_goals rfl
  rw [hloaded, s.pfmt_setPlane s.shadow_lt s.shadow_lt, if_pos rfl, s.pfmt_setPlane s.shadow_lt s.active_lt, if_neg s.active_ne_shadow]
  exact ⟨(s.setPlane_keeps _ _ _).1, rfl, rfl⟩

theorem Slab.loaded_both (s : Slab) :
    (s.loaded .b16).act = !s.act ∧ (s.loaded .b16).pfmt s.shadow = .b16hi ∧ (s.loaded .b16).pfmt s.active = .b16lo := by
  have hfmt (p : Nat) : (s.loaded .b16).pfmt p
      = ((s.setPlane s.shadow (s.plane s.shadow) .b16hi).setPlane s.active
          ((s.setPlane s.shadow (s.plane s.shadow) .b16hi).plane s.active) .b16lo).pfmt p := rfl
  refine ⟨rfl, ?_, ?_⟩
  · rw [hfmt, Slab.pfmt_setPlane _ s.active_lt s.shadow_lt, if_neg s.active_ne_shadow.symm, s.pfmt_setPlane s.shadow_lt s.shadow_lt, if_pos rfl]
  · rw [hfmt, Slab.pfmt_setPlane _ s.active_lt s.active_lt, if_pos rfl]

/-! ### What a command's retirement does to its slab -/

section
variable {k : Core} {x : MExec} {b : Nat}

theorem Core.finishMx_sld {f : MForm} (hx : mxOf x.entry.instr = some (b, .sld f)) :
    k.finishMx x = if x.skipped then k else k.modSlab b (·.loaded f) := by
  unfold Core.finishMx
  rw [hx]

theorem Core.finishMx_mfix {f : XForm} {rdn tv : BitVec 4} {d : Bool} {r : Nat} (hx : mxOf x.entry.instr = some (b, .mfix f rdn d r tv)) :
    k.finishMx x = if (k.slab b).curn ≤ (k.slab b).curs then k.endTile b else k := by
  unfold Core.finishMx
  rw [hx]

theorem Core.finishMx_other {kind : MKind} (hx : mxOf x.entry.instr = some (b, kind)) (hsld : ∀ f, kind ≠ .sld f)
    (hmfix : ∀ f rdn d r tv, kind ≠ .mfix f rdn d r tv) : k.finishMx x = k := by
  unfold Core.finishMx
  rw [hx]
  cases kind
  case sld f => exact absurd rfl (hsld f)
  case mfix f rdn d r tv => exact absurd rfl (hmfix f rdn d r tv)
  all_goals rfl

/-- The command is a fixer whose CURS has reached N. -/
def Slab.endsWith (s : Slab) (kind : MKind) : Prop := (∃ f rdn d r v, kind = .mfix f rdn d r v) ∧ s.curn ≤ s.curs

variable {kind : MKind} (hx : mxOf x.entry.instr = some (b, kind))
include hx

theorem Core.finishMx_ends (hends : (k.slab b).endsWith kind) : k.finishMx x = k.endTile b := by
  obtain ⟨⟨f, rdn, d, r, v, rfl⟩, hcurs⟩ := hends
  rw [Core.finishMx_mfix hx, if_pos hcurs]

/-- Without an SLD that executed and without a tile end a retirement changes no slab and no tile register. -/
theorem Core.finishMx_idle (hends : ¬ (k.slab b).endsWith kind) (hsld : ∀ f, kind = .sld f → x.skipped = true) : k.finishMx x = k := by
  cases kind
  case sld f => rw [Core.finishMx_sld hx, if_pos (hsld f rfl)]
  case mfix f rdn d r tv => rw [Core.finishMx_mfix hx, if_neg fun h => hends ⟨⟨f, rdn, d, r, tv, rfl⟩, h⟩]
  all_goals exact Core.finishMx_other hx (by simp) (by simp)

/-- A retirement changes only its own slab. -/
theorem Core.finishMx_slab_ne {d : Nat} (hd : d ≠ b) : (k.finishMx x).slab d = k.slab d := by
  by_cases hends : (k.slab b).endsWith kind
  · rw [Core.finishMx_ends hx hends, k.endTile_slab_ne hd]
  · by_cases hsld : ∃ f, kind = .sld f ∧ ¬ x.skipped = true
    · obtain ⟨f, rfl, hrun⟩ := hsld
      rw [Core.finishMx_sld hx, if_neg hrun, k.slab_modSlab_ne _ hd]
    · rw [Core.finishMx_idle hx hends fun f hf => by by_contra hrun; exact hsld ⟨f, hf, hrun⟩]

/-- Without a tile end a retirement changes no tile register. -/
theorem Core.finishMx_tiles (hends : ¬ (k.slab b).endsWith kind) : (k.finishMx x).tiles = k.tiles := by
  by_cases hsld : ∃ f, kind = .sld f ∧ ¬ x.skipped = true
  · obtain ⟨f, rfl, hrun⟩ := hsld
    rw [Core.finishMx_sld hx, if_neg hrun]
    rfl
  · rw [Core.finishMx_idle hx hends fun f hf => by by_contra hrun; exact hsld ⟨f, hf, hrun⟩]

end

/-- The core after the retirement of command `x`, whose stream is then `t`. -/
def Core.retireMx (k : Core) (x : MExec) (t : Stream) : Core :=
  let k := ((k.consumeMx x).finishMx x).modStream (x.gsid % 4) (fun _ => t)
  { k with mexec := k.mexec.filter (fun y => !(y.slab == x.slab && y.load == x.load)) }

section
variable (k : Core) (x : MExec) (t : Stream)

/-- The command has left its unit. -/
theorem Core.retireMx_leaves : ∀ y ∈ (k.retireMx x t).mexec, ¬(y.slab = x.slab ∧ y.load = x.load) := fun y hy h => by
  obtain ⟨-, hkept⟩ := List.mem_filter.1 hy
  simp [h] at hkept

theorem Core.retireMx_stream : (k.retireMx x t).stream (x.gsid % 4) = t := Core.stream_modStream_same _ _ _

variable {k x}

/-- The slabs are those that its effects leave. -/
theorem Core.retireMx_slab {b : Nat} {kind : MKind} (hx : mxOf x.entry.instr = some (b, kind)) :
    (∀ f, kind = .sld f → x.skipped = false → (k.retireMx x t).slab b = (k.slab b).loaded f)
    ∧ ((k.slab b).endsWith kind → (k.retireMx x t).slab b = { k.slab b with tile := .closed, window := [] })
    ∧ (¬ (k.slab b).endsWith kind → (∀ f, kind = .sld f → x.skipped = true) → (k.retireMx x t).slab b = k.slab b) := by
  have hretired : (k.retireMx x t).slab b = ((k.consumeMx x).finishMx x).slab b := rfl
  rw [hretired, ← k.consumeMx_slab x b]
  refine ⟨fun f hf hrun => ?_, fun hends => ?_, fun hends hsld => ?_⟩
  · subst hf
    rw [Core.finishMx_sld hx, if_neg (by rw [hrun]; decide), Core.slab_modSlab_same]
  · rw [Core.finishMx_ends hx hends, Core.endTile_slab]
  · rw [Core.finishMx_idle hx hends hsld]

theorem Core.retireMx_slab_ne {b d : Nat} {kind : MKind} (hx : mxOf x.entry.instr = some (b, kind)) (hd : d ≠ b) :
    (k.retireMx x t).slab d = k.slab d := (Core.finishMx_slab_ne hx hd).trans (k.consumeMx_slab x d)

theorem Core.retireMx_tiles {b : Nat} {kind : MKind} (hx : mxOf x.entry.instr = some (b, kind)) (hends : ¬ (k.slab b).endsWith kind)
    (hgot : x.got = true) : (k.retireMx x t).tiles = k.tiles := by
  have hretired : (k.retireMx x t).tiles = ((k.consumeMx x).finishMx x).tiles := rfl
  rw [hretired, Core.consumeMx_got hgot, Core.finishMx_tiles hx hends]

end

/-- The retirement of a command that pushes no token. -/
theorem exec_matrixCommandRetire {s : State} {c : Nat} {x : MExec} (hc : s.site.unit = c)
    (hfind : (s.core c).mexec.find? (fun x => mxUnit x.slab x.load == s.site.sub) = some x) (hlive : x.failed = false) (hdue : x.retire ≤ s.cycle)
    (hdone : x.complete = true) (hdest : (s.core c).unpublished x = false) (hpush : (tokenBits x.entry.instr).2.2 = (false, false)) :
    exec .matrixCommandRetire s = .next (s.modCore c (fun k => k.retireMx x
      (((k.stream (x.gsid % 4)).retired 1 x.entry).dropEntry 1 x.entry.number))) := by
  have harm : exec .matrixCommandRetire s = execMatrixCommandRetire s := rfl
  rw [harm, execMatrixCommandRetire]
  dsimp only
  rw [hc, hfind]
  dsimp only
  rw [if_neg (by simp [hlive, hdue, hdone, hdest]), Stream.pushTokens_none _ _ _ _ (by rw [hpush]) (by rw [hpush])]
  exact congrArg _ (State.modCore_const s c (fun k => k.retireMx x (((k.stream (x.gsid % 4)).retired 1 x.entry).dropEntry 1 x.entry.number))).symm

end Sys2Proof.Machine
end

section
namespace Sys2Proof.Machine

/-! ## A core-context fault (R376) -/

/-- A stream parked by a core-context fault, with a record of KIND 2. -/
def Stream.CoreParked (t : Stream) (code : FCode) : Prop := t.status = .parked ∧ ∃ r, t.coreRec = some r ∧ r.code = code ∧ r.kind = 2

/-- Stream `i` of core `c` parked, where a core-context fault parks it. -/
def State.parksOwn (c : Nat) (f : FaultInfo) (s : State) (i : Nat) : State :=
  let g := 4 * c + i
  let t := s.stream g
  if t.faultable then
    let r := { s.record g 2 f with pc := if t.status = .idle ∨ t.status = .parked ∧ t.parkedIn = .idle then 0 else t.pc }
    (s.modLaunchOf c (fun l => { l with records := l.records + 1 })).modStream g (fun t =>
      { t with status := .parked, coreRec := some r, parkedBy := some r,
               parkedIn := match t.status with | .held => .running | .parked => t.parkedIn | x => x })
  else s

theorem State.parkCore_eq (s : State) (c : Nat) (f : FaultInfo) :
    s.parkCore c f = ([0, 1, 2, 3].foldl (State.parksOwn c f) s).modCore c (fun k => { k with ctxFault := true, ctxNote := true }) := by
  unfold State.parkCore
  extract_lets go
  have hgo : go = State.parksOwn c f := rfl
  clear_value go
  subst hgo
  simp only [List.foldl_cons, List.foldl_nil]

section
variable (c : Nat) (f : FaultInfo) (s : State)

theorem State.parksOwn_mem (i : Nat) : (s.parksOwn c f i).mem = s.mem := by
  unfold State.parksOwn
  dsimp only
  split
  · exact s.modLaunchOf_mem c _
  · rfl

theorem State.parksOwn_other {i j : Nat} (h : j ≠ i) : (s.parksOwn c f i).stream (4 * c + j) = s.stream (4 * c + j) := by
  unfold State.parksOwn
  dsimp only
  split
  · rw [State.stream_modStream_ne _ _ _ _ (by omega), State.stream_modLaunchOf]
  · rfl

theorem State.parksOwn_self {i : Nat} (h : (s.stream (4 * c + i)).faultable = true) : ((s.parksOwn c f i).stream (4 * c + i)).CoreParked f.code := by
  unfold State.parksOwn
  dsimp only
  rw [if_pos h, State.stream_modStream_same]
  exact ⟨rfl, _, rfl, rfl, rfl⟩

theorem State.foldl_parksOwn_mem (l : List Nat) : (l.foldl (State.parksOwn c f) s).mem = s.mem := by
  induction l generalizing s with
  | nil => rfl
  | cons i l ih => exact (ih _).trans (s.parksOwn_mem c f i)

theorem State.foldl_parksOwn_other {l : List Nat} {j : Nat} (h : j ∉ l) : (l.foldl (State.parksOwn c f) s).stream (4 * c + j) = s.stream (4 * c + j) := by
  induction l generalizing s with
  | nil => rfl
  | cons i l ih =>
    rw [List.mem_cons, not_or] at h
    obtain ⟨hi, hl⟩ := h
    exact (ih _ hl).trans (s.parksOwn_other c f hi)

theorem State.foldl_parksOwn_self {l : List Nat} (hl : l.Nodup) {i : Nat} (hi : i ∈ l) (h : (s.stream (4 * c + i)).faultable = true) :
    ((l.foldl (State.parksOwn c f) s).stream (4 * c + i)).CoreParked f.code := by
  induction l generalizing s with
  | nil => cases hi
  | cons j l ih =>
    obtain ⟨hj, hl⟩ := List.nodup_cons.1 hl
    by_cases hij : i = j
    · subst hij
      rw [List.foldl_cons, State.foldl_parksOwn_other c f _ hj]
      exact s.parksOwn_self c f h
    · exact ih _ hl ((List.mem_cons.1 hi).resolve_left hij) (by rwa [s.parksOwn_other c f hij])

/-- Every started stream of the core that has not halted parks. -/
theorem State.parkCore_parks : ((s.parkCore c f).core c).ctxFault = true ∧ (s.parkCore c f).mem = s.mem
    ∧ ∀ i < 4, (s.stream (4 * c + i)).faultable = true → ((s.parkCore c f).stream (4 * c + i)).CoreParked f.code := by
  rw [State.parkCore_eq]
  refine ⟨by rw [State.core_modCore_same], (State.modCore_mem _ _ _).trans (s.foldl_parksOwn_mem c f _), fun i hi h => ?_⟩
  rw [State.stream_modCore]
  · exact s.foldl_parksOwn_self c f (by decide) (by interval_cases i <;> decide) h
  · exact fun _ => rfl

end

/-! ## Errors inside the engine (R242, R243) -/

section
variable {s : State} {c : Nat} {x : MExec}

/-- An error that no replay mends is a core-context fault. -/
theorem State.engineError_parks (first : Nat) (hanchor : ((s.core c).slab x.slab).tile ≠ .anchored) :
    ((s.engineError c x first).core c).ctxFault = true ∧ (s.engineError c x first).mem = s.mem
    ∧ ∀ i < 4, (s.stream (4 * c + i)).faultable = true → ((s.engineError c x first).stream (4 * c + i)).CoreParked .poison := by
  unfold State.engineError
  dsimp only
  rw [if_neg fun h => hanchor h.1]
  obtain ⟨hctx, hmem, hpark⟩ := State.parkCore_parks c x.coreFault (s.modCore c (fun k =>
    let k := k.modExec x (fun y => { y with failed := true })
    match x.dest with
    | some t => { k with twrites := k.twrites.map (fun n w => if n = t then { w with due := none } else w) }
    | none => k))
  refine ⟨hctx, hmem, fun i hi hi' => hpark i hi ?_⟩
  rw [State.stream_modCore]
  · exact hi'
  · intro k
    cases x.dest <;> rfl

theorem State.engineError_replays (first : Nat) (hanchor : ((s.core c).slab x.slab).tile = .anchored)
    (hcfg : ((s.core c).slab x.slab).cfg.getLsbD 0 = true) (honce : ((s.core c).slab x.slab).replayed = false) :
    s.engineError c x first = s.modCore c (fun k => k.replay x first) := if_pos ⟨hanchor, hcfg, by rw [honce]; rfl⟩

end

/-- A replay clears the accumulator, and starts the command again after the window's entries before it. -/
theorem Core.replay_effect (k : Core) (x : MExec) (first : Nat) :
    (k.replay x first).ctxFault = k.ctxFault ∧ (k.replay x first).streams = k.streams
    ∧ (k.replay x first).slab x.slab = { k.slab x.slab with
        acc := .empty, replayed := true, bad := (k.slab x.slab).bad.filter (fun a => decide (16512 ≤ a)) }
    ∧ ∃ retire, (k.replay x first).mexec = k.mexec.map (fun y => if y.slab = x.slab ∧ y.load = x.load then
        { y with steps := 0, todo := x.replayList (k.slab x.slab), rerun := true, retire := retire } else y) := by
  have hslab := k.slab_modSlab_same x.slab (fun s => { s with acc := .empty, replayed := true, bad := s.bad.filter (fun a => decide (16512 ≤ a)) })
  unfold Core.replay
  cases x.dest <;> exact ⟨rfl, rfl, hslab, _, rfl⟩

/-- Counting an error changes no core. -/
theorem State.core_countError (s : State) (cls src c : Nat) : (s.countError cls src).core c = s.core c := rfl

/-- A command of a slab's compute unit reads its accumulator, row buffer or constant store. -/
def MKind.consumes : MKind → Bool
  | .mma .. | .mrot | .mfix .. => true
  | _ => false

/-- An error that a command in execution consumes. -/
theorem exec_engineUncorrectableError {s : State} {c b : Nat} {x : MExec} {kind : MKind} (hc : s.site.unit = c) (hplane : s.site.val.getLsbD 63 = false)
    (hplace : s.site.val.getLsbD 62 = false)
    (hfind : (s.core c).mexec.find? (fun x => x.slab == s.site.sub && !x.load && !x.failed) = some x) (hrun : x.skipped = false)
    (hx : mxOf x.entry.instr = some (b, kind)) (hkind : kind.consumes = true) :
    exec .engineUncorrectableError s = .next ((s.countError 0 (slabSource c x.slab 0)).engineError c x s.cycle) := by
  have harm : exec .engineUncorrectableError s = execEngineUncorrectableError s := rfl
  rw [harm, execEngineUncorrectableError]
  rw [if_neg (by rw [hplace]; decide), hc, hfind]
  dsimp only
  rw [hx, hrun, hplane]
  cases kind
  case sld | sswap | mzero => cases hkind
  all_goals rfl

end Sys2Proof.Machine
end

section
namespace Sys2Proof.Machine

/-! ## Steps of a command in execution (R230) -/

section
variable {k : Core} {x : MExec} {b : Nat} (htodo : x.todo = [])
include htodo

/-- Outside a replay the command itself is at work. -/
theorem MExec.work_own (s : Slab) : x.work s = x.own s := by rw [MExec.work, htodo]; rfl

/-- A step that nothing keeps waiting and that meets no error runs. -/
theorem State.stepMx_runs {s : State} {c : Nat} (hlive : x.failed = false) (hrun : x.skipped = false) (hrerun : x.rerun = false)
    (hsteps : x.steps < mxSteps x.entry.instr x.groups) (hbanks : (s.core c).bankFree .matrix x.spLines s.cycle = true)
    (hgood : ∀ key ∈ ((s.core c).slab x.slab).bad, x.readsAt ((s.core c).slab x.slab) (x.own ((s.core c).slab x.slab)) x.steps key = false) :
    s.stepMx c x = s.modCore c (fun k => ((k.stepEffect x).modExec x MExec.stepped).useBanks .matrix x.spLines s.cycle) := by
  have hagain : x.rereads ((s.core c).slab x.slab) = [] := by rw [MExec.rereads, hrerun]; rfl
  have hhits : ((s.core c).slab x.slab).bad.filter (x.readsAt ((s.core c).slab x.slab) (x.own ((s.core c).slab x.slab)) x.steps) = [] :=
    List.filter_eq_nil_iff.2 fun key hkey => by rw [hgood key hkey]; decide
  have htouch : (s.core c).touchAll s.cycle [] = (true, s.core c) := rfl
  have hsame (f : Core → Core) : (s.modCore c (fun _ => s.core c)).modCore c f = s.modCore c f := by
    rw [State.modCore_modCore]
    exact (State.modCore_const s c f).symm
  have hgo : ¬(x.failed || x.skipped || (x.todo.isEmpty && decide (mxSteps x.entry.instr x.groups ≤ x.steps))) = true := by
    simp [hlive, hrun, hsteps]
  have hbank : ¬(!true || !(s.core c).bankFree .matrix x.spLines s.cycle) = true := by rw [hbanks]; decide
  unfold State.stepMx
  dsimp only
  rw [if_neg hgo, hagain, htouch, State.modCore_cycle, if_neg hbank, MExec.work_own htodo, hhits]
  exact hsame _

/-- A step of an MMA or of a Hadamard pass. -/
theorem Core.stepEffect_compute {kind : MKind} (hx : mxOf x.entry.instr = some (b, kind)) (hslab : x.slab = b)
    (hkind : (∃ f prof ts r v pk, kind = .mma f prof ts r v pk) ∨ kind = .mrot) : (k.stepEffect x).slab b
      = (k.slab b).runStep (x.own (k.slab b)) x.steps (fun r m => (k.tile r).line m) ∧ (k.stepEffect x).sp = k.sp := by
  have heffect : k.stepEffect x = k.modSlab b (fun s => s.runStep (x.own (k.slab b)) x.steps (fun t m => (k.tile t).line m)) := by
    have hown : mxOf (x.own (k.slab b)).instr = some (b, kind) := hx
    unfold Core.stepEffect
    dsimp only
    rw [MExec.work_own htodo, hslab, hown]
    rcases hkind with ⟨_, _, _, _, _, _, rfl⟩ | rfl <;> rfl
  rw [heffect, Core.slab_modSlab_same]
  exact ⟨rfl, rfl⟩

/-- A step of an SLD. -/
theorem Core.stepEffect_sld {f : MForm} (hx : mxOf x.entry.instr = some (b, .sld f)) :
    let u := (k.slab b).loadStep f (fun n => k.line (x.entry.y.toNat / 64 + n)) x.steps
    ((k.stepEffect x).slab b).p0 = u.p0 ∧ ((k.stepEffect x).slab b).p1 = u.p1 ∧ ((k.stepEffect x).slab b).acc = (k.slab b).acc
      ∧ (k.stepEffect x).sp = k.sp := by
  have hown : mxOf (x.own (k.slab x.slab)).instr = some (b, .sld f) := hx
  unfold Core.stepEffect
  dsimp only
  rw [MExec.work_own htodo, hown]
  dsimp only
  rw [Core.slab_modSlab_same]
  exact ⟨rfl, rfl, ((k.slab b).loadStep_keeps _ f).1, rfl⟩

/-- A step of a fixer to scratchpad. -/
theorem Core.stepEffect_mfix {f : XForm} {rdn v : BitVec 4} {r : Nat} (hx : mxOf x.entry.instr = some (b, .mfix f rdn false r v)) (hslab : x.slab = b) :
    (k.stepEffect x).slabs = k.slabs ∧ (k.stepEffect x).sp = k.sp.splice (x.entry.x.toNat / 64 + 32 * (x.steps / 8) + 4 * (x.steps % 8))
      ((List.range 4).map (fun j => (k.slab b).fixRow f (x.fixColumn (k.slab b) f (x.steps / 8)) (4 * (x.steps % 8) + j))) := by
  have hown : mxOf (x.own (k.slab b)).instr = some (b, .mfix f rdn false r v) := hx
  unfold Core.stepEffect
  dsimp only
  rw [MExec.work_own htodo, hslab, hown]
  exact ⟨rfl, rfl⟩

end

/-! ## The start of a fixer to a tile register (R239) -/

/-- The write that an MFIX to a tile register reserves: the whole tile, due 11 cycles after the start. -/
def Slab.fixWrite (s : Slab) (f : XForm) (rdn : BitVec 4) (now : Nat) : TWrite :=
  { rdn := rdn, exec := true, rows := ⟨(List.range 32).zip (s.fixTile f s.curs)⟩, due := some (now + 11) }

/-- The core in which an MFIX to tile register `o.t` has started. -/
def Core.fixes (k : Core) (now b : Nat) (f : XForm) (o : TDst) : Core :=
  let k1 := k.reserve now o true none
  ({ k1 with twrites := k1.twrites.put o.t ((k.slab b).fixWrite f o.rdn now) } : Core).modSlab b (fun s => { s with curs := s.curs + fixWidth f })

theorem Core.startMfix_tile {k : Core} {now g : Nat} {e : QEntry} {foot : Foot} {landed : Bool} {b : Nat} {f : XForm} {rdn tv : BitVec 4} {r : Nat}
    (hfree : k.busy b (fun x => !x.load) = false) (hskip : e.skip = false) (hlive : e.cancel = false) (hdecl : foot.declared = true)
    (hdst : k.checkDst ⟨r, tv, rdn⟩ 0 = .pass) :
    k.startMfix now g e foot landed b f rdn true r tv = .go ((k.openTile b).fixes now b f ⟨r, tv, rdn⟩)
      { entry := e, gsid := g, slab := b, load := false, start := now, retire := now + 11, groups := 1 } := by
  unfold Core.startMfix
  dsimp only
  rw [hfree, hskip, hlive, hdecl, if_neg (by decide), if_neg (by decide), if_pos rfl, hdst]
  dsimp only
  rw [Nat.mul_one]
  rfl

section
variable (k : Core) (now b : Nat) (f : XForm) (o : TDst)

theorem Core.fixes_write : (k.fixes now b f o).twrites.find? o.t = some ((k.slab b).fixWrite f o.rdn now) := Tbl.find?_put_same _ _ _

theorem Core.fixes_curs : ((k.fixes now b f o).slab b).curs = (k.slab b).curs + fixWidth f := by
  rw [Core.fixes, Core.slab_modSlab_same]
  rfl

theorem Core.fixes_wpend : ((k.fixes now b f o).tile o.t).wpend = true := Core.wpend_reserve k now o true none

end

/-- The rows of an output tile, as the write buffer keeps them. -/
theorem Slab.fixTile_row (s : Slab) (f : XForm) (c : Nat) {i : Nat} (hi : i < 32) :
    (⟨(List.range 32).zip (s.fixTile f c)⟩ : Tbl Line).get {} i = s.fixRow f c i := by
  rw [Slab.fixTile, ← List.map_prod_left_eq_zip]
  exact Tbl.get_tabulated (s.fixRow f c) {} (List.mem_range.2 hi)

end Sys2Proof.Machine
end

section
namespace Sys2Proof.Machine

/-- Settles O41, clause by clause from what each event does and from the values of each step. That an error reported without a place is met by
the command in execution (`exec_engineUncorrectableError`) is log entry 33. -/
theorem matrixEngineEvents : Obligations.MatrixEngineEvents := by
  refine ⟨fun s c n j hc hn hj hbefore hstart => ?start, fun s c i e h ec b hi hhead hfault hentered hat hpbl hpbr hidle _ => ?heads,
    fun s c x b kind hc hfind hx hlive hdue hdone hdest hpush => ?retire, fun s c x hc hplane hplace hfind hrun hform => ?errors,
    fun four u v a b => ?classes, fun prof acc nan ps => ?window, fun xs => ⟨rfl, rfl⟩, fun a b => ?sums,
    fun s w i b f prof t ts peek tv a hw => ?mma, fun s f ls i n => ?load, fun i _ j _ => hadamard_eq i j, fun s w i b a hw => ?rotate,
    fun s f c m => ?fix, fun s c x b kind htodo hx hslab => ?steps, fun k now g e foot landed b f rdn tv r hfree hskip hlive hdecl hdst => ?tile⟩
  case start =>
    subst hn
    exact exec_matrixCommandStart hc hj hbefore hstart
  case heads =>
    exact ⟨fun hinstr hskip hlive hdecl hfree => State.tryMx_sswap hhead hfault hentered hat hpbl hpbr hidle hskip hlive hfree hinstr hdecl,
      fun hinstr hskip => State.tryMx_sswap_skipped hhead hfault hentered hat hpbl hpbr hidle hinstr hskip,
      fun hinstr hskip hlive hdecl hfree => State.tryMx_sswap_undeclared hhead hfault hentered hat hpbl hpbr hidle hskip hlive hfree hinstr hdecl,
      fun hinstr hskip hlive hdecl hfree hclosed =>
        State.tryMx_mzero hhead hfault hentered hat hpbl hpbr hidle hskip hlive hfree hinstr hdecl hclosed⟩
  case retire =>
    refine ⟨_, exec_matrixCommandRetire hc hfind hlive hdue hdone hdest hpush, ?_⟩
    rw [State.core_modCore_same]
    generalize hleft : (((s.core c).stream (x.gsid % 4)).retired 1 x.entry).dropEntry 1 x.entry.number = left
    obtain ⟨hloaded, hended, hidle⟩ := Core.retireMx_slab left (k := s.core c) hx
    refine ⟨Core.retireMx_leaves _ x left, ?_, rfl, fun d hd => Core.retireMx_slab_ne left hx hd, fun f hf hrun => ?_, fun hends => ?_, hidle,
      fun hends hgot => Core.retireMx_tiles left hx hends hgot⟩
    · rw [Core.retireMx_stream, ← hleft]
      exact Stream.dropEntry_queue _ 1 _
    · obtain ⟨h0, h1, hacc, htile⟩ := Slab.loaded_keeps ((s.core c).slab b) f
      dsimp only
      rw [hloaded f hf hrun]
      exact ⟨h0, h1, hacc, htile, Slab.loaded_one _, fun hf => hf ▸ Slab.loaded_both _⟩
    · rw [hended hends]
      exact ⟨rfl, rfl⟩
  case errors =>
    obtain ⟨⟨b, kind⟩, hx, hkind⟩ : ∃ p, mxOf x.entry.instr = some p ∧ p.2.consumes = true := by
      revert hform
      cases mxOf x.entry.instr with
      | none => exact False.elim
      | some p =>
        obtain ⟨b, kind⟩ := p
        cases kind
        case sld | sswap | mzero => exact False.elim
        all_goals exact fun _ => ⟨_, rfl, rfl⟩
    have hexec := exec_engineUncorrectableError hc hplane hplace hfind hrun hx hkind
    refine ⟨fun hanchor => ?_, fun hanchor hcfg honce => ?_⟩
    · obtain ⟨hctx, hmem, hparked⟩ := State.engineError_parks (s := s.countError 0 (slabSource c x.slab 0)) (c := c) s.cycle hanchor
      exact ⟨_, hexec, hctx, hparked, hmem⟩
    · obtain ⟨hctx, hstreams, hslab, retire, hmexec⟩ := (s.core c).replay_effect x s.cycle
      obtain ⟨⟨-, hport⟩, -⟩ : (x.slab = s.site.sub ∧ x.load = false) ∧ x.failed = false := by simpa using List.find?_some hfind
      refine ⟨_, hexec, ?_⟩
      rw [State.engineError_replays (s := s.countError 0 (slabSource c x.slab 0)) s.cycle hanchor hcfg honce, State.core_modCore_same,
        s.core_countError]
      refine ⟨hctx, hslab ▸ rfl, fun v => hslab ▸ rfl, hslab ▸ rfl, ?_, hstreams, rfl⟩
      rw [hmexec]
      exact ⟨_, List.mem_map_of_mem (List.mem_of_find?_eq_some hfind), by rw [if_pos ⟨rfl, rfl⟩]; exact ⟨rfl, hport, rfl, rfl⟩⟩
  case classes =>
    exact ⟨by rw [classSums_eq]; rfl, congrArg Prod.fst (classSums_getD four u v a b),
      (congrArg Prod.snd (classSums_getD four u v a b)).trans (by cases four <;> rfl)⟩
  case window =>
    exact ⟨accumulate_nan prof acc ps, fun hnan hacc hzero => hnan ▸ accumulate_nothing prof acc ps hacc hzero,
      fun top hnan hacc hmem hle => hnan ▸ accumulate_sum prof acc ps hacc hmem hle⟩
  case sums =>
    refine ⟨rfl, rfl, ?_, rfl⟩
    rw [← classSumI8_eq, ← classSumI8_eq]
    rfl
  case mma =>
    obtain ⟨hbuf, h0, h1⟩ := Slab.runStep_mma_keeps (s := s) (i := i) (a := a) hw
    refine ⟨fun hi => ?_, fun hi => ?_, fun hf r => ?_, fun m hm j hj => Slab.runStep_mma_row hw hm hj, fun k hk => Slab.runStep_mma_others hw hk, h0, h1⟩
    · have hread : (s.runStep w i a).rowbuf = (s.readA w i f (a t) (a (t + 1))).rowbuf := by rw [hbuf, Slab.afterRead, if_pos hi]
      dsimp only
      rw [hread]
      exact ⟨fun r hr => s.readA_row w f _ _ hi hr, fun hf r hr => s.readA_row_lo w f _ _ hf hr, fun r hr hlo => s.readA_row_other w f _ _ hr hlo⟩
    · exact hbuf.trans (by rw [Slab.afterRead, if_neg (by omega)])
    · cases f
      case b16 => exact absurd rfl hf
      all_goals rfl
  case load =>
    intro u w sh
    have hw : w = sldWidth f := by cases f <;> rfl
    clear_value w
    subst hw
    obtain ⟨hacc, hact⟩ := s.loadStep_keeps ls f (i := i)
    refine ⟨fun hn hn' => ?_, fun hn p hp => s.loadStep_out ls hn hp, fun hf => s.loadStep_active ls hf, hacc, hact⟩
    refine ⟨fun hf => ?_, fun hf => ?_, fun hf => ?_, fun hf => ?_⟩
    all_goals subst hf
    · exact s.loadStep_column ls (by decide) hn hn'
    · exact s.loadStep_column ls (by decide) hn hn'
    · have hsh : sh = sldColumn .db4 ls n := s.loadStep_column ls (by decide) hn hn'
      rw [hsh]
      exact ⟨rfl, rfl, fun k hk => sldColumn_db4_element ls n hk⟩
    · exact s.loadStep_columns ls hn hn'
  case rotate =>
    refine ⟨fun hi => Slab.runStep_mrot_idle hw hi, fun hi hn => ⟨fun k hk => Slab.runStep_mrot_others hw hi hn hk, fun j hj => ?_⟩⟩
    have hcolumn := Slab.runStep_mrot_column (s := s) (a := a) hw hi hn hj
    exact ⟨fun hopen => hcolumn.trans (congrArg (BitVec.ofNat 32) (rotColumn_open hopen)),
      fun hclosed he => hcolumn.trans (congrArg (BitVec.ofNat 32) (rotColumn_none hclosed he)),
      fun k hclosed he => hcolumn.trans (congrArg (BitVec.ofNat 32) (rotColumn_some hclosed he))⟩
  case fix =>
    intro row scaled v block
    have hv (i : Nat) : v i = s.fixValue m (c + i) := (s.fixValue_eq m (c + i)).symm
    have hblock (four : Bool) (j : Nat) : block four j = s.fixBlock four c m j := by
      simp only [block, hv]
      rfl
    refine ⟨fun hf => ?_, fun hf => ?_, fun hf => ?_, fun hf => ?_, fun hf => ?_⟩
    all_goals subst hf
    · exact ⟨rfl, fun i hi => hv i ▸ ((s.fixRow_rounded c m).1.2 hi)⟩
    · exact ⟨rfl, fun i hi => hv i ▸ ((s.fixRow_rounded c m).2.1.2 hi)⟩
    · exact ⟨rfl, fun i hi => hv i ▸ ((s.fixRow_rounded c m).2.2.2 hi)⟩
    · refine ⟨rfl, fun j hj => ?_⟩
      rw [hblock]
      exact (s.fixRow_block false c m hj).2
    · refine ⟨rfl, fun j hj => ?_⟩
      rw [hblock]
      exact (s.fixRow_block true c m hj).2
  case steps =>
    subst hslab
    refine ⟨fun hlive hrun hrerun hsteps hbanks hgood => ?_, Core.stepEffect_compute htodo hx rfl, fun f hf => Core.stepEffect_sld htodo (hf ▸ hx),
      fun f rdn r v hf => ?_⟩
    · rw [State.stepMx_runs htodo hlive hrun hrerun hsteps hbanks hgood, State.core_modCore_same]
      exact ⟨rfl, rfl, rfl⟩
    · obtain ⟨hslabs, hsp⟩ := Core.stepEffect_mfix (k := s.core c) htodo (hf ▸ hx) rfl
      refine ⟨fun j hj => ?_, fun l hl => ?_, hslabs⟩
      · rw [Core.line, hsp, Tbl.get_splice_map_in _ _ _ (by omega) (by omega), Nat.add_sub_cancel_left]
        rfl
      · rw [Core.line, hsp, Tbl.get_splice_map_out _ _ _ hl]
        rfl
  case tile =>
    exact ⟨_, _, _, Core.startMfix_tile hfree hskip hlive hdecl hdst, rfl, Core.fixes_write _ now b f ⟨r, tv, rdn⟩, rfl, rfl, rfl,
      fun i hi => Slab.fixTile_row _ f _ hi, Core.fixes_curs _ now b f ⟨r, tv, rdn⟩, Core.fixes_wpend _ now b f ⟨r, tv, rdn⟩⟩

end Sys2Proof.Machine
end
